-- ==== Sys2Proof/Word.lean ====
section
/-! DEFINITION. The word types of the model and its sparse-table type. -/

namespace Sys2Proof

/-- A byte. -/
abbrev Byte := BitVec 8
/-- A 32-bit register or packet half-word. -/
abbrev W32 := BitVec 32
/-- A 64-bit scalar register, packet word or instruction word. -/
abbrev W64 := BitVec 64
/-- A vector register (R26: 1,024 bits). -/
abbrev VReg := BitVec 1024

/-- A sparse table: pairs of key and entry, keys strictly rising; a key that is not listed has
the table's default entry, and no listed entry equals it (the operations are in Machine/Ops.lean). -/
abbrev SMap (α : Type) := List (Nat × α)

end Sys2Proof
end

