-- ==== Sys2Proof/Syntax.lean ====
section
/-! DEFINITION. The commands of the block: one constructor of `Instr` for each row of
spec/opcode_table.json, with the row's operands, and the plain data the operands are made of. -/

namespace Sys2Proof

/-- The requesters of R8 and R459: each keeps its own LO/HI latches and staged halves. -/
inductive Who where
  | port0 | port1 | core0 | core1 | sideband
  deriving DecidableEq, Repr, Inhabited

/-- Bits [51:0] of a tile instruction word (R99); CLASS and OP are fixed by the row. `regParity`: as the
instruction reads its registers, the register file answers with a parity error (R25). -/
structure Fields where
  d : BitVec 5 := 0
  a : BitVec 5 := 0
  b : BitVec 5 := 0
  c : BitVec 5 := 0
  low : W32 := 0
  regParity : Bool := false
  deriving DecidableEq, Repr, Inhabited

/-- An Aellos packet as it travels: header words 0 to 3, payload, tail (R182, R183). -/
structure Packet where
  w0 : W64 := 0
  w1 : W64 := 0
  w2 : W64 := 0
  w3 : W64 := 0
  payload : List Byte := []
  tail : W64 := 0
  deriving DecidableEq, Repr, Inhabited

/-- The three units with an issue queue (R512). -/
inductive ExecUnit where
  | vector | matrix | special
  deriving DecidableEq, Repr, Inhabited

/-- A router of a compute die (R49) or the hall egress of station 26 (R194), by key:
a tile router by region and physical site, a cluster router by region and physical cluster. -/
inductive Router where
  | tile (region site : Nat)
  | cluster (region cluster : Nat)
  | region (region : Nat)
  | station26
  deriving DecidableEq, Repr, Inhabited

/-- The hop at which a packet is received (R208): a packet-plane channel between two stations, the bond port of a
region, up to its station or down to its region router, each with the bits of the packet that the link inverts;
the I/O die link, with the packet that arrives; a chiplet's UCIe site, with the 256 bytes of stream that arrive
(R389). -/
inductive Hop where
  | plane (src dst : Nat) (errs : List Nat := [])
  | bondPort (region : Nat) (errs : List Nat := [])
  | bondDown (region : Nat) (errs : List Nat := [])
  | ioDie (p : Packet)
  | ucie (site : Nat) (data : List Byte)
  deriving DecidableEq, Repr, Inhabited

/-- A directory entry of an image header (R399); `digestOk`: the SHA3-256 of the section's bytes
as read equals its DIGEST. -/
structure DirEntry where
  type : Nat := 0
  rsvd : Nat := 0
  offset : Nat := 0
  length : Nat := 0
  digest : Nat := 0
  digestOk : Bool := true
  deriving DecidableEq, Repr, Inhabited

/-- The HEADER of a Bilup image (R398). -/
structure ImgHeader where
  magic : Nat := 0
  format : Nat := 0
  scope : Nat := 0
  partition : Nat := 0
  part : Nat := 0
  stepping : Nat := 0
  rsvd : Nat := 0
  tiles : Nat := 0
  imageId : W64 := 0
  length : Nat := 0
  dir : List DirEntry := []
  /-- SHA3-256 of the 576 HEADER bytes (R402, R463). -/
  digest : BitVec 256 := 0
  deriving DecidableEq, Repr, Inhabited

/-- A record of the STRUCTURE section (R401). -/
inductive StructRec where
  | module (number rsvd : Nat)
  | spareMap (station region : Nat) (sites : List Nat) (rsvd : Nat)
  | site (station count vendor device rsvd : Nat) (jobs : List Nat)
  | partition (regime flags job : Nat) (seed : W64) (origin : Nat)
  | tiles (station region first count : Nat)
  | collective (station rsvd entry : Nat) (cfg : BitVec 512)
  | multicast (station rsvd group : Nat) (cfg : BitVec 256)
  | keyOp (op slot rsvd : Nat) (hash : BitVec 256)
  | other (type : Nat)
  deriving DecidableEq, Repr, Inhabited

/-- A window of the WINDOWS section: its entry (R224) and the stations it names (R225: the compute
stations of a TILE window, the chiplet's station of a CHIPLET window; not used for HBM and HOST). -/
structure WinRec where
  entry : BitVec 256 := 0
  stations : List Nat := []
  deriving DecidableEq, Repr, Inhabited

/-- A data segment of a per-tile descriptor (R94). -/
structure Seg where
  offset : Nat := 0
  length : Nat := 0
  addr : Nat := 0
  rsvd : Nat := 0
  deriving DecidableEq, Repr, Inhabited

/-- The per-tile descriptor of the CODE section (R94). -/
structure TileDesc where
  codeOffset : Nat := 0
  codeLen : Nat := 64
  loadAddr : Nat := 0
  fetchLo : Nat := 0
  fetchHi : Nat := 64
  /-- Bytes 20-23 and bytes 56-63. -/
  rsvd : Nat := 0
  rsvd2 : Nat := 0
  entry : List Nat := []
  segs : List Seg := []
  init : List W64 := []
  deriving DecidableEq, Repr, Inhabited

/-- The CODE section: the program library, sparse (bytes not listed are 0), and the 256 bytes of one
descriptor for each logical tile (R94). -/
structure CodeSec where
  libLen : Nat := 0
  lib : SMap Byte := []
  descs : List (List Byte) := []
  /-- SCOPE 3: bytes of management firmware (R400). -/
  fwBytes : Nat := 0
  deriving DecidableEq, Repr, Inhabited

/-- A slot-table entry of the TWILL section: transmit (R154) or receive (R155). -/
structure SlotRec where
  station : Nat := 0
  rx : Bool := false
  gear : Nat := 0
  slot : Nat := 0
  k : Nat := 4
  entry : W64 := 0
  deriving DecidableEq, Repr, Inhabited

/-- An item-table entry of the TWILL section: source (R157) or target (R158). -/
structure ItemRec where
  station : Nat := 0
  target : Bool := false
  index : Nat := 0
  entry : BitVec 256 := 0
  deriving DecidableEq, Repr, Inhabited

/-- The TWILL section: gears, tables, failure ring (R168), frame word (R171), hall grid (R172). -/
structure TwillSec where
  gears : Nat := 1
  slots : List SlotRec := []
  items : List ItemRec := []
  ringBase : W64 := 0
  ringSize : Nat := 0
  frameWordEn : Bool := false
  frameWordAddr : Nat := 0
  hallPeriod : Nat := 0
  hallPhase : Nat := 0
  hallLead : Nat := 0
  rsvd : Nat := 0
  deriving DecidableEq, Repr, Inhabited

/-- A parameter of the GOVERNOR section (R323). Powers in watts, energies in microjoules,
times in microseconds, weights and points as encoded. -/
inductive GovParam where
  | dieWeight (die w : Nat)
  | regionWeight (region w : Nat)
  | opPoint (region op : Nat)
  | floor (op : Nat) (base slope : Rat)
  | energyRatio (op : Nat) (e : Rat)
  | thermal (region : Nat) (r1 tau1 r2 tau2 : Rat)
  | diodeGain (g : Rat)
  | gearEnergy (gear die : Nat) (e : Rat)
  | powerCap (region : Nat) (cap : Rat)
  deriving DecidableEq, Repr

/-- A record of the TRIMS section (R370). -/
structure TrimRec where
  kind : Nat := 0
  hold : Bool := false
  station : Nat := 0
  dir : Nat := 0
  wg : Nat := 0
  line : Nat := 0
  point : Nat := 0
  value : Int := 0
  rsvd : Nat := 0
  deriving DecidableEq, Repr, Inhabited

/-- The ROUTES section (R51, R400): the routers of R51 whose tables it lacks, and the entries that differ from the
default rule (router key, destination key, output port). -/
structure RoutesSec where
  missing : List Nat := []
  entries : SMap Nat := []
  deriving DecidableEq, Repr, Inhabited

/-- A Bilup image taken apart (R398 to R402), with the outcomes of the standard algorithms over its bytes. -/
structure Image where
  header : ImgHeader := {}
  /-- R406 SOURCE: the status of the worst read of the image through job-0 windows. -/
  readStatus : BitVec 8 := 0
  structure_ : List StructRec := []
  structureRsvdOk : Bool := true
  windows : List WinRec := []
  code : CodeSec := {}
  twill : TwillSec := {}
  governor : List GovParam := []
  trims : List TrimRec := []
  /-- R370: the TRIMS section is a whole number of records. -/
  trimsWhole : Bool := true
  routes : RoutesSec := {}
  sigSlot : Nat := 0
  /-- R402: the SIGNATURE section has its length and its reserved bytes are 0. -/
  sigOk : Bool := true
  keyHash : BitVec 256 := 0
  verifies : Bool := true
  deriving DecidableEq, Repr

/-- The bytes of a Bilup image as the loader's reads delivered them: HEADER (R398) and sections by TYPE (R399);
beside them the entries of the sections to which the spec gives no byte layout (log entry 89). -/
structure ImageBytes where
  header : List (BitVec 8) := []
  /-- R406 SOURCE: the status of the worst read of the image through job-0 windows. -/
  readStatus : BitVec 8 := 0
  sections : SMap (List (BitVec 8)) := []
  windows : List WinRec := []
  code : CodeSec := {}
  twill : TwillSec := {}
  governor : List GovParam := []
  routes : RoutesSec := {}
  deriving DecidableEq, Repr

/-- What a hall port's decoder makes of a codeword (R212). -/
inductive Codeword where
  | clean | corrected | uncorrectable
  deriving DecidableEq, Repr, Inhabited

/-- The outcome of a PCIe request of the module (R448). -/
inductive PcieOutcome where
  | success (data : List Byte) | ur | ca | poisoned
  deriving DecidableEq, Repr, Inhabited

/-- Why a PCIe link leaves service (R440). -/
inductive LinkCause where
  | lowRate | longRecovery
  deriving DecidableEq, Repr, Inhabited

/-- The place of a shut-down (R341): a region, or a base field. -/
inductive ThermalPlace where
  | region (key : Nat) | base (station : Nat)
  deriving DecidableEq, Repr, Inhabited

/-- A clock under watch (R311): a region's PLL and clock tree, or a station's tick receiver. -/
inductive ClockPlace where
  | region (key : Nat) | tick (station : Nat)
  deriving DecidableEq, Repr, Inhabited

/-- The output that a management-core disagreement concerns (R469). -/
inductive CoreOutput where
  | partition (p : Nat) | shared
  deriving DecidableEq, Repr, Inhabited

/-- The link that trains (R382): a region's bond port or a chiplet site. -/
inductive Link where
  | bondPort (region : Nat) | site (station : Nat)
  deriving DecidableEq, Repr, Inhabited

/-- What one training of a link finds (R382): good lanes of each direction as marked by the
transmitter and by the receiver, and the 8 bytes that the other side sends; on a chiplet link also the
chiplet's epoch and the site's epoch that it reports having seen (R381). -/
structure TrainResult where
  upTx : BitVec 528 := 0
  upRx : BitVec 528 := 0
  dnTx : BitVec 528 := 0
  dnRx : BitVec 528 := 0
  hash : BitVec 64 := 0
  peerEpoch : BitVec 16 := 0
  peerSaw : Option (BitVec 16) := none
  deriving DecidableEq, Repr, Inhabited

/-- The time word of the time wavelength (R303): the HT of the tick that begins the next microsecond,
TIME_UNCERTAIN, and the state by its number in R288. -/
structure StnWord where
  nextHt : Nat := 0
  uncertain : Bool := false
  st : Nat := 0
  deriving DecidableEq, Repr, Inhabited

/-- A message of the side-band without a row of its own, as far as R458 and R459 fix it: an MCTP control message, or a
vendor-defined message (R459) whose command is none of the table's. -/
structure MctpMsg where
  vendor : Bool := false
  command : BitVec 8 := 0
  eid : BitVec 8 := 0
  deriving DecidableEq, Repr, Inhabited

/-- A read of BAR0 (R442): its address and size in bytes. -/
structure RegAccess where
  addr : Nat := 0
  size : Nat := 4
  deriving DecidableEq, Repr, Inhabited

/-- The size in bytes of a write of BAR0 (R442), and whether it comes poisoned (R449). -/
structure RegSize where
  size : Nat := 4
  poisoned : Bool := false
  deriving DecidableEq, Repr, Inhabited

/-- The bytes of a write through BAR4 (R454), and whether they come poisoned (R449). -/
structure Bar4Write where
  bytes : List (BitVec 8) := []
  poisoned : Bool := false
  deriving DecidableEq, Repr, Inhabited

/-- A host's write of a port's MSI-X structures (R440, R465): the Enable bit, and an entry of the table, if it writes
one. -/
structure MsixWrite where
  en : Bool := false
  entry : Option (Nat × BitVec 64 × BitVec 32) := none
  deriving DecidableEq, Repr, Inhabited

/-- What NEGOTIATE_ALGORITHMS offers (R462): the measurement specification DMTF, the hash TPM_ALG_SHA3_256 for both
uses, the ExtAsym entry for ML-DSA-44. -/
structure AlgOffer where
  dmtf : Bool := true
  sha3 : Bool := true
  mldsa : Bool := true
  deriving DecidableEq, Repr, Inhabited

/-- Where an SPDM request arrives (R462): a port's DOE mailbox or the side-band. -/
inductive SpdmVia where
  | port0 | port1 | sideband
  deriving DecidableEq, Repr, Inhabited

/-- The readings of one swept ring (R358, R359): the distance from the ring's present point to the resonance in
MHz, positive toward lower frequency (none: no resonance); the driver's extinction ratio at its present swing in
0.01 dB; the receiver's dark level in LSB of its threshold; and the amplitude of the tap pattern at resonance. -/
structure SweepRead where
  dist : Option Int := some 0
  ratio : Nat := 600
  dark : Int := 0
  amplitude : Nat := 1000
  deriving DecidableEq, Repr, Inhabited

/-- What deep calibration measures for one ring (R362): the refitted table and the trims. -/
structure DeepRead where
  found : Bool := true
  table : List Nat := []
  swing : Nat := 0
  offset : Nat := 512
  gain : Nat := 0
  deriving DecidableEq, Repr, Inhabited

/-- A row as it is fed (R162): its number in the burst; what the station's endpoint gives for its STREAM
blocks, by block number; what the bond port's up direction does to blocks of TILE items that cross it
(R380), as masks by block number. -/
structure FeedRow where
  row : Nat
  stream : List (Nat × BitVec 256) := []
  damage : List (Nat × BitVec 256) := []
  deriving DecidableEq, Repr

/-- What a row meets at a receiver: bit errors, each a line 0-15 and a bit time 0-265 (R134); what a bond
port's down direction does to blocks of TILE targets (R380), as region, block and mask. -/
structure RowErrors where
  errs : List (Nat × Nat) := []
  damage : List (Nat × Nat × BitVec 256) := []
  deriving DecidableEq, Repr

/-- What the board reports of the module's input (R342, R346): the power averaged over 1 ms, in W, and the voltage,
in units of 10 mV. -/
structure InputReading where
  watts : Nat := 0
  volts : Nat := 0
  deriving DecidableEq, Repr, Inhabited

/-- A partition that resumes (R280, R281), with the bytes of a HOST save area as its host answers the reads. -/
structure Resuming where
  p : Nat
  host : List (BitVec 8) := []
  deriving DecidableEq, Repr

/-- The commands. Tiles are named by tile key (station × 4096 + region × 256 + slot), regions by
region key (station × 16 + region), clusters by region key × 16 + physical cluster. -/
inductive Instr where
  -- register access and reset
  | moduleReset
  | regWrite (w : Who) (addr : Nat) (size : RegSize) (v : W32)
  | regLoReadLatch (w : Who) (a : RegAccess)
  | regLoWriteStage (w : Who) (addr : Nat) (v : W32)
  | regHiWriteApply (w : Who) (addr : Nat) (v : W32)
  -- tile housekeeping
  | ibufMissFill (t addr : Nat) (parity : Bool)
  | unitQueueStart (t : Nat) (u : ExecUnit)
  | scrubLine (t : Nat) (writtenMeanwhile : Bool)
  | scrubForced (t : Nat) (writtenMeanwhile : Bool)
  -- class 0x0
  | add (t : Nat) (f : Fields) | sub (t : Nat) (f : Fields) | and (t : Nat) (f : Fields)
  | or (t : Nat) (f : Fields) | xor (t : Nat) (f : Fields) | sll (t : Nat) (f : Fields)
  | srl (t : Nat) (f : Fields) | sra (t : Nat) (f : Fields) | mul (t : Nat) (f : Fields)
  | mulh (t : Nat) (f : Fields) | mulhu (t : Nat) (f : Fields) | slt (t : Nat) (f : Fields)
  | sltu (t : Nat) (f : Fields) | min (t : Nat) (f : Fields) | max (t : Nat) (f : Fields)
  | addi (t : Nat) (f : Fields) | andi (t : Nat) (f : Fields) | ori (t : Nat) (f : Fields)
  | xori (t : Nat) (f : Fields) | slli (t : Nat) (f : Fields) | srli (t : Nat) (f : Fields)
  | srai (t : Nat) (f : Fields) | muli (t : Nat) (f : Fields) | slti (t : Nat) (f : Fields)
  | sltui (t : Nat) (f : Fields) | li (t : Nat) (f : Fields) | lih (t : Nat) (f : Fields)
  -- class 0x1
  | ldu1 (t : Nat) (f : Fields) | ldu2 (t : Nat) (f : Fields) | ldu4 (t : Nat) (f : Fields)
  | ldu8 (t : Nat) (f : Fields) | lds1 (t : Nat) (f : Fields) | lds2 (t : Nat) (f : Fields)
  | lds4 (t : Nat) (f : Fields) | st1 (t : Nat) (f : Fields) | st2 (t : Nat) (f : Fields)
  | st4 (t : Nat) (f : Fields) | st8 (t : Nat) (f : Fields) | beq (t : Nat) (f : Fields)
  | bne (t : Nat) (f : Fields) | blt (t : Nat) (f : Fields) | bge (t : Nat) (f : Fields)
  | bltu (t : Nat) (f : Fields) | bgeu (t : Nat) (f : Fields) | jal (t : Nat) (f : Fields)
  | jalr (t : Nat) (f : Fields) | rdsys (t : Nat) (f : Fields) | halt (t : Nat) (f : Fields)
  | ibinv (t : Nat) (f : Fields) | nop (t : Nat) (f : Fields) | flclr (t : Nat) (f : Fields)
  -- class 0x2
  | vadd (t : Nat) (f : Fields) | vsub (t : Nat) (f : Fields) | vmul (t : Nat) (f : Fields)
  | vfma (t : Nat) (f : Fields) | vmin (t : Nat) (f : Fields) | vmax (t : Nat) (f : Fields)
  | vceq (t : Nat) (f : Fields) | vclt (t : Nat) (f : Fields) | vcle (t : Nat) (f : Fields)
  | vsel (t : Nat) (f : Fields) | vand (t : Nat) (f : Fields) | vor (t : Nat) (f : Fields)
  | vxor (t : Nat) (f : Fields) | vadds (t : Nat) (f : Fields) | vmuls (t : Nat) (f : Fields)
  | vbcast (t : Nat) (f : Fields) | vredsum (t : Nat) (f : Fields) | vredmax (t : Nat) (f : Fields)
  | vredmin (t : Nat) (f : Fields)
  -- class 0x3
  | vld (t : Nat) (f : Fields) | vst (t : Nat) (f : Fields) | vcvt (t : Nat) (f : Fields)
  | vcvtmx (t : Nat) (f : Fields) | vcvtw (t : Nat) (f : Fields) | vmovs (t : Nat) (f : Fields)
  | vins (t : Nat) (f : Fields) | vfx (t : Nat) (f : Fields)
  -- class 0x4
  | mop (t : Nat) (f : Fields) | mmv (t : Nat) (f : Fields) | mfold (t : Nat) (f : Fields)
  | mclr (t : Nat) (f : Fields) | mscl (t : Nat) (f : Fields) | mrd (t : Nat) (f : Fields)
  | mwr (t : Nat) (f : Fields)
  -- class 0x5
  | fexp2 (t : Nat) (f : Fields) | flog2 (t : Nat) (f : Fields) | frcp (t : Nat) (f : Fields)
  | frsq (t : Nat) (f : Fields) | ftanh (t : Nat) (f : Fields) | randv (t : Nat) (f : Fields)
  | rands (t : Nat) (f : Fields)
  -- classes 0x6, 0x7, 0x8 and their completions
  | dma (t : Nat) (f : Fields) | dmaj (t : Nat) (f : Fields) | cset (t : Nat) (f : Fields)
  | crd (t : Nat) (f : Fields) | waitc (t : Nat) (f : Fields) | waitcRelease (t : Nat)
  | waitjt (t : Nat) (f : Fields) | waitjtRelease (t : Nat) | fence (t : Nat) (f : Fields)
  | fenceRelease (t : Nat) | eblk (t : Nat) (f : Fields) | ewait (t : Nat) (f : Fields)
  | ewaitGrant (cluster : Nat) | sample (t : Nat) (f : Fields) | sampleDone (t : Nat)
  -- DMA engine, routers, fencing, launch
  | localCopyLine (t id : Nat)
  | agentEntryGrant (region : Nat)
  | timedRelease (t id : Nat)
  | dmaInject (t vc : Nat)
  | descComplete (t id : Nat)
  | routerForward (r : Router) (port vc : Nat)
  | routerFault (r : Router)
  | fenceReq (w : Who) (t : Nat) (v : W32)
  | tileFenceComplete (t : Nat)
  | eccClr (w : Who) (t : Nat) (v : W32)
  | launchStart (p : Nat)
  -- base layer and Twill
  | circuitFeed (station k : Nat) (row : FeedRow)
  | crossbarSet
  | circuitBurstSend
  | circuitRowDecode (station k row : Nat) (light : Bool) (errs : RowErrors)
  | stationPktReceive (h : Hop)
  | pktRxLossOfLock (station channel : Nat)
  | pktRxLockRegain (station channel : Nat)
  | maintInjectStop
  | maintQuietStart
  | frameBoundary
  | ringSubstitute
  | optStnCntClr (w : Who) (station : Nat) (v : W32)
  | gearChoice
  | frameWordWrite (p : Nat)
  | hallTimedRelease (port : Nat)
  | twillActivate (p : Nat)
  | twillStopTime (p : Nat)
  | twlCntClr (w : Who) (v : W32)
  | twlRingRpWrite (w : Who) (p : Nat) (v : W32)
  -- packet fabric
  | stationInject (station : Nat)
  | msgSpanTimeout (t id : Nat)
  | msgPacketArrive (station : Nat)
  | msgEntryExpire (station : Nat)
  -- memory operations
  | loadApply (station : Nat)
  | storeAccept (station : Nat)
  | combineEntryWrite (station : Nat)
  | atomicApply (station : Nat)
  | mireEntryExpire (station : Nat)
  | loadRspArrive (station : Nat)
  | storeAckArrive (station : Nat)
  | atomicRspArrive (station : Nat)
  | msgAckArrive (station : Nat)
  | itemTimeout (t id : Nat)
  | chipletStampExpire (site : Nat)
  -- hall ports and Gingham
  /-- `data`: the 160 data bytes as decoded (R212). -/
  | hallCodewordReceive (port : Nat) (cw : Codeword) (data : List Byte)
  | hallPortExit (port cause : Nat)
  | hallPortEnter (port : Nat) (signal aligned : Bool)
  | hallPortCfgApply (port : Nat)
  | gngSample
  | gngRowReceive (station src : Nat)
  | gngRowStale (station src : Nat)
  | gngReset (w : Who) (v : W32)
  | pktCntClr (w : Who) (v : W32)
  -- channel retirement, Mire window, memory counters, scrub
  | channelRetire (w : Who) (v : W32)
  | retireCopyDone
  | retireSwitch
  | mireWindowWrite (w : Who) (v : W32)
  | memCntClr (w : Who) (v : W32)
  | hbmScrub (channel line : Nat)
  -- collectives
  | gatherContrib (station : Nat)
  | groupResend (station entry : Nat)
  | acceptReceive (station : Nat)
  | gatherTimeoutAdvance (station entry : Nat)
  | rootGroupChunk (station : Nat)
  | rootDeadline (station entry : Nat)
  | collDataReceive (station : Nat)
  | endDeliver (station : Nat)
  -- checkpoint
  | ckptSave (w : Who) (p : Nat) (v : W32)
  | ckptRestore (w : Who) (p : Nat) (v : W32)
  | saveCleanTest (p : Nat)
  | saveStart (p : Nat)
  /-- `host`: the worst status of a host's answers to the writes of a HOST save area. -/
  | saveDone (p : Nat) (host : BitVec 8)
  | restoreResume (p : Resuming)
  | colCntClr (w : Who) (v : W32)
  -- time
  | refPllLock
  | timeWordReceive (word : BitVec 128) (timely : Bool)
  | syncPulse (intervalPs arrivalPs : Int)
  | holdoverEnter
  | sourceReturn
  | reacquire (w : Who) (v : W32)
  | timCntClr (w : Who) (v : W32)
  | timeModeWrite (w : Who) (v : W32)
  | timeRequestSend (n : Nat)
  | timeReplyReceive (port : Nat) (p : Packet) (t4 : Nat) (t4frac : BitVec 16)
  | timePortInvalid (n : Nat)
  | timeEstimateCombine
  | timeRequestServe (port : Nat) (p : Packet)
  | timePortCfgApply (n : Nat)
  | stationTimeWord (station : Nat) (checkOk : Bool) (w : StnWord)
  | tickMissing (station : Nat)
  | stationTimeRestore (station : Nat)
  | stationDelayMeasure (station roundTripPs : Nat)
  | clockStepStop
  | clockStepFail (region : Nat) (backLocked : Bool)
  | clockRestart (region : Nat)
  /-- `ps`: the peak-to-peak period jitter of a region's clock, or the deviation of a tick's period; duties
  in 0.25 %. -/
  | clockMonitorWindow (place : ClockPlace) (ps dutyMin dutyMax : Nat)
  | fallbackSwitch (region : Nat) (shortPeriod : Bool)
  -- launches
  | launchDecision (p : Nat)
  | launchEnd (p : Nat)
  -- power and heat
  | gearHoldEnd
  | tokenGrant
  | powerCorrection (region : Nat) (measured : Rat)
  | adcSample (die channel : Nat) (reading : Rat)
  /-- `current`: amperes, as the region's power gate senses them. -/
  | predictorUpdate (region : Nat) (current : Rat)
  | conservativeEnd (region : Nat)
  | compatChange
  | baseDiodeRead (station : Nat) (reading : Rat)
  | thermalShutdown (place : ThermalPlace) (comparator : Bool)
  | sdClr (w : Who) (region : Nat) (v : W32)
  | inputLimit (reading : InputReading)
  | park (w : Who) (p : Nat) (v : W32)
  | parkEnter (p : Nat)
  | unpark (w : Who) (p : Nat) (v : W32)
  | wakeRegionUp (region : Nat)
  | wakeRestart (p : Nat)
  -- optical control
  | heaterUpdate (station : Nat) (errs : List (Nat × Int))
  | splitterCheck (station k : Nat) (diff : Int)
  | ringFail (ring cause : Nat)
  | channelSweep (reads : List SweepRead)
  | deepCalRequest (w : Who) (v : W32)
  | deepCalStart
  | deepCalApply (rings : List (Nat × DeepRead))
  | deepCalEnd (flights : List (Nat × Nat)) (delays : List Nat)
  | fadeUpdate (laser : Nat) (power : Nat)
  | spareLock (laser : Nat)
  | laserSwitchover (k : Nat)
  | switchRequest (w : Who) (v : W32)
  | aprReduce (port : Nat)
  | aprProbe (port : Nat) (signal : Bool)
  -- die links
  | laneCheck (region : Nat) (upErr dnErr : BitVec 528)
  | laneFail (region dir lane : Nat)
  | bpMapChange (region : Nat) (hash : BitVec 64)
  | linkTraining (l : Link) (r : TrainResult)
  | trainingRetry (l : Link)
  | hbmRetrain (channel : Nat) (badLane : Bool)
  | hbmTempRead (stack : Nat) (temp : Nat)
  | hbmCattrip (stack : Nat)
  | chipletDeclaration (station : Nat) (decl : BitVec 512)
  | chipletTimeWord (station : Nat)
  | siteLinkDown (station : Nat)
  | dlkCntClr (w : Who) (v : W32)
  -- loader
  | load (w : Who) (v : W32)
  | unload (w : Who) (v : W32)
  | region (w : Who) (v : W32)
  | holdHbm (w : Who) (v : W32)
  | loaderStart (img : ImageBytes)
  | quiesceBegin
  | quiesceStop (p : Nat)
  | applyStart (reread : ImageBytes)
  | applyDone
  | scopeResume
  | presence
  | presenceWrite (w : Who) (n : Nat) (v : W32)
  -- firmware
  | fwStandbyReady
  | fwTakeover
  | fwCheckPass
  | fwFlashDone
  | fwAbandon
  | recoveryGo (w : Who) (v : W32) (img : List Byte)
  -- start-up
  | powerOn
  | firmwareCheckDone (ok : Bool)
  | fieldPowerUp (field : Nat)
  | fieldBistDone (field : Nat) (ok : Bool)
  | hbmTrainDone (station : Nat) (failedChannels : List Nat) (stackFail : Option Nat)
  | hbmZeroFillDone (station : Nat)
  | laserStart (laser : Nat)
  | laserLock (laser : Nat) (locked : Bool)
  | bootWinWrite (w : Who) (p : Nat) (hi : Bool) (v : W32)
  | regionEnableStart (region : Nat)
  | clusterUngate (region cluster : Nat)
  | regionClockStart (region : Nat)
  | regionEnableDone (region : Nat) (badSites badRouters : List Nat)
  -- PCIe and BAR2
  | pcieLinkDown (port : Nat) (cause : LinkCause)
  | pcieLinkUp (port : Nat)
  | pciePortReset (port : Nat)
  | bar2Write (port addr : Nat) (data : List Byte) (poisoned : Bool)
  | bar2Read (port addr len : Nat)
  | bar2ReadComplete (port : Nat)
  | hostFlushRead (port : Nat)
  | pcieCompletion (port tag : Nat) (o : PcieOutcome)
  -- ownership and launch tables
  | renew (w : Who) (p : Nat)
  | claim (w : Who) (p : Nat)
  | release (w : Who) (p : Nat)
  | leaseExpire (p : Nat)
  | launchRecordWrite (w : Who) (offset : Nat) (data : Bar4Write)
  | cqRpWrite (w : Who) (p : Nat) (v : W32)
  -- side-band, SPDM, JTAG
  | mctpControl (m : MctpMsg)
  | getState
  | getTemps (die : Nat)
  | readReg (offset : Nat)
  | readPeat (seq : Nat)
  | getVersion (via : SpdmVia)
  | getCapabilities (via : SpdmVia)
  | negotiateAlgorithms (via : SpdmVia) (offer : AlgOffer)
  | getDigests (via : SpdmVia)
  | getCertificate (via : SpdmVia) (slot offset length : Nat)
  | challenge (via : SpdmVia) (slot : Nat) (nonce : BitVec 256)
  | getMeasurements (via : SpdmVia) (nonce : BitVec 256)
  | spdmUnsupported (via : SpdmVia) (code : BitVec 8)
  | bypass
  | idcode
  | samplePreload
  | extest
  | extestPulse
  | extestTrain
  | clamp
  | highz
  -- faults, safe state, Peat, test block
  | inputVoltageFault
  | coolantFlowLoss
  | leakDetect
  | mgmtCoreDisagree (o : CoreOutput)
  | safeExit (w : Who) (v : W32) (inputsOk : Bool)
  | safeExitDone
  | peatRecord
  | peatStageSend (die : Nat)
  | peatRateWindow
  | clear (w : Who) (v : W32)
  | flush (w : Who) (v : W32)
  | flushDone (written : Nat)
  | flashClear (w : Who) (v : W32)
  | flashEraseDone
  | powerFailFlush
  | peatReadLatch (w : Who) (v : W32)
  | tstKeyWrite (w : Who) (v : W32)
  | tstLock (w : Who) (v : W32)
  | tstSettingWrite (w : Who) (addr : Nat) (v : W32)
  | tstSeedWrite (w : Who) (v : W32)
  -- input power and board
  | inputDisconnect
  | powerOffResetExit
  | modReset
  | mateBreak
  | modResetRelease
  -- late rows
  | htRefLockLoss
  | atomicStaleInWait (station : Nat)
  | doeDiscovery (port index : Nat)
  | pcieConfigWrite (port : Nat) (bme : Bool) (msix : MsixWrite)
  | recoveryFlashDone
  deriving DecidableEq, Repr

end Sys2Proof
end

