-- ==== Sys2Proof/Decode.lean ====
section
/-! DEFINITION. The command that a word spells. No row of spec/opcode_table.json gives bits: the
module takes register accesses, bus operations and events. The 64-bit instruction words of the tiles
(R99 to R101) are read here too: the sequencer of a tile faults on a word that spells none. -/

namespace Sys2Proof

/-- The command spelled by `nbits` bits of a word: none, since no row of the table gives bits. -/
def decodeTableWord (_nbits _w : Nat) : Option Instr := none

/-! ## Instruction words of a tile -/

/-- R99: CLASS, OP, and the fields of a word. -/
def wordClass (w : BitVec 64) : Nat := (w.extractLsb' 60 4).toNat
def wordOp (w : BitVec 64) : Nat := (w.extractLsb' 52 8).toNat
def wordFields (w : BitVec 64) : Fields :=
  { d := w.extractLsb' 47 5, a := w.extractLsb' 42 5, b := w.extractLsb' 37 5, c := w.extractLsb' 32 5
    low := w.extractLsb' 0 32 }

/-- R102: the operations of class 0x0. -/
def decodeOp0 (op t : Nat) (f : Fields) : Option Instr :=
  match op with
  | 0x00 => some (.add t f)
  | 0x01 => some (.sub t f)
  | 0x02 => some (.and t f)
  | 0x03 => some (.or t f)
  | 0x04 => some (.xor t f)
  | 0x05 => some (.sll t f)
  | 0x06 => some (.srl t f)
  | 0x07 => some (.sra t f)
  | 0x08 => some (.mul t f)
  | 0x09 => some (.mulh t f)
  | 0x0A => some (.mulhu t f)
  | 0x0B => some (.slt t f)
  | 0x0C => some (.sltu t f)
  | 0x0D => some (.min t f)
  | 0x0E => some (.max t f)
  | 0x10 => some (.addi t f)
  | 0x12 => some (.andi t f)
  | 0x13 => some (.ori t f)
  | 0x14 => some (.xori t f)
  | 0x15 => some (.slli t f)
  | 0x16 => some (.srli t f)
  | 0x17 => some (.srai t f)
  | 0x18 => some (.muli t f)
  | 0x1B => some (.slti t f)
  | 0x1C => some (.sltui t f)
  | 0x1E => some (.li t f)
  | 0x1F => some (.lih t f)
  | _ => none

/-- R103: the operations of class 0x1. -/
def decodeOp1 (op t : Nat) (f : Fields) : Option Instr :=
  match op with
  | 0x00 => some (.ldu1 t f)
  | 0x01 => some (.ldu2 t f)
  | 0x02 => some (.ldu4 t f)
  | 0x03 => some (.ldu8 t f)
  | 0x04 => some (.lds1 t f)
  | 0x05 => some (.lds2 t f)
  | 0x06 => some (.lds4 t f)
  | 0x08 => some (.st1 t f)
  | 0x09 => some (.st2 t f)
  | 0x0A => some (.st4 t f)
  | 0x0B => some (.st8 t f)
  | 0x10 => some (.beq t f)
  | 0x11 => some (.bne t f)
  | 0x12 => some (.blt t f)
  | 0x13 => some (.bge t f)
  | 0x14 => some (.bltu t f)
  | 0x15 => some (.bgeu t f)
  | 0x18 => some (.jal t f)
  | 0x19 => some (.jalr t f)
  | 0x1A => some (.rdsys t f)
  | 0x1B => some (.halt t f)
  | 0x1C => some (.ibinv t f)
  | 0x1D => some (.nop t f)
  | 0x1E => some (.flclr t f)
  | _ => none

/-- R105: the operations of class 0x2. -/
def decodeOp2 (op t : Nat) (f : Fields) : Option Instr :=
  match op with
  | 0x00 => some (.vadd t f)
  | 0x01 => some (.vsub t f)
  | 0x02 => some (.vmul t f)
  | 0x03 => some (.vfma t f)
  | 0x04 => some (.vmin t f)
  | 0x05 => some (.vmax t f)
  | 0x06 => some (.vceq t f)
  | 0x07 => some (.vclt t f)
  | 0x08 => some (.vcle t f)
  | 0x09 => some (.vsel t f)
  | 0x0A => some (.vand t f)
  | 0x0B => some (.vor t f)
  | 0x0C => some (.vxor t f)
  | 0x0D => some (.vadds t f)
  | 0x0E => some (.vmuls t f)
  | 0x0F => some (.vbcast t f)
  | 0x10 => some (.vredsum t f)
  | 0x11 => some (.vredmax t f)
  | 0x12 => some (.vredmin t f)
  | _ => none

/-- R106: the operations of class 0x3. -/
def decodeOp3 (op t : Nat) (f : Fields) : Option Instr :=
  match op with
  | 0x00 => some (.vld t f)
  | 0x01 => some (.vst t f)
  | 0x02 => some (.vcvt t f)
  | 0x03 => some (.vcvtmx t f)
  | 0x04 => some (.vcvtw t f)
  | 0x05 => some (.vmovs t f)
  | 0x06 => some (.vins t f)
  | 0x07 => some (.vfx t f)
  | _ => none

/-- R108: the operations of class 0x4. -/
def decodeOp4 (op t : Nat) (f : Fields) : Option Instr :=
  match op with
  | 0x00 => some (.mop t f)
  | 0x01 => some (.mmv t f)
  | 0x02 => some (.mfold t f)
  | 0x03 => some (.mclr t f)
  | 0x04 => some (.mscl t f)
  | 0x05 => some (.mrd t f)
  | 0x06 => some (.mwr t f)
  | _ => none

/-- R112: the operations of class 0x5. -/
def decodeOp5 (op t : Nat) (f : Fields) : Option Instr :=
  match op with
  | 0x00 => some (.fexp2 t f)
  | 0x01 => some (.flog2 t f)
  | 0x02 => some (.frcp t f)
  | 0x03 => some (.frsq t f)
  | 0x04 => some (.ftanh t f)
  | 0x08 => some (.randv t f)
  | 0x09 => some (.rands t f)
  | _ => none

/-- R114: the operations of class 0x6. -/
def decodeOp6 (op t : Nat) (f : Fields) : Option Instr :=
  match op with
  | 0x00 => some (.dma t f)
  | 0x01 => some (.dmaj t f)
  | 0x02 => some (.cset t f)
  | 0x03 => some (.crd t f)
  | _ => none

/-- R117: the operations of class 0x7. -/
def decodeOp7 (op t : Nat) (f : Fields) : Option Instr :=
  match op with
  | 0x00 => some (.waitc t f)
  | 0x01 => some (.waitjt t f)
  | 0x02 => some (.fence t f)
  | 0x03 => some (.eblk t f)
  | 0x04 => some (.ewait t f)
  | _ => none

/-- R122: the operations of class 0x8. -/
def decodeOp8 (op t : Nat) (f : Fields) : Option Instr :=
  match op with
  | 0x00 => some (.sample t f)
  | _ => none

/-- R99 to R101: the command of tile `t` that an instruction word spells; a reserved CLASS and an OP that
is not listed spell none. -/
def decodeTile (t : Nat) (w : BitVec 64) : Option Instr :=
  let op := wordOp w
  let f := wordFields w
  match wordClass w with
  | 0x0 => decodeOp0 op t f
  | 0x1 => decodeOp1 op t f
  | 0x2 => decodeOp2 op t f
  | 0x3 => decodeOp3 op t f
  | 0x4 => decodeOp4 op t f
  | 0x5 => decodeOp5 op t f
  | 0x6 => decodeOp6 op t f
  | 0x7 => decodeOp7 op t f
  | 0x8 => decodeOp8 op t f
  | _ => none

end Sys2Proof
end

