-- ==== Sys2Proof/Machine/State.lean ====
section
/-! DEFINITION. The state of the module as plain data, the reasons a step can stop, and the state
after reset. Every field's docstring names the rule of spec/ it follows and its reset value; where
the manual gives no reset value the docstring says DESIGN CHOICE and the log entry. -/

namespace Sys2Proof.Machine

/-- No step of this part stops the model with a fault: every fault of the manual is a state of the
part (R25, R467). The type is empty, so that no meaning can answer one (safe). -/
inductive Fault where
  deriving DecidableEq, Repr

/-- Refusals of the model. -/
inductive Refusal where
  /-- Raised by an arm of `exec` whose command has no meaning yet (safe: nothing is claimed). -/
  | notModelled (mnemonic : String)
  deriving DecidableEq, Repr

/-! ## Tiles (02_tile, 04_tile_programs) -/

/-- DIE_TILE_STATE.STATE (R55). -/
inductive TileSt where
  | idle | running | waiting | retention | fencing | fenced | faulted
  deriving DecidableEq, Repr, Inhabited

/-- DIE_TILE_STATE.FAULT_CAUSE (R64). -/
inductive Cause where
  | none | illegal | badDescriptor | misaligned | range | sramUncorr | regParity | router
  deriving DecidableEq, Repr, Inhabited

/-- An execution unit's issue (R512): the occupancy, in cycles, of the instruction it runs, and
those of the instructions in its queue of 4. -/
structure UnitQ where
  run : Option Nat := none
  queue : List Nat := []
  deriving DecidableEq, Repr, Inhabited

/-- A pending wait of the sequencer (R117). -/
inductive Wait where
  /-- WAITC (R118): counter and target. -/
  | counter (c : Nat) (target : W32)
  /-- WAITJT (R119): target job time and destination register. -/
  | jobTime (target : W64) (sd : Nat)
  /-- FENCE (R120): the descriptors it waits for. -/
  | fence (ids : List Nat)
  /-- EWAIT (R121): cost, and the cycle of the region's clock in which the wait began. -/
  | tokens (cost since : Nat)
  deriving DecidableEq, Repr, Inhabited

/-- The open block of one accumulator element (R82, R83): the exact sum in units of 2^-266, and
the marks of NaN and infinite products. -/
structure OpenSum where
  sum : Int := 0
  nan : Bool := false
  posInf : Bool := false
  negInf : Bool := false
  deriving DecidableEq, Repr, Inhabited

/-- An accumulator m0-m3 (R26, R82, R108): kind, 256 elements (key 16 j + i, default 0), block
scales (default 0x7F), k-steps in the open block and its sums. -/
structure Acc where
  integer : Bool := false
  elem : SMap W32 := []
  xa : SMap Byte := []
  xb : SMap Byte := []
  ksteps : Nat := 0
  sums : SMap OpenSum := []
  /-- Which operands of the open block's products are block-scaled, by class: 0 neither, 1 operand b
  only, 2 operand a only, 3 both; the sums' keys are class × 256 + element (R82). -/
  classes : List Nat := []
  deriving DecidableEq, Repr, Inhabited

/-- A line of the instruction buffer (R23, R24): the SRAM line address it holds and its 64 bytes. -/
structure IbLine where
  line : Nat := 0
  data : BitVec 512 := 0
  deriving DecidableEq, Repr, Inhabited

/-- A sampling in progress (R122): destination register and the 32 bytes of the parameter block
as read at issue. -/
structure SampRun where
  sd : Nat := 0
  block : List Byte := []
  deriving DecidableEq, Repr, Inhabited

/-- Where an issued descriptor stands (R38 to R40). -/
inductive DStage where
  /-- Held for timed release at this low 32 bits of hall time (R38). -/
  | held (release : W32)
  /-- Waiting for a region fabric agent entry since this HT (R39). -/
  | waitEntry (since : Nat)
  /-- In the DMA engine, ready for injection since this HT. -/
  | ready (since : Nat)
  /-- Every packet injected; a response is awaited. -/
  | sent
  /-- Local copy: destination lines already moved (R513). -/
  | copying (lines : Nat)
  /-- Ended with this status, not yet counted (R40). -/
  | ended (status : Byte)
  deriving DecidableEq, Repr, Inhabited

/-- An issued descriptor as the DMA engine copied it (R35), with the engine's own bookkeeping. -/
structure Desc where
  id : Nat := 0
  addr : Nat := 0
  w0 : W64 := 0
  w1 : W64 := 0
  w2 : W64 := 0
  w3 : W64 := 0
  stage : DStage := .ready 0
  txid : BitVec 24 := 0
  /-- Packets injected so far (messages and contributions have several). -/
  sentPkts : Nat := 0
  /-- HT of the first and of the last injection (R204, R240). -/
  firstHt : Nat := 0
  lastHt : Nat := 0
  /-- R240, R253 the timeout in force at its injection, ns. -/
  tmo : Nat := 0
  /-- ISSUE_HT of the original, carried by a retry (R243). -/
  issueHt : W32 := 0
  retry : Bool := false
  /-- The payload of an atomic's packet, which its retry carries again (R243). -/
  opnd : List Byte := []
  /-- Holds a region fabric agent entry, and whether it is one of the shared 1,072 (R39). -/
  agent : Bool := false
  shared : Bool := false
  /-- DMAJ: RELEASE_HT in job time, kept for re-issue after a resume (R115, R281). -/
  jobRelease : Option W32 := none
  /-- OVERFLOW met in converting the item's data (R90). -/
  ovf : Bool := false
  deriving DecidableEq, Repr, Inhabited

/-- A combining entry (R233): the 64-byte line (of module memory, or of tile SRAM), when it opened,
and its stores in the order of acceptance: the request, the worst status of the lines of the request
already written, and its bytes (key: offset in the line). -/
structure Combine where
  line : Nat := 0
  opened : Nat := 0
  stores : List (Packet × Byte × SMap Byte) := []
  deriving DecidableEq, Repr, Inhabited

/-- A tile slot of a region: slots 0-249 are logical tiles, 250-255 the spare sites (R59, R63). -/
structure Tile where
  /-- R55, R64; reset FENCED (5). -/
  st : TileSt := .fenced
  /-- R64 FAULT_CAUSE; reset 0. -/
  cause : Cause := .none
  /-- Fault while waiting to become FENCED keeps FAULTED; a fenced-after-fault tile is FENCED. R57. -/
  draining : Bool := false
  /-- R64 DIE_TILE_CTRL.FENCE_REQ; reset 0. -/
  fenceReq : Bool := false
  /-- R64 DIE_TILE_PC, byte address, 18 bits; reset 0. -/
  pc : Nat := 0
  /-- R94 FETCH_LO, FETCH_HI, ENTRY0-7 of the loaded descriptor; empty before a load. -/
  fetchLo : Nat := 0
  fetchHi : Nat := 0
  entries : List Nat := []
  /-- R22 s1-s31, 64 bits (s0 reads 0); DESIGN CHOICE 0 before a load, log entry 3; R96 at load. -/
  s : SMap W64 := []
  /-- R26 v0-v31, 1,024 bits; as s. -/
  v : SMap VReg := []
  /-- R108 m0-m3; as s. -/
  m : SMap Acc := []
  /-- R40 c0-c15, 32 bits; reset 0 (R64). -/
  c : SMap W32 := []
  /-- R34, R64 DIE_TILE_FLAGS; reset 0. -/
  flags : W32 := 0
  /-- R29 SRAM, 256 KiB; zero (R33, R96). -/
  sram : SMap Byte := []
  /-- ECC words (byte address div 8) that hold an uncorrectable error (R32). -/
  poison : List Nat := []
  /-- ECC words that hold a single-bit error not yet written back (R32, R33). -/
  soft : List Nat := []
  /-- R64 DIE_TILE_ECC; reset 0. -/
  corrCnt : Nat := 0
  uncorrCnt : Nat := 0
  /-- R64 DIE_TILE_ECC_ADDR; reset none. -/
  eccAddr : Option Nat := none
  /-- R64 DIE_TILE_DMA.FAIL_CNT; reset 0. -/
  failCnt : Nat := 0
  /-- R37 TXID counter, 24 bits; reset 0 (R436). -/
  txid : BitVec 24 := 0
  /-- R64 DIE_TILE_IDENT: partition, reset 0; logical number, reset 0x1_FFFF; enabled by a load. -/
  partition : Nat := 0
  logical : Nat := 0x1FFFF
  enabled : Bool := false
  /-- R413: the logical tile has no site. -/
  unplaced : Bool := false
  /-- R42, R64 draw counters of streams 0-2, 64 bits; reset 0. -/
  draw0 : W64 := 0
  draw1 : W64 := 0
  draw2 : W64 := 0
  /-- R23 instruction buffer, 256 lines; empty. -/
  ibuf : SMap IbLine := []
  /-- R512 issue queues. -/
  vecU : UnitQ := {}
  matU : UnitQ := {}
  sfuU : UnitQ := {}
  /-- R117 pending wait. -/
  wait : Option Wait := none
  /-- R122 sampler. -/
  sampler : Option SampRun := none
  /-- R38 outstanding descriptors, oldest first, and the id of the next. -/
  descs : List Desc := []
  nextId : Nat := 0
  /-- R33 scrubber: the next line. -/
  scrub : Nat := 0
  /-- R104 cycles counted since load, with the fraction of a cycle in units of 1 / 64,000,000. -/
  cycles : Nat := 0
  cycFrac : Nat := 0
  /-- R98 HALT code of the launch in progress. -/
  haltCode : Option Nat := none
  /-- R233 ingress combining entries, at most 4. -/
  combine : List Combine := []
  deriving DecidableEq, Repr, Inhabited

/-! ## Regions: spares, clocks, heat, tokens, bond port (02, 10, 11, 13) -/

/-- The enable of a region at start-up (R432). -/
inductive RgnBoot where
  | off | enabling | clocked | enabled
  deriving DecidableEq, Repr, Inhabited

/-- One side of a link's epoch memory (R381). -/
structure LinkEnds where
  base : BitVec 16 := 0
  far : BitVec 16 := 0
  /-- The peer's epoch each side remembers; none at module reset. -/
  baseSaw : Option (BitVec 16) := none
  farSaw : Option (BitVec 16) := none
  deriving DecidableEq, Repr, Inhabited

/-- A region's bond port (R373 to R383, R396). STATE reset DOWN (0). -/
structure BondPort where
  st : Nat := 0
  widthUp : Nat := 0
  widthDn : Nat := 0
  /-- Agreed maps (R382); reset 0. -/
  upMap : BitVec 528 := 0
  dnMap : BitVec 528 := 0
  /-- Lanes declared failed and not yet removed from the maps (R375), and all ever failed. -/
  upFail : BitVec 528 := 0
  dnFail : BitVec 528 := 0
  /-- R375 the frame after whose 63,700 lanes were last declared failed, and those lanes: they leave the
  maps in the next interval. -/
  lateFrame : Option Nat := none
  upLate : BitVec 528 := 0
  dnLate : BitVec 528 := 0
  /-- Lanes with an error in the last lane check (R374), and the frame of that check. -/
  upErr : BitVec 528 := 0
  dnErr : BitVec 528 := 0
  checkFrame : Option Nat := none
  viaPartner : Bool := false
  ends : LinkEnds := {}
  /-- Hash mismatches in a row (R382). -/
  mismatches : Nat := 0
  trainings : Nat := 0
  laneFails : Nat := 0
  /-- R382 the module's own count at which a new training starts, after three hash mismatches. -/
  retryAt : Option Nat := none
  deriving DecidableEq, Repr, Inhabited

/-- A region of a compute die. -/
structure Region where
  boot : RgnBoot := .off
  /-- R432 clusters ungated. -/
  ungated : List Nat := []
  /-- R60 spare map, entries that differ from the identity (key L, value site); "Fused": the factory
  map is the identity by DESIGN CHOICE, log entry 4. -/
  spareMap : SMap Nat := []
  /-- A map that takes effect at resume (R65, R412). -/
  spareNext : Option (SMap Nat) := none
  /-- R65 DIE_RGN_SITE_BAD, sites marked faulty; "Fused", DESIGN CHOICE none, log entry 4. -/
  siteBad : List Nat := []
  /-- R54 faulty routers: tile routers by site, cluster routers, the region router. -/
  badTileRouters : List Nat := []
  badClusterRouters : List Nat := []
  badRegionRouter : Bool := false
  /-- R51 logical tiles in the lowest place of no site (R435). -/
  unplaced : List Nat := []
  /-- R319 DIE_RGN_CLK: OP_POINT, OP_NEXT, reset 3; LOCKED, FALLBACK, reset 0. -/
  op : Nat := 3
  opNext : Nat := 3
  locked : Bool := false
  fallback : Bool := false
  /-- The clock is stopped (R308, R341, R472). -/
  stopped : Bool := true
  /-- R121 the cycle of the clock, which the token rotation follows, with the fraction of a cycle in units of
  1 / 64,000,000; 0. -/
  cycles : Nat := 0
  cycFrac : Nat := 0
  /-- Stepping in this maintenance interval to this point (R308). -/
  stepTo : Option Nat := none
  /-- R308: the frame of the last maintenance interval in which the clock stopped for a step. -/
  stepFrame : Option Nat := none
  /-- R344: the HT at which the last region of the wake was up: this region's clock restarts in the first
  maintenance interval that begins after it. -/
  wakeReady : Option Nat := none
  /-- R309: the step has failed, and so has the lock at the previous point. -/
  stepFailed : Bool := false
  /-- R311: a clock fault asks for one point down at the next interval. -/
  stepDown : Bool := false
  /-- R319 DIE_RGN_CLK_MON; reset 0. -/
  jitPP : Nat := 0
  dutyMin : Nat := 0
  dutyMax : Nat := 0
  /-- R319 DIE_RGN_CLK_EVT; reset 0. -/
  evt : BitVec 6 := 0
  /-- R311 consecutive windows beyond the fault limits. -/
  jitRun : Nat := 0
  dutyRun : Nat := 0
  /-- R335 predictor poles and correction, in degrees C. -/
  a : Rat := 0
  b : Rat := 0
  cOff : Rat := 0
  /-- R349 DIE_RGN_TEMP; reset 0. -/
  tMeas : Rat := 0
  tPred : Rat := 0
  tEff : Rat := 0
  /-- R336 HT of the first diode reading and the conservative gains. -/
  firstRead : Option Nat := none
  conservative : Bool := false
  /-- R334 the diode is in sensor fault now. -/
  sensorBad : Bool := false
  /-- R349 DIE_RGN_THERM sticky bits; reset 0. -/
  sensorFault : Bool := false
  throttleSeen : Bool := false
  warnSeen : Bool := false
  /-- R339 warning in force (set 95, cleared 90). -/
  warn : Bool := false
  /-- R341 SD_LATCH and shut-down state; reset 0. -/
  sdLatch : Bool := false
  powerStep : Bool := false
  /-- R340 step count n and throttle fraction x; reset 0. -/
  n : Nat := 0
  x : Rat := 0
  /-- R340 the highest T_eff of the frame so far. -/
  frameMax : Rat := 0
  /-- R331 correction scale s; reset 1 (SCALE 128). -/
  scale : Rat := 1
  /-- R331 the whole round so far: s at 1/2 with the excess above 10 %, and below allotment. -/
  roundOver : Bool := true
  roundUnder : Bool := true
  /-- R331 what the last whole round asks of the next interval: a point down, or a raise allowed. -/
  powerDown : Bool := false
  powerUp : Bool := false
  /-- R331, R333 the judgement of a round whose last sample is in: the HT at which the round ends, and what it asks. -/
  judged : Option (Nat × Bool × Bool) := none
  /-- R328 allotment P(r) of the current frame, and of the next, watts. -/
  allot : Rat := 0
  allotNext : Rat := 0
  /-- R327 energy drawn in the current frame, microjoules. -/
  frameEnergy : Rat := 0
  /-- R349 DIE_RGN_TOKEN.GRANT; reset 0; balances of the 16 clusters. -/
  grant : Nat := 0
  balance : SMap Nat := []
  /-- R349 DIE_RGN_PWR: power over the last 10 µs, watts; reset 0. -/
  power : Rat := 0
  /-- R323 configured operating point, weight, cap, thermal model (defaults of the table). -/
  cfgOp : Nat := 0
  weight : Nat := 1
  cap : Rat := 36
  r1 : Rat := 4/5
  tau1 : Rat := 250
  r2 : Rat := 3/5
  tau2 : Rat := 20000
  /-- R493 DIE_RGN_TST_T; reset 0. -/
  tstT : W32 := 0
  bond : BondPort := {}
  /-- R344 the rail is at retention level. -/
  retained : Bool := false
  /-- R341, R343 SD_CLR has been accepted, and the rail waits for its turn to return to full level. -/
  rising : Bool := false
  deriving DecidableEq, Repr, Inhabited

/-! ## Stations (05 to 09) -/

/-- A message entry of a destination station (R205). -/
structure MsgEntry where
  src : W32 := 0
  txid : BitVec 24 := 0
  dst : W32 := 0
  job : Nat := 0
  count : Nat := 0
  got : Nat := 0
  status : Byte := 0
  notify : Bool := false
  ctr : Nat := 0
  minHt : W32 := 0
  held : Option Packet := none
  /-- ADDR of packet 0, for the acknowledgement (R249). -/
  addr : Nat := 0
  /-- A GNG_PUSH (R216), which is not acknowledged. -/
  push : Bool := false
  /-- R392: the message is among the requests outstanding at the site's chiplet. -/
  toChip : Bool := false
  deriving DecidableEq, Repr, Inhabited

/-- An entry of the route table (R202): the recorded intermediate station (none: direct), its HT. -/
structure RouteEnt where
  via : Option Nat := none
  ht : Nat := 0
  deriving DecidableEq, Repr, Inhabited

/-- A Mire entry (R242): keyed by SRC and TXID, with the stored prior value. -/
structure MireEnt where
  src : W32 := 0
  txid : BitVec 24 := 0
  result : List Byte := []
  /-- ISSUE_HT + W, low 32 bits, and the HT of expiry. -/
  expires : Nat := 0
  deriving DecidableEq, Repr, Inhabited

/-- The state of a root entry (R283): 0 UNUSED, 1 OPEN, 2 ENDING. -/
inductive RootSt where
  | unused | opened | ending
  deriving DecidableEq, Repr, Inhabited

/-- A staged FP32 chunk of an ORDERED entry (R272): key SRC or group, chunk, lanes. -/
structure Staged where
  key : Nat := 0
  chunk : Nat := 0
  lanes : List W32 := []
  deriving DecidableEq, Repr, Inhabited

/-- A collective entry (R256, R257, R265, R266): configuration bytes and the round in progress. -/
structure CollEntry where
  cfg : BitVec 512 := 0
  st : RootSt := .unused
  round : Nat := 0
  any : Bool := false
  sent : Bool := false
  sentAt : Nat := 0
  resent : Bool := false
  /-- R267 the planes of the hall ports that the first send of the round took, by chunk. -/
  planes : SMap Nat := []
  accepted : Bool := false
  ovf : Bool := false
  /-- Oldest ISSUE_HT of the round. -/
  oldest : W32 := 0
  /-- Oldest HT, full width (R265, R266 compare ages). -/
  oldestHt : Nat := 0
  /-- Gather: contributions per chunk. -/
  cnt : SMap Nat := []
  /-- Combined lanes: key element number, exact sums as integers or FP32 and INT64 bits as naturals. -/
  acc : SMap Int := []
  staged : List Staged := []
  /-- Root: chunks seen, key group × 4096 + chunk; groups complete. -/
  seen : List Nat := []
  groupsIn : List Nat := []
  lastStatus : Byte := 0
  /-- HT of the end of the last round (R163). -/
  lastAt : Nat := 0
  rounds : Nat := 0
  partials : Nat := 0
  /-- Missing groups of the last partial round (R283). -/
  missing : List Nat := []
  /-- R268, R271: a root's result kept for Twill, by lane. -/
  result : List Int := []
  /-- The HT at which the result was complete (R163). -/
  resultAt : Nat := 0
  resultOvf : Bool := false
  deriving DecidableEq, Repr, Inhabited

/-- COLL_DATA chunks in and the END of one round of a root at a receiving station (R269). -/
structure EndWait where
  group : Nat := 0
  root : W32 := 0
  round : Nat := 0
  job : Nat := 0
  got : List Nat := []
  /-- The END: its status, the chunks it announces, and the HT of its arrival. -/
  end_ : Option (Byte × Nat × Nat) := none
  /-- END has been passed on. -/
  passed : Bool := false
  deriving DecidableEq, Repr, Inhabited

/-- A data station 0-30. -/
structure Station where
  /-- R147 OPT_STN_STATUS.PRESENT, reset 0; PKT_CH_OUT derived from `chOut`. -/
  present : Bool := false
  /-- Packet channels that this station transmits on, out of service under R144 and R145. -/
  chOut : List Nat := []
  /-- R147 OPT_STN_SPARE_TX, _RX; reset 0. -/
  spareTx : W32 := 0
  spareRx : W32 := 0
  /-- R144 the line that line 16 stands for, plus 1: key dir × 32 + waveguide. -/
  spareLine : SMap Nat := []
  /-- R147 counters; reset 0. -/
  bchCorr : Nat := 0
  bchUncorr : Nat := 0
  pktCrc : Nat := 0
  losPkt : Nat := 0
  losCkt : Nat := 0
  /-- R136 packet channels that have lost lock. -/
  unlocked : List Nat := []
  /-- R318 TIM_STN; reset 0. `delayTgt` is the measured target (R304). -/
  delayValid : Bool := false
  timeBad : Bool := false
  mismatch : Nat := 0
  delay : Nat := 0
  delayTgt : Nat := 0
  /-- R303 the station's copy of HT less the time domain's, in units of 2^-16 ns, and TIME_UNCERTAIN and
  the state as its last time word gave them; R305 consecutive missing ticks, HT of the last, a mismatch waits
  for the next valid word, and HT of the last word that was not valid. -/
  dev : Int := 0
  wordUncertain : Bool := true
  wordSt : Nat := 0
  missTicks : Nat := 0
  missAt : Nat := 0
  resync : Bool := false
  badWordAt : Option Nat := none
  /-- R218 counters; reset 0. -/
  discAge : Nat := 0
  discFmt : Nat := 0
  discNoent : Nat := 0
  msgExp : Nat := 0
  lateRsp : Nat := 0
  adapt : Nat := 0
  /-- R206 message entries, at most 4,096. -/
  msgs : List MsgEntry := []
  /-- R202 route table, 1,024 entries. -/
  routes : SMap RouteEnt := []
  /-- R214 Gingham map, key 31 i + j, level; reset 0. R215 rows received: HT by station. -/
  gng : SMap Nat := []
  gngRowHt : SMap Nat := []
  /-- R220 HT of the sample that a row was taken at, by station. -/
  gngSample : SMap Nat := []
  /-- Stations whose rows are stale: levels taken as 255 (R215). -/
  gngStale : List Nat := []
  /-- R220 the levels of one sample that PKT_GNGs shows; reset 0. -/
  gngShown : SMap Nat := []
  /-- R224 landing windows, 2,048 entries of 32 B; invalid. -/
  windows : SMap (BitVec 256) := []
  /-- R233 combining entries of a memory station, at most 512. -/
  combine : List Combine := []
  /-- R242 Mire, at most 65,536 entries; R247 mire_start. -/
  mire : List MireEnt := []
  mireStart : Nat := 0
  /-- R246 atomics that wait for a free entry. -/
  atomicWait : List (Packet × Nat) := []
  /-- R254 counters; reset 0. -/
  miss : Nat := 0
  perm : Nat := 0
  replay : Nat := 0
  unknown : Nat := 0
  staleAtomic : Nat := 0
  merge : Nat := 0
  mireWait : Nat := 0
  /-- R256 collective entries (4,096) and R260 multicast entries (1,024); not VALID. -/
  coll : SMap CollEntry := []
  mcast : SMap (BitVec 256) := []
  endWaits : List EndWait := []
  /-- R284 counters; reset 0; pools free in bytes: 8 MiB and 1 MiB. -/
  collMerge : Nat := 0
  collDup : Nat := 0
  collStale : Nat := 0
  collResend : Nat := 0
  collPartial : Nat := 0
  accFree : Nat := 8388608
  trackFree : Nat := 1048576
  /-- R154, R155 slot tables (index gear × 7,056 + slot × 28 + k − 4), R157, R158 item tables. -/
  txTab : SMap W64 := []
  rxTab : SMap W64 := []
  srcItems : SMap (BitVec 256) := []
  tgtItems : SMap (BitVec 256) := []
  /-- R179 counters; reset 0. -/
  twlTx : Nat := 0
  twlRx : Nat := 0
  sealFail : Nat := 0
  voided : Nat := 0
  /-- R493 TST_STN registers; reset 0. -/
  tstVc : SMap W32 := []
  tstHt : BitVec 16 := 0
  tstBaseT : W32 := 0
  tstDropped : Nat := 0
  tstCorrupted : Nat := 0
  /-- R346 PWR_BASE in degrees C, reset 0; R338, R341 thresholds of the base field. -/
  baseTemp : Rat := 0
  /-- R351 the last valid reading of the base field. -/
  fieldTemp : Rat := 0
  baseSensorBad : Bool := false
  baseWarn : Bool := false
  baseSd : Bool := false
  deriving DecidableEq, Repr, Inhabited

/-! ## Twill bursts in flight (05, 06) -/

/-- A circuit's burst (R133, R156): source, index, slot start, the slot entry that governs it, the
blocks fed (key block, 256 bits; a block not listed is empty), rows fed, items voided at the source
(key item, status) and whether it has been launched. -/
structure Burst where
  src : Nat := 0
  k : Nat := 0
  slotHt : Nat := 0
  gear : Nat := 0
  entry : W64 := 0
  blocks : SMap (BitVec 256) := []
  rows : List Nat := []
  voids : SMap Nat := []
  launched : Bool := false
  /-- Items whose feed has ended whole. -/
  done : List Nat := []
  /-- R380 masks of the blocks damaged on the source's bond port, after the seal's CRC was formed. -/
  damage : SMap (BitVec 256) := []
  /-- R163 the ENGINE items by number, as they stood at the start of the feed: the bytes, or the
  status with which the item is voided. -/
  engine : List (Nat × (List Byte ⊕ Byte)) := []
  deriving DecidableEq, Repr, Inhabited

/-- A receiver's part of a burst (R135, R164): blocks received (seals among them), blocks poisoned,
rows without light, rows decoded, items decided. -/
structure RxBurst where
  station : Nat := 0
  k : Nat := 0
  slotHt : Nat := 0
  poisoned : List Nat := []
  dark : Bool := false
  rows : List Nat := []
  decided : List Nat := []
  got : SMap (BitVec 256) := []
  /-- R380 masks of the blocks damaged on the down direction of a region's bond port: key region times
  720, plus the block. -/
  damage : SMap (BitVec 256) := []
  deriving DecidableEq, Repr, Inhabited

/-! ## The packet fabric (07) -/

/-- Where a packet stands. -/
inductive Place where
  /-- In an input buffer of a router: the input has the number of the router's port there. -/
  | router (r : Router) (input : Nat)
  /-- On a region's bond port toward the base. -/
  | bond (region : Nat)
  /-- At a station, ejected toward a region's bond port (R194). -/
  | bondDn (region : Nat)
  /-- A response of a tile that waits for the local input of its router (R184). -/
  | tile (t : Nat)
  /-- Where a router port without a link leads: no packet goes there. -/
  | off
  /-- At the station where it enters the packet plane, not yet injected. -/
  | entry (station : Nat)
  /-- In the queue, or on the link, from one station to the next; `final` is the last station. -/
  | link (src dst final : Nat)
  /-- At its destination station, awaiting its step. -/
  | dest (station : Nat)
  /-- At station 26, queued for a hall port. -/
  | hall (port : Nat)
  /-- At station 26, held for a grid instant (R172); `late`: it missed its intended instant. -/
  | hallHeld (due : Nat) (late : Bool)
  /-- In the BAR2 hold of a channel switch (R251, R446). -/
  | bar2Hold
  deriving DecidableEq, Repr, Inhabited

/-- A packet in the fabric, with its arrival number at the place (R193). -/
structure Flight where
  seq : Nat := 0
  place : Place := .entry 0
  pkt : Packet := {}
  /-- The packet was given a fixed route (R267): intermediate station. -/
  via : Option Nat := none
  /-- R190 the packet-plane link whose receiving buffer holds the packet; 0 none. -/
  credit : Nat := 0
  deriving DecidableEq, Repr, Inhabited

/-- The VC turn of an output (R195): deficits of VC0, VC1, VC3, the rotation place (0 VC1, 1 VC0,
2 VC3), and VC2's bytes in the current window. -/
structure Arb where
  def0 : Nat := 0
  def1 : Nat := 0
  def3 : Nat := 0
  turn : Nat := 0
  /-- The rotation has reached the VC of `turn` and its weight has been added. -/
  inTurn : Bool := false
  window : Nat := 0
  vc2Bytes : Nat := 0
  deriving DecidableEq, Repr, Inhabited

/-- A hall port (R211 to R213, R219, R369). -/
structure HallPort where
  /-- PKT_HP_CFG as written, and as in force (R219); reset 0. -/
  en : Bool := false
  plane : Nat := 0
  enNow : Bool := false
  planeNow : Nat := 0
  up : Bool := false
  los : Bool := false
  apr : Bool := false
  aligned : Bool := false
  rsCorr : Nat := 0
  rsUncorr : Nat := 0
  disc : Nat := 0
  down : Nat := 0
  /-- HT of recent uncorrectable codewords (R213). -/
  uncorrHt : List Nat := []
  /-- The port takes part in R249; R213 HT from which its receiver has had signal and all lanes aligned. -/
  listed : Bool := false
  readyHt : Nat := 0
  /-- R219 HT of the last write of PKT_HP_CFG. -/
  cfgHt : Nat := 0
  /-- R212 the packet in reception; none: reception resumes at the next pointer. -/
  rx : Option (List Byte) := some []
  deriving DecidableEq, Repr, Inhabited

/-- Station 26-30: a stamp kept for an atomic from a chiplet (R185). -/
structure Stamp where
  src : W32 := 0
  txid : BitVec 24 := 0
  issueHt : W32 := 0
  expires : Nat := 0
  deriving DecidableEq, Repr, Inhabited

/-- Packet-fabric registers and queues (R217 to R220). -/
structure Fabric where
  pkts : List Flight := []
  seq : Nat := 0
  /-- TXID counter of the module's own sources (R182, R216); reset 0 (R436). -/
  txid : BitVec 24 := 0
  arb : SMap Arb := []
  /-- R51 router tables: entries that differ from the default rule. -/
  table : SMap Nat := []
  /-- R217 PKT_CTRL: margin 16, threshold 32, ADAPT_DIS 0, GNG_PUSH 0. -/
  margin : Nat := 16
  thresh : Nat := 32
  adaptDis : Bool := false
  gngPush : Nat := 0
  /-- PKT_AGE_MAX 50, PKT_MSG_SPAN 200, in µs. -/
  ageMax : Nat := 50
  msgSpan : Nat := 200
  gngFm : W32 := 0
  gngAddr : W64 := 0
  /-- R214, R216 samples taken; PKT_GNG_STATUS.SAMPLES shows at most 65,535; reset 0. -/
  samples : Nat := 0
  ports : SMap HallPort := []
  /-- R143 injection stopped, and links on the idle pattern only. -/
  injectStop : Bool := false
  quiet : Bool := false
  /-- R143 the packets whose link time had begun at 63,000. -/
  begun : List Nat := []
  /-- R362, R431 the packet plane is closed (start-up, deep calibration). -/
  planeOpen : Bool := false
  /-- R185 stamps of chiplet atomics, with their site. -/
  stamps : List (Nat × Stamp) := []
  deriving DecidableEq, Repr, Inhabited

/-! ## Module memory (08) -/

/-- A channel (R255): STATE 0 IN_SERVICE, 1 MOVING, 2 RETIRED; counters; lanes repaired. -/
structure Channel where
  st : Nat := 0
  uncorr : Nat := 0
  corr : Nat := 0
  repaired : Nat := 0
  deriving DecidableEq, Repr, Inhabited

/-- Memory registers and HBM3E contents (R227 to R230, R250 to R255). -/
structure Mem where
  /-- R253 timeouts and Mire window in µs: 20, 200, 50. -/
  tmoPkg : Nat := 20
  tmoHall : Nat := 200
  mireW : Nat := 50
  /-- R253 RESERVE, reset 1. -/
  reserve : Nat := 1
  /-- HBM3E initialisation has begun: RESERVE no longer writable. -/
  initDone : Bool := false
  /-- R250 slots moved: key slot, value channel × 16 + position. -/
  slotMap : SMap Nat := []
  /-- Spare positions claimed by retirements. -/
  claimed : List Nat := []
  /-- R253 MEM_RETIRE_STATUS; reset 0. `retRefused`: the last GO was refused, and STATE reads 4. -/
  retSt : Nat := 0
  retRefused : Bool := false
  retDone : Nat := 0
  retCh : Nat := 0
  retPoison : Nat := 0
  /-- The moves of the running retirement: slot, new channel × 16 + position. -/
  moves : List (Nat × Nat) := []
  winSel : W32 := 0
  channels : SMap Channel := []
  /-- Bytes of HBM3E, key channel × 2,415,919,104 + address in the channel; zero (R428). -/
  hbm : SMap Byte := []
  /-- Protected words (byte key div 32) with an uncorrectable, and with a correctable, error. -/
  hbmPoison : List Nat := []
  hbmSoft : List Nat := []
  /-- R251 BAR2 held for a channel switch. -/
  bar2Held : Bool := false
  /-- R252 channels recorded as retired in the board NOR flash, in order; DESIGN CHOICE none, log entry 4. -/
  flashRetired : List Nat := []
  /-- R472 HBM3E in self-refresh. -/
  selfRefresh : Bool := false
  deriving DecidableEq, Repr, Inhabited

/-! ## Partitions (06, 09, 11, 14, 16) -/

/-- CFG_PARTp_STATE.STATE (R423). -/
inductive PartSt where
  | empty | loaded | quiescing | applying | noSite | safeState
  deriving DecidableEq, Repr, Inhabited

/-- TWL_PART_STATE.STATE (R178). -/
inductive TwlSt where
  | none | loaded | active | stopping | stoppedTime
  deriving DecidableEq, Repr, Inhabited

/-- COL_CKPT_STATUS.STATE (R285). -/
inductive CkptSt where
  | idle | armed | saving | paused | restoring | refusedBusy | refusedImage | failed
  deriving DecidableEq, Repr, Inhabited

/-- STATE of a launch record (R453). -/
inductive RecSt where
  | free | pending | running | done
  deriving DecidableEq, Repr, Inhabited

/-- A launch record of BAR4 (R453). "The launch table": zero at reset (DESIGN CHOICE, log entry 5). -/
structure LaunchRec where
  notBefore : W64 := 0
  arg : W64 := 0
  entry : Byte := 0
  flags : Byte := 0
  tag : W32 := 0
  st : RecSt := .free
  status : Byte := 0
  haltCode : Nat := 0
  faulted : Nat := 0
  startHt : W64 := 0
  endHt : W64 := 0
  deriving DecidableEq, Repr, Inhabited

/-- A launch in progress (R455, R456): its record, phase, whether its tiles have started, and what
stopped it, if anything did. -/
structure LaunchRun where
  index : Nat := 0
  phase : Nat := 0
  started : Bool := false
  stopStatus : Option Byte := none
  /-- Tiles found FENCING, FENCED or FAULTED at the decision (R455). -/
  notIdle : Nat := 0
  deriving DecidableEq, Repr, Inhabited

/-- A gear's energy on a die (R324, R327): declared, effective, frames run over by more than 10 %,
largest measured, microjoules. -/
structure GearEnergy where
  declared : Rat := 0
  eff : Rat := 0
  overRun : Nat := 0
  maxMeas : Rat := 0
  /-- e_eff is the replacement of R327. -/
  replaced : Bool := false
  deriving DecidableEq, Repr, Inhabited

/-- A tile record of a save area (R279). -/
structure SavedTile where
  sram : SMap Byte := []
  poison : List Nat := []
  s : SMap W64 := []
  v : SMap VReg := []
  m : SMap Acc := []
  c : SMap W32 := []
  flags : W32 := 0
  pc : Nat := 0
  st : TileSt := .idle
  wait : Option Wait := none
  draw0 : W64 := 0
  draw1 : W64 := 0
  draw2 : W64 := 0
  cycles : Nat := 0
  descs : List Desc := []
  deriving DecidableEq, Repr, Inhabited

/-- What a save wrote (R279): the fields of the header, the tiles' records and the ROUNDs. -/
structure SaveArea where
  digest : BitVec 256 := 0
  gradeTiles : Nat := 0
  tiles : Nat := 0
  jframe : Nat := 0
  gear : Nat := 0
  /-- Bytes of the area. -/
  size : Nat := 0
  recs : List SavedTile := []
  /-- (station × 4096 + entry, ROUND) of each collective entry. -/
  rounds : List (Nat × Nat) := []
  deriving DecidableEq, Repr, Inhabited

/-- A partition 0-63. All registers reset to 0. -/
structure Partition where
  /-- R423. -/
  st : PartSt := .empty
  adaptive : Bool := false
  strict : Bool := false
  production : Bool := false
  job : Nat := 0
  imageId : W64 := 0
  slot : Nat := 0
  /-- Logical tiles in order, as tile keys (R401); CFG_PARTp_TILES is their number. -/
  tiles : List Nat := []
  /-- R42 job seed; R463 digest of the image HEADER. -/
  seed : W64 := 0
  digest : BitVec 256 := 0
  /-- R408 launches of the partition are not sampled. -/
  noSample : Bool := false
  /-- R408 B_s of a held partition. -/
  holdFrom : Option Nat := none
  /-- R469 trigger of the safe state. -/
  trigger : Nat := 0
  /-- R178 Twill registers. -/
  twl : TwlSt := .none
  gears : Nat := 0
  gear : Nat := 0
  gearNext : Nat := 0
  actFrame : W64 := 0
  itemsOk : Nat := 0
  itemsFail : Nat := 0
  lateHall : Nat := 0
  lateFeed : Nat := 0
  hallPeriod : Nat := 0
  hallPhase : Nat := 0
  hallLead : Nat := 0
  fwEn : Bool := false
  fwAddr : Nat := 0
  ringBase : W64 := 0
  ringSize : Nat := 0
  ringWp : W32 := 0
  ringRp : W32 := 0
  ringLost : Nat := 0
  /-- R161 the schedule is armed in the current frame, in this gear. -/
  live : Option Nat := none
  /-- R325 the partition has run an armed frame since its load. -/
  everArmed : Bool := false
  /-- R324, R327 energies: key gear × 32 + die. R348 PWR_PARTp_OVER. -/
  energy : SMap GearEnergy := []
  overCnt : Nat := 0
  /-- R348 PWR_PARTp_CTRL and PARK_STATE: 0 RUN, 1 PARKING, 2 PARKED, 3 WAKING. -/
  park : Bool := false
  autoWake : Bool := false
  parkSt : Nat := 0
  /-- R344 HT at which the park was accepted. -/
  parkHt : Nat := 0
  /-- R453 launch table, key index. -/
  table : SMap LaunchRec := []
  launch : Option LaunchRun := none
  /-- R465 ownership: 0 none, 1 port 0, 2 port 1; lease renewed at this count of ns. -/
  owner : Nat := 0
  expired : Bool := false
  leaseAt : Nat := 0
  /-- R452 when a CLAIM made port 1 the OWNER. -/
  claimAt : Option Nat := none
  /-- R465 completion ring. -/
  cqEn : Bool := false
  cqVec : Nat := 0
  cqSize : Nat := 0
  cqBase : W64 := 0
  cqWp : W32 := 0
  cqRp : W32 := 0
  cqLost : Nat := 0
  launches : Nat := 0
  /-- R285 checkpoint registers. -/
  ckOp : Nat := 0
  ckCont : Bool := false
  ck : CkptSt := .idle
  ckStatus : Byte := 0
  ckFrame : W64 := 0
  ckAddr : W64 := 0
  joff : W64 := 0
  ckJ : W64 := 0
  /-- R280, R281 the partition stands since a save began, whatever STATE shows. -/
  ckHeld : Bool := false
  /-- R280 the frame at which a partition saved with CONTINUE goes on. -/
  ckResume : Option Nat := none
  /-- R281 a restore whose area a host holds: its header has not been read yet, and nothing has changed. -/
  ckUnread : Bool := false
  /-- R411 multicast entries (station × 1024 + group) and item entries ((station × 2 + 1 for a target) ×
  16,384 + index) that the partition's load wrote. -/
  mcGroups : List Nat := []
  items : List Nat := []
  /-- R175, R291, R305, R470: time was lost in this frame, and a strict schedule stops at its end. -/
  stopFrame : Option Nat := none
  deriving DecidableEq, Repr, Inhabited

/-! ## Time (10) -/

/-- TIM_STATUS.STATE (R288). -/
inductive TimeSt where
  | free | acquiring | locked | holdover
  deriving DecidableEq, Repr, Inhabited

/-- A time port (R296 to R299, R317); reset 0. -/
structure TimePort where
  /-- As written, and as in force. -/
  cfg : W32 := 0
  src : W32 := 0
  cfgNow : W32 := 0
  srcNow : W32 := 0
  valid : Bool := false
  excluded : Bool := false
  rtt : Nat := 0
  /-- Last accepted offset, in ns, its epoch and HT. -/
  ofs : Rat := 0
  epoch : BitVec 16 := 0
  acceptedAt : Nat := 0
  /-- Accepted round trips of the last 100 ms: HT and value in ns. -/
  history : List (Nat × Rat) := []
  /-- R292 the last reply whose only fault is its epoch: epoch, offset in ns, HT. -/
  foreign : Option (BitVec 16 × Rat × Nat) := none
  deriving DecidableEq, Repr, Inhabited

/-- The time domain of field 31 (R286 to R302, R316). -/
structure TimeDom where
  /-- R286 HT: ns and 16-bit fraction; reset 0. -/
  ht : Nat := 0
  frac : BitVec 16 := 0
  /-- R287 offset still to be slewed out, in units of 2^-32 ns. -/
  slew : Int := 0
  /-- R287, R288, R299 the oscillator's corrected rate, in units of 2^-32 beyond 1; 0 before an estimate. -/
  rate : Int := 0
  st : TimeSt := .free
  /-- R316 TIM_CTRL; reset 0. -/
  mode : Nat := 0
  serve : Bool := false
  /-- R316 TIM_STATUS: TIME_UNCERTAIN reset 1, DISAGREE 0, EPOCH_ID 0. -/
  uncertain : Bool := true
  disagree : Bool := false
  epoch : BitVec 16 := 0
  /-- TIM_OFFSET in ps; TIM_REF_DELAY in ps; TIM_LOSS_HT; TIM_RTT_MAX 400; TIM_MON_CFG; TIM_COUNTS. -/
  offset : Int := 0
  refDelay : Nat := 0
  lossHt : Nat := 0
  rttMax : Nat := 400
  jitFault : Nat := 60
  jitWarn : Nat := 30
  dutyFault : Nat := 24
  dutyWarn : Nat := 12
  badWord : Nat := 0
  loss : Nat := 0
  /-- R293, R294 the time-domain PLL is locked to HT_REF. -/
  pllLocked : Bool := false
  /-- R293 the current run: NEXT_SYNC_HT, QUALITY and EPOCH_ID of the last whole word, whether a
  pulse has followed it, the word before it, and words and pulses received in the run. -/
  word : Option (Nat × Nat × Nat) := none
  prevWord : Option (Nat × Nat × Nat) := none
  pulseInRun : Bool := false
  /-- R289 the last HT at which the source was valid. -/
  lastValid : Option Nat := none
  /-- R290, R294, R301 consecutive measurements within ±1 ns, within ±0.25 ns, and estimates taken. -/
  good1 : Nat := 0
  good025 : Nat := 0
  estimates : Nat := 0
  /-- R293 the source reports itself uncertain. -/
  srcUncertain : Bool := false
  /-- R292 REACQUIRE accepted, to act at the next valid pulse or estimate. -/
  reacqPending : Bool := false
  /-- R292 the last measurement by a source that meets the conditions of its mode with any epoch:
  epoch, offset in ps, HT. -/
  present : Option (BitVec 16 × Int × Nat) := none
  /-- R292 the source present has been treated as a returned one. -/
  returned : Bool := false
  /-- R316 MODE has changed and the new mode's source is not yet measured. -/
  remeasure : Bool := false
  /-- First entry to ACQUIRING (R326, R425), by HT. -/
  firstAcq : Option Nat := none
  ports : SMap TimePort := []
  /-- R304 the next station to be measured, and the frame in whose interval the last one was. -/
  delayNext : Nat := 0
  delayFrame : Option Nat := none
  deriving DecidableEq, Repr, Inhabited

/-! ## Power (11) -/

/-- A die's power registers and its ADC (R333, R347). -/
structure Die where
  weight : Nat := 1
  budget : Rat := 0
  meas : Rat := 0
  sched : Rat := 0
  /-- Rail voltages and currents of the round so far: channels 16-23 (R333). -/
  rails : SMap Rat := []
  /-- The readings of channels 16-25 in the last whole round (R335). -/
  lastRails : SMap Rat := []
  /-- Energy left for the frame by the last gear choice, microjoules (R325, R328). -/
  avail : Rat := 0
  populated : Bool := true
  deriving DecidableEq, Repr, Inhabited

/-- The governor and its registers (R320 to R346). -/
structure Power where
  /-- R346 PWR_BUDGET: as written; by grade 11,500 or 9,650 W. -/
  budget : Nat := 11500
  compat : Bool := false
  compatNow : Bool := false
  inputLimit : Bool := false
  /-- R342 HT since which the average has been below 12,500 W. -/
  belowSince : Option Nat := none
  overCommit : Bool := false
  gearHold : Bool := false
  inputW : Nat := 0
  /-- In units of 10 mV. -/
  inputV : Nat := 0
  /-- PWR_COOLANT in 0.25 °C; reset 0x0B4. -/
  coolant : Nat := 0xB4
  dies : SMap Die := []
  /-- R323 floors: key operating point, base watts and slope; energy ratios. -/
  floors : List (Rat × Rat) := [(4, 7/125), (4, 7/125), (4, 7/125), (4, 7/125)]
  ratios : List Rat := [1, 4/5, 31/50, 47/100]
  diodeGain : Rat := 1/4
  /-- R343, R344 HT at which the last region of a wake returned to full rail. -/
  lastWake : Option Nat := none
  deriving DecidableEq, Repr, Inhabited

/-! ## Optical control (05, 12) -/

/-- The state of a laser (R372). -/
inductive LaserSt where
  | active | cold | warming | locked | failed | off
  deriving DecidableEq, Repr, Inhabited

/-- A laser of field 31 (R363 to R367, R372). "Factory" values: DESIGN CHOICE, log entry 7. -/
structure Laser where
  st : LaserSt := .cold
  index : Nat := 0
  /-- Fade in 0.01 dB (R363); reset 0. -/
  fade : Int := 0
  bias : Nat := 2600
  tgt : Nat := 2600
  p0 : Nat := 1000
  b0 : Nat := 2600
  /-- R363 the readings of the last 10 ms, latest first: the power at the output monitor in µW, and what the
  pilot tone gives of it against P0 in 0.01 dB; the module's own count at the latest. -/
  readings : List (Nat × Int) := []
  readAt : Option Nat := none
  held : Bool := false
  /-- R364: below −0.5 dB and the bias not yet back at −0.25 dB. -/
  raising : Bool := false
  /-- R365 the module's own count at which the laser asked for a spare; the spare it was given. -/
  asked : Option Nat := none
  spare : Option Nat := none
  /-- R364 a switchover is due at the first interval that begins after this HT. -/
  switchDue : Option Nat := none
  /-- R364 the module's own count since which the laser has stayed above −1.0 dB. -/
  above : Option Nat := none
  /-- R430 started; locked, and so giving light; the module's own count at its start or warm-up. -/
  started : Bool := false
  lit : Bool := false
  since : Nat := 0
  /-- State before the shared safe state put it OFF (R473). -/
  wasActive : Bool := false
  deriving DecidableEq, Repr, Inhabited

/-- A ring with its receiver or driver (R350, R351, R371). "Factory": table, η, trims: DESIGN
CHOICE (η typical 60, a slope of 10 GHz per °C within R353), log entry 7. Offsets and pilot trim 0 (R427). -/
structure Ring where
  table : List Nat := [14000, 12333, 10667, 9000, 7333, 5667, 4000, 2333]
  heater : Nat := 8192
  off : Int := 0
  offTgt : Int := 0
  pt : Int := 0
  eta : Nat := 60
  swing : Nat := 32
  swingTgt : Nat := 32
  gain : Nat := 128
  gainTgt : Nat := 128
  rxOff : Nat := 512
  rxOffTgt : Nat := 512
  /-- R359 the driver's factory slope in 0.01 dB per LSB of swing, and the factory reference of the
  amplitude that the receiver shows of the tap pattern; log entry 7. -/
  slope : Nat := 10
  ampRef : Nat := 1000
  failed : Bool := false
  /-- R144 HT at which the ring was declared failed. -/
  failedAt : Nat := 0
  /-- R370 HOLD by KIND of record: bit 1 offset, 2 swing, 3 gain, 4 receiver offset; by table point. -/
  hold : BitVec 5 := 0
  holdTable : BitVec 8 := 0
  /-- R356 the condition 3, 4 or 5 that the last sweep met; 0 none. -/
  fault : Nat := 0
  pilotLimit : Bool := false
  /-- R356 the module's own count since which the pilot trim stands at its limit, and the code is out of range. -/
  limitSince : Option Nat := none
  rangeSince : Option Nat := none
  deriving DecidableEq, Repr, Inhabited

/-- Deep calibration (R362, R431). -/
inductive DeepSt where
  | idle | requested | running (since : Nat) | applied (since : Nat)
  deriving DecidableEq, Repr, Inhabited

/-- Optical control registers (R148, R371, R372). -/
structure Optics where
  recalEn : Bool := true
  /-- R371 RECAL_EN as it stood when the interval of its last write began, and the HT of that write. -/
  recalWas : Bool := true
  recalHt : Nat := 0
  deep : DeepSt := .idle
  /-- The running deep calibration is that of start-up (R431), or of the exit from the shared safe state. -/
  deepStartup : Bool := false
  recalNext : Nat := 0
  recalCycles : Nat := 0
  coefSel : W32 := 0
  /-- Entries that differ from `Laser` at reset: 0-31 ACTIVE with INDEX = L, 32-39 COLD (R372). -/
  lasers : SMap Laser := []
  /-- R343 the module's own count at the last start of a laser. -/
  lastStart : Option Nat := none
  /-- R357 the frame in whose interval a channel was last swept. -/
  sweptFrame : Option Nat := none
  dark : W32 := 0
  /-- R367 indices that wait for their spare. -/
  waiting : List Nat := []
  /-- R367 packet waveguides that return to service at the next frame boundary. -/
  returning : List Nat := []
  flightValid : Bool := false
  /-- R148 flights, key s × 32 + d, in 25 ps. -/
  flights : SMap Nat := []
  /-- Ring key ((s × 2 + dir) × 32 + wg) × 17 + line. -/
  rings : SMap Ring := []
  /-- R144 rings declared failed and not yet replaced. -/
  pendingSub : List Nat := []
  /-- Channels with a substitution, and indices with a switchover, in this interval (R361, R366). -/
  subNow : List Nat := []
  switchNow : List Nat := []
  /-- R355 the module's own count since which a splitter difference has held, plus 1, key s × 32 + k. -/
  splitSince : SMap Nat := []
  /-- R132 crossbar elements set for the slot that begins at this HT. -/
  crossbarFor : Option Nat := none
  deriving DecidableEq, Repr, Inhabited

/-! ## Die links (13) -/

/-- An HBM3E stack (R395). -/
structure Stack where
  temp : Nat := 0
  repairs : Nat := 0
  cattrip : Bool := false
  /-- R384 the refresh rate is doubled. -/
  refresh2x : Bool := false
  deriving DecidableEq, Repr, Inhabited

/-- A chiplet site (R388 to R394, R397): STATE 0 EMPTY ... 5 DOWN. -/
structure Site where
  st : Nat := 0
  cause : Nat := 0
  width : Nat := 0
  ends : LinkEnds := {}
  trainings : Nat := 0
  refusals : Nat := 0
  decl : BitVec 512 := 0
  upMap : BitVec 528 := 0
  dnMap : BitVec 528 := 0
  mismatches : Nat := 0
  /-- SITE record of the whole-module image (R391, R401). -/
  expVendor : Nat := 0
  expDevice : Nat := 0
  expected : Bool := false
  jobs : List Nat := []
  /-- R389 the packet in reception; none: reception resumes at the next pointer. -/
  rx : Option (List Byte) := some []
  /-- R392 requests of the module outstanding at the chiplet. -/
  inFlight : Nat := 0
  /-- R382, R394 the module's own count at which a new training starts. -/
  retryAt : Option Nat := none
  /-- PRESENT changes at the next maintenance interval (R391, R394). -/
  presentNext : Option Bool := none
  deriving DecidableEq, Repr, Inhabited

/-- Die-link registers (R395). -/
structure Links where
  mapSel : W32 := 0
  /-- R381 module resets so far, modulo 2^16: both sides of every bond port have this many more resets
  than their `LinkEnds` tell. -/
  resets : BitVec 16 := 0
  hbmStacks : SMap Stack := []
  sites : SMap Site := []
  /-- R385 the next channel to retrain. -/
  retrainNext : Nat := 0
  /-- R385 the frame in whose interval a channel was last retrained. -/
  retrainFrame : Option Nat := none
  /-- R378 rebound bursts: 1 moved to the partner's port, 2 re-timed, 3 none. Key: ((((station × 2 +
  direction) × 4 + gear) × 252 + slot) × 28 + k − 4) × 16 + region, direction 0 feed, 1 drain. -/
  rebind : SMap Nat := []
  deriving DecidableEq, Repr, Inhabited

/-! ## Loader and configuration (14) -/

/-- CFG_REQr_STATUS.STATE (R421). -/
inductive ReqSt where
  | idle | queued | checking | quiescing | applying | resuming | done | refused
  deriving DecidableEq, Repr, Inhabited

/-- A requester's registers (R421); reset 0. -/
structure Requester where
  op : Nat := 0
  partition : Nat := 0
  station : Nat := 0
  region : Nat := 0
  st : ReqSt := .idle
  section_ : Nat := 0
  result : Nat := 0
  src : W64 := 0
  len : W32 := 0
  quiesced : Nat := 0
  fence : BitVec 256 := 0
  deriving DecidableEq, Repr, Inhabited

/-- A queued request (R404). -/
structure Req where
  who : Nat := 0
  op : Nat := 0
  partition : Nat := 0
  station : Nat := 0
  region : Nat := 0
  src : W64 := 0
  len : Nat := 0
  fence : BitVec 256 := 0
  /-- SCOPE of its image, once its HEADER has been read and the load could not begin (R434, R472). -/
  scope : Option Nat := none
  deriving DecidableEq, Repr, Inhabited

/-- The request in progress (R405 to R408): its image, scope, the partitions that stop rather than
hold, the instants q and S and the latest D, and which partitions have been stopped. -/
structure LoadRun where
  req : Req := {}
  img : Option Image := none
  phase : ReqSt := .checking
  scope : List Nat := []
  stops : List Nat := []
  q : Nat := 0
  stopAt : List (Nat × Nat) := []
  stopped : List Nat := []
  deadline : Nat := 0
  /-- Result decided in the apply step. -/
  result : Nat := 0
  section_ : Nat := 0
  applyEnd : Option Nat := none
  /-- R315 the change waits for the end of the apply step, which decides whether the job origin is too late. -/
  late : Bool := false
  /-- R409 parts of the scope that entered the safe state. -/
  lost : List Nat := []
  /-- R409, R412 the sites that a REGION request marks faulty, as they stood at q. -/
  bad : List Nat := []
  deriving DecidableEq, Repr

/-- A signer slot (R403, R422). "Fused": DESIGN CHOICE not enrolled, log entry 4. -/
structure KeySlot where
  hash : BitVec 256 := 0
  enrolled : Bool := false
  revoked : Bool := false
  deriving DecidableEq, Repr, Inhabited

/-- CFG_FW_STATUS.UPDATE (R420). -/
inductive FwSt where
  | idle | staging | standbyPrep | takeover | flashing | done | abandoned
  deriving DecidableEq, Repr, Inhabited

/-- A management request (R417): a write of a requester's control register, a command of a partition's OWN
register (1 renew, 2 claim, 3 release), firmware's write of OWNER, and of CFG_PRESn. -/
inductive MgmtReq where
  | ctrl (r : Nat) (v : W32)
  | own (w : Who) (cmd p : Nat)
  | owner (p n : Nat)
  | pres (n : Nat) (v : W32)
  deriving DecidableEq, Repr, Inhabited

/-- Configuration registers (R420 to R422). -/
structure Config where
  module : Nat := 0
  fmCoord : W32 := 0
  fw : FwSt := .idle
  activeCore : Nat := 0
  shadow : Bool := false
  version : Nat := 0
  /-- R417 the firmware image staged: its IMAGE_ID, HEADER digest and requester; the running one's digest. -/
  staged : Option (W64 × BitVec 256 × Nat) := none
  fwDigest : BitVec 256 := 0
  /-- The firmware image in the board NOR flash: low 16 bits of its IMAGE_ID and its digest; DESIGN
  CHOICE 0, log entry 4. R418: the firmware that ran before a takeover. -/
  flashFw : Nat × BitVec 256 := (0, 0)
  oldFw : Nat × BitVec 256 := (0, 0)
  moduleDigest : BitVec 256 := 0
  presSeq : W64 := 0
  /-- R415 presence map, key module, plane mask; 0. -/
  presence : SMap Nat := []
  recMode : Bool := false
  recState : Nat := 0
  recLen : Nat := 0
  /-- R419 the BAR4 staging window of recovery mode, sparse. -/
  bar4 : SMap Byte := []
  reqs : SMap Requester := []
  queue : List Req := []
  run : Option LoadRun := none
  paused : Bool := false
  /-- R417 HT at which the standby core became ready; the packets held during a hand-off. -/
  fwReadyHt : Nat := 0
  heldMgmt : List Packet := []
  heldReqs : List MgmtReq := []
  /-- R418 the other core is to take over with the old firmware. -/
  reverting : Bool := false
  keys : SMap KeySlot := []
  /-- A SCOPE 0 load has been applied since module reset (R426). -/
  moduleLoaded : Bool := false
  deriving DecidableEq, Repr

/-! ## Start-up, board, safe state (15, 17, 18) -/

/-- Where the module stands (R424, R497, R502). -/
inductive RunMode where
  | powerOff | held | boot | recovery | up | failed
  deriving DecidableEq, Repr, Inhabited

/-- A field's power-up (R427). -/
inductive FieldSt where
  | off | testing | passed | failed
  deriving DecidableEq, Repr, Inhabited

/-- Start-up state (R424 to R438). -/
structure Boot where
  mode : RunMode := .boot
  /-- R497 the power-off reset began with a power-fail flush or an open disconnect. -/
  failOff : Bool := false
  /-- R438 GLB_BOOT_STATUS; reset 0. -/
  steps : BitVec 9 := 0
  ready : Bool := false
  failStep : Nat := 0
  failDetail : Nat := 0
  readyHt : Nat := 0
  bootWin0 : W64 := 0
  bootWin1 : W64 := 0
  /-- Counts of the module's own oscillator, ns: now, with its fraction in units of 2^-32 ns, P0, P1 (end of
  FIRMWARE). -/
  osc : Nat := 0
  oscFrac : Nat := 0
  p0 : Nat := 0
  p1 : Option Nat := none
  fields : SMap FieldSt := []
  hbmTrained : List Nat := []
  hbmFilled : List Nat := []
  /-- R432 instant E, and regions enabled. -/
  e : Option Nat := none
  regionsDone : List Nat := []
  pcieFailed : List Nat := []
  pcieTrained : List Nat := []
  deriving DecidableEq, Repr, Inhabited

/-- The board's pins (R500 to R504). Levels before P0: DESIGN CHOICE, log entry 8. -/
structure Board where
  htPresent : Bool := false
  mate : Bool := false
  leakClr : Bool := false
  flowGood : Bool := false
  addr : BitVec 2 := 0
  resetLow : Bool := false
  /-- R460 the cells of the scan chain as last captured. -/
  scan : List Bool := []
  deriving DecidableEq, Repr, Inhabited

/-- The safe state (R468 to R473, R491); reset 0. -/
structure Safe where
  shared : Bool := false
  trig : BitVec 10 := 0
  /-- R473 an accepted exit runs. -/
  exiting : Bool := false
  /-- R473 the deep calibration of the exit has ended. -/
  relit : Bool := false
  deriving DecidableEq, Repr, Inhabited

/-! ## Hosts (16) -/

/-- A part of a host access through BAR2 (R443): its TXID, VA, length, HT of its packet's injection with the
timeout in force then, ns (R240, R253), and status once known. -/
structure Bar2Part where
  txid : BitVec 24 := 0
  va : Nat := 0
  len : Nat := 0
  injected : Option (Nat × Nat) := none
  status : Option Byte := none
  data : List Byte := []
  deriving DecidableEq, Repr, Inhabited

/-- A host read of BAR2 in progress (R444): parts, and whether it has entered the fabric. -/
structure Bar2Read where
  addr : Nat := 0
  len : Nat := 0
  entered : Bool := false
  /-- TXIDs of the port's earlier writes that are not yet acknowledged. -/
  waits : List (BitVec 24) := []
  parts : List Bar2Part := []
  deriving DecidableEq, Repr, Inhabited

/-- A request the module has sent to a host (R447): the read, or the flush, by tag. -/
structure HostReq where
  tag : Nat := 0
  /-- The LOAD to answer; none for a flush read. -/
  pkt : Option Packet := none
  /-- Flush: the writes it covers. -/
  covers : List Packet := []
  deriving DecidableEq, Repr, Inhabited

/-- What a vector of a port's MSI-X table sends (R440). -/
structure MsixMsg where
  addr : W64 := 0
  data : W32 := 0
  deriving DecidableEq, Repr, Inhabited

/-- A PCIe port (R439 to R449, R465). -/
structure Port where
  up : Bool := false
  /-- R440 the MSI-X table, by vector; R449 the errors that AER has reported, by bit (log entry 88). -/
  msixTable : SMap MsixMsg := []
  aer : W32 := 0
  bme : Bool := false
  msixEn : Bool := false
  width : Nat := 0
  rate : Nat := 0
  downs : Nat := 0
  retrains : Nat := 0
  wfail : Nat := 0
  denied : Nat := 0
  err : Nat := 0
  evtEn : Bool := false
  evtVec : Nat := 0
  /-- TXID counter of the host function coordinate (R443; DEDUCED, log entry 9). -/
  txid : BitVec 24 := 0
  writes : List Bar2Part := []
  reads : List Bar2Read := []
  /-- R447 host writes sent and not yet flushed: their requests. -/
  unflushed : List Packet := []
  reqs : List HostReq := []
  nextTag : Nat := 0
  deriving DecidableEq, Repr, Inhabited

/-! ## Peat (17) -/

/-- A Peat record (R475). -/
structure PeatRec where
  seq : Nat := 0
  ht : Nat := 0
  code : Nat := 0
  flags : Nat := 0
  partition : Nat := 0
  source : W32 := 0
  data : List Byte := []
  deriving DecidableEq, Repr, Inhabited

/-- A flush set of the flash region (R481, R492). -/
structure FlashSet where
  cause : Nat := 0
  isPartial : Bool := false
  recs : List PeatRec := []
  deriving DecidableEq, Repr, Inhabited

/-- A running flush (R481): cause, the SEQ after the last record it takes, CLEAR and FLASH_CLEAR
that wait for it. -/
structure FlushRun where
  cause : Nat := 0
  upTo : Nat := 0
  clearAfter : Bool := false
  eraseAfter : Bool := false
  deriving DecidableEq, Repr, Inhabited

/-- The Peat recorder (R475 to R483, R492). -/
structure Peat where
  /-- Records held in the I/O die, oldest first. -/
  buf : List PeatRec := []
  /-- Records that have reached the I/O die and have not yet entered the buffer (R476). -/
  offered : List PeatRec := []
  /-- R476 die stages, key die. -/
  stages : SMap (List PeatRec) := []
  /-- R478 records lost at a full stage, not yet reported. -/
  stageLost : SMap Nat := []
  /-- EVT_NEXT_SEQ: SEQ starts at 1 with an empty flash region (R475, R476). -/
  next : Nat := 1
  full : Bool := false
  lostDie : Nat := 0
  lostFull : Nat := 0
  suppressed : Nat := 0
  flushLost : Nat := 0
  /-- R492 EVT_CTRL.RATE; reset 64. -/
  rate : Nat := 64
  /-- R477 records and suppressions of the window: key point × 65536 + code (point 20: the I/O die). -/
  counts : SMap Nat := []
  supp : SMap Nat := []
  /-- Records below this SEQ are in flash (R481). -/
  flushed : Nat := 1
  flush : Option FlushRun := none
  /-- A flush that waits for an erase to end (its cause), and a CLEAR of the same write, which waits with it. -/
  flushWait : Option Nat := none
  waitClear : Bool := false
  erasing : Bool := false
  sets : List FlashSet := []
  flashFull : Bool := false
  rdSeq : W64 := 0
  rdSrc : Nat := 0
  /-- R483 latched records: key requester. -/
  latched : SMap PeatRec := []
  /-- R501 SEQ of the records of blocks 0xE and 0x2 unread by the side-band. -/
  unread : List Nat := []
  /-- R502 what follows the flush: 0 nothing, 1 module reset, 2 power-off reset. -/
  after : Nat := 0
  deriving DecidableEq, Repr, Inhabited

/-! ## Test block, security, JTAG (16, 17) -/

/-- The test block (R487 to R493); reset 0, locked. -/
structure Tst where
  unlocked : Bool := false
  /-- R489 the first key: from this requester at this count of ns. -/
  key1 : Option (Who × Nat) := none
  seed : W32 := 0
  /-- Draws taken from the generator since the seed was written (R488). -/
  draws : Nat := 0
  fades : SMap Nat := []
  deriving DecidableEq, Repr, Inhabited

/-- The SPDM responder's connection on one interface (R462): requests answered, and transcript. -/
structure Spdm where
  version : Bool := false
  caps : Bool := false
  algs : Bool := false
  /-- The transcripts (R462): the messages up to ALGORITHMS; those since of the digests and the chain, which a
  CHALLENGE signs; and those of measurements. -/
  vca : List Byte := []
  m1 : List Byte := []
  l1 : List Byte := []
  deriving DecidableEq, Repr, Inhabited

/-- Security registers (R466). -/
structure Sec where
  identity : Bool := false
  signs : Nat := 0
  measSel : Nat := 1
  spdm : SMap Spdm := []
  /-- R458 the MCTP endpoint ID that the bus owner assigned; DESIGN CHOICE 0 before, log entry 29. -/
  eid : Byte := 0
  deriving DecidableEq, Repr, Inhabited

/-- The JTAG instruction in force (R460). -/
inductive JtagIr where
  | bypass | idcode | samplePreload | extest | extestPulse | extestTrain | clamp | highz
  deriving DecidableEq, Repr, Inhabited

/-- Fused identity (R1, R441, R464): "Fused"; grade M8020 and serial 0 by DESIGN CHOICE, log entry 4. -/
structure Fused where
  m6416 : Bool := false
  serial : W64 := 0
  /-- R441 BAR2 SIZE_LOG2 of the board configuration. -/
  bar2Log2 : Nat := 34
  /-- R441 subsystem vendor ID and subsystem ID of the board configuration; 0, log entry 4. -/
  subVendor : BitVec 16 := 0
  subId : BitVec 16 := 0
  /-- R60, R65 factory spare maps and fault marks, by region; the identity and none, log entry 4. -/
  spareMaps : SMap (SMap Nat) := []
  siteBad : SMap (List Nat) := []
  /-- R304 asymmetry trims of the stations' delays, ps, by station; 0, log entry 4. -/
  delayTrim : SMap Int := []
  /-- R351, R352 factory tables and heater efficiencies of the rings, by ring; log entry 7. -/
  rings : SMap Ring := []
  deriving DecidableEq, Repr, Inhabited

/-! ## What leaves the module -/

/-- What the module has sent to the outside world, newest last. -/
inductive Out where
  /-- The value a register read returned. -/
  | regRead (w : Who) (addr : Nat) (v : W32)
  /-- A memory write, and a memory read, on a PCIe port (R447). -/
  | pcieWrite (port addr : Nat) (data : List Byte)
  | pcieRead (port addr len tag : Nat)
  /-- A BAR2 read's completion (R445): 0 success, 1 UR, 2 CA, 3 poisoned data. -/
  | bar2Done (port addr : Nat) (code : Nat) (data : List Byte)
  | msix (port vector : Nat) (m : MsixMsg)
  /-- An access of BAR0 completed with UR (R442). -/
  | regUr (w : Who) (addr : Nat)
  /-- An error that a port reports through AER, by its bit (R449): 18 is fatal, the others non-fatal. -/
  | aer (port bit : Nat)
  /-- A packet started on a hall port. -/
  | hallTx (port : Nat) (p : Packet)
  /-- A packet sent to a chiplet, with the chiplet-local address of a request (R224), and the time
  word (R392, R393). -/
  | chipletTx (site : Nat) (p : Packet) (localAddr : Nat)
  | chipletTime (site : Nat) (w : StnWord)
  /-- The module's address and an MCTP response (R458, R459), and an SPDM response with its interface (R462), each
  in packets: of at most 64 B on the side-band. -/
  | mctp (addr : BitVec 7) (packets : List (List Byte))
  | spdm (via : SpdmVia) (packets : List (List Byte))
  | doe (port vendor type next : Nat)
  /-- What the TAP shifts out under IDCODE (R460). -/
  | idcode (v : W32)
  /-- A STREAM item's data at a station's endpoint (R165). -/
  | stream (station number : Nat) (data : List Byte)
  /-- A message for the management firmware (R187 MGMT). -/
  | mgmt (p : Packet)
  deriving DecidableEq, Repr

/-- The module. -/
structure State where
  /-- The commands that wait, first in, first out. -/
  pending : List Instr := []
  fused : Fused := {}
  boot : Boot := {}
  board : Board := {}
  time : TimeDom := {}
  tiles : SMap Tile := []
  regions : SMap Region := []
  stations : SMap Station := []
  parts : SMap Partition := []
  fabric : Fabric := {}
  mem : Mem := {}
  bursts : List Burst := []
  rxs : List RxBurst := []
  /-- R177 TWL_TAB_SEL; reset 0. -/
  twlSel : W32 := 0
  /-- R283 COL_ENT_SEL; reset 0. -/
  colSel : W32 := 0
  power : Power := {}
  opt : Optics := {}
  links : Links := {}
  cfg : Config := {}
  ports : SMap Port := []
  /-- R465 HIF_LEASE_TIME in ms; reset 300. -/
  leaseMs : Nat := 300
  safe : Safe := {}
  evt : Peat := {}
  tst : Tst := {}
  sec : Sec := {}
  jtag : JtagIr := .idcode
  /-- R8 latched HI words and R9 staged LO words: key requester × 2^32 + address of LO. -/
  latch : SMap W32 := []
  stage : SMap W32 := []
  /-- The model's own: the areas that saves have written (R279). The manual gives no layout of a tile's 12,288 B of
  state, so a record's bytes are a free function of the state, and this list says which states they came from
  (log entry 6). -/
  saves : List SaveArea := []
  out : List Out := []
  /-- The model's own: how many free values have been used (log entry 2). -/
  free : Nat := 0
  deriving DecidableEq, Repr

/-- R426: the boot window of a port: HOST, PERM_R only, of 512 MiB at its BASE. -/
def bootWindow (port : Nat) (target : W64) : BitVec 256 :=
  BitVec.ofNat 256 ((2 ^ 63 + 2 ^ 60 + 2 * 2 ^ 58 + 29 * 2 ^ 52) + port * 0x20000000 * 2 ^ 64 +
    target.toNat * 2 ^ 128 + port * 2 ^ 192)

/-- The module right after module reset, at P0 with an M8020's fuses (R5, R424), with the boot windows
of R426 at station 26. -/
def State.reset : State :=
  { stations := [(26, { windows := [(0, bootWindow 0 0), (1, bootWindow 1 0)] })] }

end Sys2Proof.Machine
end

