-- ==== Sys2Proof/Config.lean ====
section
/-! DEFINITION. What the manual leaves open: constants without a body, so that nothing can be
proved about a particular value of one. A constant that varies from use to use is applied to the
counter `State.free` (log entry 2). -/

namespace Sys2Proof

/-- R166: the bytes a circuit target range holds after a failed item are undefined (log entry 2). -/
opaque Config.freeByte : Nat → Byte

/-- R279: the magic word of a save area's header, which the manual does not give (log entry 6). -/
opaque Config.savedMagic : W32

/-- R279: where in the 128 B header of a save area each byte of its fields stands; the manual gives no layout
(log entry 6). -/
opaque Config.headerLayout : Equiv.Perm (Fin 128)

/-- R279: the 12,288 bytes that hold the state of a tile's record, by the state and the byte's number; the manual
gives no layout (log entry 6). -/
opaque Config.savedByte : Machine.SavedTile → Nat → Byte

/-- R279: the state that the 12,288 B of state of a tile's record say that no save of this module wrote; the
manual gives no layout of them (log entry 6). -/
opaque Config.savedState : List Byte → Machine.SavedTile

/-- IEEE 754-2019 leaves open whether a fused multiply-add of 0 × ∞ with a NaN addend signals
invalid; R67 and R74 do not say (log entry 10). -/
opaque Config.fmaNanInvalid : Bool

/-- SHA3-256 (FIPS 202) of a byte list (log entry 11). -/
opaque Config.sha3 : List Byte → BitVec 256

/-- R488: the generator of drop and corrupt decisions: a natural number below 10^12 for the n-th
draw after a seed (log entry 12). -/
opaque Config.tstDraw : W32 → Nat → Nat

/-- The bit of a packet that a corrupting perturbation inverts (R488; log entry 12). -/
opaque Config.tstBit : W32 → Nat → Nat

/-- R121: the site that the rotation over a cluster's 16 sites has first before its region's first cycle;
R121 fixes no start (log entry 14). -/
opaque Config.tokenTurn : Nat

/-- R190: flits of a VC that the receiving buffer of a packet-plane link holds beyond one packet of the largest
size; the manual gives no number (log entry 76). -/
opaque Config.linkFlits : Nat → Nat

/-- R58: the tile and the byte of its SRAM that a firmware read reaches at an offset of a die's window that has no
register, by die, offset and the read's number; the manual gives no place (log entry 77). -/
opaque Config.sramAt : Nat → Nat → Nat → Nat × Nat

/-- R299, R301: the oscillator's corrected rate, in units of 2^-32 beyond 1, after a measurement: by mode, the
rate so far, the offset in units of 2^-16 ns and the estimates before it (log entry 67). -/
opaque Config.rateAfter (mode : Nat) (rate offset : Int) (estimates : Nat) : Int

/-- The value, as an FP32 code, with which a merge takes a candidate that is NaN; R45 states a
replacement for modes 0 and 1 only (log entry 15). -/
opaque Config.mergeNan : Nat → Nat

/-- R201, R202: the route hash of a packet, by the fields the rules name (log entry 16). -/
opaque Config.routeHash : Nat → Nat

/-- The FX64 exponent with which the DMA engine converts FP32 data for an entry of another module,
by the entry's coordinate; R90 and R261 do not say where the engine has it from (log entry 17). -/
opaque Config.foreignExp : W32 → Int

/-- The bus address of a port's flush read, by its number; R447 names none (log entry 19). -/
opaque Config.flushAddr : Nat → Nat

/-- R386: the redundant data lanes of an HBM3E channel; the manual gives no number (log entry 24). -/
opaque Config.redundantLanes : Nat → Nat

/-- R402: the SHA3-256 of the Tyonava firmware key, held in the boot ROM (log entry 25). -/
opaque Config.fwKeyHash : BitVec 256

/-- R402: whether ML-DSA-44 of FIPS 204 verifies: the key's bytes, the message (a SHA3-256) and the signature's bytes.
The algorithm is a standard's (log entry 11). -/
opaque Config.verifies : List Byte → BitVec 256 → List Byte → Bool

/-- R131, R155: the partial-drop coupling code of a receiver, by index, source and receivers; the manual
gives no coupling table (log entry 26). -/
opaque Config.coupling (k src mask d : Nat) : Nat

/-- The SHA3-256 digest of the boot ROM (R463), which the manual does not give (log entry 28). -/
opaque Config.romDigest : BitVec 256

/-- The certificates of slot 0 (R461), set at manufacture: the Tyonava root, the Tyonava Muivo intermediate, and the
device certificate of a subject serial number (log entry 28). -/
opaque Config.rootCert : List Byte
opaque Config.interCert : List Byte
opaque Config.deviceCert : W64 → List Byte

/-- R461, R462: the ML-DSA-44 signature of a message under the module's identity key, which nothing reads (log entry
29). -/
opaque Config.sign : List Byte → List Byte

/-- R441: Tyonava's PCI-SIG vendor identifier, which the manual does not give (log entry 28). -/
opaque Config.vendorId : BitVec 16

/-- R460: the level that a boundary cell captures from a PCIe lane or a time-connector input, by cell and capture: the
level on a line from outside is no state of the module (log entry 88). -/
opaque Config.lineLevel : Nat → Nat → Bool

/-- Tyonava's JEDEC manufacturer code (R460), 11 bits (log entry 28). -/
opaque Config.jedecCode : BitVec 11

end Sys2Proof
end

