-- ==== Sys2Proof/Machine/Ops.lean ====
section
/-! DEFINITION. The named operations over sparse tables, bytes, time, coordinates, the parts of the
state and the Peat recording points, which the meanings of the commands are written over. -/

namespace Sys2Proof

/-- R8, R421: requester numbers: ports 0 and 1, firmware 2 (either management core; the side-band
reads as firmware does, R459). -/
def Who.num : Who → Nat
  | .port0 => 0
  | .port1 => 1
  | .core0 => 2
  | .core1 => 2
  | .sideband => 2

/-- R8: latches and staged halves are kept for each port and each management core. -/
def Who.slot : Who → Nat
  | .port0 => 0
  | .port1 => 1
  | .core0 => 2
  | .core1 => 3
  | .sideband => 4

def Who.isFw : Who → Bool
  | .core0 | .core1 => true
  | _ => false

end Sys2Proof

namespace Sys2Proof.Machine

/-- What every command answers: a next state. -/
abbrev Res := Host.Outcome State Fault Refusal

/-! ## Sparse tables -/

/-- The entry of key `k`, `d` where none is listed. -/
def mget {α : Type} (d : α) : SMap α → Nat → α
  | [], _ => d
  | (k', v) :: m, k => if k' = k then v else mget d m k

/-- The table with the entry of `k` listed as `v`. -/
def minsert {α : Type} : SMap α → Nat → α → SMap α
  | [], k, v => [(k, v)]
  | (k', v') :: m, k, v =>
    if k < k' then (k, v) :: (k', v') :: m
    else if k = k' then (k, v) :: m
    else (k', v') :: minsert m k v

/-- The table without an entry of `k`. -/
def merase {α : Type} (m : SMap α) (k : Nat) : SMap α := m.filter (fun p => p.1 != k)

/-- The table with the entry of `k` set to `v`; a default entry is not listed. -/
def mset {α : Type} [DecidableEq α] (d : α) (m : SMap α) (k : Nat) (v : α) : SMap α :=
  if v = d then merase m k else minsert m k v

/-- Apply `f` to the entry of `k`. -/
def mupd {α : Type} [DecidableEq α] (d : α) (m : SMap α) (k : Nat) (f : α → α) : SMap α :=
  mset d m k (f (mget d m k))

/-- Apply `f` at each key of a list, in order. -/
def mupdAll {α : Type} [DecidableEq α] (d : α) (m : SMap α) (ks : List Nat) (f : Nat → α → α) :
    SMap α :=
  ks.foldl (fun m k => mupd d m k (f k)) m

/-- Keys strictly rise. -/
def msorted {α : Type} : SMap α → Bool
  | [] => true
  | [_] => true
  | (k, _) :: (k', v') :: m => decide (k < k') && msorted ((k', v') :: m)

/-- The canonical form of a table: keys rise and no entry is the default. -/
def mwf {α : Type} [DecidableEq α] (d : α) (m : SMap α) : Bool :=
  msorted m && m.all (fun p => p.2 != d)

/-! ## Bytes and numbers -/

/-- `n` bytes of a byte table from address `a`. -/
def readBytes (m : SMap Byte) (a n : Nat) : List Byte := (List.range n).map fun i => mget 0 m (a + i)

/-- The table with bytes written from address `a`, in ascending order. -/
def writeBytes : SMap Byte → Nat → List Byte → SMap Byte
  | m, _, [] => m
  | m, a, b :: bs => writeBytes (mset 0 m a b) (a + 1) bs

/-- The little-endian value of bytes. -/
def leNat : List Byte → Nat
  | [] => 0
  | b :: bs => b.toNat + 256 * leNat bs

/-- The `n` little-endian bytes of a value. -/
def leBytes : Nat → Nat → List Byte
  | 0, _ => []
  | n + 1, v => BitVec.ofNat 8 v :: leBytes n (v / 256)

/-- The big-endian value of bytes. -/
def beNat (bs : List Byte) : Nat := leNat bs.reverse

/-- Bits [hi:lo] of a value. -/
def bits (v hi lo : Nat) : Nat := v / 2 ^ lo % 2 ^ (hi + 1 - lo)

/-- One bit of a value. -/
def bit (v i : Nat) : Bool := v.testBit i

/-- A value placed at bit `lo`. -/
def at_ (lo v : Nat) : Nat := v * 2 ^ lo

def b2n (b : Bool) : Nat := if b then 1 else 0

/-- The two's-complement value of the low `w` bits. -/
def sext (w v : Nat) : Int :=
  let u := v % 2 ^ w
  if u < 2 ^ (w - 1) then (u : Int) else (u : Int) - 2 ^ w

/-- The low `w` bits of an integer. -/
def trunc (w : Nat) (i : Int) : Nat := (i % (2 ^ w : Int)).toNat

/-- A value held within ± m. -/
def clampAbs (m v : Int) : Int := if m < v then m else if v < -m then -m else v

/-- Saturating count. -/
def satInc (max n : Nat) : Nat := if n < max then n + 1 else max

def satAdd (max n k : Nat) : Nat := Nat.min max (n + k)

def ceilDiv (a b : Nat) : Nat := (a + b - 1) / b

/-- R4: a is older than b. -/
def older (a b : W32) : Bool :=
  let d := (b - a).toNat
  decide (1 ≤ d ∧ d ≤ 2147483647)

/-- Split a list into pieces of `n` (the last one may be shorter). -/
def chunksAux {α : Type} (n : Nat) : Nat → List α → List (List α)
  | 0, _ => []
  | _, [] => []
  | fuel + 1, l => l.take n :: chunksAux n fuel (l.drop n)

def chunks {α : Type} (n : Nat) (l : List α) : List (List α) := chunksAux n l.length l

/-- Update the `i`-th element of a list. -/
def updAt {α : Type} : List α → Nat → (α → α) → List α
  | [], _, _ => []
  | a :: l, 0, f => f a :: l
  | a :: l, n + 1, f => a :: updAt l n f

/-- The i-th element, a default past the end. -/
def nth {α : Type} (d : α) (l : List α) (i : Nat) : α := l.getD i d

/-- A list with an element added once. -/
def addOnce {α : Type} [DecidableEq α] (a : α) (l : List α) : List α :=
  if a ∈ l then l else l ++ [a]

/-- A sorted list of naturals with an element added once. -/
def addSorted (a : Nat) : List Nat → List Nat
  | [] => [a]
  | b :: l => if a < b then a :: b :: l else if a = b then b :: l else b :: addSorted a l

/-! ## Status codes (R11, R12) -/

namespace St
def done : Byte := 0x00
def replayed : Byte := 0x01
def timeout : Byte := 0x10
def destFenced : Byte := 0x11
def noEndpoint : Byte := 0x12
def notPermitted : Byte := 0x13
def translationMiss : Byte := 0x14
def outcomeUnknown : Byte := 0x15
def poisoned : Byte := 0x16
def linkLost : Byte := 0x17
def partialCollective : Byte := 0x18
def overflow : Byte := 0x19
def quiesced : Byte := 0x1A
def safeState : Byte := 0x1B
def timeLost : Byte := 0x1C
def internal : Byte := 0x1F
end St

/-- R11 lists the value. -/
def statusListed (b : Byte) : Bool :=
  b.toNat ≤ 1 || (16 ≤ b.toNat && b.toNat ≤ 28) || b.toNat == 31

/-- R12: a received status not listed is INTERNAL. -/
def statusIn (b : Byte) : Byte := if statusListed b then b else St.internal

/-- R12: 0x00 and 0x01 are the only successes. -/
def statusOk (b : Byte) : Bool := b.toNat ≤ 1

/-! ## Keys and coordinates -/

def tileKey (station region slot : Nat) : Nat := station * 4096 + region * 256 + slot
def tileStation (t : Nat) : Nat := t / 4096
def tileRegion (t : Nat) : Nat := t / 256
def tileSlot (t : Nat) : Nat := t % 256
def regionStation (r : Nat) : Nat := r / 16

/-- The slots of a region in order. -/
def regionTiles (r : Nat) : List Nat := (List.range 256).map (r * 256 + ·)

/-- The region keys of a die. -/
def dieRegions (d : Nat) : List Nat := (List.range 16).map (d * 16 + ·)

/-- R180, "Coordinates": EP_KIND and the low fields with a module number. -/
def coord (kind module station low : Nat) : W32 :=
  BitVec.ofNat 32 (kind * 2 ^ 29 + module % 4096 * 2 ^ 17 + station % 32 * 2 ^ 12 + low % 4096)

def cKind (c : W32) : Nat := c.toNat / 2 ^ 29
def cModule (c : W32) : Nat := bits c.toNat 28 17
def cStation (c : W32) : Nat := bits c.toNat 16 12
def cLow (c : W32) : Nat := bits c.toNat 11 0

/-- R9, R226: the tile that a coordinate names. -/
def destTile (c : W32) : Nat := cStation c * 4096 + cLow c

/-- The partner of a region (R378). -/
def partner (r : Nat) : Nat := r / 2 * 2 + (1 - r % 2)

/-! ## The parts of the state -/

def State.tile (s : State) (t : Nat) : Tile := mget {} s.tiles t
def State.setTile (s : State) (t : Nat) (x : Tile) : State := { s with tiles := mset {} s.tiles t x }
def State.updTile (s : State) (t : Nat) (f : Tile → Tile) : State := s.setTile t (f (s.tile t))

def State.rgn (s : State) (r : Nat) : Region := mget {} s.regions r
def State.setRgn (s : State) (r : Nat) (x : Region) : State :=
  { s with regions := mset {} s.regions r x }
def State.updRgn (s : State) (r : Nat) (f : Region → Region) : State := s.setRgn r (f (s.rgn r))

def State.stn (s : State) (n : Nat) : Station := mget {} s.stations n
def State.setStn (s : State) (n : Nat) (x : Station) : State :=
  { s with stations := mset {} s.stations n x }
def State.updStn (s : State) (n : Nat) (f : Station → Station) : State := s.setStn n (f (s.stn n))

def State.part (s : State) (p : Nat) : Partition := mget {} s.parts p
def State.setPart (s : State) (p : Nat) (x : Partition) : State := { s with parts := mset {} s.parts p x }
def State.updPart (s : State) (p : Nat) (f : Partition → Partition) : State :=
  s.setPart p (f (s.part p))

def State.port (s : State) (p : Nat) : Port := mget {} s.ports p
def State.setPort (s : State) (p : Nat) (x : Port) : State := { s with ports := mset {} s.ports p x }
def State.updPort (s : State) (p : Nat) (f : Port → Port) : State := s.setPort p (f (s.port p))

def State.hall (s : State) (p : Nat) : HallPort := mget {} s.fabric.ports p
def State.setHall (s : State) (p : Nat) (x : HallPort) : State :=
  { s with fabric := { s.fabric with ports := mset {} s.fabric.ports p x } }

def State.site (s : State) (n : Nat) : Site := mget {} s.links.sites n
def State.setSite (s : State) (n : Nat) (x : Site) : State :=
  { s with links := { s.links with sites := mset {} s.links.sites n x } }

def State.stack (s : State) (n : Nat) : Stack := mget {} s.links.hbmStacks n
def State.setStack (s : State) (n : Nat) (x : Stack) : State :=
  { s with links := { s.links with hbmStacks := mset {} s.links.hbmStacks n x } }

def State.die (s : State) (d : Nat) : Die := mget {} s.power.dies d
def State.setDie (s : State) (d : Nat) (x : Die) : State :=
  { s with power := { s.power with dies := mset {} s.power.dies d x } }

def State.chan (s : State) (c : Nat) : Channel := mget {} s.mem.channels c
def State.setChan (s : State) (c : Nat) (x : Channel) : State :=
  { s with mem := { s.mem with channels := mset {} s.mem.channels c x } }

def State.reqr (s : State) (r : Nat) : Requester := mget {} s.cfg.reqs r
def State.setReqr (s : State) (r : Nat) (x : Requester) : State :=
  { s with cfg := { s.cfg with reqs := mset {} s.cfg.reqs r x } }

/-- R372: after reset lasers 0-31 are ACTIVE with INDEX = L and 32-39 COLD. -/
def laserDefault (l : Nat) : Laser := if l < 32 then { st := .active, index := l } else {}

def State.laser (s : State) (l : Nat) : Laser := mget (laserDefault l) s.opt.lasers l
def State.setLaser (s : State) (l : Nat) (x : Laser) : State :=
  { s with opt := { s.opt with lasers := mset (laserDefault l) s.opt.lasers l x } }

def State.ring (s : State) (k : Nat) : Ring := mget {} s.opt.rings k
def State.setRing (s : State) (k : Nat) (x : Ring) : State :=
  { s with opt := { s.opt with rings := mset {} s.opt.rings k x } }

def State.emit (s : State) (o : Out) : State := { s with out := s.out ++ [o] }

/-- R449: a port reports an error through AER, at its bit (log entry 88). -/
def State.aer (s : State) (n k : Nat) : State :=
  (s.setPort n { s.port n with aer := (s.port n).aer ||| BitVec.ofNat 32 (2 ^ k) }).emit (.aer n k)

def Aer.poisoned : Nat := 12
def Aer.completerAbort : Nat := 15
def Aer.malformed : Nat := 18
def Aer.unsupported : Nat := 20

/-- The port of a requester. -/
def Who.port : Who → Option Nat
  | .port0 => some 0
  | .port1 => some 1
  | _ => none

/-- R449: the error of an access by a port. -/
def State.aerOf (s : State) (w : Who) (k : Nat) : State :=
  match Who.port w with
  | some n => s.aer n k
  | none => s

/-- R440, R465: a port sends the message of a vector, while its MSI-X is enabled. -/
def State.sendMsix (s : State) (n v : Nat) : State :=
  if (s.port n).msixEn then s.emit (.msix n v (mget {} (s.port n).msixTable v)) else s

/-- Compute stations populated (R1, R2). -/
def State.dies (s : State) : Nat := if s.fused.m6416 then 16 else 20

def allParts : List Nat := List.range 64
def dataStations : List Nat := List.range 31

/-! ## Time -/

/-- R286: HT now, in whole ns. -/
def State.ht (s : State) : Nat := s.time.ht

/-- The low 32 bits of HT. -/
def ht32 (n : Nat) : W32 := BitVec.ofNat 32 n

/-- HT in units of 2^-16 ns. -/
def TimeDom.units (t : TimeDom) : Int := (t.ht : Int) * 65536 + t.frac.toNat

/-- R303, R488: a station's copy of HT, in units of 2^-16 ns: the offset of TST_STNs_HT, in 10 ps, is added. -/
def State.stnUnits (s : State) (n : Nat) : Int :=
  s.time.units + (s.stn n).dev + sext 16 (s.stn n).tstHt.toNat * 65536 / 100

/-- R303: a station's copy of HT for stamping, waits and releases, in whole ns. -/
def State.stnHt (s : State) (n : Nat) : Nat :=
  (s.stnUnits n / 65536).toNat % 2 ^ 64

/-- R149: frames of 64,000 ns from HT 0. -/
def frameOf (ht : Nat) : Nat := ht / 64000
def framePos (ht : Nat) : Nat := ht % 64000
def nextFrame (ht : Nat) : Nat := (ht / 64000 + 1) * 64000

/-- R143: the maintenance interval of a frame: the last 1,000 ns. -/
def inMaint (ht : Nat) : Bool := decide (63000 ≤ framePos ht)

/-- R425: a change made effective at the next maintenance interval may act now; in FREE at once. -/
def State.inInterval (s : State) : Bool := s.time.st == .free || inMaint s.ht

/-- R425: the present maintenance interval is one that began after an instant; in FREE a change acts at once. -/
def State.nextInterval (s : State) (t : Nat) : Bool :=
  s.time.st == .free || (inMaint s.ht && decide (t < s.ht / 64000 * 64000 + 63000))

/-- The HT at which the maintenance interval of a frame begins (R143). -/
def intervalStart (ht : Nat) : Nat := ht / 64000 * 64000 + 63000

/-- R358: laser switchovers and ring substitutions take place at 63,050 of an interval, within 10 ns (R366). -/
def State.swapTime (s : State) : Bool :=
  s.time.st == .free || (decide (63050 ≤ framePos s.ht) && decide (framePos s.ht ≤ 63060))

/-- R371: RECAL_EN as the present interval has it: a write inside an interval is for the next one. -/
def State.recalNow (s : State) : Bool :=
  if s.opt.recalHt < intervalStart s.ht then s.opt.recalEn else s.opt.recalWas

/-- R385: a channel of module memory is in its retrain. -/
def State.retraining (s : State) (c : Nat) : Bool :=
  let now := if s.links.retrainFrame = some (frameOf s.ht) then (s.links.retrainNext + 191) % 192
    else s.links.retrainNext
  s.time.st != .free && decide (63100 ≤ framePos s.ht) && decide (framePos s.ht < 63700) && c == now

/-- R417: the interval of the hand-off between the management cores: management requests are held. -/
def State.handOff (s : State) : Bool :=
  s.cfg.fw == .takeover && s.cfg.paused && s.time.st != .free && s.nextInterval s.cfg.fwReadyHt

/-- R417: a management request that arrives during the hand-off is held. -/
def State.holdReq (s : State) (q : MgmtReq) : State :=
  { s with cfg := { s.cfg with heldReqs := s.cfg.heldReqs ++ [q] } }

/-- Job time of a partition at an HT: HT minus COL_PART_JOFF (R285). -/
def jobTime (p : Partition) (ht : Nat) : W64 := BitVec.ofNat 64 ht - p.joff

/-! ## Peat recording points (R475 to R478) -/

/-- Recording point 20 is that of the I/O die; 0-19 are the compute dies. -/
def ioPoint : Nat := 20

/-- R475 HT: the module's own count before time exists. -/
def State.evtHt (s : State) : Nat := if s.time.firstAcq.isSome then s.time.ht else s.boot.osc

/-- R475 FLAGS. -/
def State.evtFlags (s : State) (p : Option Nat) : Nat :=
  b2n s.time.uncertain + 2 * b2n p.isSome + 4 * b2n s.time.firstAcq.isNone

/-- R476, R478: a record reaches its point: a die stages up to 2,048, and loses the rest. -/
def Peat.arrive (e : Peat) (point : Nat) (r : PeatRec) : Peat :=
  if point < 20 then
    if (mget [] e.stages point).length < 2048 then
      { e with stages := mupd [] e.stages point (· ++ [r]) }
    else
      { e with
        stageLost := mupd 0 e.stageLost point (· + 1)
        lostDie := satInc 65535 e.lostDie }
  else { e with offered := e.offered ++ [r] }

/-- R477: a record arises at a point: it is suppressed beyond RATE in the window, block 0xE never. -/
def Peat.arise (e : Peat) (point : Nat) (r : PeatRec) : Peat :=
  let k := point * 65536 + r.code
  if r.code / 4096 = 14 then e.arrive point r
  else if mget 0 e.counts k < e.rate then
    { e with counts := mupd 0 e.counts k (· + 1) }.arrive point r
  else
    { e with
      supp := mupd 0 e.supp k (· + 1)
      suppressed := (e.suppressed + 1) % 2 ^ 32 }

/-- DATA is 8 bytes, 0 where not named (R485). -/
def pad8 (d : List Byte) : List Byte := (d ++ List.replicate 8 0).take 8

/-- Write a Peat record at a recording point. -/
def State.record (s : State) (point code : Nat) (p : Option Nat) (src : W32) (data : List Byte) :
    State :=
  { s with
    evt := s.evt.arise point
      { ht := s.evtHt, code := code, flags := s.evtFlags p, partition := p.getD 0, source := src,
        data := pad8 data } }

/-- The station coordinate (EP_KIND 3) of a station of this module. -/
def State.stnCoord (s : State) (n : Nat) : W32 := coord 3 s.cfg.module n 0

/-- A record of the I/O die's recording point whose source is a station. -/
def State.recStn (s : State) (code : Nat) (p : Option Nat) (n : Nat) (data : List Byte) : State :=
  s.record ioPoint code p (s.stnCoord n) data

/-- A record of a compute die about a region or the die itself. -/
def State.recDie (s : State) (code : Nat) (p : Option Nat) (die : Nat) (data : List Byte) : State :=
  s.record (if die < 20 then die else ioPoint) code p (s.stnCoord die) data

/-! ## Tiles -/

/-- The logical coordinate of a tile (R10). -/
def State.tileCoord (s : State) (t : Nat) : W32 :=
  coord 0 s.cfg.module (tileStation t) (t % 4096)

/-- A record of the tile's die about a tile. -/
def State.recTile (s : State) (code : Nat) (t : Nat) (data : List Byte) : State :=
  s.record (tileStation t) code (if (s.tile t).enabled then some (s.tile t).partition else none)
    (s.tileCoord t) data

/-- R308: the clock of a stepping region is stopped: its registers, its SRAM, its routers and its DMA engines
stand until the restart. -/
def Region.stands (r : Region) : Bool := r.stopped && r.stepTo.isSome

/-- R60: the physical site of a slot: the spare map for slots 0-249, the spares in ascending order
for slots 250-255. -/
def Region.usedSites (r : Region) : List Nat :=
  (List.range 250).map fun l => mget l r.spareMap l

def Region.spares (r : Region) : List Nat :=
  (List.range 256).filter fun s => ¬ (s ∈ r.usedSites)

def Region.siteOf (r : Region) (slot : Nat) : Nat :=
  if slot < 250 then mget slot r.spareMap slot else nth 255 r.spares (slot - 250)

/-- The key of a tile's physical cluster in its region, 0-15 (R60: tokens and router-level
reduction act on physical clusters). -/
def State.physCluster (s : State) (t : Nat) : Nat := (s.rgn (tileRegion t)).siteOf (tileSlot t) / 16

/-- Scalar register read: s0 is zero (R22). -/
def Tile.rs (x : Tile) (r : Nat) : W64 := if r = 0 then 0 else mget 0 x.s r

/-- Scalar register write: a write to s0 is discarded (R22). -/
def Tile.ws (x : Tile) (r : Nat) (v : W64) : Tile :=
  if r = 0 then x else { x with s := mset 0 x.s r v }

def Tile.rv (x : Tile) (r : Nat) : VReg := mget 0 x.v r
def Tile.wv (x : Tile) (r : Nat) (v : VReg) : Tile := { x with v := mset 0 x.v r v }

def Tile.rm (x : Tile) (r : Nat) : Acc := mget {} x.m r
def Tile.wm (x : Tile) (r : Nat) (a : Acc) : Tile := { x with m := mset {} x.m r a }

def Tile.rc (x : Tile) (r : Nat) : W32 := mget 0 x.c r
def Tile.wc (x : Tile) (r : Nat) (v : W32) : Tile := { x with c := mset 0 x.c r v }

/-- Set sticky flags (R34). -/
def Tile.orFlags (x : Tile) (f : W32) : Tile := { x with flags := x.flags ||| f }

/-- R64: flag positions. -/
def fINVALID : W32 := 1
def fOVERFLOW : W32 := 2
def fSATURATION : W32 := 4
def fUNDERFLOW : W32 := 8
def fECC_CORR : W32 := 128
def fECC_UNCORR : W32 := 256
def fIBUF_PAR : W32 := 512

def sramBytes : Nat := 262144

/-- The protected word `w` of `size` bytes has a byte among the `n` at `a`. -/
def touches (size a n w : Nat) : Bool := decide (0 < n) && (decide (a < w * size + size) && decide (w * size < a + n))

/-- The protected word `w` of `size` bytes lies wholly among the `n` at `a`. -/
def covers (size a n w : Nat) : Bool := decide (a ≤ w * size) && decide (w * size + size ≤ a + n)

/-- The first ECC word of a range with an uncorrectable error. -/
def Tile.badWord (x : Tile) (a n : Nat) : Option Nat := (x.poison.filter (touches 8 a n)).min?

/-- The first poisoned word that a write of the range covers only in part (R31, R32). -/
def Tile.badPartial (x : Tile) (a n : Nat) : Option Nat :=
  (x.poison.filter fun w => touches 8 a n w && !covers 8 a n w).min?

/-- R32: a double-bit error is counted, flagged, and its first address held. -/
def Tile.noteUncorr (x : Tile) (w : Nat) : Tile :=
  { x with
    uncorrCnt := satInc 255 x.uncorrCnt
    flags := x.flags ||| fECC_UNCORR
    eccAddr := some (x.eccAddr.getD w) }

/-- R32: single-bit errors in the words read are counted and flagged. -/
def Tile.noteSoft (x : Tile) (q : Nat → Bool) : Tile :=
  let k := (x.soft.filter q).length
  if k = 0 then x
  else { x with corrCnt := satAdd 65535 x.corrCnt k, flags := x.flags ||| fECC_CORR }

/-- R32: a read of a range. -/
def Tile.noteCorr (x : Tile) (a n : Nat) : Tile := x.noteSoft (touches 8 a n)

/-- R31, R32: a write of a range reads the words that it covers only in part. -/
def Tile.notePart (x : Tile) (a n : Nat) : Tile := x.noteSoft fun w => touches 8 a n w && !covers 8 a n w

/-- Write bytes to SRAM: a word covered in part is read first, and every word gets new check bits (R31, R32). -/
def Tile.wmem (x : Tile) (a : Nat) (bs : List Byte) : Tile :=
  { x.notePart a bs.length with
    sram := writeBytes x.sram a bs
    poison := x.poison.filter fun w => !covers 8 a bs.length w
    soft := x.soft.filter fun w => !touches 8 a bs.length w }

/-- Bytes of SRAM. -/
def Tile.rmem (x : Tile) (a n : Nat) : List Byte := readBytes x.sram a n

/-- What a sequencer-side access or instruction does to its tile: the tile after it, the fault it
ends in (R25), and the word of an uncorrectable error it met (R32). -/
structure TEff where
  tile : Tile := {}
  fault : Cause := .none
  unc : Option Nat := none
  deriving DecidableEq, Repr

/-- A fault leaves the tile as it was (R25). -/
def TEff.bad (x : Tile) (c : Cause) : TEff := { tile := x, fault := c }

/-- R32: an uncorrectable word met by the sequencer, vector or matrix unit. -/
def TEff.uncorr (x : Tile) (w : Nat) : TEff :=
  { tile := x.noteUncorr w, fault := .sramUncorr, unc := some w }

/-- R28, R32, R103: an aligned read of `n` bytes, then `k` on the bytes. An access that is both misaligned and
past byte 262,143 is MISALIGNED: the manual gives the two causes no order (DESIGN CHOICE, log entry 75). -/
def Tile.load (x : Tile) (a n align : Nat) (k : Tile → List Byte → Tile) : TEff :=
  if a % align ≠ 0 then TEff.bad x .misaligned
  else if sramBytes < a + n then TEff.bad x .range
  else match x.badWord a n with
    | some w => TEff.uncorr x w
    | none => { tile := k (x.noteCorr a n) (x.rmem a n) }

/-- R28, R31, R32: an aligned write. -/
def Tile.store (x : Tile) (a align : Nat) (bs : List Byte) : TEff :=
  if a % align ≠ 0 then TEff.bad x .misaligned
  else if sramBytes < a + bs.length then TEff.bad x .range
  else match x.badPartial a bs.length with
    | some w => TEff.uncorr x w
    | none => { tile := x.wmem a bs }

/-! ## Descriptors (R35, R40) -/

def Desc.counter (d : Desc) : Nat := bits d.w0.toNat 23 20
def Desc.kind (d : Desc) : Nat := bits d.w0.toNat 19 16
def Desc.op (d : Desc) : Nat := bits d.w0.toNat 31 24
def Desc.timed (d : Desc) : Bool := bit d.w0.toNat 15
def Desc.notify (d : Desc) : Bool := bit d.w0.toNat 14
def Desc.vc (d : Desc) : Nat := bits d.w0.toNat 13 12
def Desc.pri (d : Desc) : Bool := bit d.w0.toNat 11
def Desc.resend (d : Desc) : Bool := bit d.w0.toNat 10
def Desc.releaseHt (d : Desc) : W32 := BitVec.ofNat 32 (bits d.w0.toNat 63 32)
def Desc.dst (d : Desc) : W32 := BitVec.ofNat 32 (bits d.w1.toNat 63 32)
def Desc.local_ (d : Desc) : Nat := bits d.w1.toNat 17 0
def Desc.remote (d : Desc) : Nat := d.w2.toNat
def Desc.len (d : Desc) : Nat := bits d.w3.toNat 19 0

/-- The descriptor has had no packet injected and moved no line (R57: not yet injected). -/
def Desc.unsent (d : Desc) : Bool :=
  match d.stage with
  | .held _ | .waitEntry _ => true
  | .ready _ => d.sentPkts == 0 && !d.retry
  | .copying n => n == 0
  | _ => false

/-- The descriptor ends with a status, to be counted by DESC_COMPLETE (R40). -/
def Tile.endDesc (x : Tile) (id : Nat) (st : Byte) : Tile :=
  { x with
    descs := x.descs.map fun d =>
      if d.id = id then
        match d.stage with
        | .ended _ => d
        | _ => { d with stage := .ended st }
      else d }

/-- R40: STATUS and DONE into word 3, the counter, CNT_FAIL and FAIL_CNT; the descriptor is gone
and its agent entry free (R39). -/
def Tile.complete (x : Tile) (d : Desc) (st : Byte) : Tile :=
  let w3 := d.w3.toNat % 2 ^ 55 + 2 ^ 55 + st.toNat * 2 ^ 56
  let x := x.wmem (d.addr + 24) (leBytes 8 w3)
  let c := d.counter
  let x := { x with
    c := mupd 0 x.c c (· + 1)
    descs := x.descs.filter (fun e => e.id != d.id) }
  if statusOk st then x
  else { x with
    flags := x.flags ||| BitVec.ofNat 32 (2 ^ (16 + c))
    failCnt := satInc 65535 x.failCnt }

/-- Complete every descriptor that satisfies `q` with a status. -/
def Tile.completeAll (x : Tile) (q : Desc → Bool) (st : Byte) : Tile :=
  (x.descs.filter q).foldl (fun x d => x.complete d st) x

/-- R57, FENCING_START: the sequencer stops and every descriptor not yet injected completes with
QUIESCED. -/
def Tile.startFencing (x : Tile) (st : TileSt) : Tile :=
  { x.completeAll Desc.unsent St.quiesced with st := st, draining := true, wait := none }

/-- R25, R57: the tile stops with a cause. -/
def Tile.faulted (x : Tile) (c : Cause) : Tile :=
  { x with cause := c }.startFencing .faulted

def State.tileFault (s : State) (t : Nat) (c : Cause) : State := s.updTile t (·.faulted c)

/-- Put an instruction's effect into the state: the tile, the record of an uncorrectable error
(R32), and the fault. -/
def State.putEff (s : State) (t : Nat) (e : TEff) : State :=
  let s := s.setTile t e.tile
  let s := match e.unc with
    | none => s
    | some w => s.recTile 0x6001 t (leBytes 4 (w * 8))
  if e.fault = .none then s else s.tileFault t e.fault

/-! ## Partitions -/

/-- CFG_PARTp_STATE.STATE is other than EMPTY. -/
def Partition.isLoaded (p : Partition) : Bool := p.st != .empty

/-- R280, R281: the partition stands still for a save, a pause or a restore. -/
def Partition.ckStands (p : Partition) : Bool :=
  p.ck == .saving || p.ck == .paused || p.ck == .restoring && !p.ckUnread || p.ck == .failed || p.ckHeld

/-- R280, R408: no tile of the partition issues: a checkpoint, or a hold. -/
def Partition.standing (p : Partition) : Bool := p.ckStands || p.holdFrom.isSome

/-- The loaded partitions (R471 counts those in the safe state as loaded too). -/
def State.loadedParts (s : State) : List Nat := allParts.filter fun p => (s.part p).isLoaded

/-- The loaded partition whose job is `j`. -/
def State.partOfJob (s : State) (j : Nat) : Option Nat :=
  allParts.find? fun p => (s.part p).isLoaded && (s.part p).job == j

/-! ## Start-up steps (R424, R434) -/

/-- R432: with TIME and IMAGE complete the instant E is fixed. -/
def Boot.fixE (b : Boot) (ht : Nat) : Boot :=
  if bit b.steps.toNat 4 && bit b.steps.toNat 6 && b.e.isNone then { b with e := some (ceilDiv ht 1000 * 1000) } else b

/-- R424, R434: a step of start-up is complete; with the last of the nine the module is READY. -/
def State.stepDone (s : State) (n : Nat) : State :=
  let b := { s.boot with steps := s.boot.steps ||| BitVec.ofNat 9 (2 ^ n) }.fixE s.ht
  if b.steps = 0x1FF ∧ b.ready = false ∧ b.mode ≠ .failed then
    State.recStn { s with boot := { b with ready := true, mode := .up, readyHt := s.ht } } 0x9004 none 26 []
  else { s with boot := b }

/-- The step has its bit set. -/
def State.stepIs (s : State) (n : Nat) : Bool := bit s.boot.steps.toNat n

end Sys2Proof.Machine
end

