-- ==== Sys2Proof/Machine/Packet.lean ====
section
/-! DEFINITION. The Aellos packet: its fields (R182, R183), its CRC-32C, its kinds (R187, R188),
the arbitration key (R193), and the packets in flight in the fabric. -/

namespace Sys2Proof

open Machine

/-! ## Fields (R182, R183) -/

def Packet.kind (p : Packet) : Nat := bits p.w0.toNat 5 0
def Packet.vc (p : Packet) : Nat := bits p.w0.toNat 7 6
def Packet.pri (p : Packet) : Bool := bit p.w0.toNat 8
def Packet.last (p : Packet) : Bool := bit p.w0.toNat 9
def Packet.red (p : Packet) : Bool := bit p.w0.toNat 10
def Packet.retry (p : Packet) : Bool := bit p.w0.toNat 11
def Packet.timed (p : Packet) : Bool := bit p.w0.toNat 12
def Packet.len (p : Packet) : Nat := bits p.w0.toNat 22 16
def Packet.job (p : Packet) : Nat := bits p.w0.toNat 35 24
def Packet.txid (p : Packet) : BitVec 24 := BitVec.ofNat 24 (bits p.w0.toNat 59 36)
def Packet.dst (p : Packet) : W32 := BitVec.ofNat 32 (bits p.w1.toNat 63 32)
def Packet.src (p : Packet) : W32 := BitVec.ofNat 32 (bits p.w1.toNat 31 0)
def Packet.addr (p : Packet) : Nat := p.w2.toNat
/-- R221: VA and LSIZE. -/
def Packet.va (p : Packet) : Nat := bits p.w2.toNat 55 0
def Packet.lsize (p : Packet) : Nat := bits p.w2.toNat 63 56
def Packet.issueHt (p : Packet) : W32 := BitVec.ofNat 32 (bits p.w3.toNat 63 32)
def Packet.op (p : Packet) : Byte := BitVec.ofNat 8 (bits p.w3.toNat 31 24)
def Packet.msgCount (p : Packet) : Nat := bits p.w3.toNat 23 12
def Packet.msgSeq (p : Packet) : Nat := bits p.w3.toNat 11 0
def Packet.status (p : Packet) : Byte := BitVec.ofNat 8 (bits p.tail.toNat 39 32)
def Packet.crc (p : Packet) : Nat := bits p.tail.toNat 31 0

/-- Bytes on a packet-plane link: header, payload and tail. -/
def Packet.bytes (p : Packet) : Nat := 40 + p.payload.length

/-- Flits of 64 B (R50). -/
def Packet.flits (p : Packet) : Nat := ceilDiv p.bytes 64

/-- R183: the 32 header bytes and the payload. -/
def Packet.crcBytes (p : Packet) : List Byte :=
  leBytes 8 p.w0.toNat ++ leBytes 8 p.w1.toNat ++ leBytes 8 p.w2.toNat ++ leBytes 8 p.w3.toNat ++
    p.payload

/-- The bytes of a packet on a link. -/
def Packet.wire (p : Packet) : List Byte := p.crcBytes ++ leBytes 8 p.tail.toNat

end Sys2Proof

namespace Sys2Proof.Machine

/-! ## CRC-32C (R183) -/

/-- One bit of the reflected CRC with polynomial 0x1EDC_6F41. -/
def crcBit (c : Nat) : Nat := if c % 2 = 1 then (c / 2) ^^^ 0x82F63B78 else c / 2

def crcByte (c : Nat) (b : Byte) : Nat :=
  let x := c ^^^ b.toNat
  crcBit (crcBit (crcBit (crcBit (crcBit (crcBit (crcBit (crcBit x)))))))

/-- CRC-32C with initial value and final XOR 0xFFFF_FFFF. -/
def crc32c (bs : List Byte) : Nat := bs.foldl crcByte 0xFFFFFFFF ^^^ 0xFFFFFFFF

/-- The fields of a packet that its builder gives. -/
structure PktFields where
  kind : Nat := 0
  vc : Nat := 0
  pri : Bool := false
  last : Bool := false
  red : Bool := false
  retry : Bool := false
  timed : Bool := false
  job : Nat := 0
  txid : BitVec 24 := 0
  dst : W32 := 0
  src : W32 := 0
  addr : Nat := 0
  issue : W32 := 0
  op : Nat := 0
  count : Nat := 1
  seq : Nat := 0
  status : Nat := 0
  payload : List Byte := []
  deriving DecidableEq, Repr, Inhabited

/-- The packet with its CRC recomputed (R180, R183). -/
def sealPkt (p : Packet) : Packet :=
  { p with tail := BitVec.ofNat 64 (p.status.toNat * 2 ^ 32 + crc32c p.crcBytes) }

/-- Build a packet. -/
def mkPkt (f : PktFields) : Packet :=
  sealPkt {
    w0 := BitVec.ofNat 64 (f.kind + f.vc * 2 ^ 6 + b2n f.pri * 2 ^ 8 + b2n f.last * 2 ^ 9 +
      b2n f.red * 2 ^ 10 + b2n f.retry * 2 ^ 11 + b2n f.timed * 2 ^ 12 +
      f.payload.length / 4 * 2 ^ 16 + f.job * 2 ^ 24 + f.txid.toNat * 2 ^ 36)
    w1 := BitVec.ofNat 64 (f.dst.toNat * 2 ^ 32 + f.src.toNat)
    w2 := BitVec.ofNat 64 f.addr
    w3 := BitVec.ofNat 64 (f.issue.toNat * 2 ^ 32 + f.op * 2 ^ 24 + f.count * 2 ^ 12 + f.seq)
    payload := f.payload
    tail := BitVec.ofNat 64 (f.status * 2 ^ 32) }

/-- Overwrite ISSUE_HT (R184) and recompute the CRC. -/
def setIssue (p : Packet) (h : W32) : Packet :=
  sealPkt { p with w3 := BitVec.ofNat 64 (p.w3.toNat % 2 ^ 32 + h.toNat * 2 ^ 32) }

/-- An END as a station gets it that expects no COLL_DATA (R269). -/
def noChunks (p : Packet) : Packet := sealPkt { p with payload := p.payload.take 2 ++ leBytes 2 0 ++ p.payload.drop 4 }

/-- R208: the CRC of a packet as received is right. -/
def crcOk (p : Packet) : Bool := p.crc == crc32c p.crcBytes

/-- A packet with a bit inverted on its way: bits of the header, of the payload, of the tail. -/
def flipAt (p : Packet) (i : Nat) : Packet :=
  let m : W64 := BitVec.ofNat 64 (2 ^ (i % 64))
  if i < 64 then { p with w0 := p.w0 ^^^ m }
  else if i < 128 then { p with w1 := p.w1 ^^^ m }
  else if i < 192 then { p with w2 := p.w2 ^^^ m }
  else if i < 256 then { p with w3 := p.w3 ^^^ m }
  else if i < 256 + 8 * p.payload.length then
    { p with payload := updAt p.payload ((i - 256) / 8) fun b => b ^^^ BitVec.ofNat 8 (2 ^ (i % 8)) }
  else { p with tail := p.tail ^^^ BitVec.ofNat 64 (2 ^ ((i - 256 - 8 * p.payload.length) % 64)) }

/-- R208: a packet as a link that inverts the bits named delivers it. -/
def damaged (p : Packet) (errs : List Nat) : Packet := errs.foldl flipAt p

/-! ## Packets on a stream of bytes (R212, R389) -/

/-- The packet that wire bytes spell. -/
def packetOf (bs : List Byte) : Packet :=
  let w := fun i => BitVec.ofNat 64 (leNat ((bs.drop (8 * i)).take 8))
  { w0 := w 0, w1 := w 1, w2 := w 2, w3 := w 3, payload := (bs.drop 32).take (bs.length - 40)
    tail := BitVec.ofNat 64 (leNat ((bs.drop (bs.length - 8)).take 8)) }

/-- The length on the wire that LEN, in a packet's first word, announces. -/
def wireBytes (bs : List Byte) : Nat := 40 + 4 * bits (leNat (bs.take 8)) 22 16

/-- The whole packets at the front of a stream, and what is left. Idle fill is bytes of 0, which begin no packet,
since no KIND is 0; the manual gives none (DESIGN CHOICE, log entry 82). -/
def takePackets : Nat → List Byte → List Packet × List Byte
  | 0, bs => ([], bs)
  | fuel + 1, bs =>
    let bs := bs.dropWhile (· == 0)
    if bs.length < 8 || bs.length < wireBytes bs then ([], bs)
    else
      let r := takePackets fuel (bs.drop (wireBytes bs))
      (packetOf (bs.take (wireBytes bs)) :: r.1, r.2)

/-- Where the first packet of a block starts behind the packet in reception; 0xFFFF if none does. -/
def firstStart (part body : List Byte) : Nat :=
  let skip := if part.isEmpty then 0 else wireBytes (part ++ body) - part.length
  let i := skip + ((body.drop skip).takeWhile (· == 0)).length
  if i < body.length then i else 0xFFFF

/-- R212, R389: the packets that end in a block of stream, and the packet in reception after it (none: nothing is
in step, and reception resumes at the next pointer). The block begins with a 2-byte pointer to the first packet
start, counted from the byte behind it (DESIGN CHOICE, log entry 82); where it does not fit what has been received,
reception resumes at it. -/
def unpack (rx : Option (List Byte)) (data : List Byte) : List Packet × Option (List Byte) :=
  let ptr := leNat (data.take 2)
  let body := data.drop 2
  match rx.filter fun part => firstStart part body == ptr with
  | some part =>
    let r := takePackets 16 (part ++ body)
    (r.1, some r.2)
  | none =>
    if ptr = 0xFFFF then ([], none)
    else
      let r := takePackets 16 (body.drop ptr)
      (r.1, some r.2)

/-- Where packets start that follow one another without gaps. -/
def starts : Nat → List Packet → List Nat
  | _, [] => []
  | n, p :: ps => n :: starts (n + p.bytes) ps

/-- R212, R389: the blocks of stream that carry packets sent one behind another: a pointer, `size` bytes of packets
without gaps, and idle fill behind the last. -/
def packStream (size : Nat) (ps : List Packet) : List (List Byte) :=
  ((chunks size (ps.map Packet.wire).flatten).zipIdx).map fun c =>
    let ptr := match (starts 0 ps).find? fun n => n / size == c.2 with
      | some n => n % size
      | none => 0xFFFF
    leBytes 2 ptr ++ c.1 ++ List.replicate (size - c.1.length) 0

/-! ## Kinds (R187) -/

def kLOAD : Nat := 0x01
def kLOAD_RSP : Nat := 0x02
def kSTORE : Nat := 0x03
def kSTORE_ACK : Nat := 0x04
def kATOMIC : Nat := 0x05
def kATOMIC_RSP : Nat := 0x06
def kMSG : Nat := 0x07
def kMSG_ACK : Nat := 0x08
def kCONTRIB : Nat := 0x09
def kCOLL_DATA : Nat := 0x0A
def kCOLL_CTRL : Nat := 0x0B
def kMGMT : Nat := 0x10
def kGNG_ROW : Nat := 0x11
def kGNG_PUSH : Nat := 0x12
def kTIME : Nat := 0x13
def kPRESENCE : Nat := 0x14

def kindListed (k : Nat) : Bool := (1 ≤ k && k ≤ 11) || (16 ≤ k && k ≤ 20)
def kindIsRsp (k : Nat) : Bool := k == 2 || k == 4 || k == 6 || k == 8
/-- LOAD, STORE, ATOMIC, MSG. -/
def kindIsMem (k : Nat) : Bool := k == 1 || k == 3 || k == 5 || k == 7

/-- R187: VCs permitted for a kind; `small`: the data carried or asked for is 64 B or less. -/
def vcPermitted (kind vc : Nat) (small : Bool) : Bool :=
  match kind with
  | 1 => vc == 0 || (vc == 2 && small)
  | 3 => vc == 0 || vc == 3 || (vc == 2 && small)
  | 2 | 4 => vc == 1 || vc == 2
  | 5 => vc == 0
  | 6 | 8 => vc == 1
  | 7 => vc == 0 || vc == 3
  | 9 | 10 => vc == 3
  | 11 | 16 | 17 | 18 | 19 | 20 => vc == 2
  | _ => false

/-- R188: the atomic OPs. -/
def atomicOp (op : Nat) : Bool := 1 ≤ op && op ≤ 11
/-- R188: OP of a request is listed for its kind. -/
def opListed (kind op : Nat) : Bool :=
  match kind with
  | 1 | 3 => op == 0
  | 5 => atomicOp op
  | 7 => op < 32
  | 9 => 0x40 ≤ op && op ≤ 0x47
  | 10 => op ≤ 2
  | 11 => op == 1 || op == 2
  | 17 | 18 | 19 => op == 0
  | _ => true

/-- R186, R188, R189: a packet is malformed. -/
def malformed (p : Packet) : Bool :=
  let k := p.kind
  let small := if k == 1 then p.lsize ≤ 16 else p.payload.length ≤ 64
  !kindListed k || !vcPermitted k p.vc small || 64 < p.len || 4 * p.len != p.payload.length ||
  p.msgCount == 0 || p.msgCount ≤ p.msgSeq ||
  (k != kMSG && k != kGNG_PUSH && p.msgCount != 1) ||
  (p.red != (k == kCONTRIB)) || (p.retry && k != kATOMIC) ||
  (kindIsRsp k && p.op != p.status) ||
  (k == kLOAD && p.len != 0) ||
  ((k == kCOLL_DATA || k == kCOLL_CTRL) && !opListed k p.op.toNat)

/-! ## Arbitration (R193) -/

/-- R193: the tie key. -/
def tieKey (issue src : W32) : W32 :=
  let r : W32 := BitVec.ofNat 32 (issue.toNat / 64000) * 0x9E3779B9
  (src ^^^ r) * 0x85EBCA6B

/-- R193: whether (issue, src, arrival) a goes ahead of b. -/
def goesFirst (ia sa : W32) (na : Nat) (ib sb : W32) (nb : Nat) : Bool :=
  let d := (ib - ia).toNat
  if d ≠ 0 then decide (d < 2 ^ 31)
  else if tieKey ia sa ≠ tieKey ib sb then decide ((tieKey ia sa).toNat < (tieKey ib sb).toNat)
  else decide (na < nb)

def Flight.before (p q : Flight) : Bool :=
  goesFirst p.pkt.issueHt p.pkt.src p.seq q.pkt.issueHt q.pkt.src q.seq

/-- The packet that goes first of those in a list. -/
def firstFlight : List Flight → Option Flight
  | [] => none
  | p :: ps =>
    match firstFlight ps with
    | none => some p
    | some q => if q.before p then some q else some p

/-- The oldest packet that satisfies `q`. -/
def State.pickPkt (s : State) (q : Flight → Bool) : Option Flight := firstFlight (s.fabric.pkts.filter q)

/-- Remove a packet from the fabric. -/
def State.dropPkt (s : State) (n : Nat) : State :=
  { s with fabric := { s.fabric with pkts := s.fabric.pkts.filter fun f => f.seq != n } }

/-- A packet arrives at a place. -/
def State.putPkt (s : State) (pl : Place) (p : Packet) : State :=
  { s with
    fabric := { s.fabric with
      pkts := s.fabric.pkts ++ [{ seq := s.fabric.seq, place := pl, pkt := p }]
      seq := s.fabric.seq + 1 } }

/-- The same with a fixed intermediate station (R267). -/
def State.putVia (s : State) (pl : Place) (p : Packet) (via : Option Nat) : State :=
  { s with
    fabric := { s.fabric with
      pkts := s.fabric.pkts ++ [{ seq := s.fabric.seq, place := pl, pkt := p, via := via }]
      seq := s.fabric.seq + 1 } }

/-- A packet moves to another place; it arrives there last. -/
def State.movePkt (s : State) (f : Flight) (pl : Place) : State := (s.dropPkt f.seq).putVia pl f.pkt f.via

/-- The packets in one input buffer of a router on a VC, in order of arrival. -/
def State.bufferOf (s : State) (r : Router) (input vc : Nat) : List Flight :=
  s.fabric.pkts.filter fun f => decide (f.place = .router r input) && f.pkt.vc == vc

/-- R50: an input buffer holds 8 flits per VC. -/
def State.hasRoom (s : State) (r : Router) (input vc flits : Nat) : Bool :=
  decide (((s.bufferOf r input vc).map fun f => f.pkt.flits).foldl (· + ·) 0 + flits ≤ 8)

/-- R184: a module-internal source stamps its packet as it enters its station's queue. -/
def State.sendFrom (s : State) (station : Nat) (f : PktFields) : State :=
  s.putPkt (.entry station) (mkPkt { f with issue := ht32 (s.stnHt station) })

/-- R187: the response kind of a request. -/
def rspKind (k : Nat) : Nat := k + 1

/-- R187, R190: the VC of a response. -/
def rspVc (vc : Nat) : Nat := if vc == 2 then 2 else 1

/-- R187, R189: answer a request from a station with a status and data. The response carries the
request's ADDR, which R249 hashes (log entry 13). -/
def State.answer (s : State) (station : Nat) (p : Packet) (st : Byte) (data : List Byte) : State :=
  s.sendFrom station
    { kind := rspKind p.kind, vc := rspVc p.vc, job := p.job, txid := p.txid, dst := p.src,
      src := p.dst, addr := p.addr, op := st.toNat, status := st.toNat, payload := data }

/-- R184, R187: a tile answers: its response waits for the local input of its router (DMA_INJECT stamps it
there). A region without power has no router to send it, and its station answers (log entry 68). -/
def State.replyAt (s : State) (station : Nat) (p : Packet) (st : Byte) (data : List Byte) : State :=
  if cKind p.dst == 0 && (s.rgn (destTile p.dst / 256)).boot == .enabled then
    s.putPkt (.tile (destTile p.dst)) (mkPkt
      { kind := rspKind p.kind, vc := rspVc p.vc, job := p.job, txid := p.txid, dst := p.src,
        src := p.dst, addr := p.addr, op := st.toNat, status := st.toNat, payload := data })
  else s.answer station p st data

/-- R186: discard a malformed packet at a station. -/
def State.discardFmt (s : State) (station : Nat) (p : Packet) : State :=
  (s.updStn station fun x => { x with discFmt := satInc 65535 x.discFmt }).recStn 0x5001 none station
    (leBytes 8 p.w0.toNat)

end Sys2Proof.Machine
end

