-- ==== Sys2Proof/Machine/Codeword.lean ====
section
/-! DEFINITION. The codewords of a burst (R133, R134), the mark of an empty block (R160), a receiver's
treatment of a codeword (R135) and the seal block (R159). -/

namespace Sys2Proof.Machine

/-! ## The code (R134) -/

/-- The word of one bit time. -/
def oneBit (i : Nat) : BitVec 266 := 1#266 <<< i

/-- The remainder times x, modulo the generator x^9 + x^4 + 1. -/
def bchTimesX (r : BitVec 9) : BitVec 9 := (r <<< 1) ^^^ (if r.getLsbD 8 then 0x011 else 0)

/-- The remainder of n bits, the first of them at the highest power. -/
def bchRem (n : Nat) (w : BitVec 266) : BitVec 9 :=
  (List.range n).foldl (fun r i => bchTimesX r ^^^ (if w.getLsbD i then 1 else 0)) 0

/-- The parity of a number's low bits. -/
def bitParity (n : Nat) (w : BitVec 266) : Bool := (List.range n).foldl (fun p i => xor p (w.getLsbD i)) false

/-- The bits of a remainder from the highest power down, as the line carries them. -/
def bchBits (r : BitVec 9) : BitVec 266 :=
  (List.range 9).foldl (fun w j => if r.getLsbD (8 - j) then w ||| oneBit j else w) 0

/-- R134: 256 data bits, 9 check bits, 1 overall parity bit; bit i is sent at bit time i. -/
def codewordOf (v : BitVec 256) : BitVec 266 :=
  let d := v.setWidth 266
  let w := d ||| (bchBits (bchRem 265 d) <<< 256)
  if bitParity 265 w then w ||| oneBit 265 else w

/-- R160: the nine check bits and the parity bit. -/
def emptyMark : BitVec 266 := 0x3FF <<< 256

/-- R160: a block sent with the mark. -/
def markedOf (v : BitVec 256) : BitVec 266 := codewordOf v ^^^ emptyMark

/-- The bit position whose error gives a syndrome. -/
def bchPosition (syn : BitVec 9) : Option Nat :=
  (List.range 265).find? fun i => bchRem 265 (oneBit i) == syn

/-! ## A receiver's codeword (R135, R160) -/

/-- What a codeword is to its receiver: the block, and whether an error was corrected; or neither. -/
inductive Decoded where
  | block (v : BitVec 256) (corrected : Bool)
  | bad
  deriving DecidableEq, Repr, Inhabited

/-- R134, R135: any single-bit error is corrected; a double-bit error, or a syndrome naming no bit
position, is found. -/
def decodeWord (w : BitVec 266) : Decoded :=
  let syn := bchRem 265 w
  if !bitParity 266 w then if syn = 0 then .block (w.setWidth 256) false else .bad
  else if syn = 0 then .block (w.setWidth 256) true
  else match bchPosition syn with
    | some i => .block ((w ^^^ oneBit i).setWidth 256) true
    | none => .bad

/-- R160: the mark, recognised before any correction. -/
def isMarked (w : BitVec 266) : Bool := decodeWord (w ^^^ emptyMark) == .block (w.setWidth 256) false

/-- R134: the codeword bit times of block n that bit errors of its row hit, as a mask: of a line pair,
codeword A takes the even bit times of the even line and the odd ones of the odd line. -/
def errorMask (errs : List (Nat × Nat)) (n : Nat) : BitVec 266 :=
  errs.foldl (fun m e =>
    if e.1 / 2 = n % 16 / 2 ∧ (e.1 + e.2) % 2 = n % 2 then m ^^^ oneBit e.2 else m) 0

/-! ## The seal (R159) -/

/-- The fields a receiver compares, as they stand from bit 32 of the seal: FRAME, ITEM, SLOT, SRC,
GEAR, PARTITION. -/
def sealBody (frame item slot src gear part : Nat) : Nat :=
  frame % 2 ^ 32 + 2 ^ 32 * (item % 2 ^ 16) + 2 ^ 48 * (slot % 2 ^ 8) + 2 ^ 56 * (src % 2 ^ 5 + 2 ^ 6 * (gear % 4)) +
    2 ^ 64 * (part % 2 ^ 6)

/-- The seal block. -/
def sealWord (crc body : Nat) (void : Bool) : BitVec 256 := BitVec.ofNat 256 (crc + 2 ^ 32 * (body + 2 ^ 61 * b2n void))

def sealCrc (w : BitVec 256) : Nat := bits w.toNat 31 0
def sealVoid (w : BitVec 256) : Bool := bit w.toNat 93
/-- The fields of a seal, with VOID taken out; its reserved bits are not compared. -/
def sealFields (w : BitVec 256) : Nat := bits w.toNat 101 32 - 2 ^ 61 * b2n (sealVoid w)

/-- The bytes of blocks, in order. -/
def blockBytes (bs : List (BitVec 256)) : List Byte := (bs.map fun v => leBytes 32 v.toNat).flatten

end Sys2Proof.Machine
end

