-- ==== Sys2Proof/Machine/Float.lean ====
section
/-! DEFINITION. Number formats and arithmetic (03): decoding and rounding of every format of R66,
lane arithmetic (R80), MX blocks (R79), FX64 (R90 to R92) and the special functions (R87 to R89).
Results are a code and the sticky flags of R74. -/

namespace Sys2Proof.Machine

/-- A value: NaN, an infinity, or ± m × 2^e. -/
inductive Num where
  | nan
  | inf (neg : Bool)
  | fin (neg : Bool) (m : Nat) (e : Int)
  deriving DecidableEq, Repr, Inhabited

/-- A float format (R67 to R69): fraction bits, exponent bits, bias, the magnitude code of the
largest finite value, whether it has infinity, and its canonical NaN. -/
structure FloatFmt where
  fb : Nat
  eb : Nat
  bias : Int
  maxCode : Nat
  hasInf : Bool
  nan : Option Nat
  deriving DecidableEq, Repr

/-- R66 to R69, by format code; codes above 7 are not floats (FP32 is answered). -/
def floatFmt : Nat → FloatFmt
  | 1 => ⟨7, 8, 127, 0x7F7F, true, some 0x7FC0⟩
  | 2 => ⟨10, 5, 15, 0x7BFF, true, some 0x7E00⟩
  | 3 => ⟨3, 4, 7, 0x7E, false, some 0x7F⟩
  | 4 => ⟨2, 5, 15, 0x7B, true, some 0x7E⟩
  | 5 => ⟨2, 3, 3, 0x1F, false, none⟩
  | 6 => ⟨3, 2, 1, 0x1F, false, none⟩
  | 7 => ⟨1, 2, 1, 0x7, false, none⟩
  | _ => ⟨23, 8, 127, 0x7F7FFFFF, true, some 0x7FC00000⟩

/-- R66: bits of an element. -/
def fmtWidth : Nat → Nat
  | 0 => 32 | 1 => 16 | 2 => 16 | 3 => 8 | 4 => 8 | 5 => 6 | 6 => 6 | 7 => 4 | 8 => 8 | 9 => 4
  | 10 => 32 | _ => 8

def fmtIsInt (f : Nat) : Bool := f == 8 || f == 9 || f == 10
def fmtIsFloat (f : Nat) : Bool := f ≤ 7
/-- Codes 3-7 (R75: the targets of SR; R73: block-scaled). -/
def fmtNarrow (f : Nat) : Bool := 3 ≤ f && f ≤ 7
/-- FP32, BF16, FP16. -/
def fmtWide (f : Nat) : Bool := f ≤ 2

/-- R70, R106: elements that fit one register; FP6 counts 128. -/
def fmtLanes (f : Nat) : Nat :=
  match fmtWidth f with
  | 32 => 32 | 16 => 64 | 8 => 128 | 6 => 128 | _ => 256

def intNum (i : Int) : Num := .fin (decide (i < 0)) i.natAbs 0

/-- The value of a code in a format. -/
def decodeNum (f code : Nat) : Num :=
  if fmtIsInt f then intNum (sext (fmtWidth f) code)
  else
    let F := floatFmt f
    let neg := code.testBit (F.eb + F.fb)
    let mag := code % 2 ^ (F.eb + F.fb)
    if F.maxCode < mag then
      if F.hasInf && mag == F.maxCode + 1 then .inf neg else .nan
    else
      let ex := mag / 2 ^ F.fb
      let fr := mag % 2 ^ F.fb
      if ex = 0 then .fin neg fr (1 - F.bias - F.fb)
      else .fin neg (2 ^ F.fb + fr) ((ex : Int) - F.bias - F.fb)

/-- Floor of log2 of m × 2^e, m not 0. -/
def flog2 (m : Nat) (e : Int) : Int := (Nat.log2 m : Int) + e

/-- A magnitude m × 2^e divided by 2^q: quotient, remainder and divisor. -/
def scaleDown (m : Nat) (e q : Int) : Nat × Nat × Nat :=
  if q ≤ e then (m * 2 ^ (e - q).toNat, 0, 1)
  else
    let d := 2 ^ (q - e).toNat
    (m / d, m % d, d)

/-- Rounding modes of R75: 0 RNE, 1 SAT, 2 SR with the element's 16 random bits (R77). -/
def roundUp (mode u n rem d : Nat) : Bool :=
  if mode = 2 then decide (u < rem * 65536 / d)
  else decide (d < 2 * rem) || (decide (2 * rem = d) && n % 2 == 1)

/-- The sign bit of a format, if negative. -/
def signBit (F : FloatFmt) (neg : Bool) : Nat := if neg then 2 ^ (F.eb + F.fb) else 0

/-- R67, R75 to R77: round a value to a float format. -/
def encodeFloat (F : FloatFmt) (mode u : Nat) : Num → Nat × W32
  | .nan => match F.nan with
    | some c => (c, 0)
    | none => (0, fINVALID)
  | .inf neg =>
    if F.hasInf && mode == 0 then (signBit F neg + F.maxCode + 1, 0)
    else (signBit F neg + F.maxCode, fSATURATION)
  | .fin neg m e =>
    if m = 0 then (signBit F neg, 0)
    else
      let emin := 1 - F.bias
      let ex := flog2 m e
      let q := (if ex < emin then emin else ex) - F.fb
      let (n, rem, d) := scaleDown m e q
      let n := if roundUp mode u n rem d then n + 1 else n
      let code := (q - (emin - F.fb)).toNat * 2 ^ F.fb + n
      if F.maxCode < code then
        if F.hasInf && mode == 0 then (signBit F neg + F.maxCode + 1, fOVERFLOW)
        else (signBit F neg + F.maxCode, fSATURATION)
      else (signBit F neg + code, if ex < emin ∧ rem ≠ 0 then fUNDERFLOW else 0)

/-- The nearest integer, ties to even. -/
def rneInt (neg : Bool) (m : Nat) (e : Int) : Int :=
  let (n, rem, d) := scaleDown m e 0
  let n := if roundUp 0 0 n rem d then n + 1 else n
  if neg then -(n : Int) else n

/-- Clamp an integer to `w` bits, signed. -/
def clampInt (w : Nat) (i : Int) : Int × Bool :=
  if (2 ^ (w - 1) : Int) ≤ i then (2 ^ (w - 1) - 1, true)
  else if i < -(2 ^ (w - 1) : Int) then (-(2 ^ (w - 1)), true)
  else (i, false)

/-- R76: convert a value to an integer format. -/
def encodeInt (w : Nat) : Num → Nat × W32
  | .nan => (0, fINVALID)
  | .inf neg => (trunc w (if neg then -(2 ^ (w - 1)) else 2 ^ (w - 1) - 1), fSATURATION)
  | .fin neg m e =>
    let (i, c) := clampInt w (rneInt neg m e)
    (trunc w i, if c then fSATURATION else 0)

/-- R76: convert a value to a format in a mode. -/
def encodeNum (f mode u : Nat) (x : Num) : Nat × W32 :=
  if fmtIsInt f then encodeInt (fmtWidth f) x else encodeFloat (floatFmt f) mode u x

/-! ## Exact arithmetic -/

def Num.isNan : Num → Bool
  | .nan => true
  | _ => false

def Num.isInf : Num → Bool
  | .inf _ => true
  | _ => false

def Num.negate : Num → Num
  | .nan => .nan
  | .inf n => .inf (!n)
  | .fin n m e => .fin (!n) m e

/-- The integer of ± m × 2^e in units of 2^b, b at most e. -/
def toUnits (neg : Bool) (m : Nat) (e b : Int) : Int :=
  let v : Int := m * 2 ^ (e - b).toNat
  if neg then -v else v

/-- Exact sum; an exact zero sum is +0 unless both are −0 (R67). -/
def Num.add : Num → Num → Num × W32
  | .nan, _ => (.nan, 0)
  | _, .nan => (.nan, 0)
  | .inf a, .inf b => if a = b then (.inf a, 0) else (.nan, fINVALID)
  | .inf a, _ => (.inf a, 0)
  | _, .inf b => (.inf b, 0)
  | .fin n1 m1 e1, .fin n2 m2 e2 =>
    let b := if e1 < e2 then e1 else e2
    let s := toUnits n1 m1 e1 b + toUnits n2 m2 e2 b
    if s = 0 then (.fin (n1 && n2) 0 b, 0) else (.fin (decide (s < 0)) s.natAbs b, 0)

/-- Exact product. -/
def Num.mul : Num → Num → Num × W32
  | .nan, _ => (.nan, 0)
  | _, .nan => (.nan, 0)
  | .inf a, .inf b => (.inf (a != b), 0)
  | .inf a, .fin n m _ => if m = 0 then (.nan, fINVALID) else (.inf (a != n), 0)
  | .fin n m _, .inf b => if m = 0 then (.nan, fINVALID) else (.inf (n != b), 0)
  | .fin n1 m1 e1, .fin n2 m2 e2 => (.fin (n1 != n2) (m1 * m2) (e1 + e2), 0)

/-- Exact a × b + c; 0 × ∞ with a NaN addend: `Config.fmaNanInvalid` (log entry 10). -/
def Num.fma (a b c : Num) : Num × W32 :=
  let (p, fl) := a.mul b
  if c.isNan then
    (.nan, if fl ≠ 0 ∧ Config.fmaNanInvalid = true then fINVALID else 0)
  else
    let (r, fl2) := p.add c
    (r, fl ||| fl2)


/-- Numeric comparison of values that are not NaN: −1, 0 or 1. -/
def Num.cmp : Num → Num → Int
  | .inf a, .inf b => if a = b then 0 else if a then -1 else 1
  | .inf a, _ => if a then -1 else 1
  | _, .inf b => if b then 1 else -1
  | .fin n1 m1 e1, .fin n2 m2 e2 =>
    let b := if e1 < e2 then e1 else e2
    let d := toUnits n1 m1 e1 b - toUnits n2 m2 e2 b
    if d < 0 then -1 else if d = 0 then 0 else 1
  | _, _ => 0

def Num.isNeg : Num → Bool
  | .inf n => n
  | .fin n _ _ => n
  | .nan => false

/-- a at or below b, −0 below +0 (R80). -/
def Num.leq (a b : Num) : Bool :=
  let c := a.cmp b
  if c = 0 then a.isNeg || !b.isNeg else decide (c < 0)

/-- R80: minimum and maximum of two codes. -/
def minCode (f x y : Nat) : Nat :=
  let a := decodeNum f x
  let b := decodeNum f y
  if a.isNan || b.isNan then (floatFmt f).nan.getD 0 else if a.leq b then x else y

def maxCode (f x y : Nat) : Nat :=
  let a := decodeNum f x
  let b := decodeNum f y
  if a.isNan || b.isNan then (floatFmt f).nan.getD 0 else if a.leq b then y else x

/-- Round an exact result with its flags into a format. -/
def roundRes (f mode u : Nat) (r : Num × W32) : Nat × W32 :=
  let (c, fl) := encodeNum f mode u r.1
  (c, fl ||| r.2)

def addCode (f mode u x y : Nat) : Nat × W32 :=
  roundRes f mode u ((decodeNum f x).add (decodeNum f y))
def subCode (f mode u x y : Nat) : Nat × W32 :=
  roundRes f mode u ((decodeNum f x).add (decodeNum f y).negate)
def mulCode (f mode u x y : Nat) : Nat × W32 :=
  roundRes f mode u ((decodeNum f x).mul (decodeNum f y))
def fmaCode (f mode u x y z : Nat) : Nat × W32 :=
  roundRes f mode u ((decodeNum f x).fma (decodeNum f y) (decodeNum f z))

/-- FP32 addition and multiplication in RNE. -/
def add32 (x y : Nat) : Nat × W32 := addCode 0 0 0 x y
def sub32 (x y : Nat) : Nat × W32 := subCode 0 0 0 x y
def mul32 (x y : Nat) : Nat × W32 := mulCode 0 0 0 x y

/-- R71: integer lanes wrap, or clamp with SATURATION. -/
def intRes (w : Nat) (sat : Bool) (i : Int) : Nat × W32 :=
  if sat then
    let (j, c) := clampInt w i
    (trunc w j, if c then fSATURATION else 0)
  else (trunc w i, 0)

/-! ## MX blocks (R73, R79) -/

/-- emax of R79. -/
def mxEmax : Nat → Int
  | 3 => 8 | 4 => 15 | 5 => 4 | _ => 2

/-- A value scaled by 2^k. -/
def Num.scale (k : Int) : Num → Num
  | .fin n m e => .fin n m (e + k)
  | x => x

/-- R73: the value of an element with its block's scale code, and the flags. -/
def scaledNum (f code scale : Nat) : Num × W32 :=
  if scale = 255 then (.nan, fINVALID)
  else ((decodeNum f code).scale ((scale : Int) - 127), 0)

/-- Whether |a| is below |b|, both finite. -/
def magLt : Num → Num → Bool
  | .fin _ m1 e1, .fin _ m2 e2 => (Num.fin false m1 e1).cmp (.fin false m2 e2) < 0
  | _, _ => false

def Num.isFin : Num → Bool
  | .fin _ _ _ => true
  | _ => false

/-- R79: one element of a block, already divided by the block scale. -/
def mxElem (f mode u : Nat) (x : Num) : Nat × W32 :=
  let F := floatFmt f
  let largest := decodeNum f F.maxCode
  let limit := Num.fin false 1 (mxEmax f + 1)
  if magLt x largest then encodeFloat F mode u x
  else if magLt x limit then (signBit F x.isNeg + F.maxCode, 0)
  else encodeFloat F 1 u x

/-- R79: build one block: the scale code, the element codes and the flags. -/
def mxBlock (f mode : Nat) (xs : List Num) (us : List Nat) : Nat × List Nat × W32 :=
  if xs.all Num.isFin then
    let a := xs.foldl (fun a x => if magLt a x then x else a) (.fin false 0 0)
    match a with
    | .fin _ m e =>
      if m = 0 then (127, xs.map fun x => signBit (floatFmt f) x.isNeg, 0)
      else
        let ex := flog2 m e - mxEmax f
        let ex := if ex < -127 then -127 else if 127 < ex then 127 else ex
        let es := (xs.zip us).map fun p => mxElem f mode p.2 (p.1.scale (-ex))
        ((ex + 127).toNat, es.map (·.1), es.foldl (fun fl p => fl ||| p.2) 0)
    | _ => (255, xs.map fun _ => 0, fINVALID)
  else (255, xs.map fun _ => 0, fINVALID)

/-! ## FX64 (R90 to R92) -/

/-- R90: n, the tile's flags, and OVERFLOW on the item. -/
def toFx64 (e : Int) : Num → Int × W32 × Bool
  | .nan => (0, fINVALID, true)
  | .inf neg => (if neg then -(2 ^ 63) else 2 ^ 63 - 1, fINVALID, true)
  | .fin neg m ex =>
    let (i, c) := clampInt 64 (rneInt neg m (ex - e))
    (i, 0, c)

/-- R92: n × 2^e as FP32, and OVERFLOW on the item. -/
def fxToFp32 (e n : Int) : Nat × Bool :=
  let (c, fl) := encodeFloat (floatFmt 0) 0 0 (.fin (decide (n < 0)) n.natAbs e)
  (c, fl == fOVERFLOW)

/-! ## Special functions (R87 to R89)

Each result is the exact value where it is representable, else an approximation with more than 200
correct bits and a last bit set, so that one rounding to FP32 gives the value nearest to the exact
result (R89). -/

/-- ln 2 and 1 / ln 2 in units of 2^-256. -/
def ln2Fix : Nat := 80260960185991308862233904206310070533990667611589946606122867505419956976171
def log2eFix : Nat := 167052672916848388242985626561247531987276682633131050150846402744536260568207

def fixOne : Nat := 2 ^ 256

/-- Σ y^n / n! in units of 2^-256. -/
def expSeries (y : Nat) : Nat → Nat → Nat → Nat → Nat
  | 0, _, _, acc => acc
  | fuel + 1, n, term, acc =>
    let t := term * y / fixOne / n
    expSeries y fuel (n + 1) t (acc + t)

/-- 2^f for f in [0, 1), in units of 2^-256. -/
def exp2Frac (f : Nat) : Nat :=
  expSeries (f * ln2Fix / fixOne) 70 1 fixOne fixOne

/-- Σ z^(2n+1) / (2n+1), in units of 2^-256. -/
def atanhSeries (z2 : Nat) : Nat → Nat → Nat → Nat → Nat
  | 0, _, _, acc => acc
  | fuel + 1, k, p, acc => atanhSeries z2 fuel (k + 2) (p * z2 / fixOne) (acc + p / k)

/-- log2 of a mantissa m / 2^w in [1, 2), in units of 2^-256. -/
def log2Mant (m w : Nat) : Nat :=
  let z := (m - 2 ^ w) * fixOne / (m + 2 ^ w)
  let ln := 2 * atanhSeries (z * z / fixOne) 90 1 z 0
  ln * log2eFix / fixOne

/-- Integer square root, bit by bit from 2^(k-1). -/
def isqrtBits (n : Nat) : Nat → Nat → Nat
  | 0, r => r
  | k + 1, r => isqrtBits n k (if (r + 2 ^ k) * (r + 2 ^ k) ≤ n then r + 2 ^ k else r)

/-- 2^x for finite x with −150 ≤ x < 128. -/
def exp2Num (neg : Bool) (m : Nat) (e : Int) : Num :=
  let v := toUnits neg m e (-256)
  let k := v / (fixOne : Int)
  let f := (v % (fixOne : Int)).toNat
  if f = 0 then .fin false 1 k else .fin false (exp2Frac f * 2 + 1) (k - 257)

/-- log2 of a positive finite value. -/
def log2Num (m : Nat) (e : Int) : Num :=
  let w := Nat.log2 m
  let ex := (w : Int) + e
  if m = 2 ^ w then intNum ex
  else
    let t := ex * (fixOne : Int) + (log2Mant m w : Int)
    .fin (decide (t < 0)) (t.natAbs * 2 + 1) (-257)

/-- 1 / (m × 2^e). -/
def rcpNum (neg : Bool) (m : Nat) (e : Int) : Num :=
  let q := 2 ^ 300 / m
  .fin neg (q * 2 + (if 2 ^ 300 % m = 0 then 0 else 1)) (-301 - e)

/-- 1 / √(m × 2^e), positive. -/
def rsqNum (m : Nat) (e : Int) : Num :=
  let (m, e) := if e % 2 = 0 then (m, e) else (m * 2, e - 1)
  let n := 2 ^ 400 / m
  let r := isqrtBits n 201 0
  .fin false (r * 2 + (if r * r * m = 2 ^ 400 then 0 else 1)) (-201 - e / 2)

/-- tanh of a positive finite value. -/
def tanhNum (neg : Bool) (m : Nat) (e : Int) : Num :=
  -- y = 2 x log2 e, in units of 2^-256
  let x2 := (toUnits false m e (-256)).toNat * 2
  let y := x2 * log2eFix / fixOne
  let big := exp2Frac (y % fixOne) * 2 ^ (y / fixOne)
  let q := (big - fixOne) * fixOne / (big + fixOne)
  .fin neg (q * 2 + 1) (-257)

/-- The five functions of R112. -/
inductive SpecFn where
  | exp2 | log2 | rcp | rsq | tanh
  deriving DecidableEq, Repr

/-- Round a special function's value to FP32 (R89), the flag of R74 with it. -/
def sf32 (x : Num) : Num × W32 :=
  let (c, fl) := encodeFloat (floatFmt 0) 0 0 x
  (decodeNum 0 c, fl)

/-- R87 to R89: the FP32 result of a special function, and its flags. -/
def specialFn : SpecFn → Num → Num × W32
  | _, .nan => (.nan, 0)
  | .exp2, .inf neg => if neg then (.fin false 0 0, 0) else (.inf false, 0)
  | .exp2, .fin neg m e =>
    if !neg && !magLt (.fin false m e) (.fin false 128 0) then (.inf false, fOVERFLOW)
    else if neg && magLt (.fin false 150 0) (.fin false m e) then (.fin false 0 0, fUNDERFLOW)
    else sf32 (exp2Num neg m e)
  | .log2, .inf neg => if neg then (.nan, fINVALID) else (.inf false, 0)
  | .log2, .fin neg m e =>
    if m = 0 then (.inf true, 0)
    else if neg then (.nan, fINVALID)
    else sf32 (log2Num m e)
  | .rcp, .inf neg => (.fin neg 0 0, 0)
  | .rcp, .fin neg m e => if m = 0 then (.inf neg, 0) else sf32 (rcpNum neg m e)
  | .rsq, .inf neg => if neg then (.nan, fINVALID) else (.fin false 0 0, 0)
  | .rsq, .fin neg m e =>
    if m = 0 then (.inf neg, 0)
    else if neg then (.nan, fINVALID)
    else sf32 (rsqNum m e)
  | .tanh, .inf neg => (.fin neg 1 0, 0)
  | .tanh, .fin neg m e =>
    if m = 0 then (.fin neg 0 0, 0)
    else if magLt (.fin false m e) (.fin false 1 (-12)) then
      (.fin neg m e, if magLt (.fin false 1 (-126)) (.fin false m e) then 0 else fUNDERFLOW)
    else if !magLt (.fin false (m * 10) e) (.fin false 91 0) then (.fin neg 1 0, 0)
    else sf32 (tanhNum neg m e)

/-- The smallest normal value of a format. -/
def minNormal (f : Nat) : Num := .fin false 1 (1 - (floatFmt f).bias)

/-- The exact value of a function where its result is finite; a value that no format holds is given between the
two representable ones that it lies between. -/
def specialExact : SpecFn → Num → Num
  | .exp2, .fin neg m e =>
    if neg && magLt (.fin false 150 0) (.fin false m e) then .fin false 1 (-151)
    else if !neg && !magLt (.fin false m e) (.fin false 128 0) then .nan
    else exp2Num neg m e
  | .log2, .fin neg m e => if m = 0 || neg then .nan else log2Num m e
  | .rcp, .fin neg m e => if m = 0 then .nan else rcpNum neg m e
  | .rsq, .fin neg m e => if m = 0 || neg then .nan else rsqNum m e
  | .tanh, .fin neg m e =>
    if m = 0 then .fin neg 0 0
    else if magLt (.fin false m e) (.fin false 1 (-12)) then .fin neg (m * 2 ^ 400 - 1) (e - 400)
    else if !magLt (.fin false (m * 10) e) (.fin false 91 0) then .fin neg 1 0
    else tanhNum neg m e
  | _, _ => .nan

/-- R74: UNDERFLOW of a lane of a function: the exact result is not 0, below the smallest normal of the lane's
format, and not what code `c` delivers. -/
def specialTiny (fn : SpecFn) (f : Nat) (x : Num) (c : Nat) : W32 :=
  let r := specialExact fn x
  match r with
  | .fin _ m _ => if m ≠ 0 && magLt r (minNormal f) && r.cmp (decodeNum f c) != 0 then fUNDERFLOW else 0
  | _ => 0

/-- R112: the result of a function on a lane of format `f`, rounded by `rnd` into it. -/
def specialLane (fn : SpecFn) (f rnd code : Nat) : Nat × W32 :=
  let (r, fl) := specialFn fn (decodeNum f code)
  match r with
  | .inf _ =>
    let (c, fl2) := encodeNum f rnd 0 r
    (c, if rnd = 1 then fSATURATION else fl ||| fl2)
  | _ =>
    let (c, fl2) := encodeNum f rnd 0 r
    (c, fl ||| fl2 ||| specialTiny fn f (decodeNum f code) c)

end Sys2Proof.Machine
end

