-- ==== Sys2Proof/Machine/CollCfg.lean ====
section
/-! DEFINITION. The fields of collective entries (R257) and multicast entries (R260), and of the
ADDR of their packets (R262). -/

namespace Sys2Proof.Machine

/-! ## Collective entries (R257); byte b is bits [8b + 7 : 8b] -/

/-- `n` bytes of a configuration from byte `b`. -/
def cfgField (c b n : Nat) : Nat := c / 2 ^ (8 * b) % 2 ^ (8 * n)

def ccValid (c : BitVec 512) : Bool := c.toNat.testBit 7
def ccOrdered (c : BitVec 512) : Bool := c.toNat.testBit 6
def ccCircuit (c : BitVec 512) : Bool := c.toNat.testBit 5
/-- ROLE: false gather, true root. -/
def ccRoot (c : BitVec 512) : Bool := c.toNat.testBit 0
def ccPart (c : BitVec 512) : Nat := cfgField c.toNat 1 1 % 64
def ccOp (c : BitVec 512) : Nat := cfgField c.toNat 2 1
def ccExp (c : BitVec 512) : Int := sext 8 (cfgField c.toNat 3 1)
def ccJob (c : BitVec 512) : Nat := cfgField c.toNat 4 2 % 4096
def ccElems (c : BitVec 512) : Nat := cfgField c.toNat 8 4
def ccGroup (c : BitVec 512) : Nat := cfgField c.toNat 12 2
def ccMembers (c : BitVec 512) : Nat := cfgField c.toNat 14 2
/-- ROOT of a gather, END_MC of a root. -/
def ccRootCoord (c : BitVec 512) : W32 := BitVec.ofNat 32 (cfgField c.toNat 16 4)
def ccResult (c : BitVec 512) : W32 := BitVec.ofNat 32 (cfgField c.toNat 20 4)
def ccResultAddr (c : BitVec 512) : Nat := cfgField c.toNat 24 8
def ccStatusAddr (c : BitVec 512) : Nat := cfgField c.toNat 32 8
def ccTime (c : BitVec 512) : Nat := cfgField c.toNat 40 4
def ccOut (c : BitVec 512) : Nat := cfgField c.toNat 44 1

/-- Chunks of the vector, 16 elements each. -/
def ccChunks (c : BitVec 512) : Nat := ceilDiv (ccElems c) 16

/-- Lanes of chunk `k` (R263). -/
def ccLanes (c : BitVec 512) (k : Nat) : Nat := Nat.min 16 (ccElems c - 16 * k)

/-- R261: the bytes of a source element. -/
def opWidth (op : Nat) : Nat := if op == 0x40 || op == 0x43 || op == 0x44 || op == 0x47 || op == 0x48 then 4 else 8

/-- The bytes of a narrow lane as sent (R263). -/
def laneWidth (op : Nat) : Nat := if op == 0x48 then 8 else opWidth op

/-- R263: an exact sum travels wide once it has left an adder or an engine. -/
def opWide (op : Nat) : Bool := 0x40 ≤ op && op ≤ 0x42

/-! ## Multicast entries (R260) -/

def mcValid (m : BitVec 256) : Bool := m.toNat.testBit 31
def mcStations (m : BitVec 256) : Nat := m.toNat % 2 ^ 31
def mcRegions (m : BitVec 256) : Nat := cfgField m.toNat 4 2
def mcClusters (m : BitVec 256) : Nat := cfgField m.toNat 6 2
def mcTiles (m : BitVec 256) : Nat := cfgField m.toNat 8 2
def mcGatherEn (m : BitVec 256) : Bool := m.toNat.testBit 95
def mcGather (m : BitVec 256) : Nat := cfgField m.toNat 10 2 % 4096
def mcSram (m : BitVec 256) : Nat := cfgField m.toNat 12 4
def mcCountEn (m : BitVec 256) : Bool := m.toNat.testBit 135
def mcCounter (m : BitVec 256) : Nat := cfgField m.toNat 16 1 % 16

/-! ## ADDR of CONTRIB and COLL_DATA packets (R262) -/

def caRound (a : Nat) : Nat := bits a 55 48
def caWide (a : Nat) : Bool := bit a 47
def caOvf (a : Nat) : Bool := bit a 46
def caOrd (a : Nat) : Bool := bit a 45
def caChunk (a : Nat) : Nat := bits a 43 32
def caCount (a : Nat) : Nat := bits a 31 16
def caGroup (a : Nat) : Nat := bits a 9 0

def mkCollAddr (round : Nat) (wide ovf ord : Bool) (chunk count group : Nat) : Nat :=
  round * 2 ^ 48 + b2n wide * 2 ^ 47 + b2n ovf * 2 ^ 46 + b2n ord * 2 ^ 45 + chunk * 2 ^ 32 +
    count * 2 ^ 16 + group

/-- A collective entry of a station. -/
def State.coll (s : State) (station e : Nat) : CollEntry := mget {} (s.stn station).coll e
def State.setColl (s : State) (station e : Nat) (x : CollEntry) : State :=
  s.updStn station fun st => { st with coll := mset {} st.coll e x }

/-- R260: the enabled tiles of a partition among those that the masks select at a station. -/
def State.maskTiles (s : State) (station p : Nat) (rm cm tm : Nat) : List Nat :=
  ((s.part p).tiles).filter fun t =>
    decide (tileStation t = station) && bit rm (tileRegion t % 16) && bit cm (tileSlot t / 16) &&
      bit tm (tileSlot t % 16) && (s.tile t).enabled

end Sys2Proof.Machine
end

