-- ==== Sys2Proof/Machine/Flags.lean ====
section
/-! DEFINITION. The sticky flags of a tile (R34, R64, R74) and the way they are cleared (R7, R103). -/

namespace Sys2Proof.Machine

/-- The bits of DIE_TILE_FLAGS that hold a flag (R64). -/
def flagBits : W32 := 0xFFFF038F

/-- W1C: each 1 clears that bit (R6). -/
def Tile.w1cFlags (x : Tile) (v : W32) : Tile := { x with flags := x.flags &&& ~~~v }

/-- FLCLR (R103): the mask of bits that IMM16 names, in CNT_FAIL when X is set. -/
def flclrMask (xbit : Bool) (imm16 : Nat) : W32 :=
  BitVec.ofNat 32 (if xbit then imm16 * 65536 else imm16)

/-- The flags of many lanes together. -/
def orAll (fs : List W32) : W32 := fs.foldl (· ||| ·) 0

/-- The codes and the flags of many lanes. -/
def lanesOut (rs : List (Nat × W32)) : List Nat × W32 := (rs.map (·.1), orAll (rs.map (·.2)))

end Sys2Proof.Machine
end

