-- ==== Sys2Proof/Machine/Operands.lean ====
section
/-! DEFINITION. The operand forms of tile instructions (R99), the checks of R100, the packing of
vector registers (R70), the generator (R42), and how an instruction issues (R25, R38, R512). -/

namespace Sys2Proof

open Machine

/-! ## Fields -/

/-- IMM32, sign-extended (R99). -/
def Fields.imm (f : Fields) : Int := sext 32 f.low.toNat
def Fields.fa (f : Fields) : Nat := bits f.low.toNat 31 28
def Fields.fb (f : Fields) : Nat := bits f.low.toNat 27 24
def Fields.rnd (f : Fields) : Nat := bits f.low.toNat 23 22
def Fields.sat (f : Fields) : Bool := bit f.low.toNat 21
def Fields.x (f : Fields) : Bool := bit f.low.toNat 20
def Fields.rsvd (f : Fields) : Nat := bits f.low.toNat 19 16
def Fields.imm16 (f : Fields) : Nat := bits f.low.toNat 15 0
def Fields.dn (f : Fields) : Nat := f.d.toNat
def Fields.an (f : Fields) : Nat := f.a.toNat
def Fields.bn (f : Fields) : Nat := f.b.toNat
def Fields.cn (f : Fields) : Nat := f.c.toNat

end Sys2Proof

namespace Sys2Proof.Machine

/-- The fields an instruction uses; a field it does not use must be 0 (R100). -/
structure Uses where
  d : Bool := false
  a : Bool := false
  b : Bool := false
  c : Bool := false
  fa : Bool := false
  fb : Bool := false
  rnd : Bool := false
  sat : Bool := false
  x : Bool := false
  imm16 : Bool := false

/-- R100 on the register fields. -/
def regsOk (u : Uses) (f : Fields) : Bool :=
  (u.d || f.d == 0) && (u.a || f.a == 0) && (u.b || f.b == 0) && (u.c || f.c == 0)

/-- R100 on an R-form word. -/
def rForm (u : Uses) (f : Fields) : Bool :=
  regsOk u f && (u.fa || f.fa == 0) && (u.fb || f.fb == 0) && (u.rnd || f.rnd == 0) &&
  (u.sat || !f.sat) && (u.x || !f.x) && (f.rsvd == 0) && (u.imm16 || f.imm16 == 0)

/-- R100 on an I-form word. -/
def iForm (u : Uses) (f : Fields) : Bool := regsOk u f

/-- R75: RND is permitted for a target format. -/
def rndOk (target rnd : Nat) : Bool := rnd ≤ 1 || (rnd == 2 && fmtNarrow target)

/-- A vector register group does not run past v31 (R100). -/
def groupOk (r k : Nat) : Bool := r + k ≤ 32

/-- The effective address a + imm, modulo 2^64. -/
def effAddr (f : Fields) (x : Tile) : Nat := trunc 64 ((x.rs f.an).toNat + f.imm)

/-! ## Vector registers (R70) -/

/-- The first `n` elements of `w` bits. -/
def laneCodes (w n : Nat) (v : VReg) : List Nat :=
  (List.range n).map fun i => bits v.toNat (w * i + w - 1) (w * i)

/-- The little-endian string of elements of `w` bits. -/
def packCodes (w : Nat) : List Nat → Nat
  | [] => 0
  | c :: cs => c % 2 ^ w + 2 ^ w * packCodes w cs

/-- The elements of a register in a format. -/
def Tile.lanes (x : Tile) (fmt r : Nat) : List Nat := laneCodes (fmtWidth fmt) (fmtLanes fmt) (x.rv r)

/-- The `n` elements of a register group in a format. -/
def Tile.groupLanes (x : Tile) (fmt r n : Nat) : List Nat :=
  (((List.range (ceilDiv n (fmtLanes fmt))).map fun k => x.lanes fmt (r + k)).flatten).take n

/-- Write elements to a register group; bits beyond them are zero (R70). -/
def Tile.putLanes (x : Tile) (fmt r : Nat) (cs : List Nat) : Tile :=
  ((chunks (fmtLanes fmt) cs).zipIdx).foldl
    (fun x p => x.wv (r + p.2) (BitVec.ofNat 1024 (packCodes (fmtWidth fmt) p.1))) x

/-- The bytes of a vector register. -/
def vregBytes (v : VReg) : List Byte := leBytes 128 v.toNat

/-- The vector register of bytes. -/
def bytesVreg (bs : List Byte) : VReg := BitVec.ofNat 1024 (leNat bs)

/-! ## The generator (R42, R43) -/

def philoxM0 : Nat := 0xD2511F53
def philoxM1 : Nat := 0xCD9E8D57

/-- One round of Philox-4×32 on (x0, x1, x2, x3) with key (k0, k1). -/
def philoxRound (k0 k1 : W32) (x0 x1 x2 x3 : W32) : W32 × W32 × W32 × W32 :=
  let p0 := philoxM0 * x0.toNat
  let p1 := philoxM1 * x2.toNat
  let hi0 : W32 := BitVec.ofNat 32 (p0 / 2 ^ 32)
  let lo0 : W32 := BitVec.ofNat 32 p0
  let hi1 : W32 := BitVec.ofNat 32 (p1 / 2 ^ 32)
  let lo1 : W32 := BitVec.ofNat 32 p1
  (hi1 ^^^ x1 ^^^ k0, lo1, hi0 ^^^ x3 ^^^ k1, lo0)

/-- `n` rounds, the key stepping by the Weyl constants between them. -/
def philoxRounds : Nat → W32 → W32 → W32 → W32 → W32 → W32 → W32 × W32 × W32 × W32
  | 0, _, _, x0, x1, x2, x3 => (x0, x1, x2, x3)
  | n + 1, k0, k1, x0, x1, x2, x3 =>
    let (y0, y1, y2, y3) := philoxRound k0 k1 x0 x1 x2 x3
    philoxRounds n (k0 + 0x9E3779B9) (k1 + 0xBB67AE85) y0 y1 y2 y3

/-- R42: the 128-bit block of a draw, x0 in bits [31:0]. -/
def philox (seed draw : W64) (stream logical : Nat) : Nat :=
  let lo (v : W64) : W32 := BitVec.ofNat 32 v.toNat
  let hi (v : W64) : W32 := BitVec.ofNat 32 (v.toNat / 2 ^ 32)
  let (y0, y1, y2, y3) := philoxRounds 10 (lo seed) (hi seed) (lo draw) (hi draw)
    (BitVec.ofNat 32 stream) (BitVec.ofNat 32 logical)
  y0.toNat + y1.toNat * 2 ^ 32 + y2.toNat * 2 ^ 64 + y3.toNat * 2 ^ 96

/-- The next `n` blocks of a stream. -/
def Tile.peekBlocks (x : Tile) (seed : W64) (stream n : Nat) : List Nat :=
  let d := match stream with
    | 0 => x.draw0
    | 1 => x.draw1
    | _ => x.draw2
  (List.range n).map fun i => philox seed (d + BitVec.ofNat 64 i) stream x.logical

/-- Advance a stream by `n` blocks (R43). -/
def Tile.advance (x : Tile) (stream n : Nat) : Tile :=
  match stream with
  | 0 => { x with draw0 := x.draw0 + BitVec.ofNat 64 n }
  | 1 => { x with draw1 := x.draw1 + BitVec.ofNat 64 n }
  | _ => { x with draw2 := x.draw2 + BitVec.ofNat 64 n }

/-- R78: the 16 random bits of each of `n` elements from ⌈n / 8⌉ blocks of stream 1. -/
def Tile.srBits (x : Tile) (seed : W64) (n : Nat) : List Nat :=
  (((x.peekBlocks seed 1 (ceilDiv n 8)).map fun b =>
    (List.range 8).map fun m => bits b (16 * m + 15) (16 * m)).flatten).take n

/-- The rounding bits of an instruction that writes `n` elements: drawn only in SR mode (R78, R113). -/
def Tile.roundBits (x : Tile) (seed : W64) (rnd n : Nat) : List Nat × Tile :=
  if rnd = 2 then (x.srBits seed n, x.advance 1 (ceilDiv n 8)) else (List.replicate n 0, x)

/-- The job seed of a tile's partition (R42). -/
def State.seedOf (s : State) (x : Tile) : W64 := (s.part x.partition).seed

/-! ## Issue -/

/-- R512: an instruction enters a unit: it starts at once where the unit is free. -/
def UnitQ.enter (u : UnitQ) (occ : Nat) : UnitQ :=
  if u.run.isNone && u.queue.isEmpty then { u with run := some occ }
  else { u with queue := u.queue ++ [occ] }

/-- R512: the queue of 4 has a free place, or the unit is free. -/
def UnitQ.free (u : UnitQ) : Bool := (u.run.isNone && u.queue.isEmpty) || u.queue.length < 4

/-- R512: the unit starts the next instruction of its queue. -/
def UnitQ.startNext (u : UnitQ) : UnitQ :=
  match u.queue with
  | [] => { u with run := none }
  | o :: q => { run := some o, queue := q }

def Tile.unit (x : Tile) : ExecUnit → UnitQ
  | .vector => x.vecU
  | .matrix => x.matU
  | .special => x.sfuU

def Tile.setUnit (x : Tile) (u : ExecUnit) (q : UnitQ) : Tile :=
  match u with
  | .vector => { x with vecU := q }
  | .matrix => { x with matU := q }
  | .special => { x with sfuU := q }

/-- The tile issues: it is RUNNING, its region's clock runs and its partition does not stand. -/
def State.issuing (s : State) (t : Nat) : Bool :=
  (s.tile t).st == .running && !(s.rgn (tileRegion t)).stopped && !(s.part (s.tile t).partition).standing

/-- The scoreboard: an s register of the instruction is still awaited from the sampler (R122). -/
def Tile.awaited (x : Tile) (sregs : List Nat) : Bool :=
  match x.sampler with
  | none => false
  | some r => r.sd != 0 && sregs.contains r.sd

/-- The instruction may issue in this cycle: no register awaited, a place in its unit. -/
def Tile.ready (x : Tile) (unit : Option ExecUnit) (sregs : List Nat) : Bool :=
  !x.awaited sregs && (match unit with
    | none => true
    | some u => (x.unit u).free)

/-- R103: the fetch of the next instruction lies in [FETCH_LO, FETCH_HI). -/
def Tile.fetchOk (x : Tile) : Bool := x.fetchLo ≤ x.pc && x.pc < x.fetchHi

/-- The tile as the instruction sees it at issue: its unit holds it and the program counter has
passed it. -/
def Tile.issued (x : Tile) (unit : Option ExecUnit) (occ : Nat) : Tile :=
  let x := { x with pc := x.pc + 8 }
  match unit with
  | none => x
  | some u => x.setUnit u ((x.unit u).enter occ)

/-- After a fault the program counter and the queues are those before the instruction (R25). -/
def Tile.unissued (x old : Tile) : Tile :=
  { x with pc := old.pc, vecU := old.vecU, matU := old.matU, sfuU := old.sfuU }

/-- One instruction at a tile: nothing happens while the tile does not issue or the instruction
must stall; a fetch outside its range, the checks of R100 and a register-file parity error (R25) fault;
else it has its effect. -/
def State.issue (s : State) (t : Nat) (f : Fields) (unit : Option ExecUnit) (occ : Nat) (sregs : List Nat)
    (legal : Bool) (run : Tile → TEff) : State :=
  let x := s.tile t
  if !s.issuing t then s
  else if !x.fetchOk then s.tileFault t .range
  else if !legal then s.tileFault t .illegal
  else if !x.ready unit sregs then s
  else if f.regParity then s.tileFault t .regParity
  else
    let e := run (x.issued unit occ)
    if e.fault = .none then s.putEff t e
    else s.putEff t { e with tile := e.tile.unissued x }

end Sys2Proof.Machine
end

