-- ==== Sys2Proof/Machine/Scalar.lean ====
section
/-! DEFINITION. Class 0x0: scalar arithmetic (R102). -/

namespace Sys2Proof.Machine

/-- The fields of a three-register R-form scalar instruction. -/
def usesDAB : Uses := { d := true, a := true, b := true }
def usesDA : Uses := { d := true, a := true }
def usesD : Uses := { d := true }

/-- An R-form scalar instruction: d ← op a b. -/
def State.alu (s : State) (t : Nat) (f : Fields) (op : W64 → W64 → W64) : State :=
  s.issue t f none 1 [f.dn, f.an, f.bn] (rForm usesDAB f)
    fun x => { tile := x.ws f.dn (op (x.rs f.an) (x.rs f.bn)) }

/-- The immediate as a 64-bit value (R99). -/
def immW (f : Fields) : W64 := BitVec.ofInt 64 f.imm

/-- An I-form scalar instruction: d ← op a imm; `ok` is its own check. -/
def State.aluI (s : State) (t : Nat) (f : Fields) (ok : Bool) (op : W64 → W64 → W64) : State :=
  s.issue t f none 1 [f.dn, f.an] (iForm usesDA f && ok)
    fun x => { tile := x.ws f.dn (op (x.rs f.an) (immW f)) }

/-- Truth as a register value. -/
def boolW (b : Bool) : W64 := if b then 1 else 0

/-- R102: shift amounts are the low six bits. -/
def sllW (a b : W64) : W64 := a <<< (b.toNat % 64)
def srlW (a b : W64) : W64 := a >>> (b.toNat % 64)
def sraW (a b : W64) : W64 := a.sshiftRight (b.toNat % 64)

/-- High 64 bits of the signed and of the unsigned product. -/
def mulhW (a b : W64) : W64 := BitVec.ofInt 64 (a.toInt * b.toInt / 2 ^ 64)
def mulhuW (a b : W64) : W64 := BitVec.ofNat 64 (a.toNat * b.toNat / 2 ^ 64)

def sltW (a b : W64) : W64 := boolW (decide (a.toInt < b.toInt))
def sltuW (a b : W64) : W64 := boolW (decide (a.toNat < b.toNat))
def minW (a b : W64) : W64 := if a.toInt ≤ b.toInt then a else b
def maxW (a b : W64) : W64 := if a.toInt ≤ b.toInt then b else a

/-- R102: imm[31:6] must be 0 in a shift by an immediate. -/
def shiftImmOk (f : Fields) : Bool := f.low.toNat < 64

/-- R102 ADD. -/
def execAdd (t : Nat) (f : Fields) (s : State) : Res := .next (s.alu t f (· + ·))

/-- R102 SUB. -/
def execSub (t : Nat) (f : Fields) (s : State) : Res := .next (s.alu t f (· - ·))

/-- R102 AND. -/
def execAnd (t : Nat) (f : Fields) (s : State) : Res := .next (s.alu t f (· &&& ·))

/-- R102 OR. -/
def execOr (t : Nat) (f : Fields) (s : State) : Res := .next (s.alu t f (· ||| ·))

/-- R102 XOR. -/
def execXor (t : Nat) (f : Fields) (s : State) : Res := .next (s.alu t f (· ^^^ ·))

/-- R102 SLL. -/
def execSll (t : Nat) (f : Fields) (s : State) : Res := .next (s.alu t f sllW)

/-- R102 SRL. -/
def execSrl (t : Nat) (f : Fields) (s : State) : Res := .next (s.alu t f srlW)

/-- R102 SRA. -/
def execSra (t : Nat) (f : Fields) (s : State) : Res := .next (s.alu t f sraW)

/-- R102 MUL. -/
def execMul (t : Nat) (f : Fields) (s : State) : Res := .next (s.alu t f (· * ·))

/-- R102 MULH. -/
def execMulh (t : Nat) (f : Fields) (s : State) : Res := .next (s.alu t f mulhW)

/-- R102 MULHU. -/
def execMulhu (t : Nat) (f : Fields) (s : State) : Res := .next (s.alu t f mulhuW)

/-- R102 SLT. -/
def execSlt (t : Nat) (f : Fields) (s : State) : Res := .next (s.alu t f sltW)

/-- R102 SLTU. -/
def execSltu (t : Nat) (f : Fields) (s : State) : Res := .next (s.alu t f sltuW)

/-- R102 MIN. -/
def execMin (t : Nat) (f : Fields) (s : State) : Res := .next (s.alu t f minW)

/-- R102 MAX. -/
def execMax (t : Nat) (f : Fields) (s : State) : Res := .next (s.alu t f maxW)

/-- R102 ADDI. -/
def execAddi (t : Nat) (f : Fields) (s : State) : Res := .next (s.aluI t f true (· + ·))

/-- R102 ANDI. -/
def execAndi (t : Nat) (f : Fields) (s : State) : Res := .next (s.aluI t f true (· &&& ·))

/-- R102 ORI. -/
def execOri (t : Nat) (f : Fields) (s : State) : Res := .next (s.aluI t f true (· ||| ·))

/-- R102 XORI. -/
def execXori (t : Nat) (f : Fields) (s : State) : Res := .next (s.aluI t f true (· ^^^ ·))

/-- R102 SLLI. -/
def execSlli (t : Nat) (f : Fields) (s : State) : Res := .next (s.aluI t f (shiftImmOk f) sllW)

/-- R102 SRLI. -/
def execSrli (t : Nat) (f : Fields) (s : State) : Res := .next (s.aluI t f (shiftImmOk f) srlW)

/-- R102 SRAI. -/
def execSrai (t : Nat) (f : Fields) (s : State) : Res := .next (s.aluI t f (shiftImmOk f) sraW)

/-- R102 MULI. -/
def execMuli (t : Nat) (f : Fields) (s : State) : Res := .next (s.aluI t f true (· * ·))

/-- R102 SLTI. -/
def execSlti (t : Nat) (f : Fields) (s : State) : Res := .next (s.aluI t f true sltW)

/-- R102 SLTUI. -/
def execSltui (t : Nat) (f : Fields) (s : State) : Res := .next (s.aluI t f true sltuW)

/-- R102 LI: d ← imm. -/
def execLi (t : Nat) (f : Fields) (s : State) : Res :=
  .next (s.issue t f none 1 [f.dn] (iForm usesD f) fun x => { tile := x.ws f.dn (immW f) })

/-- R102 LIH: d ← (imm << 32) | a[31:0]. -/
def lihW (a i : W64) : W64 := (i <<< (32 : Nat)) ||| (a &&& 0xFFFFFFFF)

/-- R102 LIH. -/
def execLih (t : Nat) (f : Fields) (s : State) : Res := .next (s.aluI t f true lihW)

end Sys2Proof.Machine
end

