-- ==== Sys2Proof/Machine/Window.lean ====
section
/-! DEFINITION. Coordinates (R181), landing windows (R224), the layout of module memory (R227, R228),
its bytes and their protection (R230), and the checks of a request (R209, R222, R226). -/

namespace Sys2Proof.Machine

/-! ## Coordinates (R181) -/

/-- R415: the plane mask of a module; the module's own entry reads 0xF. -/
def State.planeMask (s : State) (m : Nat) : Nat :=
  if m = s.cfg.module then 0xF else mget 0 s.cfg.presence m

/-- R390: the endpoints a chiplet declared. -/
def Site.endpoints (x : Site) : Nat := cfgField x.decl.toNat 16 2

/-- R2, R59, R181, R223, R411, R413: STATION and the low bits of a coordinate name an endpoint; `own`: the
coordinate is of this module. -/
def State.namesOk (s : State) (c : W32) (own : Bool) : Bool :=
  let st := cStation c
  let low := cLow c
  match cKind c with
  | 0 => st ≤ 19 && low % 256 < 250 &&
    (!own || (decide (st < s.dies) && (s.tile (st * 4096 + low)).enabled && !(s.tile (st * 4096 + low)).unplaced))
  | 1 => 20 ≤ st && st ≤ 25 && low == 0xFFF
  | 2 => st ≤ 30 && (!own || !(s.dies ≤ st && st < 20))
  | 3 => st == 26 && low == 0
  | 4 => 27 ≤ st && st ≤ 30 && (!own || decide (low < (s.site st).endpoints))
  | 5 => st == 26 && (low == 0 || low == 0x100)
  | 7 => (st == 31 || (st ≤ 30 && (!own || !(s.dies ≤ st && st < 20)))) && low < 1024
  | _ => false

/-- R146, R181: the coordinate names an endpoint that is present. -/
def State.endpointOk (s : State) (c : W32) : Bool :=
  let own := cModule c == s.cfg.module
  s.namesOk c own && s.planeMask (cModule c) != 0 &&
    (!own || (cKind c == 7 && cStation c == 31) || (s.stn (cStation c)).present)

/-! ## Landing windows (R224) -/

def wWord (w : BitVec 256) (i : Nat) : Nat := cfgField w.toNat (8 * i) 8
def wValid (w : BitVec 256) : Bool := bit (wWord w 0) 63
def wPermA (w : BitVec 256) : Bool := bit (wWord w 0) 62
def wPermW (w : BitVec 256) : Bool := bit (wWord w 0) 61
def wPermR (w : BitVec 256) : Bool := bit (wWord w 0) 60
def wKind (w : BitVec 256) : Nat := bits (wWord w 0) 59 58
def wLog2 (w : BitVec 256) : Nat := bits (wWord w 0) 57 52
def wJob (w : BitVec 256) : Nat := bits (wWord w 0) 51 40
def wRsvd0 (w : BitVec 256) : Nat := bits (wWord w 0) 39 0
def wBase (w : BitVec 256) : Nat := wWord w 1
def wTarget (w : BitVec 256) : Nat := wWord w 2
def wRegions (w : BitVec 256) : Nat := bits (wWord w 2) 63 48
def wLo (w : BitVec 256) : Nat := bits (wWord w 2) 27 16
def wHi (w : BitVec 256) : Nat := bits (wWord w 2) 12 0
def wPort (w : BitVec 256) : Nat := wWord w 3 % 2
def wRsvd3 (w : BitVec 256) : Nat := wWord w 3 / 2

/-- A window of a job and kind covers `n` bytes from a VA. -/
def wCovers (w : BitVec 256) (job kind va n : Nat) : Bool :=
  wValid w && wJob w == job && wKind w == kind && wBase w ≤ va && decide (va + n ≤ wBase w + 2 ^ wLog2 w)

/-- R224: the window of a station that covers a range. -/
def State.findWindow (s : State) (station job kind va n : Nat) : Option (BitVec 256) :=
  ((s.stn station).windows.find? fun e => wCovers e.2 job kind va n).map (·.2)

/-- R226, check 4: the TKIND that fits an EP_KIND. -/
def tkindOf (epKind : Nat) : Nat := match epKind with | 1 => 0 | 0 => 1 | 5 => 2 | _ => 3

/-! ## Module memory (R227, R228) -/

def channelBytes : Nat := 2415919104

/-- S, the slots of 144 MiB (R227). -/
def Mem.slots (m : Mem) : Nat := 3072 - 16 * m.reserve

/-- Usable module memory in bytes. -/
def Mem.bytes (m : Mem) : Nat := m.slots * 150994944

/-- R228: the channel and position of a slot, as channel × 16 + position. -/
def Mem.slotPlace (m : Mem) (slot : Nat) : Nat := mget (slot % 192 * 16 + slot / 192) m.slotMap slot

/-- R228: the slot and the index in it of a line. -/
def Mem.lineSlot (m : Mem) (line : Nat) : Nat × Nat :=
  let i := line / m.slots
  let f := i * 0x9E3779B1 % 2 ^ 32 / 2 ^ 20 % m.slots
  ((line % m.slots + f) % m.slots, i)

/-- The key in `Mem.hbm` of a byte at a place (channel × 16 + position). -/
def hbmKeyAt (place i offset : Nat) : Nat :=
  place / 16 * channelBytes + (place % 16 * 589824 + i) * 256 + offset

/-- R228: the key of the byte at an MPA. -/
def Mem.key (m : Mem) (mpa : Nat) : Nat :=
  let (slot, i) := m.lineSlot (mpa / 256)
  hbmKeyAt (m.slotPlace slot) i (mpa % 256)

/-- R251: the second place of a byte whose slot is being moved and has been copied. -/
def Mem.secondKey (m : Mem) (mpa : Nat) : Option Nat :=
  let (slot, i) := m.lineSlot (mpa / 256)
  if m.retSt = 2 then (m.moves.find? (·.1 == slot)).map fun p => hbmKeyAt p.2 i (mpa % 256) else none

/-- The channel of an MPA, and its memory station (R227). -/
def Mem.channelOf (m : Mem) (mpa : Nat) : Nat := m.slotPlace (m.lineSlot (mpa / 256)).1 / 16
def channelStation (c : Nat) : Nat := 20 + c / 32

/-- The bytes of a range within one line. -/
def Mem.read (m : Mem) (mpa n : Nat) : List Byte := readBytes m.hbm (m.key mpa) n

/-- The first protected word of 32 B of a range with an uncorrectable error (R230). -/
def Mem.badWord (m : Mem) (mpa n : Nat) : Option Nat := (m.hbmPoison.filter (touches 32 (m.key mpa) n)).min?

/-- The first uncorrectable word that a write of the range covers only in part. -/
def Mem.badPartial (m : Mem) (mpa n : Nat) : Option Nat :=
  (m.hbmPoison.filter fun w => touches 32 (m.key mpa) n w && !covers 32 (m.key mpa) n w).min?

/-- Write bytes at a key: words wholly covered lose their errors. -/
def Mem.writeKey (m : Mem) (k : Nat) (bs : List Byte) : Mem :=
  { m with
    hbm := writeBytes m.hbm k bs
    hbmPoison := m.hbmPoison.filter fun w => !covers 32 k bs.length w
    hbmSoft := m.hbmSoft.filter fun w => !touches 32 k bs.length w }

/-- Write bytes at an MPA, at both places while a slot moves (R251). -/
def Mem.write (m : Mem) (mpa : Nat) (bs : List Byte) : Mem :=
  let k2 := m.secondKey mpa
  let m := m.writeKey (m.key mpa) bs
  match k2 with
  | none => m
  | some k => m.writeKey k bs

/-- R230: an uncorrectable read is counted and recorded. -/
def State.hbmUncorr (s : State) (word : Nat) : State :=
  let c := word * 32 / channelBytes
  let x := s.chan c
  (s.setChan c { x with uncorr := satInc 65535 x.uncorr }).recStn 0x6004 none (channelStation c)
    (BitVec.ofNat 8 c :: leBytes 4 (word * 32 % channelBytes / 32))

/-- R230, R255: corrected words of a read are counted, each 32-byte word by itself, while a read that cannot be
corrected counts once: R255 names no unit (DESIGN CHOICE, log entry 83). -/
def State.hbmCorr (s : State) (mpa n : Nat) : State :=
  let ws := s.mem.hbmSoft.filter (touches 32 (s.mem.key mpa) n)
  if ws.isEmpty then s
  else
    let c := s.mem.channelOf mpa
    let x := s.chan c
    s.setChan c { x with corr := satAdd 4294967295 x.corr ws.length }

/-! ## Checks of a request (R209, R222, R226) -/

/-- R209, R4: the age of a packet at a station's HT, ns; an ISSUE_HT ahead of it has age 0. -/
def pktAge (now issue : W32) : Nat := if older issue now then (now - issue).toNat else 0

/-- The full HT that a stamp's low 32 bits stand for (R4). -/
def fullHt (now : Nat) (stamp : W32) : Nat :=
  if older stamp (ht32 now) || stamp == ht32 now then now - (ht32 now - stamp).toNat
  else now + (stamp - ht32 now).toNat

/-- The width of an atomic's operand (R235). -/
def Packet.width (p : Packet) : Nat := if p.op == 6 then p.payload.length / 2 else p.payload.length

/-- The bytes of the range a request names. -/
def Packet.span (p : Packet) : Nat :=
  if p.kind == kLOAD then 4 * p.lsize
  else if p.kind == kATOMIC then Packet.width p
  else p.payload.length

/-- R188, R222, R223: size, placement and OP, and a DST that holds memory. -/
def sizeOk (p : Packet) : Bool :=
  let n := Packet.span p
  let va := p.va
  (cKind p.dst == 0 || cKind p.dst == 1 || cKind p.dst == 4 || cKind p.dst == 5) &&
  opListed p.kind p.op.toNat &&
  (if p.kind == kATOMIC then
    (n == 4 || n == 8 || n == 16) && va % n == 0 && (p.op != 6 || p.payload.length == 2 * n)
  else 4 ≤ n && n ≤ 256 && n % 4 == 0 && va % 4 == 0 && decide (va % 256 + n ≤ 256) &&
    (p.kind != kMSG || p.msgCount == 1 || va % 256 == 0))

/-- R226, check 5: what the window grants. -/
def granted (p : Packet) (w : BitVec 256) : Bool :=
  (if p.kind == kLOAD then wPermR w else if p.kind == kATOMIC then wPermA w else wPermW w) &&
  (wKind w != 1 ||
    (bit (wRegions w) (cLow p.dst / 256) && decide (64 * wLo w ≤ p.va - wBase w) &&
      decide (p.va - wBase w + Packet.span p ≤ 64 * wHi w)))

/-- R471, R472: the request is answered SAFE_STATE. -/
def State.safeFor (s : State) (p : Packet) : Bool :=
  let inSafe := fun q => (s.part q).st == .safeState
  s.safe.shared ||
    (if cKind p.dst == 0 then
      let x := s.tile (destTile p.dst)
      x.enabled && inSafe x.partition
    else match s.partOfJob p.job with
      | some q => inSafe q
      | none => false)

/-- R408: the request names a tile of a scope in its apply step. -/
def State.applyingFor (s : State) (p : Packet) : Bool :=
  let x := s.tile (destTile p.dst)
  cKind p.dst == 0 && x.enabled && (s.part x.partition).st == .applying

/-- R57, R226 check 6: the tile answers DEST_FENCED. -/
def Tile.refuses (x : Tile) : Bool :=
  x.draining || x.st == .fencing || x.st == .fenced || x.st == .faulted

/-- The outcome of a request's checks. -/
inductive Check where
  /-- Answered with a status; `code` of the Peat record, 0 for none. -/
  | refuse (st : Byte) (code : Nat)
  | discardAge
  /-- Passed, with its window. -/
  | pass (w : BitVec 256)
  deriving DecidableEq, Repr

/-- Checks 3 to 5 of R226 with the windows of a station, and SAFE_STATE behind check 4 (R471). -/
def State.windowCheck (s : State) (station : Nat) (p : Packet) : Check :=
  if !sizeOk p then .refuse St.notPermitted 0
  else match s.findWindow station p.job (tkindOf (cKind p.dst)) p.va (Packet.span p) with
    | none => .refuse St.translationMiss 0x6002
    | some w =>
      if s.safeFor p then .refuse St.safeState 0
      else if s.applyingFor p then .refuse St.quiesced 0
      else if !granted p w then .refuse St.notPermitted 0x6003
      else .pass w

/-- R226: checks 1 to 6 of a request at its target station. -/
def State.checkReq (s : State) (station : Nat) (p : Packet) : Check :=
  if !s.endpointOk p.dst then .refuse St.noEndpoint 0
  else if s.fabric.ageMax * 1000 < pktAge (ht32 (s.stnHt station)) p.issueHt then .discardAge
  else match s.windowCheck station p with
    | .pass w =>
      if cKind p.dst == 0 && (s.tile (destTile p.dst)).refuses then .refuse St.destFenced 0 else .pass w
    | c => c

/-- R254: an answer TRANSLATION_MISS or NOT_PERMITTED is counted at the station that gives it. -/
def State.countAnswer (s : State) (station : Nat) (st : Byte) : State :=
  s.updStn station fun x =>
    { x with
      miss := if st == St.translationMiss then satInc 65535 x.miss else x.miss
      perm := if st == St.notPermitted then satInc 65535 x.perm else x.perm }

/-- R226: a failure of check 4 or 5 is recorded. -/
def State.recordRefusal (s : State) (station : Nat) (p : Packet) (code : Nat) : State :=
  if code = 0 then s else s.recStn code (s.partOfJob p.job) station (leBytes 8 p.va)

/-- R226, R254: a refusal is counted at the station that gives it, and checks 4 and 5 are recorded. -/
def State.countRefusal (s : State) (station : Nat) (p : Packet) (st : Byte) (code : Nat) : State :=
  (s.countAnswer station st).recordRefusal station p code

/-- R209: a request too old is discarded, counted and recorded. -/
def State.discardAge (s : State) (station : Nat) (p : Packet) : State :=
  (s.updStn station fun x => { x with discAge := satInc 65535 x.discAge }).recStn 0x5004
    (s.partOfJob p.job) station
    (leBytes 4 (pktAge (ht32 (s.stnHt station)) p.issueHt) ++ [BitVec.ofNat 8 p.kind])

/-! ## The oldest packet at a destination station -/

/-- R488: credits on a station's ejection for a VC are withheld for a share of each 1,000 ns. -/
def State.withheld (s : State) (station vc : Nat) : Bool :=
  let w := bits (mget 0 (s.stn station).tstVc vc).toNat 19 16
  decide (s.ht % 1000 * 16 < w * 1000)

/-- R194: the ejection that a packet leaves a station by: a tile, the memory controller of its line's channel,
the collective engine, the site or the rest. -/
def State.ejection (s : State) (station : Nat) (p : Packet) : Nat :=
  match cKind p.dst with
  | 0 => destTile p.dst
  | 1 => match s.windowCheck station p with
    | .pass w => 2 ^ 17 + s.mem.channelOf (wTarget w + (p.va - wBase w))
    | _ => 2 ^ 17 + 2 ^ 12
  | 2 | 7 => 2 ^ 18
  | 4 => 2 ^ 18 + 1
  | _ => 2 ^ 18 + 2

/-- The packet is of a kind that its destination station takes by a step. -/
def taken (station : Nat) (k : Nat) : Bool :=
  (1 ≤ k && k ≤ 11) || k == kGNG_ROW || k == kGNG_PUSH || (k == kPRESENCE && station == 26)

/-- R238: two requests of one source that are applied in the order of their issue. -/
def ordered (p q : Packet) : Bool :=
  p.src == q.src && p.dst == q.dst && p.va / 64 == q.va / 64 && p.vc == q.vc &&
    !p.timed && !q.timed && !p.retry && !q.retry

/-- R205, R238, R246: the packet follows a request of its source that its station has taken and not yet applied:
an atomic that waits for a Mire entry, or the held last packet of another message that was stamped before it. -/
def State.behindWait (s : State) (station : Nat) (p : Packet) : Bool :=
  kindIsMem p.kind && (((s.stn station).atomicWait.any fun e => ordered e.1 p) ||
    (s.stn station).msgs.any fun e => e.held.any fun q => ordered q p && q.txid != p.txid && older q.issueHt p.issueHt)

/-- R194: an ejection takes the packets of a VC in the order of R193: the oldest packet of the kinds named that
no packet of its ejection and VC precedes. DESIGN CHOICE: no pick of R195 among VCs, log entry 82. A tile whose region is stopped for a clock step takes none (R308). -/
def State.takeDest (s : State) (station : Nat) (q : Packet → Bool) : Option Flight :=
  let here := s.fabric.pkts.filter fun f => decide (f.place = .dest station) && taken station f.pkt.kind
  firstFlight (here.filter fun f =>
    q f.pkt && (if cKind f.pkt.dst == 0 then !(s.rgn (destTile f.pkt.dst / 256)).stands else !s.withheld station f.pkt.vc) &&
      !s.behindWait station f.pkt && (
      let e := s.ejection station f.pkt
      here.all fun g => g.pkt.vc != f.pkt.vc || g.seq == f.seq || f.before g || s.ejection station g.pkt != e))

/-! ## Direct writes of the module through a job's HBM windows -/

/-- A write of the module itself within one line, through an HBM window, with the checks of R226 and R230: its
status, and the bytes written with DONE. -/
def State.storeAt (s : State) (w : BitVec 256) (va : Nat) (bs : List Byte) : State × Byte :=
  if s.safe.shared then (s, St.safeState)
  else if !wPermW w then (s, St.notPermitted)
  else
    let mpa := wTarget w + (va - wBase w)
    match s.mem.badPartial mpa bs.length with
    | some v => (s.hbmUncorr v, St.poisoned)
    | none => ({ s with mem := s.mem.write mpa bs }, St.done)

/-- A write of the module itself (a failure-ring record, a status block, a result) through the HBM
windows of a job. -/
def State.storeVa (s : State) (station job va : Nat) (bs : List Byte) : State × Byte :=
  match s.findWindow station job 0 va bs.length with
  | none => (s, St.translationMiss)
  | some w => s.storeAt w va bs

/-- The worst of two statuses. -/
def worseStatus (a b : Byte) : Byte :=
  if b = 0 then a else if a = 0 then b else if b.toNat < a.toNat then b else a

/-- R228: a long range through one window, line by line from an address aligned to 256 bytes: every line has its own
slot and channel. -/
def State.storeLines (s : State) (w : BitVec 256) (va : Nat) (bs : List Byte) : State × Byte :=
  ((chunks 256 bs).zipIdx).foldl (fun (acc : State × Byte) c =>
    let r := acc.1.storeAt w (va + 256 * c.2) c.1
    (r.1, worseStatus acc.2 r.2)) (s, St.done)

/-- The same through the windows of a job; the worst status. -/
def State.storeBlocks (s : State) (station job va : Nat) (bs : List Byte) : State × Byte :=
  ((chunks 256 bs).zipIdx).foldl (fun (acc : State × Byte) c =>
    let r := acc.1.storeVa station job (va + 256 * c.2) c.1
    (r.1, worseStatus acc.2 r.2)) (s, St.done)

end Sys2Proof.Machine
end

