-- ==== Sys2Proof/Machine/MemOps.lean ====
section
/-! DEFINITION. Requests at their target station: loads (R231), store combining (R233, R234),
messages (R204 to R207), atomics and Mire (R235 to R247), hosts (R447, R448) and chiplets (R392). -/

namespace Sys2Proof.Machine

/-! ## Combining entries (R233) -/

def combineNs : Nat := 32

/-- The bytes of a request in each 64-byte line it covers: line and bytes by offset. -/
def linePieces (a : Nat) (bs : List Byte) : List (Nat × SMap Byte) :=
  if bs.isEmpty then []
  else (List.range ((a + bs.length - 1) / 64 - a / 64 + 1)).map fun i =>
    let l := a / 64 + i
    (l, (bs.zipIdx).filterMap fun b => if (a + b.2) / 64 = l then some ((a + b.2) % 64, b.1) else none)

/-- The open entries and the number of merges after one piece, where it can be accepted. -/
def combineOne (limit ht : Nat) (p : Packet) (cs : List Combine) (piece : Nat × SMap Byte) :
    Option (List Combine × Nat) :=
  match cs.find? (·.line == piece.1) with
  | some c =>
    if ht ≤ c.opened + combineNs then
      some (cs.map fun d =>
        if d.line = piece.1 then { d with stores := d.stores ++ [(p, St.done, piece.2)] } else d, 1)
    else none
  | none =>
    if cs.length < limit then
      some (cs ++ [{ line := piece.1, opened := ht, stores := [(p, St.done, piece.2)] }], 0)
    else none

/-- A store or message packet accepted into the entries of all its lines, or none of them. -/
def combineAll (limit ht : Nat) (p : Packet) :
    List Combine → List (Nat × SMap Byte) → Option (List Combine × Nat)
  | cs, [] => some (cs, 0)
  | cs, x :: xs =>
    match combineOne limit ht p cs x with
    | none => none
    | some (cs, n) => (combineAll limit ht p cs xs).map fun r => (r.1, r.2 + n)

/-- The merged byte that open entries hold for an address. -/
def overlay (cs : List Combine) (a : Nat) : Option Byte :=
  match cs.find? (·.line == a / 64) with
  | none => none
  | some c => c.stores.foldl (fun acc st =>
      match st.2.2.find? (·.1 == a % 64) with
      | some b => some b.2
      | none => acc) none

/-- The bytes of a range with those of open entries merged in. -/
def mergedBytes (cs : List Combine) (a : Nat) (bs : List Byte) : List Byte :=
  (bs.zipIdx).map fun b => (overlay cs (a + b.2)).getD b.1

/-- The entries whose 32 ns have passed, oldest first. -/
def oldestDue (ht : Nat) : List Combine → Option Combine
  | [] => none
  | c :: cs =>
    match oldestDue ht cs with
    | none => if c.opened + combineNs ≤ ht then some c else none
    | some d => if c.opened + combineNs ≤ ht && c.opened ≤ d.opened then some c else some d

/-- R234: the bytes of one store in one protected word of `w` bytes. -/
def wordBytes (w j : Nat) (bs : SMap Byte) : SMap Byte := bs.filter fun b => b.1 / w == j

/-- R31, R234: one store's bytes, which lie side by side, written to a tile's line word by word; the words it is
refused in. -/
def Tile.applyStore (x : Tile) (bad : List Nat) (line : Nat) (bs : SMap Byte) : Tile × List Nat :=
  (List.range 8).foldl (fun (acc : Tile × List Nat) j =>
    let ws := wordBytes 8 j bs
    let w := line * 8 + j
    match ws with
    | [] => acc
    | b :: _ =>
      if w ∈ bad && ws.length != 8 then (acc.1, acc.2 ++ [w])
      else (acc.1.wmem (line * 64 + b.1) (ws.map (·.2)), acc.2)) (x, [])

/-- The same in module memory, words of 32 B. -/
def Mem.applyStore (m : Mem) (bad : List Nat) (line : Nat) (bs : SMap Byte) : Mem × List Nat :=
  (List.range 2).foldl (fun (acc : Mem × List Nat) j =>
    let ws := wordBytes 32 j bs
    let w := m.key (line * 64 + 32 * j) / 32
    match ws with
    | [] => acc
    | b :: _ =>
      if w ∈ bad && ws.length != 32 then (acc.1, acc.2 ++ [w])
      else (acc.1.write (line * 64 + b.1) (ws.map (·.2)), acc.2)) (m, [])

/-- Two packets of one request. -/
def sameReq (p q : Packet) : Bool :=
  p.src == q.src && p.txid == q.txid && p.kind == q.kind && p.msgSeq == q.msgSeq

def sameMsg (src : W32) (txid : BitVec 24) (q : Packet) : Bool :=
  (q.kind == kMSG || q.kind == kGNG_PUSH) && q.src == src && q.txid == txid

/-- The combining entries that hold the lines of a request's target. -/
def State.combineOf (s : State) (station : Nat) (dst : W32) : List Combine :=
  if cKind dst = 0 then (s.tile (destTile dst)).combine else (s.stn station).combine

def State.setCombine (s : State) (station : Nat) (dst : W32) (cs : List Combine) : State :=
  if cKind dst = 0 then s.updTile (destTile dst) fun x => { x with combine := cs }
  else s.updStn station fun x => { x with combine := cs }

/-- The address at the target that a VA has in its window (R224). -/
def winAddr (w : BitVec 256) (va : Nat) : Nat := if wKind w = 1 then va - wBase w else wTarget w + (va - wBase w)

/-- R447: a host write. -/
def State.hostWrite (s : State) (p : Packet) (w : BitVec 256) : State :=
  (s.emit (.pcieWrite (wPort w) (winAddr w p.va) p.payload)).updPort (wPort w)
    fun q => { q with unflushed := q.unflushed ++ [p] }

/-- R448: the status of a request to a port that is sent nothing. -/
def Port.refusal (q : Port) : Option Byte :=
  if !q.up then some St.linkLost else if !q.bme then some St.notPermitted else none

def State.updMsg (s : State) (station : Nat) (src : W32) (txid : BitVec 24) (f : MsgEntry → MsgEntry) :
    State :=
  s.updStn station fun x => { x with
    msgs := x.msgs.map fun e => if e.src == src && e.txid == txid then f e else e }

def Station.msgOf (x : Station) (p : Packet) : Option MsgEntry :=
  x.msgs.find? fun e => e.src == p.src && e.txid == p.txid

/-- R392: a message packet goes to the chiplet; the message is one of its outstanding requests from the first
on, and waits while MAX_IN are. -/
def State.acceptChip (s : State) (station : Nat) (p : Packet) (w : BitVec 256) : Option State :=
  let x := s.site station
  let tx := Out.chipletTx station p (winAddr w p.va)
  if x.st ≠ 3 then none
  else if ((s.stn station).msgOf p).any (·.toChip) then some (s.emit tx)
  else if cfgField x.decl.toNat 18 2 ≤ x.inFlight then none
  else some (((s.setSite station { x with inFlight := x.inFlight + 1 }).emit tx).updMsg station p.src p.txid
    fun e => { e with toChip := true })

/-- A message for the management firmware; it is held during a hand-off (R417). -/
def State.toMgmt (s : State) (p : Packet) : State :=
  if s.handOff then { s with cfg := { s.cfg with heldMgmt := s.cfg.heldMgmt ++ [p] } } else s.emit (.mgmt p)

/-- R233: a store or message packet is accepted; none while it must wait. A store that merges into the open entries
of several lines counts once for each in MEM_STN_MERGE: R254 counts "stores merged into an open combining entry"
and names no unit (DESIGN CHOICE, log entry 83). A GNG_PUSH packet for firmware has no window. -/
def State.accept (s : State) (station : Nat) (p : Packet) (w : BitVec 256) : Option State :=
  if cKind p.dst = 3 then some (s.toMgmt p)
  else if wKind w = 2 then some (s.hostWrite p w)
  else if wKind w = 3 then s.acceptChip station p w
  else
    let limit := if wKind w = 1 then 4 else 512
    match combineAll limit s.ht p (s.combineOf station p.dst) (linePieces (winAddr w p.va) p.payload) with
    | none => none
    | some (cs, n) =>
      some ((s.setCombine station p.dst cs).updStn station fun x => { x with merge := (x.merge + n) % 2 ^ 32 })

/-! ## Messages (R204 to R207) -/

/-- R41, R165, R205: a counter of a tile counts one event; a failure sets CNT_FAIL and FAIL_CNT.
A fenced tile counts nothing. -/
def Tile.countEvent (x : Tile) (c : Nat) (fail : Bool) : Tile :=
  if x.st == .fenced then x
  else
    let x := x.wc c (x.rc c + 1)
    if fail then { x with
      flags := x.flags ||| BitVec.ofNat 32 (2 ^ (16 + c)), failCnt := satInc 65535 x.failCnt }
    else x

/-- The packets of a message that are accepted and not yet written. -/
def State.msgUnwritten (s : State) (station : Nat) (e : MsgEntry) : Bool :=
  ((s.combineOf station e.dst).any fun c => c.stores.any fun st => sameMsg e.src e.txid st.1) ||
  (List.range 2).any fun n =>
    let q := s.port n
    q.unflushed.any (sameMsg e.src e.txid) || q.reqs.any fun r => r.covers.any (sameMsg e.src e.txid)

/-- The line at the target that a byte of a request falls in: the memory's key and the line. -/
def State.targetLine (s : State) (station : Nat) (p : Packet) (w : BitVec 256) : Nat × Nat :=
  (if cKind p.dst = 0 then destTile p.dst else 2 ^ 17, winAddr w p.va / 64)

/-- R233: a packet that writes a range must let go ahead an atomic that waits at its station for one of its
lines: one waiting for a Mire entry, or one at the station that `ahead` says precedes it. -/
def State.behindAtomic (s : State) (station : Nat) (p : Packet) (w : BitVec 256) (ahead : Flight → Bool) : Bool :=
  let l := s.targetLine station p w
  let last := (winAddr w p.va + p.payload.length - 1) / 64
  let hits := fun q : Packet =>
    match s.findWindow station q.job (tkindOf (cKind q.dst)) q.va (Packet.width q) with
    | none => false
    | some v =>
      let m := s.targetLine station q v
      m.1 == l.1 && decide (l.2 ≤ m.2) && decide (m.2 ≤ last)
  (s.stn station).atomicWait.any (fun e => hits e.1) ||
  s.fabric.pkts.any fun g =>
    decide (g.place = .dest station) && g.pkt.kind == kATOMIC && ahead g && hits g.pkt

def State.dropMsg (s : State) (station : Nat) (src : W32) (txid : BitVec 24) : State :=
  s.updStn station fun x => { x with msgs := x.msgs.filter fun e => !(e.src == src && e.txid == txid) }

/-- A message that its chiplet does not answer is no longer outstanding there (R392). -/
def State.endChip (s : State) (station : Nat) (e : MsgEntry) : State :=
  if e.toChip then s.setSite station { s.site station with inFlight := (s.site station).inFlight - 1 } else s

/-- R205, complete(e), once every byte is written: notification and acknowledgement. A message that a chiplet
has taken whole is acknowledged by the chiplet (R232, R392). -/
def State.msgFinish (s : State) (station : Nat) (e : MsgEntry) : State :=
  let s := s.dropMsg station e.src e.txid
  let s := if e.notify && cKind e.dst == 0 then
      s.updTile (destTile e.dst) fun x => x.countEvent e.ctr (e.status != St.done)
    else s
  let s := s.countAnswer station e.status
  if e.push then s
  else if e.toChip && e.status == St.done then s
  else (s.endChip station e).sendFrom station
    { kind := kMSG_ACK, vc := 1, job := e.job, txid := e.txid, dst := e.src, src := e.dst, addr := e.addr,
      op := e.status.toNat, status := e.status.toNat }

/-- The window of a message packet; one for firmware (R216) needs none. -/
def State.msgWindow (s : State) (station : Nat) (p : Packet) : Option (BitVec 256) :=
  if cKind p.dst = 3 then some 0
  else s.findWindow station p.job (tkindOf (cKind p.dst)) p.va p.payload.length

/-- R205, R232: a message all of whose packets are in goes on: the held packet is written after all
others, and then the message is complete. -/
def State.msgStep (s : State) (station : Nat) (e : MsgEntry) : State :=
  if e.got < e.count || s.msgUnwritten station e then s
  else match e.held with
    | none => s.msgFinish station e
    | some p =>
      match s.msgWindow station p with
      | none => s.updMsg station e.src e.txid fun m => { m with held := none, status := worseStatus m.status St.translationMiss }
      | some w =>
        if cKind p.dst != 3 && wKind w ≤ 1 && s.behindAtomic station p w (fun _ => true) then s
        else match s.accept station p w with
          | none => s
          | some s' => s'.updMsg station e.src e.txid fun m => { m with held := none }

/-- Every complete message of a station goes on as far as it can: once for the held packet, once for
the end. -/
def State.msgSweep (s : State) (station : Nat) : State :=
  let once := fun s : State => (s.stn station).msgs.foldl (fun s e => s.msgStep station e) s
  once (once s)

/-- R206, R205: the entry of a packet, new where there is none. -/
def newMsg (p : Packet) : MsgEntry :=
  { src := p.src, txid := p.txid, dst := p.dst, job := p.job, count := p.msgCount, got := 0,
    status := St.done, notify := bit p.op.toNat 4 && p.kind == kMSG, ctr := p.op.toNat % 16,
    minHt := p.issueHt, addr := p.addr - 256 * p.msgSeq, push := p.kind == kGNG_PUSH }

/-- The packet is counted in its entry with a status. -/
def State.msgCount (s : State) (station : Nat) (p : Packet) (st : Byte) (held : Option Packet) : State :=
  s.updMsg station p.src p.txid fun e => { e with
    got := e.got + 1
    minHt := if older p.issueHt e.minHt then p.issueHt else e.minHt
    status := worseStatus e.status st
    held := held.orElse fun _ => e.held }

/-- The scheduled partition of a job of this module. -/
def State.scheduledOf (s : State) (job : Nat) : Option Nat :=
  (s.partOfJob job).filter fun p => !(s.part p).adaptive

/-- R390, R392: the chiplet of a site has declared a KIND. -/
def State.chipTakes (s : State) (station : Nat) (kind : Nat) : Bool :=
  bit (cfgField (s.site station).decl.toNat 8 8) kind

/-- R392, R393: the chiplet of a site serves a request: its KIND is declared, and a timed packet of a scheduled
partition finds TIME level 2 (R393 names no answer otherwise: DESIGN CHOICE as for a KIND, log entry 87). -/
def State.chipServes (s : State) (station : Nat) (p : Packet) : Bool :=
  s.chipTakes station p.kind && (!p.timed || (s.scheduledOf p.job).isNone || decide (2 ≤ cfgField (s.site station).decl.toNat 7 1))

/-- R392, R394: the chiplet of a site accepts a LOAD or STORE: it is present and its KIND is declared;
none while MAX_IN are outstanding or its link is DOWN. -/
def State.toChiplet (s : State) (station : Nat) (f : Flight) (w : BitVec 256) : State :=
  let x := s.site station
  let p := f.pkt
  if !(s.stn station).present then
    ((s.dropPkt f.seq).countRefusal station p St.noEndpoint 0).answer station p St.noEndpoint []
  else if !s.chipServes station p then
    ((s.dropPkt f.seq).countRefusal station p St.notPermitted 0).answer station p St.notPermitted []
  else if x.st ≠ 3 ∨ cfgField x.decl.toNat 18 2 ≤ x.inFlight then s
  else
    ((s.dropPkt f.seq).setSite station { x with inFlight := x.inFlight + 1 }).emit
      (.chipletTx station p (winAddr w p.va))

/-- A request refused by its checks at its target station (R226). -/
def State.refuseReq (s : State) (station : Nat) (f : Flight) (c : Check) : State :=
  let s' := s.dropPkt f.seq
  match c with
  | .refuse st code =>
    -- DEST_FENCED comes from the tile's router (R57), every other refusal from the station
    if st = St.destFenced then (s'.countRefusal station f.pkt st code).replyAt station f.pkt st []
    else (s'.countRefusal station f.pkt st code).answer station f.pkt st []
  | .discardAge => s'.discardAge station f.pkt
  | .pass _ => s

/-- R226, R392, R448: the checks of a MSG packet with those of the chiplet or the host port it is for; a GNG_PUSH
for firmware (R216) names no memory, and its age alone is checked. -/
def State.checkMsg (s : State) (station : Nat) (p : Packet) : Check :=
  if p.kind == kGNG_PUSH && cKind p.dst == 3 then
    if s.fabric.ageMax * 1000 < pktAge (ht32 (s.stnHt station)) p.issueHt then .discardAge else .pass 0
  else match s.checkReq station p with
  | .pass w =>
    if wKind w = 3 && !(s.stn station).present then .refuse St.noEndpoint 0
    else if wKind w = 3 && !s.chipServes station p then .refuse St.notPermitted 0
    else match if wKind w = 2 then (s.port (wPort w)).refusal else none with
      | some st => .refuse st 0
      | none => .pass w
  | c => c

/-- R205: a MSG packet, or a packet of the GNG_PUSH message, at its destination station. -/
def State.msgArrive (s : State) (station : Nat) (f : Flight) : State :=
  let p := f.pkt
  let c := s.checkMsg station p
  match c with
  | .discardAge => (s.dropPkt f.seq).discardAge station p
  | _ =>
    let fresh := ((s.stn station).msgOf p).isNone
    if fresh && 4096 ≤ (s.stn station).msgs.length then
      ((s.dropPkt f.seq).updStn station fun x => { x with discNoent := satInc 65535 x.discNoent }).recStn
        0x5002 none station (leBytes 4 p.src.toNat ++ leBytes 4 p.txid.toNat)
    else
      let d := s.dropPkt f.seq
      let o := if fresh then d.updStn station fun x => { x with msgs := x.msgs ++ [newMsg p] } else d
      match c with
      | .refuse st code => ((o.recordRefusal station p code).msgCount station p st none).msgSweep station
      | .pass w =>
        if p.last && p.kind == kMSG || p.kind == kGNG_PUSH && p.msgSeq + 1 == p.msgCount then
          (o.msgCount station p St.done (some p)).msgSweep station
        else if cKind p.dst != 3 && wKind w ≤ 1 && s.behindAtomic station p w (·.before f) then s
        else match o.accept station p w with
          | none => s
          | some s' => (s'.msgCount station p St.done none).msgSweep station
      | .discardAge => s

/-- R205 MSG_PACKET_ARRIVE. -/
def execMsgPacketArrive (station : Nat) (s : State) : Res :=
  .next (match s.takeDest station fun p => p.kind == kMSG || p.kind == kGNG_PUSH with
    | none => s
    | some f => s.msgArrive station f)

/-- R207 MSG_ENTRY_EXPIRE: the first entry that has outlived PKT_MSG_SPAN + PKT_AGE_MAX is freed. -/
def execMsgEntryExpire (station : Nat) (s : State) : Res :=
  .next (
    let limit := (s.fabric.msgSpan + s.fabric.ageMax) * 1000
    match (s.stn station).msgs.find? fun e =>
        e.got < e.count && decide (limit < pktAge (ht32 (s.stnHt station)) e.minHt) with
    | none => s
    | some e =>
      let s := (s.dropMsg station e.src e.txid).endChip station e
      let s := s.updStn station fun x => { x with msgExp := satInc 65535 x.msgExp }
      let s := if e.notify && cKind e.dst == 0 then
          s.updTile (destTile e.dst) fun x => x.countEvent e.ctr true
        else s
      s.recStn 0x5003 (s.partOfJob e.job) station (leBytes 4 e.src.toNat ++ leBytes 4 e.txid.toNat))

/-! ## Loads (R231) -/

/-- The words of a range that stay unreadable with open entries merged in. -/
def unreadable (cs : List Combine) (poison : List Nat) (wordSize : Nat) (base a n : Nat) : Option Nat :=
  let ws := if n = 0 then [] else
    (List.range ((base + n - 1) / wordSize - base / wordSize + 1)).map (base / wordSize + ·)
  ws.find? fun w => decide (w ∈ poison) &&
    !((List.range wordSize).all fun j =>
        let k := w * wordSize + j
        decide (base ≤ k + (a % 64)) && (overlay cs (a + k - base)).isSome)

/-- R226 check 8, R231: a load reads its range in tile SRAM. -/
def State.loadTile (s : State) (station : Nat) (p : Packet) (a n : Nat) : State :=
  let t := destTile p.dst
  let x := s.tile t
  match unreadable x.combine x.poison 8 a a n with
  | some w =>
    ((s.setTile t (x.noteUncorr w)).recTile 0x6001 t (leBytes 4 (w * 8))).replyAt station p St.poisoned []
  | none =>
    (s.setTile t (x.noteCorr a n)).replyAt station p St.done (mergedBytes x.combine a (x.rmem a n))

/-- The same in module memory. -/
def State.loadHbm (s : State) (station : Nat) (p : Packet) (a n : Nat) : State :=
  let cs := (s.stn station).combine
  match unreadable cs s.mem.hbmPoison 32 (s.mem.key a) a n with
  | some w => (s.hbmUncorr w).answer station p St.poisoned []
  | none => (s.hbmCorr a n).answer station p St.done (mergedBytes cs a (s.mem.read a n))

/-- R439: at most 1,024 non-posted requests of the module are outstanding on a port. -/
def Port.reqsFull (q : Port) : Bool := 1024 ≤ q.reqs.length

/-- R439: the next 14-bit tag that no outstanding request has. -/
def Port.freeTag (q : Port) : Nat :=
  (((List.range 1025).map fun i => (q.nextTag + i) % 16384).find? fun t => !q.reqs.any (·.tag == t)).getD q.nextTag

/-- R447: a load from a host. -/
def State.loadHost (s : State) (station : Nat) (p : Packet) (w : BitVec 256) : State :=
  let n := wPort w
  let q := s.port n
  match q.refusal with
  | some st => (s.countRefusal station p st 0).answer station p st []
  | none =>
    let tag := q.freeTag
    (s.setPort n { q with reqs := q.reqs ++ [{ tag := tag, pkt := some p }], nextTag := (tag + 1) % 16384 }).emit
      (.pcieRead n (winAddr w p.va) (4 * p.lsize) tag)

/-- R226, R231 LOAD_APPLY: a LOAD that passes its checks reads its range and is answered. -/
def execLoadApply (station : Nat) (s : State) : Res :=
  .next (match s.takeDest station fun p => p.kind == kLOAD with
    | none => s
    | some f =>
      let p := f.pkt
      match s.checkReq station p with
      | .pass w =>
        let n := Packet.span p
        match wKind w with
        | 0 =>
          if s.retraining (s.mem.channelOf (winAddr w p.va)) then s
          else (s.dropPkt f.seq).loadHbm station p (winAddr w p.va) n
        | 1 => (s.dropPkt f.seq).loadTile station p (winAddr w p.va) n
        | 2 =>
          let q := s.port (wPort w)
          if q.refusal.isNone && q.reqsFull then s else (s.dropPkt f.seq).loadHost station p w
        | _ => s.toChiplet station f w
      | c => s.refuseReq station f c)

/-! ## Stores (R233, R234) -/

/-- R233 STORE_ACCEPT: a store is accepted into a combining entry, or waits. -/
def execStoreAccept (station : Nat) (s : State) : Res :=
  .next (match s.takeDest station fun p => p.kind == kSTORE with
    | none => s
    | some f =>
      let p := f.pkt
      match s.checkReq station p with
      | .pass w =>
        if wKind w = 3 then s.toChiplet station f w
        else if wKind w ≤ 1 && s.behindAtomic station p w (·.before f) then s
        else
          let refused := if wKind w = 2 then (s.port (wPort w)).refusal else none
          match refused with
          | some st => ((s.dropPkt f.seq).countRefusal station p st 0).answer station p st []
          | none =>
            match s.accept station p w with
            | none => s
            | some s' => s'.dropPkt f.seq
      | c => s.refuseReq station f c)

/-- R232, R234: one store of a written entry: acknowledged when no other of its lines is open. -/
def State.storeWritten (s : State) (station : Nat) (p : Packet) (st : Byte) : State :=
  if p.kind == kSTORE then
    let cs := s.combineOf station p.dst
    if cs.any fun c => c.stores.any fun x => sameReq x.1 p then
      s.setCombine station p.dst (cs.map fun c => { c with
        stores := c.stores.map fun x => if sameReq x.1 p then (x.1, worseStatus x.2.1 st, x.2.2) else x })
    else s.replyAt station p st []
  else s.updMsg station p.src p.txid fun e => { e with status := worseStatus e.status st }

/-- R233, R234: an entry is written to a tile's line. -/
def State.writeTileEntry (s : State) (t : Nat) (c : Combine) : State :=
  let station := tileStation t
  let bad := (s.tile t).poison
  let s := s.updTile t fun x => { x with combine := x.combine.filter fun d => d.line != c.line }
  let (s, done) := c.stores.foldl (fun (acc : State × List (Packet × Byte)) st =>
    let (x, refused) := (acc.1.tile t).applyStore bad c.line st.2.2
    let x := refused.foldl Tile.noteUncorr x
    let s := refused.foldl (fun s w => s.recTile 0x6001 t (leBytes 4 (w * 8))) (acc.1.setTile t x)
    (s, acc.2 ++ [(st.1, worseStatus st.2.1 (if refused.isEmpty then St.done else St.poisoned))])) (s, [])
  done.foldl (fun s r => s.storeWritten station r.1 r.2) s

/-- The same for module memory. -/
def State.writeHbmEntry (s : State) (station : Nat) (c : Combine) : State :=
  let bad := s.mem.hbmPoison
  let s := s.updStn station fun x => { x with combine := x.combine.filter fun d => d.line != c.line }
  let (s, done) := c.stores.foldl (fun (acc : State × List (Packet × Byte)) st =>
    let (m, refused) := acc.1.mem.applyStore bad c.line st.2.2
    let s := refused.foldl State.hbmUncorr { acc.1 with mem := m }
    (s, acc.2 ++ [(st.1, worseStatus st.2.1 (if refused.isEmpty then St.done else St.poisoned))])) (s, [])
  done.foldl (fun s r => s.storeWritten station r.1 r.2) s

/-- The oldest due entry of a station's tiles. -/
def State.dueTileEntry (s : State) (station : Nat) : Option (Nat × Combine) :=
  s.tiles.foldl (fun acc e =>
    if tileStation e.1 = station then
      match oldestDue s.ht e.2.combine, acc with
      | some c, none => some (e.1, c)
      | some c, some (t, d) => if c.opened < d.opened then some (e.1, c) else some (t, d)
      | none, a => a
    else acc) none

/-- R233, R385 COMBINE_ENTRY_WRITE: the oldest entry of the station, or of its tiles, whose 32 ns have
passed, and whose channel is not in its retrain, is written and its stores acknowledged. -/
def execCombineEntryWrite (station : Nat) (s : State) : Res :=
  .next (match oldestDue s.ht ((s.stn station).combine.filter fun c => !s.retraining (s.mem.channelOf (c.line * 64))),
      s.dueTileEntry station with
    | some c, none => (s.writeHbmEntry station c).msgSweep station
    | some c, some (t, d) =>
      if c.opened ≤ d.opened then (s.writeHbmEntry station c).msgSweep station
      else (s.writeTileEntry t d).msgSweep station
    | none, some (t, d) => (s.writeTileEntry t d).msgSweep station
    | none, none => s)

/-! ## Atomics (R235 to R237) and Mire (R242 to R247) -/

/-- R235: whether an operation returns the prior value. -/
def atomicReturns (op : Nat) : Bool := op != 1 && op != 10 && op != 11

/-- The width of a lane in bytes. -/
def atomicLane (op width : Nat) : Nat :=
  match op with
  | 5 | 6 | 7 | 8 | 9 => width
  | 10 => 4
  | 11 => 2
  | _ => if width = 4 then 4 else 8

/-- R235, R237: one lane of the new value, with the flags of a tile target. -/
def atomicLaneOp (op n old v : Nat) : Nat × W32 :=
  match op with
  | 1 | 2 => ((old + v) % 2 ^ (8 * n), 0)
  | 3 => (if sext (8 * n) old ≤ sext (8 * n) v then old else v, 0)
  | 4 => (if sext (8 * n) old ≤ sext (8 * n) v then v else old, 0)
  | 7 => (old &&& v, 0)
  | 8 => (old ||| v, 0)
  | 9 => (old ^^^ v, 0)
  | 10 => addCode 0 0 0 old v
  | 11 => addCode 1 0 0 old v
  | _ => (v, 0)

/-- R235: the new bytes of an atomic over the prior ones. -/
def atomicNew (p : Packet) (prior : List Byte) : List Byte × W32 :=
  let op := p.op.toNat
  let w := Packet.width p
  if op = 6 then (if p.payload.take w = prior then p.payload.drop w else prior, 0)
  else
    let n := atomicLane op w
    let rs := List.zipWith (fun a b => atomicLaneOp op n (leNat a) (leNat b)) (chunks n prior) (chunks n p.payload)
    ((rs.map fun r => leBytes n r.1).flatten, orAll (rs.map (·.2)))

/-- R242: every entry is in use. -/
def Station.mireFull (x : Station) : Bool := 65536 ≤ x.mire.length

/-- R242, R244: after a successful application the entry is created; it expires at ISSUE_HT + W. -/
def State.mireInsert (s : State) (station : Nat) (p : Packet) (result : List Byte) : State :=
  let e : MireEnt :=
    { src := p.src, txid := p.txid, result := result
      expires := fullHt (s.stnHt station) p.issueHt + s.mem.mireW * 1000 }
  s.updStn station fun x => { x with mire := x.mire ++ [e] }

/-- R236, R244: apply an atomic and answer it. -/
def State.atomicRun (s : State) (station : Nat) (p : Packet) (w : BitVec 256) : State :=
  let a := winAddr w p.va
  let n := Packet.width p
  let value := fun prior => if atomicReturns p.op.toNat then prior else []
  if wKind w = 1 then
    let t := destTile p.dst
    let x := s.tile t
    match x.badWord a n with
    | some v =>
      ((s.setTile t (x.noteUncorr v)).recTile 0x6001 t (leBytes 4 (v * 8))).replyAt station p St.poisoned []
    | none =>
      -- R31: the read of a 4-byte atomic is that of its narrow write
      let x := if n = 4 then x else x.noteCorr a n
      let prior := x.rmem a n
      let (new, fl) := atomicNew p prior
      ((s.setTile t ((x.wmem a new).orFlags fl)).mireInsert station p (value prior)).replyAt station p
        St.done (value prior)
  else
    match s.mem.badWord a n with
    | some v => (s.hbmUncorr v).answer station p St.poisoned []
    | none =>
      let s := s.hbmCorr a n
      let prior := s.mem.read a n
      let s := { s with mem := s.mem.write a (atomicNew p prior).1 }
      (s.mireInsert station p (value prior)).answer station p St.done (value prior)

/-- R244, R247: the original is stale: its age, modulo 2^32, is W or more, or it is older than mire_start. -/
def State.atomicStale (s : State) (station : Nat) (p : Packet) : Bool :=
  let now := ht32 (s.stnHt station)
  decide (s.mem.mireW * 1000 ≤ (now - p.issueHt).toNat) ||
    (decide (s.stnHt station < (s.stn station).mireStart + s.mem.mireW * 1000) &&
      older p.issueHt (ht32 (s.stn station).mireStart))

/-- R244: stale: OUTCOME_UNKNOWN to a retry, else a discard, each counted. -/
def State.staleOut (s : State) (station : Nat) (p : Packet) : State :=
  if p.retry then
    (s.updStn station fun x => { x with unknown := satInc 65535 x.unknown }).answer station p St.outcomeUnknown []
  else s.updStn station fun x => { x with staleAtomic := satInc 65535 x.staleAtomic }

/-- R244: the decision on an atomic that has passed checks 1 to 6; `none` while it must wait for an
entry. -/
def State.atomicDecide (s : State) (station : Nat) (p : Packet) (w : BitVec 256) : Option State :=
  match (s.stn station).mire.find? fun e => e.src == p.src && e.txid == p.txid with
  | some e =>
    some ((s.updStn station fun x => { x with replay := (x.replay + 1) % 2 ^ 32 }).answer station p
      St.replayed e.result)
  | none =>
    if s.atomicStale station p then some (s.staleOut station p)
    else if (s.stn station).mireFull then none
    else some (s.atomicRun station p w)

/-- R233, R385: the line of an atomic has an open entry, or its channel is in its retrain. -/
def State.lineOpen (s : State) (station : Nat) (p : Packet) (w : BitVec 256) : Bool :=
  ((s.combineOf station p.dst).any fun c => c.line == winAddr w p.va / 64) ||
    (wKind w == 0 && s.retraining (s.mem.channelOf (winAddr w p.va)))

/-- R226, R236, R244, R246 ATOMIC_APPLY: the atomic that waits for an entry first, else the oldest
at the station. -/
def execAtomicApply (station : Nat) (s : State) : Res :=
  .next (match (s.stn station).atomicWait with
    | (p, _) :: rest =>
      match s.findWindow station p.job (tkindOf (cKind p.dst)) p.va (Packet.width p) with
      | none => s
      | some w =>
        if s.lineOpen station p w then s
        else match s.atomicDecide station p w with
        | none => s
        | some s' => s'.updStn station fun x => { x with atomicWait := rest }
    | [] =>
      match s.takeDest station fun p => p.kind == kATOMIC with
      | none => s
      | some f =>
        let p := f.pkt
        match s.checkReq station p with
        | .pass w =>
          if s.lineOpen station p w then s
          else match (s.dropPkt f.seq).atomicDecide station p w with
            | some s' => s'
            | none => (s.dropPkt f.seq).updStn station fun x => { x with
                atomicWait := x.atomicWait ++ [(p, s.ht)], mireWait := satInc 65535 x.mireWait }
        | c => s.refuseReq station f c)

/-- R246 ATOMIC_STALE_IN_WAIT: a waiting atomic whose age has reached W is decided as stale. -/
def execAtomicStaleInWait (station : Nat) (s : State) : Res :=
  .next (match (s.stn station).atomicWait.find? fun e => s.atomicStale station e.1 with
    | none => s
    | some e => (s.updStn station fun x => { x with atomicWait := x.atomicWait.filter (· != e) }).staleOut
        station e.1)

/-- R242 MIRE_ENTRY_EXPIRE: the entries whose ISSUE_HT + W has come are gone. -/
def execMireEntryExpire (station : Nat) (s : State) : Res :=
  .next (s.updStn station fun x => { x with
    mire := x.mire.filter fun e => s.stnHt station < e.expires })

/-- R185 CHIPLET_STAMP_EXPIRE: the stamps of a site older than W are gone. -/
def execChipletStampExpire (site : Nat) (s : State) : Res :=
  .next { s with fabric := { s.fabric with
    stamps := s.fabric.stamps.filter fun e => e.1 != site || decide (s.ht < e.2.expires) } }

end Sys2Proof.Machine
end

