-- ==== Sys2Proof/Machine/Route.lean ====
section
/-! DEFINITION. The routers of a compute die (R49 to R54): tables, arbitration by VC (R195) and by
age (R193), reduction adders (R52, R264), faulty routers, and the perturbation of what leaves a station (R488). -/

namespace Sys2Proof.Machine

/-! ## Lanes of a contribution (R263, R93) -/

/-- The lanes of a payload: exact sums and INT64 values as integers, FP32 lanes as their codes. -/
def laneValues (op : Nat) (wide : Bool) (bs : List Byte) : List Int :=
  let w := if wide then 16 else opWidth op
  (chunks w bs).map fun c =>
    if op == 0x43 || op == 0x44 || op == 0x47 then (leNat c : Int) else sext (8 * w) (leNat c)

/-- The payload of lanes. -/
def laneBytes (op : Nat) (wide : Bool) (ls : List Int) : List Byte :=
  let w := if wide then 16 else opWidth op
  (ls.map fun l => leBytes w (trunc (8 * w) l)).flatten

/-- R91, R93: one lane combined with another. -/
def combineLane (op : Nat) (a b : Int) : Int :=
  match op with
  | 0x43 => (minCode 0 a.toNat b.toNat : Nat)
  | 0x44 => (maxCode 0 a.toNat b.toNat : Nat)
  | 0x45 => if a ≤ b then a else b
  | 0x46 => if a ≤ b then b else a
  | 0x47 => ((add32 a.toNat b.toNat).1 : Nat)
  | _ => a + b

/-- Lane by lane. -/
def combineLanes (op : Nat) (as bs : List Int) : List Int := List.zipWith (combineLane op) as bs

/-- R264: two contributions merge. -/
def mergeable (p q : Packet) : Bool :=
  p.kind == kCONTRIB && q.kind == kCONTRIB && p.dst == q.dst && p.job == q.job && p.op == q.op &&
    caRound p.addr == caRound q.addr && caChunk p.addr == caChunk q.addr &&
    !caOrd p.addr && !caOrd q.addr

/-- R264: the merged packet of an older packet p and another. -/
def mergePkts (p q : Packet) : Packet :=
  let op := p.op.toNat
  let wide := opWide op
  let ls := combineLanes op (laneValues op (caWide p.addr) p.payload) (laneValues op (caWide q.addr) q.payload)
  let pay := laneBytes op wide ls
  sealPkt { p with
    w0 := BitVec.ofNat 64 (p.w0.toNat - p.len * 2 ^ 16 + pay.length / 4 * 2 ^ 16)
    w2 := BitVec.ofNat 64 (mkCollAddr (caRound p.addr) wide (caOvf p.addr || caOvf q.addr) false
      (caChunk p.addr) (caCount p.addr + caCount q.addr) (caGroup p.addr))
    payload := pay }

/-! ## Tables (R51) -/

/-- The number of a router in the tables and the arbiters. -/
def routerKey : Router → Nat
  | .tile r site => r * 256 + site
  | .cluster r c => 2 ^ 20 + r * 16 + c
  | .region r => 2 ^ 21 + r
  | .station26 => 2 ^ 22

/-- The station of a router's die. -/
def routerStation : Router → Nat
  | .tile r _ => regionStation r
  | .cluster r _ => regionStation r
  | .region r => regionStation r
  | .station26 => 26

/-- Port numbers (log entry 18): of a tile router 0 local, 1 north, 2 south, 3 east, 4 west; of a
cluster router 0-3 its north edge from the west, 4-7 its south edge, 8-11 its east edge from the
north, 12-15 its west edge, 16 the uplink; of a region router 0-15 the clusters, 16 the bond port,
17 north, 18 south, 19 east, 20 west. -/
def meshPort (col row col' row' : Nat) : Nat :=
  if col < col' then 3 else if col' < col then 4 else if row < row' then 2 else if row' < row then 1 else 0

/-- R181, R51: the region and the physical site that a packet's destination names on this die. A request whose
DST names no endpoint goes to the die's station, which answers it (R59, R226). -/
def State.dieTarget (s : State) (die : Nat) (p : Packet) : Option (Nat × Nat) :=
  if cKind p.dst == 0 && cModule p.dst == s.cfg.module && cStation p.dst == die &&
      (kindIsRsp p.kind || s.namesOk p.dst true) then
    let r := die * 16 + cLow p.dst / 256
    some (r, (s.rgn r).siteOf (cLow p.dst % 256))
  else none

/-- R378, R379: the region router's port toward the base: its bond port, or the partner's region router
while the region's packets pass through the partner's port. -/
def State.exitPort (s : State) (r : Nat) : Nat :=
  if (s.rgn r).bond.viaPartner then (if r % 2 = 0 then 19 else 20) else 16

/-- R51: the table's destination of a packet at a router: its number in the table and the default
output port (log entry 18). -/
def State.tableDest (s : State) (r : Router) (p : Packet) : Nat × Nat :=
  match r with
  | .tile rk site =>
    let pos := site % 16
    match s.dieTarget (regionStation rk) p with
    | some (rk', site') =>
      if rk' = rk ∧ site' / 16 = site / 16 then
        let q := site' % 16
        (q, meshPort (pos % 4) (pos / 4) (q % 4) (q / 4))
      else (16, 4)
    | none => (16, 4)
  | .cluster rk c =>
    match s.dieTarget (regionStation rk) p with
    | some (rk', site') => if rk' = rk ∧ site' / 16 = c then (site' % 16, 12 + site' % 16 / 4) else (16, 16)
    | none => (16, 16)
  | .region rk =>
    match s.dieTarget (regionStation rk) p with
    | some (rk', site') =>
      if rk' = rk then (site' / 16, site' / 16)
      else
        let a := rk % 16
        let b := rk' % 16
        let port := match meshPort (a % 4) (a / 4) (b % 4) (b / 4) with
          | 3 => 19
          | 4 => 20
          | 2 => 18
          | _ => 17
        (16 + b, port)
    | none => (32, s.exitPort rk)
  | .station26 => (0, 0)

/-- R51: the output port of a packet at a router. -/
def State.outPort (s : State) (r : Router) (p : Packet) : Nat :=
  let (d, port) := s.tableDest r p
  mget port s.fabric.table (routerKey r * 64 + d)

/-- Where an output port leads (R49). -/
def portLeads (r : Router) (port : Nat) : Place :=
  match r with
  | .tile rk site =>
    let c := site / 16
    let col := site % 4
    let row := site % 16 / 4
    let go := fun col row input => (Place.router (.tile rk (c * 16 + row * 4 + col)) input : Place)
    match port with
    | 1 => if row = 0 then .router (.cluster rk c) col else go col (row - 1) 2
    | 2 => if row = 3 then .router (.cluster rk c) (4 + col) else go col (row + 1) 1
    | 3 => if col = 3 then .router (.cluster rk c) (8 + row) else go (col + 1) row 4
    | 4 => if col = 0 then .router (.cluster rk c) (12 + row) else go (col - 1) row 3
    | 0 => .dest (regionStation rk)
    | _ => .off
  | .cluster rk c =>
    if port < 4 then .router (.tile rk (c * 16 + port)) 1
    else if port < 8 then .router (.tile rk (c * 16 + 12 + (port - 4))) 2
    else if port < 12 then .router (.tile rk (c * 16 + (port - 8) * 4 + 3)) 3
    else if port < 16 then .router (.tile rk (c * 16 + (port - 12) * 4)) 4
    else if port = 16 then .router (.region rk) c
    else .off
  | .region rk =>
    let die := rk / 16 * 16
    let col := rk % 16 % 4
    let row := rk % 16 / 4
    if port < 16 then .router (.cluster rk port) 16
    else match port with
      | 16 => .bond rk
      | 17 => if row = 0 then .off else .router (.region (die + (row - 1) * 4 + col)) 18
      | 18 => if row = 3 then .off else .router (.region (die + (row + 1) * 4 + col)) 17
      | 19 => if col = 3 then .off else .router (.region (die + row * 4 + (col + 1))) 20
      | 20 => if col = 0 then .off else .router (.region (die + row * 4 + (col - 1))) 19
      | _ => .off
  | .station26 => .hall port

/-! ## Tables that avoid faulty routers (R54, R412) -/

/-- A hop of the search for routes: the port, the node it leads to, and its length. -/
abbrev Edge := Nat × Nat × Nat

/-- R49: the links of a node of a cluster: nodes 0 to 15 are the mesh, 16 the cluster router. A link of the
cluster router is longer than any way over the mesh, and the west edge is the nearest (log entry 69). -/
def clusterEdges (n : Nat) : List Edge :=
  if n < 16 then
    [(1, if n < 4 then 16 else n - 4, if n < 4 then 64 else 1),
     (2, if 12 ≤ n then 16 else n + 4, if 12 ≤ n then 64 else 1),
     (3, if n % 4 = 3 then 16 else n + 1, if n % 4 = 3 then 64 else 1),
     (4, if n % 4 = 0 then 16 else n - 1, if n % 4 = 0 then 32 else 1)]
  else (List.range 16).map fun p =>
    if p < 4 then (p, p, 64) else if p < 8 then (p, 8 + p, 64) else if p < 12 then (p, (p - 8) * 4 + 3, 64)
    else (p, (p - 12) * 4, 32)

/-- R49: the links of a region router of a die's 4 × 4 grid. -/
def gridEdges (n : Nat) : List Edge :=
  (if n < 4 then [] else [(17, n - 4, 1)]) ++ (if 12 ≤ n then [] else [(18, n + 4, 1)]) ++
  (if n % 4 = 3 then [] else [(19, n + 1, 1)]) ++ (if n % 4 = 0 then [] else [(20, n - 1, 1)])

/-- A length that no route has. -/
def noRoute : Nat := 2 ^ 20

/-- One round of the search: the length of the way from each node to `q` over nodes that are not faulty. -/
def shorten (edges : Nat → List Edge) (bad : List Nat) (q : Nat) (d : List Nat) : List Nat :=
  (List.range d.length).map fun n =>
    if n = q then 0
    else (edges n).foldl (fun m e => if bad.contains e.2.1 then m else Nat.min m (e.2.2 + nth noRoute d e.2.1)) noRoute

/-- The lengths after as many rounds as there are nodes. -/
def lengths (edges : Nat → List Edge) (size : Nat) (bad : List Nat) (q : Nat) : List Nat :=
  (List.range size).foldl (fun d _ => shorten edges bad q d) (List.replicate size noRoute)

/-- R51, R412: the port from a node on the way to `q`: the default one where it leads there as soon as any,
else the lowest that does; the default one where no way is left. -/
def avoidPort (edges : Nat → List Edge) (bad : List Nat) (d : List Nat) (n dflt : Nat) : Nat :=
  let good := (edges n).filter fun e =>
    !bad.contains e.2.1 && nth noRoute d n < noRoute && nth noRoute d n == e.2.2 + nth noRoute d e.2.1
  if good.any fun e => e.1 == dflt then dflt
  else match good.head? with
    | some e => e.1
    | none => dflt

/-- R51: the default port of a node of a cluster toward a node. -/
def clusterDefault (n q : Nat) : Nat :=
  if n = 16 then 12 + q / 4 else if q = 16 then 4 else meshPort (n % 4) (n / 4) (q % 4) (q / 4)

/-- R412: the entries of a cluster's routers that differ from the default rule. -/
def clusterTable (r c : Nat) (bad : List Nat) : SMap Nat :=
  (List.range 17).foldl (fun t q =>
    let d := lengths clusterEdges 17 bad q
    (List.range 17).foldl (fun t n =>
      let p := avoidPort clusterEdges bad d n (clusterDefault n q)
      let k := if n = 16 then routerKey (.cluster r c) else routerKey (.tile r (c * 16 + n))
      if n = q then t else mset (clusterDefault n q) t (k * 64 + q) p) t) []

/-- R412: the entries of a region router that differ from the default rule. -/
def gridTable (r : Nat) (bad : List Nat) : SMap Nat :=
  (List.range 16).foldl (fun t q =>
    let n := r % 16
    let port := match meshPort (n % 4) (n / 4) (q % 4) (q / 4) with
      | 3 => 19
      | 4 => 20
      | 2 => 18
      | _ => 17
    if n = q then t
    else mset port t (routerKey (.region r) * 64 + 16 + q)
      (avoidPort gridEdges bad (lengths gridEdges 16 bad q) n port)) []

/-- R54, R412 step 3: a region's tables anew by the default rule, with routes that avoid faulty routers. -/
def State.regenTables (s : State) (r : Nat) : State :=
  let x := s.rgn r
  let kept := s.fabric.table.filter fun e =>
    let k := e.1 / 64
    !(decide (k / 256 = r) || decide (k / 16 = 2 ^ 16 + r) || decide (k = 2 ^ 21 + r))
  let badClusters := (List.range 16).filter fun c => x.badTileRouters.any fun b => b / 16 == c
  let badRegions := (List.range 16).filter fun b => (s.rgn (r / 16 * 16 + b)).badRegionRouter
  let new := (badClusters.map fun c => clusterTable r c
      ((x.badTileRouters.filter fun b => b / 16 == c).map (· % 16))).flatten ++
    (if badRegions.isEmpty then [] else gridTable r badRegions)
  { s with fabric := { s.fabric with table := new.foldl (fun t e => minsert t e.1 e.2) kept } }

/-! ## The VC turn (R195) -/

def arbVc (turn : Nat) : Nat := match turn with | 0 => 1 | 1 => 0 | _ => 3
def arbWeight (turn : Nat) : Nat := if turn < 2 then 3 else 2

def Arb.deficit (a : Arb) : Nat := match a.turn with | 0 => a.def1 | 1 => a.def0 | _ => a.def3
def Arb.setDeficit (a : Arb) (n : Nat) : Arb :=
  match a.turn with
  | 0 => { a with def1 := n }
  | 1 => { a with def0 := n }
  | _ => { a with def3 := n }

/-- The deficit rotation: `head vc` is the number of flits of the packet that VC offers, 0 for
none. -/
def Arb.rotate (head : Nat → Nat) : Nat → Arb → Option (Nat × Arb)
  | 0, _ => none
  | fuel + 1, a =>
    let vc := arbVc a.turn
    let next := fun b : Arb => { b with turn := (a.turn + 1) % 3, inTurn := false }
    if a.inTurn then
      if head vc ≠ 0 ∧ head vc ≤ a.deficit then some (vc, a.setDeficit (a.deficit - head vc))
      else Arb.rotate head fuel (next a)
    else if head vc = 0 then Arb.rotate head fuel (next (a.setDeficit 0))
    else Arb.rotate head fuel { (a.setDeficit (a.deficit + arbWeight a.turn)) with inTurn := true }

/-- R195: the output's state in a window: VC2's bytes start anew in each. -/
def Arb.enter (a : Arb) (window : Nat) : Arb :=
  if a.window = window then a else { a with window := window, vc2Bytes := 0 }

/-- R195: the VC of an output's next packet, and the output's state after it; `bytes` is the link
time of one window in bytes and `size` that of VC2's packet. -/
def Arb.pick (a : Arb) (window windowBytes : Nat) (head : Nat → Nat) (size : Nat) : Option (Nat × Arb) :=
  let a := a.enter window
  if head 2 ≠ 0 ∧ a.vc2Bytes * 8 < windowBytes then some (2, { a with vc2Bytes := a.vc2Bytes + size })
  else if head 0 = 0 ∧ head 1 = 0 ∧ head 3 = 0 then none
  else a.rotate head 64

def State.arb (s : State) (k : Nat) : Arb := mget {} s.fabric.arb k
def State.setArb (s : State) (k : Nat) (a : Arb) : State :=
  { s with fabric := { s.fabric with arb := mset {} s.fabric.arb k a } }

/-! ## Forwarding -/

/-- R194: the packets that compete for an output on a VC: the heads of the inputs' buffers. -/
def State.heads (s : State) (r : Router) (port vc : Nat) : List Flight :=
  ((List.range 21).filterMap fun i => (s.bufferOf r i vc).head?).filter fun f => s.outPort r f.pkt == port

/-- The packets on a region's bond port on a VC, in order of arrival. -/
def State.bondBuffer (s : State) (r vc : Nat) : List Flight :=
  s.fabric.pkts.filter fun f => decide (f.place = .bond r) && f.pkt.vc == vc

/-- R50, R190: there is room for a packet where an output leads: 8 flits of its VC in an input buffer, and as
much on a bond port. -/
def State.roomAt (s : State) (pl : Place) (p : Packet) : Bool :=
  match pl with
  | .router r i => s.hasRoom r i p.vc p.flits
  | .bond r => decide (((s.bondBuffer r p.vc).map fun f => f.pkt.flits).foldl (· + ·) 0 + p.flits ≤ 8)
  | .off => false
  | _ => true

/-- R208, R136: a packet that fails its CRC is discarded and counted. -/
def State.crcDiscard (s : State) (station : Nat) : State :=
  s.updStn station fun x => { x with pktCrc := satInc 65535 x.pktCrc }

/-- R208, R186: the checks of a received packet, counted at a station, then `k`. -/
def State.receive (s : State) (station : Nat) (p : Packet) (k : State → State) : State :=
  if !crcOk p then s.crcDiscard station
  else if malformed p then s.discardFmt station p
  else k s

/-- R54: a router is faulty. -/
def State.routerBad (s : State) : Router → Bool
  | .tile rk site => (s.rgn rk).badTileRouters.contains site
  | .cluster rk c => (s.rgn rk).badClusterRouters.contains c
  | .region rk => (s.rgn rk).badRegionRouter
  | .station26 => false

def State.placeBad (s : State) : Place → Bool
  | .router r _ => s.routerBad r
  | _ => false

def routerRegion : Router → Nat
  | .tile rk _ => rk
  | .cluster rk _ => rk
  | .region rk => rk
  | .station26 => 0

/-- R50: flits of an output in a window of 1,000 ns: one in a cycle, two on a cluster uplink. -/
def State.outBytes (s : State) (r : Router) (port : Nat) : Nat :=
  let g := s.rgn (routerRegion r)
  let tenths := if g.fallback then 6 else match g.op with | 0 => 15 | 1 => 12 | 2 => 9 | _ => 6
  let flits := match r with
    | .cluster _ _ => if port = 16 then 2 else 1
    | _ => 1
  tenths * 6400 * flits

/-- The packet that a router would send on an output from a VC. -/
def State.candidate (s : State) (r : Router) (port vc : Nat) : Option Flight :=
  (firstFlight (s.heads r port vc)).filter fun f => s.roomAt (portLeads r port) f.pkt

/-- R264: DST is a gather entry. Of an entry of another module nothing here says so, and a group goes to
a root (R265): such packets are not merged (log entry 42). -/
def State.toGather (s : State) (p : Packet) : Bool :=
  let c := (s.coll (cStation p.dst) (cLow p.dst)).cfg
  cKind p.dst == 2 && cModule p.dst == s.cfg.module && ccValid c && !ccRoot c

/-- R264 REDUCTION_MERGE: the packets that wait for the same output and merge with the one sent, as long as there
is room at `pl` for what the merge makes of it (R50). -/
def State.mergeWith (s : State) (pl : Place) (f : Flight) (others : List Flight) : Flight × List Flight :=
  others.foldl (fun (acc : Flight × List Flight) q =>
    if q.seq ≠ f.seq && s.toGather f.pkt && mergeable acc.1.pkt q.pkt &&
        s.roomAt pl (mergePkts acc.1.pkt q.pkt) then
      ({ acc.1 with pkt := mergePkts acc.1.pkt q.pkt }, acc.2 ++ [q])
    else acc) (f, [])

/-- A packet leaves its place and is received at another: a router drops one that is damaged or malformed
(R186, R208, counted at the station of its die), and a faulty one every packet (R54). -/
def State.crossTo (s : State) (station : Nat) (f : Flight) (pl : Place) : State :=
  let s := s.dropPkt f.seq
  if s.placeBad pl then s
  else match pl with
    | .router _ _ => s.receive station f.pkt fun s => s.putVia pl f.pkt f.via
    | _ => s.putVia pl f.pkt f.via

/-- R50, R51, R193 to R195: a router of a die sends one packet. -/
def State.forward (s : State) (r : Router) (port vc : Nat) : State :=
  let head := fun v => match s.candidate r port v with | none => 0 | some f => f.pkt.flits
  let k := routerKey r * 32 + port
  let size := match s.candidate r port 2 with | none => 0 | some f => 64 * f.pkt.flits
  match (s.arb k).pick (s.ht / 1000) (s.outBytes r port) head size, s.candidate r port vc with
  | some (v, a), some f =>
    if v ≠ vc then s
    else
      let (g, gone) := s.mergeWith (portLeads r port) f (s.heads r port vc)
      let s := gone.foldl (fun s q => s.dropPkt q.seq) (s.setArb k a)
      let s := s.updStn (routerStation r) fun x => { x with collMerge := (x.collMerge + gone.length) % 2 ^ 32 }
      s.crossTo (routerStation r) g (portLeads r port)
  | _, _ => s

/-! ## Perturbation (R488) -/

def tstDelay (v : W32) : Nat := bits v.toNat 31 20
def tstDrop (v : W32) : Nat := bits v.toNat 15 12
def tstCorrupt (v : W32) : Nat := bits v.toNat 11 8

/-- A draw of probability 10^-n. -/
def State.tstHit (s : State) (n : Nat) : State × Bool :=
  if n = 0 then (s, false)
  else
    let d := Config.tstDraw s.tst.seed s.tst.draws % 10 ^ 12
    ({ s with tst := { s.tst with draws := s.tst.draws + 1 } }, decide (d < 10 ^ (12 - Nat.min n 12)))

/-- A payload bit, or a header bit of a packet without payload, inverted behind the CRC. -/
def flipBit (p : Packet) (n : Nat) : Packet :=
  if p.payload.isEmpty then
    let i := n % 256
    let m : W64 := BitVec.ofNat 64 (2 ^ (i % 64))
    match i / 64 with
    | 0 => { p with w0 := p.w0 ^^^ m }
    | 1 => { p with w1 := p.w1 ^^^ m }
    | 2 => { p with w2 := p.w2 ^^^ m }
    | _ => { p with w3 := p.w3 ^^^ m }
  else
    let i := n % (8 * p.payload.length)
    { p with payload := updAt p.payload (i / 8) fun b => b ^^^ BitVec.ofNat 8 (2 ^ (i % 8)) }

/-- R488: what becomes of a packet that leaves a station: dropped, corrupted or as it is. -/
def State.perturb (s : State) (station : Nat) (p : Packet) : State × Option Packet :=
  let v := mget 0 (s.stn station).tstVc p.vc
  let (s, drop) := s.tstHit (tstDrop v)
  if drop then (s.updStn station fun x => { x with tstDropped := satInc 65535 x.tstDropped }, none)
  else
    let (s, bad) := s.tstHit (tstCorrupt v)
    if bad then
      (s.updStn station fun x => { x with tstCorrupted := satInc 65535 x.tstCorrupted },
        some (flipBit p (Config.tstBit s.tst.seed s.tst.draws)))
    else (s, some p)

/-- R488: the packet is not held by a delay. -/
def State.delayOver (s : State) (station : Nat) (p : Packet) : Bool :=
  decide (tstDelay (mget 0 (s.stn station).tstVc p.vc) ≤ pktAge (ht32 s.ht) p.issueHt)

/-- R488: a packet leaves station 26 on a hall port. -/
def State.leaveHall (s : State) (port : Nat) (p : Packet) : State :=
  match s.perturb 26 p with
  | (s, none) => s
  | (s, some p') => s.emit (.hallTx port p')

/-- R213, R172: station 26 starts a packet on a hall port that is in service. -/
def State.hallForward (s : State) (port vc : Nat) : State :=
  let q := fun v => firstFlight (s.fabric.pkts.filter fun f =>
    decide (f.place = .hall port) && f.pkt.vc == v && s.delayOver 26 f.pkt)
  let head := fun v => match q v with | none => 0 | some f => f.pkt.flits
  let k := routerKey .station26 * 32 + port
  let size := match q 2 with | none => 0 | some f => f.pkt.bytes
  if !(s.hall port).up then s
  else match (s.arb k).pick (s.ht / 1000) 197500 head size, q vc with
    | some (v, a), some f =>
      if v ≠ vc then s
      else ((s.setArb k a).dropPkt f.seq).leaveHall port f.pkt
    | _, _ => s

/-- R50 ROUTER_FORWARD: a router takes a packet from an input and sends it on an output chosen by
its table and R193; nothing happens when the output has no packet of that VC in turn, or the region
is not powered (R53) or stopped for a clock step (R308). -/
def execRouterForward (r : Router) (port vc : Nat) (s : State) : Res :=
  .next (match r with
    | .station26 => s.hallForward port vc
    | _ =>
      if s.routerBad r || (s.rgn (routerRegion r)).boot == .off || (s.rgn (routerRegion r)).stands then s
      else s.forward r port vc)

/-! ## Router faults (R54) -/

/-- The tile at a physical site: the slot that has it. -/
def State.tileAtSite (s : State) (rk site : Nat) : Option Nat :=
  ((List.range 256).find? fun l => (s.rgn rk).siteOf l == site).map (rk * 256 + ·)

/-- R25: a router island fault stops its tile. -/
def State.islandFault (s : State) (rk site : Nat) : State :=
  match s.tileAtSite rk site with
  | some t =>
    if (s.tile t).st == .fenced || (s.tile t).st == .faulted then s else s.tileFault t .router
  | none => s

/-- R54 ROUTER_FAULT: the router is declared faulty and each packet in its buffers discarded; a
tile router's tile faults with cause ROUTER (R25). -/
def execRouterFault (r : Router) (s : State) : Res :=
  .next (
    let s := { s with fabric := { s.fabric with
      pkts := s.fabric.pkts.filter fun f => match f.place with
        | .router q _ => decide (q ≠ r)
        | _ => true } }
    match r with
    | .tile rk site =>
      (s.updRgn rk fun g => { g with badTileRouters := addSorted site g.badTileRouters }).islandFault rk site
    | .cluster rk c => s.updRgn rk fun g => { g with badClusterRouters := addSorted c g.badClusterRouters }
    | .region rk => s.updRgn rk fun g => { g with badRegionRouter := true }
    | .station26 => s)

end Sys2Proof.Machine
end

