-- ==== Sys2Proof/Machine/Fabric.lean ====
section
/-! DEFINITION. The packet plane and the hall ports (R127 to R129, R136, R143, R172, R180, R184,
R185, R200 to R203, R208, R211 to R216, R229, R249, R488). -/

namespace Sys2Proof.Machine

/-! ## Hall egress at station 26 (R172, R213, R249) -/

def hallPorts : List Nat := List.range 32

/-- R213, R249: the listed ports in service whose plane reaches a module. -/
def State.portsTo (s : State) (m : Nat) : List Nat :=
  hallPorts.filter fun n => (s.hall n).up && (s.hall n).listed && bit (s.planeMask m) (s.hall n).planeNow

/-- R249: the module that a packet is hashed by: a response's is that of its request. -/
def hashModule (p : Packet) : Nat := if kindIsRsp p.kind then cModule p.src else cModule p.dst

/-- R249: the port of an outbound packet. -/
def State.hallPortOf (s : State) (p : Packet) : Option Nat :=
  let ps := s.portsTo (cModule p.dst)
  let h := (hashModule p * 0x9E3779B1 ^^^ bits p.addr 37 6 * 0x85EBCA6B) % 2 ^ 32
  if ps.isEmpty then none else ps[h % ps.length]?

/-- Answer a memory request at a station; other kinds are dropped in silence (R516). -/
def State.bounce (s : State) (station : Nat) (p : Packet) (st : Byte) : State :=
  if kindIsMem p.kind then s.answer station p st [] else s

/-- R172: the first grid instant at or after an HT that lies in no maintenance interval. -/
def gridAfter (period phase : Nat) : Nat → Nat → Nat
  | 0, ht => ht
  | fuel + 1, ht =>
    let g := if ht % period ≤ phase then ht / period * period + phase else (ht / period + 1) * period + phase
    if inMaint g then gridAfter period phase fuel (nextFrame g) else g

/-- R172: a timed packet of a scheduled partition is held for its grid instant. -/
def State.holdTimed (s : State) (p : Packet) (q : Nat) : State :=
  let x := s.part q
  let g := gridAfter x.hallPeriod x.hallPhase 4 (fullHt s.ht p.issueHt + x.hallLead)
  if s.ht + 20 ≤ g then s.putPkt (.hallHeld g false) p
  else
    let s' := s.putPkt (.hallHeld (gridAfter x.hallPeriod x.hallPhase 4 (s.ht + 1)) true) p
    (s'.updPart q fun y => { y with lateHall := satInc 65535 y.lateHall }).recStn 0x4001 (some q) 26
      (leBytes 4 g)

/-- R415, R470 to R472: an outbound packet that station 26 does not send. -/
def State.hallRefusal (s : State) (p : Packet) : Option Byte :=
  if s.planeMask (cModule p.dst) = 0 || (s.portsTo (cModule p.dst)).isEmpty then some St.noEndpoint
  else if s.safe.shared then some St.safeState
  else if p.kind == kSTORE || p.kind == kMSG || p.kind == kATOMIC || p.kind == kCONTRIB then
    match s.partOfJob p.job with
    | some q =>
      if (s.part q).st != .safeState then none
      else some (if (s.part q).trigger = 9 then St.timeLost else St.safeState)
    | none => none
  else none

/-- The mark of a packet sent on the disjoint route of R267. -/
def disjointVia : Nat := 31

/-- R267: the in-service port of lowest number whose plane differs from that of the first send of the packet's
chunk; R249's port where there is none, or where the first send took none. -/
def State.disjointPort (s : State) (p : Packet) : Option Nat :=
  match ((s.coll (cStation p.src) (cLow p.src)).planes.find? (·.1 == caChunk p.addr)).map (·.2) with
  | none => s.hallPortOf p
  | some x =>
    match (s.portsTo (cModule p.dst)).find? fun m => (s.hall m).planeNow != x with
    | some m => some m
    | none => s.hallPortOf p

/-- The port of an outbound packet by R249 or, on the disjoint route, R267. -/
def State.portFor (s : State) (p : Packet) (via : Option Nat) : Option Nat :=
  if via = some disjointVia then s.disjointPort p else s.hallPortOf p

/-- A packet queued for a hall port; the gather of a group's first send keeps its plane, chunk by chunk (R267). -/
def State.queueHall (s : State) (n : Nat) (p : Packet) (via : Option Nat) : State :=
  let s :=
    let e := s.coll (cStation p.src) (cLow p.src)
    if p.kind == kCONTRIB && cKind p.src == 2 && cModule p.src == s.cfg.module && via.isNone &&
        caRound p.addr == e.round then
      s.setColl (cStation p.src) (cLow p.src) { e with planes := minsert e.planes (caChunk p.addr) (s.hall n).planeNow }
    else s
  s.putVia (.hall n) p via

/-- An outbound packet at station 26. -/
def State.toHall (s : State) (p : Packet) (via : Option Nat) : State :=
  match s.hallRefusal p, s.portFor p via with
  | some st, _ => s.bounce 26 p st
  | none, none => s
  | none, some n =>
    match s.scheduledOf p.job with
    | some q =>
      if p.timed && (s.part q).hallPeriod != 0 && !kindIsRsp p.kind then s.holdTimed p q
      else s.queueHall n p via
    | none => s.queueHall n p via

/-- R195: a timed packet that starts at its instant (R172) uses VC2's link time where it is on VC2. -/
def State.chargeHall (s : State) (port : Nat) (p : Packet) : State :=
  if p.vc = 2 then
    let k := routerKey .station26 * 32 + port
    let a := (s.arb k).enter (s.ht / 1000)
    s.setArb k { a with vc2Bytes := a.vc2Bytes + p.bytes }
  else s

/-- R172 HALL_TIMED_RELEASE: a held packet starts on its port at its grid instant (R194: ahead of R195's turn). -/
def execHallTimedRelease (port : Nat) (s : State) : Res :=
  .next (
    let due := s.fabric.pkts.filter fun f =>
      (match f.place with
        | .hallHeld g _ => decide (g ≤ s.ht)
        | _ => false) && s.hallPortOf f.pkt == some port
    match firstFlight due with
    | none => s
    | some f => ((s.chargeHall port f.pkt).dropPkt f.seq).leaveHall port f.pkt)

/-! ## Arrival at a station -/

/-- R49, R226: a packet for a tile goes down to it, unless its region has no power, or the station itself
answers it: a request that fails a check other than the tile's fence (log entry 68). -/
def State.goesDown (s : State) (p : Packet) : Bool :=
  cKind p.dst == 0 && (s.rgn (destTile p.dst / 256)).boot == .enabled &&
    (kindIsRsp p.kind || match s.checkReq (cStation p.dst) p with
      | .pass _ => true
      | .refuse st _ => st == St.destFenced
      | .discardAge => false)

/-- R379: the region whose bond port takes a packet down. -/
def State.downPort (s : State) (p : Packet) : Nat :=
  let r := destTile p.dst / 256
  if (s.rgn r).bond.viaPartner then partner r else r

/-- A packet reaches the station that is its last in this module. -/
def State.arriveAt (s : State) (station : Nat) (p : Packet) (via : Option Nat) : State :=
  if cModule p.dst != s.cfg.module && station == 26 then s.toHall p via
  else if cKind p.dst == 3 && p.kind == kMGMT then s.toMgmt p
  else if s.goesDown p then s.putPkt (.bondDn (s.downPort p)) p
  else s.putPkt (.dest station) p

/-! ## Routes (R200 to R203) -/

/-- R201, R215: a level of a station's map; rows not received are taken as 255. -/
def Station.level (x : Station) (i j : Nat) : Nat :=
  if x.gngStale.contains i then 255 else mget 0 x.gng (31 * i + j)

/-- R201: the intermediate station of smallest cost, counted upward from a start. -/
def bestVia (cost : Nat → Option Nat) (start : Nat) : Option Nat :=
  ((List.range 31).map fun i => (start + i) % 31).foldl (fun acc m =>
    match cost m, acc with
    | none, a => a
    | some _, none => some m
    | some c, some b => if c < (cost b).getD 256 then some m else some b) none

/-- R201: the choice of a route from s to d. -/
def State.chooseVia (s : State) (src d : Nat) (p : Packet) : Option Nat :=
  let x := s.stn src
  if s.fabric.samples < 64 || s.fabric.adaptDis || x.level src d < s.fabric.thresh then none
  else
    let cost := fun m =>
      if m = src ∨ m = d ∨ m ∈ x.gngStale then none
      else
        let c := Nat.max (x.level src m) (x.level m d)
        if c + s.fabric.margin ≤ x.level src d then some c else none
    bestVia cost (Config.routeHash (p.src.toNat * 2 ^ 24 + p.txid.toNat) % 31)

/-- R200: the packet is always routed direct. -/
def State.alwaysDirect (s : State) (p : Packet) : Bool :=
  p.vc == 2 || p.timed || (s.scheduledOf p.job).isSome

/-- R200 to R203: the route of a packet from a station, with the route table updated. -/
def State.route (s : State) (src d : Nat) (p : Packet) : State × Option Nat :=
  if s.alwaysDirect p then (s, none)
  else
    let pick := s.chooseVia src d p
    let (s, via) :=
      if (p.vc == 0 || p.vc == 3) && !kindIsRsp p.kind then
        let k := Config.routeHash ((p.src.toNat * 32 + d) * 2 ^ 58 + p.addr / 64) % 1024
        match (s.stn src).routes.find? (·.1 == k) with
        | some e =>
          if s.ht < e.2.ht + s.fabric.ageMax * 1000 then (s, e.2.via)
          else (s.updStn src fun x => { x with routes := minsert x.routes k { via := pick, ht := s.ht } }, pick)
        | none => (s.updStn src fun x => { x with routes := minsert x.routes k { via := pick, ht := s.ht } }, pick)
      else (s, pick)
    (if via.isSome then s.updStn src fun x => { x with adapt := (x.adapt + 1) % 2 ^ 32 } else s, via)

/-! ## Injection (R200, R229) -/

/-- R267: the intermediate station of the disjoint route from s to d. -/
def disjointStation (src d : Nat) : Nat := if (d + 1) % 31 = src then (d + 2) % 31 else (d + 1) % 31

/-- The next station of a packet; on the disjoint route to another module, station 26. -/
def nextHop (own : Bool) (src d : Nat) : Option Nat → Nat
  | none => d
  | some m => if m = disjointVia then (if own then disjointStation src d else d) else m

/-- A packet starts toward another station. -/
def State.launchTo (s : State) (src d : Nat) (p : Packet) (via : Option Nat) : State :=
  match s.perturb src p with
  | (s, none) => s
  | (s, some p') => s.putVia (.link src (nextHop (cModule p.dst == s.cfg.module) src d via) d) p' via

/-- R200, R203, R267: a packet starts toward its last station by the route that it was given or the one chosen
here; an intermediate route is counted. -/
def State.startTo (s : State) (src d : Nat) (p : Packet) (via : Option Nat) : State :=
  match via with
  | some m =>
    let s := if nextHop (cModule p.dst == s.cfg.module) src d via = d then s
      else s.updStn src fun x => { x with adapt := (x.adapt + 1) % 2 ^ 32 }
    s.launchTo src d p (some m)
  | none =>
    let (s, via) := s.route src d p
    s.launchTo src d p via

/-- R259: the stations of a multicast coordinate at the sending station. -/
def State.mcStationsOf (s : State) (station : Nat) (c : W32) : List Nat :=
  if cStation c ≠ 31 then [cStation c]
  else
    let m := mget 0 (s.stn station).mcast (cLow c)
    if mcValid m then dataStations.filter fun d => bit (mcStations m) d else []

/-- R269: the copy of a packet for one station of a multicast: an END tells a station that is not among
those of its root's RESULT that it holds no COLL_DATA chunk. -/
def State.mcCopy (s : State) (station d : Nat) (p : Packet) : Packet :=
  let r := ccResult (s.coll station (cLow p.src)).cfg
  if p.kind == kCOLL_CTRL && p.op == 1 && cKind r == 7 && !(s.mcStationsOf station r).contains d then noChunks p else p

/-- R229: the entering station's decision on a request to module memory. -/
def State.enterMemory (s : State) (station : Nat) (p : Packet) : State × Option Nat :=
  match s.windowCheck station p with
  | .pass w => (s, some (channelStation (s.mem.channelOf (wTarget w + (p.va - wBase w)))))
  | .refuse st code => ((s.countRefusal station p st code).bounce station p st, none)
  | .discardAge => (s, none)

/-- R251, R446: the packet is a BAR2 access held for a channel switch. -/
def State.heldBar2 (s : State) (p : Packet) : Bool :=
  s.mem.bar2Held && p.job == 0 && cKind p.src == 5 && cKind p.dst == 1 && !kindIsRsp p.kind

/-- Where a packet at its entering station goes: it is answered or dropped (none), or its last
station in this module. -/
def State.enterCheck (s : State) (station : Nat) (p : Packet) : State × Option Nat :=
  let own := cModule p.dst == s.cfg.module
  if kindIsRsp p.kind then (s, some (if own then cStation p.dst else 26))
  else if !s.endpointOk p.dst then (s.bounce station p St.noEndpoint, none)
  else if !own then (s, some 26)
  else if cKind p.dst == 7 && cStation p.dst == 31 && kindIsMem p.kind then
    -- R223: no station is the target of such a request, and the one it enters at answers
    ((s.countRefusal station p St.notPermitted 0).bounce station p St.notPermitted, none)
  else if cKind p.dst == 1 && kindIsMem p.kind then s.enterMemory station p
  else (s, some (cStation p.dst))

/-- R143, R362, R431: packets start on the packet plane. -/
def State.planeOpen (s : State) : Bool := s.fabric.planeOpen && !s.fabric.injectStop

/-- The packet's last station, as far as its coordinate tells, is the one it enters at. -/
def State.staysHere (s : State) (station : Nat) (p : Packet) : Bool :=
  if cModule p.dst == s.cfg.module then cKind p.dst != 1 && cKind p.dst != 7 && cStation p.dst == station
  else station == 26

/-- R240: the timeout of a part of a host's access runs from its packet's injection. -/
def State.noteInjected (s : State) (p : Packet) : State :=
  if cKind p.src == 5 && cModule p.src == s.cfg.module && !kindIsRsp p.kind then
    let mark := fun x : Bar2Part =>
      if x.txid == p.txid then { x with injected := some (s.ht, 1000 * s.mem.tmoPkg) } else x
    s.updPort (cLow p.src / 256) fun q => { q with
      writes := q.writes.map mark
      reads := q.reads.map fun r => { r with parts := r.parts.map mark } }
  else s

/-- R194, R200, R229 STATION_INJECT of one packet. -/
def State.inject (s : State) (station : Nat) (f : Flight) : State :=
  let p := f.pkt
  let s := s.dropPkt f.seq
  if s.heldBar2 p then s.putPkt .bar2Hold p
  else
  let s := s.noteInjected p
  if cKind p.dst == 7 && !kindIsMem p.kind && cModule p.dst == s.cfg.module then
    (s.mcStationsOf station p.dst).foldl (fun s d =>
      let p := s.mcCopy station d p
      if d = station then s.putPkt (.dest d) p
      else if (s.stn d).present then s.startTo station d p f.via
      else s) s
  else match s.enterCheck station p with
    | (s, none) => s
    | (s, some d) =>
      if d = station then s.arriveAt station p f.via
      else s.startTo station d p f.via

/-- R200 STATION_INJECT: the oldest packet at a station that may go enters the packet plane. While
the plane is stopped only packets that stay at the station go. -/
def execStationInject (station : Nat) (s : State) : Res :=
  .next (match s.pickPkt fun f =>
      decide (f.place = .entry station) && s.delayOver station f.pkt &&
        (s.planeOpen || s.staysHere station f.pkt) with
    | none => s
    | some f => s.inject station f)

/-! ## Reception (R208) -/

/-- R129: bytes of link time of a packet. -/
def Packet.linkBytes (p : Packet) : Nat := ceilDiv p.bytes 8 * 8 + 8

/-- R127: the two channels of a pair. -/
def pairChannels (src dst : Nat) : List Nat :=
  let d := (dst + 31 - src) % 31
  [d - 1, d + 31]

/-- R145, R367: a waveguide index gives no usable light. -/
def State.isUnlit (s : State) (k : Nat) : Bool := bit s.opt.dark.toNat k || s.opt.waiting.contains k || s.opt.returning.contains k

/-- The channels of a pair that are in service (R144, R145, R367). -/
def State.pairOpen (s : State) (src dst : Nat) : List Nat :=
  (pairChannels src dst).filter fun c => !(s.stn src).chOut.contains c && !s.isUnlit (c / 16)

/-- The key of the output of one station toward another, and of the buffers behind that link. -/
def linkKey (src dst : Nat) : Nat := 2 ^ 28 + src * 32 + dst

/-- R190: the receiving buffer of a link has room for a packet: a packet holds its place there until it leaves the
place it was received at. The manual gives no size of the buffer (log entry 76). -/
def State.linkRoom (s : State) (link : Nat) (p : Packet) : Bool :=
  let held := s.fabric.pkts.filter fun f => f.credit == link && f.pkt.vc == p.vc
  decide ((held.map fun f => f.pkt.flits).foldl (· + ·) 0 + p.flits ≤ 5 + Config.linkFlits link)

/-- R190, R194: the packet of a VC that goes first on a pair's link, where it has credit. -/
def State.linkHead (s : State) (src dst v : Nat) : Option Flight :=
  (firstFlight (s.fabric.pkts.filter fun f =>
    (match f.place with
      | .link a b _ => a == src && b == dst
      | _ => false) && f.pkt.vc == v)).filter fun f => s.linkRoom (linkKey src dst) f.pkt

/-- R195: the packet whose link time begins next on a pair's link, with the state of its output after it. -/
def State.linkTurn (s : State) (src dst : Nat) : Option (Flight × Arb) :=
  let open_ := s.pairOpen src dst
  let head := fun v => match s.linkHead src dst v with | none => 0 | some f => f.pkt.flits
  let size := match s.linkHead src dst 2 with | none => 0 | some f => Packet.linkBytes f.pkt
  if open_.isEmpty then none
  else match (s.arb (linkKey src dst)).pick (s.ht / 1000) (6250 * open_.length) head size with
    | none => none
    | some (v, a) => (s.linkHead src dst v).map fun f => (f, a)

/-- R190: the packets that have come to a place behind a link since an arrival number hold its credit. -/
def State.holdCredit (s : State) (link since : Nat) : State :=
  { s with fabric := { s.fabric with pkts := s.fabric.pkts.map fun f =>
      match f.place with
      | .entry _ => f
      | _ => if since ≤ f.seq then { f with credit := link } else f } }

/-- R136, R208: a packet whose link time has begun is received at the far station, as the link delivers it. -/
def State.carry (s : State) (src dst : Nat) (f : Flight) (errs : List Nat) : State :=
  let s := s.dropPkt f.seq
  let p := damaged f.pkt errs
  if (s.pairOpen src dst).any fun c => (s.stn dst).unlocked.contains c then s.crcDiscard dst
  else (s.receive dst p fun s =>
    match f.place with
    | .link _ _ final => if final = dst then s.arriveAt dst p f.via else s.launchTo dst final p none
    | _ => s).holdCredit (linkKey src dst) s.fabric.seq

/-- R143, R195, R208: one packet crosses the link of a pair of stations. Once injection has stopped only a packet
whose link time had begun does; a plane closed or on the idle pattern carries none (R362, R431). -/
def State.recvPlane (s : State) (src dst : Nat) (errs : List Nat) : State :=
  if !s.fabric.planeOpen || s.fabric.quiet then s
  else if s.fabric.injectStop then
    match s.pickPkt fun f => s.fabric.begun.contains f.seq && (match f.place with
        | .link a b _ => a == src && b == dst
        | _ => false) with
    | none => s
    | some f => s.carry src dst f errs
  else match s.linkTurn src dst with
    | none => s
    | some (f, a) => (s.setArb (linkKey src dst) a).carry src dst f errs

/-- R375: traffic crosses bond ports now. -/
def State.bondOpen (s : State) : Bool := !(decide (63800 ≤ framePos s.ht) && decide (framePos s.ht < 63900))

/-- R375, R396: the up direction of a region's bond port carries traffic. -/
def State.bondUp (s : State) (r : Nat) : Bool :=
  let b := (s.rgn r).bond
  b.st == 2 && b.widthUp != 2 && s.bondOpen

/-- R375, R396: the down direction of a region's bond port carries traffic. -/
def State.bondDn (s : State) (r : Nat) : Bool :=
  let b := (s.rgn r).bond
  b.st == 2 && b.widthDn != 2 && s.bondOpen

/-- R138: bytes that a direction of a bond port carries in 1,000 ns: 256 GB/s at ×512, 128 GB/s at ×256. -/
def bondBytes (width : Nat) : Nat := if width = 0 then 256000 else 128000

/-- R195: an output sends the packet whose VC is in turn, of those that `q` offers by VC. -/
def State.sendTurn (s : State) (key windowBytes : Nat) (q : Nat → Option Flight) (send : State → Flight → State) :
    State :=
  let head := fun v => match q v with | none => 0 | some f => f.pkt.flits
  let size := match q 2 with | none => 0 | some f => 64 * f.pkt.flits
  match (s.arb key).pick (s.ht / 1000) windowBytes head size with
  | none => s
  | some (v, a) =>
    match q v with
    | none => s
    | some f => send (s.setArb key a) f

/-- A packet crosses a region's bond port toward the base: the first of its VC there. -/
def State.recvBond (s : State) (r : Nat) (errs : List Nat) : State :=
  if !s.bondUp r then s
  else s.sendTurn (2 ^ 29 + r) (bondBytes (s.rgn r).bond.widthUp) (fun v => (s.bondBuffer r v).head?) fun s f =>
    let station := regionStation r
    let p := damaged f.pkt errs
    (s.dropPkt f.seq).receive station p fun s => s.putPkt (.entry station) p

/-- R194: the oldest packet of a VC that its station ejects toward a region's bond port. -/
def State.downHead (s : State) (r v : Nat) : Option Flight :=
  if s.withheld (regionStation r) v then none
  else (s.pickPkt fun f => decide (f.place = .bondDn r) && f.pkt.vc == v).filter
    fun f => s.hasRoom (.region r) 16 v f.pkt.flits

/-- A packet crosses a region's bond port toward the region, into its router where that has room; a router stopped
for a clock step takes none (R308). -/
def State.recvBondDown (s : State) (r : Nat) (errs : List Nat) : State :=
  if !s.bondDn r || (s.rgn r).stands then s
  else s.sendTurn (2 ^ 29 + 2 ^ 10 + r) (bondBytes (s.rgn r).bond.widthDn) (s.downHead r) fun s f =>
    s.crossTo (regionStation r) { f with pkt := damaged f.pkt errs } (.router (.region r) 16)

/-- R184: a packet from the I/O die is stamped at station 26. -/
def State.recvIoDie (s : State) (p : Packet) : State :=
  s.receive 26 p fun s =>
    if cModule p.src != s.cfg.module || cStation p.src != 26 then s.discardFmt 26 p
    else s.putPkt (.entry 26) (setIssue p (ht32 (s.stnHt 26)))

/-- R185: the stamps held for a site. -/
def State.stampsOf (s : State) (site : Nat) : List Stamp :=
  (s.fabric.stamps.filter fun e => e.1 == site && decide (s.ht < e.2.expires)).map (·.2)

/-- R185: an ATOMIC of a chiplet: its stamp is kept for W; a retry takes its original's. -/
def State.recvChipletAtomic (s : State) (site : Nat) (p : Packet) : State :=
  let known := (s.stampsOf site).find? fun e => e.src == p.src && e.txid == p.txid
  if p.retry then
    match known with
    | some e => s.putPkt (.entry site) (setIssue p e.issueHt)
    | none =>
      (s.updStn site fun x => { x with unknown := satInc 65535 x.unknown }).answer site p St.outcomeUnknown []
  else if 4096 ≤ (s.stampsOf site).length then s
  else
    let now := ht32 (s.stnHt site)
    let e : Stamp := { src := p.src, txid := p.txid, issueHt := now, expires := s.ht + s.mem.mireW * 1000 }
    { s.putPkt (.entry site) (setIssue p now) with
      fabric := { (s.putPkt (.entry site) (setIssue p now)).fabric with
        stamps := s.fabric.stamps ++ [(site, e)] } }

/-- R184, R185, R391, R392: a packet from an admitted chiplet. -/
def State.recvChiplet (s : State) (site : Nat) (p : Packet) : State :=
  let x := s.site site
  if x.st ≠ 3 then s
  else s.receive site p fun s =>
    if cModule p.src != s.cfg.module || cStation p.src != site || !(x.jobs.contains p.job) then
      s.discardFmt site p
    else
      let s := if kindIsRsp p.kind then s.setSite site { x with inFlight := x.inFlight - 1 } else s
      if p.kind == kATOMIC then s.recvChipletAtomic site p
      else s.putPkt (.entry site) (setIssue p (ht32 (s.stnHt site)))

/-- R389: a block of 256 B of a site's stream, and the packets that end in it. -/
def State.recvStream (s : State) (site : Nat) (data : List Byte) : State :=
  let r := unpack (s.site site).rx data
  r.1.foldl (fun s p => s.recvChiplet site p) (s.setSite site { s.site site with rx := r.2 })

/-- R208 STATION_PKT_RECEIVE. -/
def execStationPktReceive (h : Hop) (s : State) : Res :=
  .next (match h with
    | .plane src dst errs => s.recvPlane src dst errs
    | .bondPort r errs => s.recvBond r errs
    | .bondDown r errs => s.recvBondDown r errs
    | .ioDie p => s.recvIoDie p
    | .ucie site data => s.recvStream site data)

/-- R136, R358 PKT_RX_LOSS_OF_LOCK: a loss inside a maintenance interval is not counted. -/
def execPktRxLossOfLock (station channel : Nat) (s : State) : Res :=
  .next (s.updStn station fun x =>
    if x.unlocked.contains channel then x
    else { x with unlocked := addSorted channel x.unlocked, losPkt := if s.time.st ≠ .free ∧ inMaint s.ht = true then x.losPkt else satInc 65535 x.losPkt })

/-- R136 PKT_RX_LOCK_REGAIN. -/
def execPktRxLockRegain (station channel : Nat) (s : State) : Res :=
  .next (s.updStn station fun x => { x with unlocked := x.unlocked.filter (· != channel) })

/-- R391, R394: PRESENT of the chiplet sites at a maintenance interval. -/
def State.presentSites (s : State) : State :=
  [27, 28, 29, 30].foldl (fun s n => match (s.site n).presentNext with
    | none => s
    | some b => (s.setSite n { s.site n with presentNext := none }).updStn n fun x => { x with present := b }) s

/-- R143: the packet in turn on each link has begun its link time: a link with a packet that has credit is not
idle (DEDUCED, log entry 76). -/
def State.markBegun (s : State) : State :=
  if !s.planeOpen || s.fabric.quiet then s
  else s.fabric.pkts.foldl (fun u f =>
    match f.place with
    | .link a b _ =>
      match s.linkTurn a b with
      | some (g, arb) =>
        if g.seq = f.seq then
          { u.setArb (linkKey a b) arb with
            fabric := { (u.setArb (linkKey a b) arb).fabric with begun := u.fabric.begun ++ [f.seq] } }
        else u
      | none => u
    | _ => u) s

/-- R143 MAINT_INJECT_STOP: from 63,000 no new packet starts; one whose link time has begun finishes. -/
def execMaintInjectStop (s : State) : Res :=
  .next (if inMaint s.ht then
    let s := s.markBegun
    { s with fabric := { s.fabric with injectStop := true } }.presentSites else s)

/-- R143 MAINT_QUIET_START: from 63,040 the links send the idle pattern only. -/
def execMaintQuietStart (s : State) : Res :=
  .next (if 63040 ≤ framePos s.ht then
    { s with fabric := { s.fabric with injectStop := true, quiet := true, begun := [] } } else s)

/-! ## Hall ports (R211 to R213, R219, R369) -/

/-- R213, R249: the list of ports has changed, and the packets queued for the hall ports are hashed
again over the new list. -/
def State.rehash (s : State) : State :=
  s.fabric.pkts.foldl (fun s f =>
    match f.place with
    | .hall n =>
      match s.hallRefusal f.pkt, s.portFor f.pkt f.via with
      | some st, _ => (s.dropPkt f.seq).bounce 26 f.pkt st
      | none, none => s.dropPkt f.seq
      | none, some m => if m = n then s else (s.dropPkt f.seq).queueHall m f.pkt f.via
    | .hallHeld _ _ =>
      if s.planeMask (cModule f.pkt.dst) = 0 then (s.dropPkt f.seq).bounce 26 f.pkt St.noEndpoint else s
    | _ => s) s

/-- A packet received on a hall port in service; TIME packets go to the time port. -/
def State.hallPkt (s : State) (port : Nat) (p : Packet) : State :=
  if !crcOk p then s.setHall port { s.hall port with disc := satInc 65535 (s.hall port).disc }
  else if malformed p then s.discardFmt 26 p
  else if p.kind == kTIME then s
  else s.putPkt (.entry 26) p

/-- R212, R213 HALL_CODEWORD_RECEIVE: the 160 data bytes of a codeword as sent, and whether they came through. One
beyond correction discards every packet with a byte in it, and reception resumes at the next pointer. -/
def execHallCodewordReceive (port : Nat) (cw : Codeword) (data : List Byte) (s : State) : Res :=
  .next (
    let h := s.hall port
    let r := unpack h.rx data
    if !h.enNow then s
    else match cw with
      | .uncorrectable =>
        s.setHall port { h with
          rx := none
          disc := satAdd 65535 h.disc (r.1.length + b2n (r.2.any fun part => !part.isEmpty))
          rsUncorr := satInc 65535 h.rsUncorr
          uncorrHt := (h.uncorrHt.filter fun t => s.ht < t + 1000) ++ [s.ht] }
      | _ =>
        let h := { h with
          rx := r.2
          rsCorr := if cw = .corrected then satInc 4294967295 h.rsCorr else h.rsCorr }
        if !h.up then s.setHall port { h with disc := satAdd 65535 h.disc r.1.length }
        else r.1.foldl (fun s p => s.hallPkt port p) (s.setHall port h))

/-- R213 HALL_PORT_EXIT: 1 loss of signal, 2 loss of alignment, 3 the 16th uncorrectable codeword
within 1 µs. -/
def execHallPortExit (port cause : Nat) (s : State) : Res :=
  .next (
    let h := s.hall port
    let h' := { h with los := h.los || cause == 1, aligned := h.aligned && cause != 1 && cause != 2 }
    let fault := cause = 1 ∨ cause = 2 ∨
      (cause = 3 ∧ 16 ≤ (h.uncorrHt.filter fun t => s.ht < t + 1000).length)
    if !h.enNow then s
    else if !h.up then s.setHall port h'
    else if fault then
      ((s.setHall port { h' with up := false, listed := false, down := satInc 65535 h.down }).recStn 0x5005 none 26
        [BitVec.ofNat 8 port, BitVec.ofNat 8 cause]).rehash
    else s)

/-- The receiver of a port finds signal and alignment; `readyHt` is the HT from which it has had both. -/
def HallPort.sense (h : HallPort) (ht : Nat) (signal aligned : Bool) : HallPort :=
  { h with
    los := !signal, aligned := aligned
    readyHt := if signal && aligned && (h.los || !h.aligned) then ht else h.readyHt }

/-- R213: the present maintenance interval began after the port had signal and all lanes aligned; in FREE no
interval begins, and the port need not wait (log entry 70). -/
def State.enterDue (s : State) (h : HallPort) : Bool := s.nextInterval h.readyHt

/-- R213 HALL_PORT_ENTER: a port out of service finds signal and alignment; in a maintenance interval that
begins after it has both it re-enters service, and takes part in R249 from the boundary (`State.listPorts`). -/
def execHallPortEnter (port : Nat) (signal aligned : Bool) (s : State) : Res :=
  .next (
    let h := s.hall port
    if !h.enNow || s.safe.shared || h.up then s
    else
      let h' := h.sense s.ht signal aligned
      if !signal || !aligned || h.apr || !s.enterDue h' then s.setHall port h'
      else
        let s' := (s.setHall port { h' with up := true, listed := s.time.st == .free, uncorrHt := [] }).recStn
          0x5006 none 26 [BitVec.ofNat 8 port]
        if s.time.st == .free then s'.rehash else s')

/-- R213: from the boundary that ends an interval the ports in service take part in R249. -/
def State.listPorts (s : State) : State :=
  if hallPorts.any fun n => (s.hall n).up && !(s.hall n).listed then
    (hallPorts.foldl (fun s n => s.setHall n { s.hall n with listed := (s.hall n).up }) s).rehash
  else s

/-- R219 HALL_PORT_CFG_APPLY: in the maintenance interval that begins after its write PKT_HP_CFG takes effect, and
the lists of R249 with it: a port that EN newly enables is in service on its plane, and until its receiver declares a
loss its STATUS shows none; one no longer enabled leaves service, and its receivers are off: LOS and ALIGNED keep
their last values (DESIGN CHOICE, log entry 70). -/
def execHallPortCfgApply (port : Nat) (s : State) : Res :=
  .next (
    let h := s.hall port
    if !s.nextInterval h.cfgHt then s
    else if !h.en then
      (s.setHall port { h with enNow := false, planeNow := h.plane, up := false, listed := false, apr := false }).rehash
    else if h.enNow || s.safe.shared then (s.setHall port { h with enNow := true, planeNow := h.plane }).rehash
    else
      (s.setHall port { h with
        enNow := true, planeNow := h.plane, up := true, listed := true, los := false, aligned := true
        uncorrHt := [], readyHt := s.ht }).rehash)

/-- R369 APR_REDUCE: loss of signal reduces the port's power. -/
def execAprReduce (port : Nat) (s : State) : Res :=
  .next (
    let h := s.hall port
    if h.enNow && h.los then s.setHall port { h with apr := true } else s)

/-- R369 APR_PROBE: a probe in which the receiver detects signal restores full power. -/
def execAprProbe (port : Nat) (signal : Bool) (s : State) : Res :=
  .next (
    let h := s.hall port
    if h.enNow && h.apr && signal && !s.safe.shared then
      s.setHall port { h.sense s.ht true h.aligned with apr := false }
    else s)

/-! ## The Gingham map (R214 to R216) -/

/-- R223, R229, R259: the stations that a packet queued at another goes to: for module memory that of its line's
channel, for a multicast those of its group. -/
def State.leadsTo (s : State) (src : Nat) (p : Packet) : List Nat :=
  if cModule p.dst != s.cfg.module then [26]
  else if cKind p.dst == 1 && kindIsMem p.kind then
    match s.windowCheck src p with
    | .pass w => [channelStation (s.mem.channelOf (wTarget w + (p.va - wBase w)))]
    | _ => [src]
  else if cKind p.dst == 7 then s.mcStationsOf src p.dst
  else [cStation p.dst]

/-- R214: the occupancy of a station's queues toward another, in units of 64 B. -/
def State.occupancy (s : State) (src d : Nat) : Nat :=
  let mine := s.fabric.pkts.filter fun f => f.pkt.vc != 2 && (match f.place with
    | .link a b _ => a == src && b == d
    | .entry a => a == src && (s.leadsTo src f.pkt).contains d
    | _ => false)
  Nat.min 255 ((mine.map fun f => f.pkt.bytes).foldl (· + ·) 0 / 64)

/-- R214: one station's own row after a sample. -/
def State.sampleRow (s : State) (src : Nat) : State :=
  let occ := (List.range 31).map fun d => if d = src then 0 else s.occupancy src d
  s.updStn src fun x => { x with
    gng := (List.range 31).foldl (fun g d =>
      if d = src then g else mupd 0 g (31 * src + d) fun l => (7 * l + nth 0 occ d + 4) / 8) x.gng }

/-- R220: what PKT_GNGs shows is the map as one sample left it: at the next sample, once the rows that the other
stations took at it are in; a row none of which has come for 30 us shows 255, as R215 takes it (log entry 71). -/
def State.showMap (s : State) (n : Nat) : State :=
  let x := s.stn n
  let late := dataStations.any fun m =>
    m != n && !x.gngStale.contains m && mget 0 x.gngSample m + 10000 != s.ht
  if late then s
  else s.updStn n fun x => { x with
    gngShown := x.gngStale.foldl (fun g m => (List.range 31).foldl (fun g j => mset 0 g (31 * m + j) 255) g) x.gng }

/-- R215: the payload of a row: the 31 levels in ascending order and a byte of 0. The manual gives no layout of it
(DESIGN CHOICE, log entry 82). -/
def Station.rowBytes (x : Station) (i : Nat) : List Byte :=
  ((List.range 31).map fun j => BitVec.ofNat 8 (mget 0 x.gng (31 * i + j))) ++ [0]

/-- R215: a station sends its row to every other, at EP_KIND 3 of that station: the manual names no coordinate
(DESIGN CHOICE, log entry 82). -/
def State.sendRow (s : State) (src : Nat) : State :=
  let row := (s.stn src).rowBytes src
  dataStations.foldl (fun s d =>
    if d = src then s
    else s.launchTo src d (mkPkt
      { kind := kGNG_ROW, vc := 2, dst := s.stnCoord d, src := s.stnCoord src,
        issue := ht32 (s.stnHt src), payload := row }) none) s

/-- R216: the map as the push carries it. -/
def State.pushBytes (s : State) : List Byte :=
  leBytes 8 s.ht ++ leBytes 2 s.fabric.samples ++ leBytes 2 s.cfg.module ++ leBytes 4 0 ++
  (dataStations.map fun i => ((s.stn i).rowBytes i).take 31).flatten ++ leBytes 39 0 ++ leBytes 8 s.ht

/-- R216 GNG_PUSH. The last packet, which R216 has held back, carries LAST = 1 though no OP asks for a notification
(DESIGN CHOICE, log entry 82). -/
def State.gngPush (s : State) : State :=
  let id := s.fabric.txid
  let s' := { s with fabric := { s.fabric with txid := id + 1 } }
  ((chunks 256 s.pushBytes).zipIdx).foldl (fun s c => s.sendFrom 26
    { kind := kGNG_PUSH, vc := 2, job := 0, txid := id, dst := s.fabric.gngFm,
      src := s.stnCoord 26, addr := s.fabric.gngAddr.toNat + 256 * c.2, count := 4, seq := c.2,
      last := c.2 == 3, payload := c.1 }) s'

/-- R214 GNG_SAMPLE: at every HT that is a multiple of 10,000 ns; while the packet plane is closed no sample is
taken, as R431 says of the start-up (log entry 82). -/
def execGngSample (s : State) : Res :=
  .next (
    if s.ht % 10000 ≠ 0 ∨ s.time.st = .free ∨ s.fabric.planeOpen = false then s
    else
      let s := dataStations.foldl (fun s n => (s.showMap n).sampleRow n) s
      let n := s.fabric.samples + 1
      let s := { s with fabric := { s.fabric with samples := n } }
      let s := dataStations.foldl State.sendRow s
      if s.fabric.gngPush ≠ 0 ∧ n % s.fabric.gngPush = 0 then s.gngPush else s)

/-- R215 GNG_ROW_RECEIVE. -/
def execGngRowReceive (station src : Nat) (s : State) : Res :=
  .next (match s.takeDest station fun p => p.kind == kGNG_ROW && cStation p.src == src with
    | none => s
    | some f =>
      let row := f.pkt.payload
      (s.dropPkt f.seq).updStn station fun x => { x with
        gng := (List.range 31).foldl (fun g j => mset 0 g (31 * src + j) (nth 0 row j).toNat) x.gng
        gngRowHt := mset 0 x.gngRowHt src s.ht
        gngSample := mset 0 x.gngSample src ((fullHt (s.stnHt station) f.pkt.issueHt + 5000) / 10000 * 10000)
        gngStale := x.gngStale.filter (· != src) })

/-- R215 GNG_ROW_STALE: no row for 30,000 ns. -/
def execGngRowStale (station src : Nat) (s : State) : Res :=
  .next (
    if src ≠ station ∧ mget 0 (s.stn station).gngRowHt src + 30000 ≤ s.ht then
      s.updStn station fun x => { x with gngStale := addSorted src x.gngStale }
    else s)

/-- R214: every map and the sample count restart. -/
def State.gngRestart (s : State) : State :=
  let s := { s with fabric := { s.fabric with samples := 0 } }
  dataStations.foldl (fun s n => s.updStn n fun x => { x with gng := [], gngShown := [] }) s

/-- R214 GNG_RESET: a write of PKT_CMD.GNG_RESET. -/
def execGngReset (_w : Who) (v : W32) (s : State) : Res :=
  .next (if bit v.toNat 1 then s.gngRestart else s)

/-- R217: the counters of R218 and R219. -/
def State.pktClear (s : State) : State :=
  let s := dataStations.foldl (fun s n => s.updStn n fun x => { x with
    discAge := 0, discFmt := 0, discNoent := 0, msgExp := 0, lateRsp := 0, adapt := 0 }) s
  hallPorts.foldl (fun s n => s.setHall n { s.hall n with rsCorr := 0, rsUncorr := 0, disc := 0, down := 0 }) s

/-- R217 PKT_CNT_CLR. -/
def execPktCntClr (_w : Who) (v : W32) (s : State) : Res :=
  .next (if bit v.toNat 0 then s.pktClear else s)

end Sys2Proof.Machine
end

