-- ==== Sys2Proof/Machine/Collect.lean ====
section
/-! DEFINITION. The collective engines (R256 to R273, R515, R516). -/

namespace Sys2Proof.Machine

/-! ## Packets of an engine -/

/-- The coordinate of a collective entry of this module (R259). -/
def State.entryCoord (s : State) (station e : Nat) : W32 := coord 2 s.cfg.module station e

/-- A packet of an engine: stamped now (R184) where `issue` is none. -/
def State.engineSend (s : State) (station e : Nat) (f : PktFields) (issue : Option W32)
    (via : Option Nat) : State :=
  let id := s.fabric.txid
  let s := { s with fabric := { s.fabric with txid := id + 1 } }
  s.putVia (.entry station) (mkPkt { f with
    txid := id, src := s.entryCoord station e, issue := issue.getD (ht32 (s.stnHt station)) }) via

/-- R516: a discard counted in COL_STN_STALE. -/
def State.collStale (s : State) (station : Nat) : State :=
  s.updStn station fun x => { x with collStale := satInc 65535 x.collStale }

/-- R516: a discard counted in COL_STN_DUP. -/
def State.collDup (s : State) (station : Nat) : State :=
  s.updStn station fun x => { x with collDup := satInc 65535 x.collDup }

/-- R516: an excess or unfit packet. -/
def State.collUnfit (s : State) (station e round chunk : Nat) : State :=
  (s.collDup station).recStn 0x7001 (some (ccPart (s.coll station e).cfg)) station
    (leBytes 2 e ++ [BitVec.ofNat 8 round] ++ leBytes 2 chunk)

/-- A chunk as an engine takes it: from a CONTRIB packet, or from an ENGINE item (R271). -/
structure Chunk where
  src : W32 := 0
  job : Nat := 0
  op : Nat := 0
  round : Nat := 0
  chunk : Nat := 0
  group : Nat := 0
  count : Nat := 0
  ovf : Bool := false
  issue : W32 := 0
  payload : List Byte := []

def chunkOf (p : Packet) : Chunk :=
  { src := p.src, job := p.job, op := p.op.toNat, round := caRound p.addr, chunk := caChunk p.addr
    group := caGroup p.addr, count := caCount p.addr, ovf := caOvf p.addr, issue := p.issueHt
    payload := p.payload }

/-- R263, R516: the lane width that a payload length gives for a chunk: none where it is unfit. -/
def chunkWide (c : BitVec 512) (q : Chunk) : Option Bool :=
  let n := ccLanes c q.chunk
  if q.payload.length = n * laneWidth (ccOp c) then some false
  else if opWide (ccOp c) ∧ q.payload.length = n * 16 then some true
  else none

/-- R516: a chunk is unfit for its entry. -/
def chunkUnfit (c : BitVec 512) (q : Chunk) : Bool :=
  q.job != ccJob c || q.op != ccOp c || ccChunks c ≤ q.chunk || (chunkWide c q).isNone ||
    (ccRoot c && ccGroup c ≤ q.group)

/-- The lanes of a chunk. -/
def chunkLanes (c : BitVec 512) (q : Chunk) : List Int :=
  laneValues (ccOp c) ((chunkWide c q).getD false) q.payload

/-! ## Accumulators -/

/-- Lanes put at the elements of a chunk. -/
def putLanesAt (m : SMap Int) (chunk : Nat) (ls : List Int) : SMap Int :=
  (ls.zipIdx).foldl (fun m l => mset 0 m (16 * chunk + l.2) l.1) m

def lanesAt (m : SMap Int) (chunk n : Nat) : List Int := (List.range n).map fun i => mget 0 m (16 * chunk + i)

/-- R93: a chunk combined into the accumulator; the first one is taken as it is. -/
def CollEntry.combine (e : CollEntry) (first : Bool) (q : Chunk) : CollEntry :=
  let ls := chunkLanes e.cfg q
  let new := if first then ls else combineLanes (ccOp e.cfg) (lanesAt e.acc q.chunk ls.length) ls
  { e with acc := putLanesAt e.acc q.chunk new }

/-- R272: a chunk kept apart, by SRC or group. -/
def CollEntry.stage (e : CollEntry) (key : Nat) (q : Chunk) : CollEntry :=
  { e with staged := e.staged ++ [{ key := key, chunk := q.chunk
                                    lanes := (chunkLanes e.cfg q).map fun l => BitVec.ofInt 32 l }] }

/-- R272: one chunk summed in ascending order of its keys. -/
def orderedSum (st : List Staged) (chunk : Nat) : List Int :=
  let rows := ((st.filter fun x => x.chunk == chunk).mergeSort fun a b => decide (a.key ≤ b.key)).map
    fun x => x.lanes.map BitVec.toNat
  match rows with
  | [] => []
  | r :: rs => (rs.foldl (fun acc x => List.zipWith (fun a b => (add32 a b).1) acc x) r).map fun n => (n : Int)

/-- R272: the sums of an ORDERED entry put into its accumulator. -/
def CollEntry.sumOrdered (e : CollEntry) : CollEntry :=
  if ccOrdered e.cfg then
    { e with acc := (List.range (ccChunks e.cfg)).foldl (fun m k => putLanesAt m k (orderedSum e.staged k)) e.acc }
  else e

/-- R265, R266: clear() of a round. -/
def CollEntry.clear (e : CollEntry) : CollEntry :=
  { e with
    any := false, sent := false, sentAt := 0, resent := false, accepted := false, ovf := false
    oldest := 0, oldestHt := 0, cnt := [], acc := [], staged := [], seen := [], groupsIn := [], planes := [] }

/-- R256: ROUND advances by 1, modulo 256. -/
def CollEntry.advance (e : CollEntry) : CollEntry :=
  { e.clear with round := (e.round + 1) % 256, rounds := (e.rounds + 1) % 2 ^ 32 }

/-- R265: the older of the ISSUE_HT seen so far and a new one. -/
def CollEntry.age (e : CollEntry) (now : Nat) (issue : W32) : CollEntry :=
  let h := fullHt now issue
  if !e.any || h < e.oldestHt then { e with any := true, oldest := issue, oldestHt := h }
  else { e with any := true }

/-! ## Gather (R265) -/

/-- R265, R263: the group packets of a gather. -/
def State.sendGroup (s : State) (station n : Nat) (via : Option Nat) : State :=
  let e := s.coll station n
  let c := e.cfg
  let op := ccOp c
  (List.range (ccChunks c)).foldl (fun s k =>
    s.engineSend station n
      { kind := kCONTRIB, vc := 3, red := true, job := ccJob c, dst := ccRootCoord c, op := op
        addr := mkCollAddr e.round (opWide op) e.ovf false k (ccMembers c) (ccGroup c)
        payload := laneBytes op (opWide op) (lanesAt e.acc k (ccLanes c k)) } (some e.oldest) via) s

/-- R265: a gather takes a chunk that fits and is not in excess. -/
def State.gatherTake (s : State) (station n : Nat) (e : CollEntry) (q : Chunk) : State :=
  let c := e.cfg
  let e' := if ccOrdered c then e.stage q.src.toNat q else e.combine (mget 0 e.cnt q.chunk == 0) q
  let e' := { e' with cnt := mupd 0 e'.cnt q.chunk (· + q.count), ovf := e'.ovf || q.ovf }
  let e' := e'.age s.ht q.issue
  if (List.range (ccChunks c)).all fun k => mget 0 e'.cnt k == ccMembers c then
    let s := s.setColl station n { e'.sumOrdered with sent := true, sentAt := s.ht }
    if ccCircuit c then s else s.sendGroup station n none
  else s.setColl station n e'

/-- R265, R516: a contribution at a gather. -/
def State.gatherChunk (s : State) (station n : Nat) (q : Chunk) : State :=
  let e := s.coll station n
  let e := if q.round = (e.round + 1) % 256 ∧ e.any = false then { e.clear with round := q.round } else e
  if !ccValid e.cfg || q.round != e.round then s.collStale station
  else if chunkUnfit e.cfg q ||
      (ccOrdered e.cfg && e.staged.any fun x => x.key == q.src.toNat && x.chunk == q.chunk) ||
      decide (ccMembers e.cfg < mget 0 e.cnt q.chunk + q.count) then
    s.collUnfit station n q.round q.chunk
  else s.gatherTake station n e q

/-- The entry that a CONTRIB packet names at its station is a root. -/
def State.toRoot (s : State) (station : Nat) (p : Packet) : Bool :=
  cKind p.dst == 2 && ccValid (s.coll station (cLow p.dst)).cfg && ccRoot (s.coll station (cLow p.dst)).cfg

/-- R265 GATHER_CONTRIB: the oldest contribution to a gather, or to an entry that is not VALID. -/
def execGatherContrib (station : Nat) (s : State) : Res :=
  .next (match s.takeDest station fun p => p.kind == kCONTRIB && !s.toRoot station p with
    | none => s
    | some f =>
      let s := s.dropPkt f.seq
      if cKind f.pkt.dst ≠ 2 then s.collStale station
      else s.gatherChunk station (cLow f.pkt.dst) (chunkOf f.pkt))

/-- R265, R267 GROUP_RESEND: RS after the send without an ACCEPT the group goes once more. -/
def execGroupResend (station entry : Nat) (s : State) : Res :=
  .next (
    let e := s.coll station entry
    if ccValid e.cfg && !ccRoot e.cfg && e.sent && !e.accepted && !e.resent &&
        decide (e.sentAt + ccTime e.cfg ≤ s.ht) then
      let s := (s.setColl station entry { e with resent := true }).sendGroup station entry (some disjointVia)
      s.updStn station fun x => { x with collResend := satInc 65535 x.collResend }
    else s)

/-- Byte `i` and following of a control payload (R515). -/
def ctrlField (p : Packet) (i n : Nat) : Nat := leNat ((p.payload.drop i).take n)

/-- R515, R516 ACCEPT_RECEIVE. -/
def execAcceptReceive (station : Nat) (s : State) : Res :=
  .next (match s.takeDest station fun p => p.kind == kCOLL_CTRL && p.op == 2 with
    | none => s
    | some f =>
      let s := s.dropPkt f.seq
      let p := f.pkt
      let n := cLow p.dst
      let e := s.coll station n
      if cKind p.dst != 2 || !ccValid e.cfg || ccRoot e.cfg || ctrlField p 1 1 != e.round ||
          ctrlField p 2 2 != ccGroup e.cfg then s.collStale station
      else if p.job != ccJob e.cfg then s.collUnfit station n e.round 0
      else s.setColl station n { e with accepted := true })

/-- R240: tmo of the module that a coordinate names. -/
def State.tmoOf (s : State) (c : W32) : Nat :=
  1000 * (if cModule c == s.cfg.module then s.mem.tmoPkg else s.mem.tmoHall)

/-- R265 GATHER_TIMEOUT_ADVANCE: without END a gather that has taken a chunk advances at its timeout. -/
def execGatherTimeoutAdvance (station entry : Nat) (s : State) : Res :=
  .next (
    let e := s.coll station entry
    if ccValid e.cfg && !ccRoot e.cfg && e.any &&
        decide ((if e.sent then e.sentAt else e.oldestHt) + s.tmoOf (ccRootCoord e.cfg) ≤ s.ht) then
      s.setColl station entry e.advance
    else s)

/-! ## Root (R266, R268, R269) -/

/-- R188, R268: one lane as delivered in OUT, and OVERFLOW. -/
def deliverLane (c : BitVec 512) (v : Int) : Int × Bool :=
  let op := ccOp c
  if op == 0x43 || op == 0x44 || op == 0x47 then (v, false)
  else
    let (k, o) := clampInt (if op == 0x40 then 32 else 64) v
    if ccOut c = 0 then
      let (w, o2) := fxToFp32 (if op == 0x42 then ccExp c else 0) k
      ((w : Int), o || o2)
    else (k, o)

/-- The bytes of a delivered lane. -/
def outWidth (c : BitVec 512) : Nat := if ccOut c = 1 then 8 else 4

/-- R268: the delivered lanes of a completed round. -/
def CollEntry.deliver (e : CollEntry) : List (Int × Bool) :=
  (List.range (ccElems e.cfg)).map fun i => deliverLane e.cfg (mget 0 e.acc i)

/-- The bytes of delivered lanes. -/
def resultBytes (c : BitVec 512) (ls : List Int) : List Byte :=
  (ls.map fun l => leBytes (outWidth c) (trunc (8 * outWidth c) l)).flatten

/-- R268: one COLL_DATA packet for each chunk. -/
def State.sendResult (s : State) (station n : Nat) (ls : List Int) : State :=
  let e := s.coll station n
  let c := e.cfg
  ((chunks 16 ls).zipIdx).foldl (fun s q =>
    s.engineSend station n
      { kind := kCOLL_DATA, vc := 3, job := ccJob c, dst := ccResult c, op := ccOut c
        addr := mkCollAddr e.round false false false q.2 0 0, payload := resultBytes c q.1 } none none) s

/-- R269: groups missing of a round. -/
def CollEntry.missingGroups (e : CollEntry) : List Nat :=
  (List.range (ccGroup e.cfg)).filter fun g => !e.groupsIn.contains g

/-- R269: the status block. -/
def statusBlock (status : Byte) (round : Nat) (missing : List Nat) : List Byte :=
  [status, BitVec.ofNat 8 round] ++ leBytes 2 missing.length ++ leBytes 12 0 ++
    leBytes 128 (missing.foldl (fun v g => v + 2 ^ g) 0)

/-- R269: status block, END on both routes, and the next round. -/
def State.endRound (s : State) (station n : Nat) (status : Byte) (chunksOut : Nat) : State :=
  let e := s.coll station n
  let c := e.cfg
  let missing := e.missingGroups
  let s := if ccStatusAddr c = 0 then s
    else (s.storeVa station (ccJob c) (ccStatusAddr c) (statusBlock status e.round missing)).1
  let f : PktFields :=
    { kind := kCOLL_CTRL, vc := 2, job := ccJob c, dst := ccRootCoord c, op := 1
      payload := [status, BitVec.ofNat 8 e.round] ++ leBytes 2 chunksOut ++ leBytes 4 0 }
  let s := (s.engineSend station n f none none).engineSend station n f none (some disjointVia)
  let part := status == St.partialCollective
  let s := s.updStn station fun x => { x with
    collPartial := if part then satInc 65535 x.collPartial else x.collPartial }
  s.setColl station n { e.advance with
    lastStatus := status
    lastAt := s.ht
    partials := if part then (e.partials + 1) % 2 ^ 32 else e.partials
    missing := if part then missing else e.missing }

/-- R268: the end of a round with DONE: sums, clamp, conversion, delivery, status. -/
def State.finishDone (s : State) (station n : Nat) : State :=
  let e := (s.coll station n).sumOrdered
  let c := e.cfg
  let out := e.deliver
  let ls := out.map (·.1)
  let st0 := if e.ovf || out.any (·.2) then St.overflow else St.done
  let s := s.setColl station n { e with result := ls, resultOvf := st0 == St.overflow, resultAt := s.ht }
  match cKind (ccResult c) with
  | 1 =>
    let r := s.storeBlocks station (ccJob c) (ccResultAddr c) (resultBytes c ls)
    r.1.endRound station n (worseStatus st0 r.2) 0
  | 7 => (s.sendResult station n ls).endRound station n st0 (ccChunks c)
  | _ => s.endRound station n st0 0

/-- R266: a chunk is taken at a root; `none` of the packet's SRC gets no ACCEPT (R515). -/
def State.rootTake (s : State) (station n : Nat) (e : CollEntry) (q : Chunk) : State :=
  let c := e.cfg
  let first := !e.seen.any fun k => k % 4096 == q.chunk
  let e := if e.any then e else { e with result := [], resultOvf := false }
  let e' := if ccOrdered c then e.stage q.group q else e.combine first q
  let e' := { e' with seen := addSorted (q.group * 4096 + q.chunk) e'.seen, ovf := e'.ovf || q.ovf }
  let e' := e'.age s.ht q.issue
  if (List.range (ccChunks c)).all fun k => e'.seen.contains (q.group * 4096 + k) then
    let s := s.setColl station n { e' with groupsIn := addSorted q.group e'.groupsIn }
    let s := if cKind q.src = 2 then
        s.engineSend station n
          { kind := kCOLL_CTRL, vc := 2, job := ccJob c, dst := q.src, op := 2
            payload := [0, BitVec.ofNat 8 e.round] ++ leBytes 2 q.group ++ leBytes 4 0 } none none
      else s
    if (s.coll station n).groupsIn.length = ccGroup c then s.finishDone station n else s
  else s.setColl station n e'

/-- R266, R516: a group chunk at a root. -/
def State.rootChunk (s : State) (station n : Nat) (q : Chunk) : State :=
  let e := s.coll station n
  if !ccValid e.cfg || !ccRoot e.cfg || q.round != e.round || e.st != .opened then s.collStale station
  else if chunkUnfit e.cfg q then s.collUnfit station n q.round q.chunk
  else if e.seen.contains (q.group * 4096 + q.chunk) then s.collDup station
  else s.rootTake station n e q

/-- R266 ROOT_GROUP_CHUNK. -/
def execRootGroupChunk (station : Nat) (s : State) : Res :=
  .next (match s.takeDest station fun p => p.kind == kCONTRIB && s.toRoot station p with
    | none => s
    | some f => (s.dropPkt f.seq).rootChunk station (cLow f.pkt.dst) (chunkOf f.pkt))

/-- A group chunk for the current round of a root waits at its station. -/
def State.chunkWaits (s : State) (station entry : Nat) : Bool :=
  s.fabric.pkts.any fun f => decide (f.place = .dest station) && f.pkt.kind == kCONTRIB && cKind f.pkt.dst == 2 &&
    cLow f.pkt.dst == entry && caRound f.pkt.addr == (s.coll station entry).round

/-- R266 ROOT_DEADLINE; in the cycle in which the deadline is reached a chunk that waits is taken first (R273). -/
def execRootDeadline (station entry : Nat) (s : State) : Res :=
  .next (
    let e := s.coll station entry
    let age := pktAge (ht32 (s.stnHt station)) e.oldest
    if ccValid e.cfg && ccRoot e.cfg && e.st == .opened && e.any && decide (ccTime e.cfg ≤ age) &&
        !(age == ccTime e.cfg && s.chunkWaits station entry) then
      s.endRound station entry St.partialCollective 0
    else s)

/-! ## Delivery (R268, R269) -/

/-- R256: how far a round lies behind another, modulo 256. -/
def roundsBehind (a b : Nat) : Nat := (a + 256 - b) % 256

/-- A round of a root lies two or more behind another, whose packets have come since. -/
def outlived (newer round : Nat) : Bool :=
  2 ≤ roundsBehind newer round && roundsBehind newer round < 128

/-- R269: the record of a root's round at a station, new where there is none; none for a round that is past. -/
def Station.endOf (x : Station) (group : Nat) (root : W32) (round job : Nat) : Option EndWait :=
  match x.endWaits.find? fun w => w.root == root && w.round == round with
  | some w => some w
  | none =>
    if x.endWaits.any fun w => w.root == root && outlived w.round round then none
    else some { group := group, root := root, round := round, job := job }

/-- The record of a round; those of rounds long past give way, unless their END still waits for chunks. -/
def Station.setEnd (x : Station) (w : EndWait) : Station :=
  { x with endWaits := (x.endWaits.filter fun v => v.root != w.root ||
      (v.round != w.round && (!outlived w.round v.round || (v.end_.isSome && !v.passed)))) ++ [w] }

/-- The tiles that a multicast entry selects at a station: those of the partition whose entry it is (R260). -/
def State.mcTilesOf (s : State) (station group : Nat) : List Nat :=
  let m := mget 0 (s.stn station).mcast group
  match allParts.find? fun q => (s.part q).mcGroups.contains (station * 1024 + group) with
  | none => []
  | some q => if mcValid m then s.maskTiles station q (mcRegions m) (mcClusters m) (mcTiles m) else []

/-- R268: chunk c lands in one tile at SRAM_ADDR + 16 × c × w; a fenced tile takes nothing, and a
word that is unreadable and only partly covered keeps the write out (R32). -/
def State.landChunk (s : State) (t a : Nat) (bs : List Byte) : State :=
  let x := s.tile t
  if x.st == .fenced || sramBytes < a + bs.length then s
  else match x.badPartial a bs.length with
    | some w => (s.setTile t (x.noteUncorr w)).recTile 0x6001 t (leBytes 4 (w * 8))
    | none => s.setTile t (x.wmem a bs)

/-- R268 COLL_DATA_RECEIVE. -/
def execCollDataReceive (station : Nat) (s : State) : Res :=
  .next (match s.takeDest station fun p => p.kind == kCOLL_DATA with
    | none => s
    | some f =>
      let s := s.dropPkt f.seq
      let p := f.pkt
      let g := cLow p.dst
      let round := caRound p.addr
      match (s.stn station).endOf g p.src round p.job with
      | none => s
      | some w =>
        if cKind p.dst ≠ 7 ∨ w.passed = true then s
        else
          let a := mcSram (mget 0 (s.stn station).mcast g) + 16 * caChunk p.addr * (if p.op == 1 then 8 else 4)
          let s := (s.mcTilesOf station g).foldl (fun s t => s.landChunk t a p.payload) s
          s.updStn station (·.setEnd { w with got := addSorted (caChunk p.addr) w.got }))

/-- R269: one tile that END reaches. -/
def State.endTile (s : State) (t : Nat) (m : BitVec 256) (w : EndWait) (gather : W32) (st : Byte) : State :=
  s.updTile t fun x =>
    let x := x.completeAll (fun d => d.kind == 5 && caRound d.remote == w.round &&
      (d.dst == w.root || (mcGatherEn m && d.dst == gather)) &&
      (match d.stage with
        | .ended _ => false
        | _ => true)) st
    if mcCountEn m then x.countEvent (mcCounter m) (st != St.done) else x

/-- R269, R265: END is passed to the station's gather and tiles. -/
def State.passEnd (s : State) (station : Nat) (w : EndWait) (st tileSt : Byte) : State :=
  let m := mget 0 (s.stn station).mcast w.group
  let n := mcGather m
  let e := s.coll station n
  let s := s.updStn station (·.setEnd { w with passed := true })
  if !mcValid m then s
  else
    let s := if mcGatherEn m && ccValid e.cfg && !ccRoot e.cfg && e.round == w.round then
        s.setColl station n { e.advance with lastStatus := st, lastAt := s.ht }
      else s
    (s.mcTilesOf station w.group).foldl (fun s t => s.endTile t m w (s.entryCoord station n) tileSt) s

/-- R269: every END that is due goes on: all chunks are in, or 2 µs have passed. -/
def State.endSweep (s : State) (station : Nat) : State :=
  (s.stn station).endWaits.foldl (fun s w =>
    match w.end_ with
    | none => s
    | some (st, n, at_) =>
      if w.passed then s
      else if n ≤ w.got.length then s.passEnd station w st st
      else if at_ + 2000 ≤ s.ht then s.passEnd station w st St.linkLost
      else s) s

/-- R269: an END arrives at a station; a duplicate is ignored. -/
def State.endArrive (s : State) (station : Nat) (p : Packet) : State :=
  match (s.stn station).endOf (cLow p.dst) p.src (ctrlField p 1 1) p.job with
  | none => s
  | some w =>
    if cKind p.dst ≠ 7 then s.collStale station
    else if w.passed || w.end_.isSome then s
    else s.updStn station (·.setEnd { w with
      group := cLow p.dst
      end_ := some (statusIn (BitVec.ofNat 8 (ctrlField p 0 1)), ctrlField p 2 2, s.ht) })

/-- R269 END_DELIVER: an END that has arrived is taken in, and every END that is due is passed on. -/
def execEndDeliver (station : Nat) (s : State) : Res :=
  .next (
    let s := match s.takeDest station fun p => p.kind == kCOLL_CTRL && p.op == 1 with
      | none => s
      | some f => (s.dropPkt f.seq).endArrive station f.pkt
    s.endSweep station)

/-! ## Rounds ended from outside (R273) -/

/-- The root entries of a partition, as station × 4096 + entry. -/
def State.rootsOf (s : State) (p : Nat) : List Nat :=
  (dataStations.map fun st => (s.stn st).coll.filterMap fun e =>
    if ccValid e.2.cfg && ccRoot e.2.cfg && ccPart e.2.cfg == p then some (st * 4096 + e.1) else none).flatten

/-- A round of a root is open: at the root, or at a gather of this module that sends to it. -/
def State.roundOpen (s : State) (station n : Nat) : Bool :=
  (s.coll station n).any || dataStations.any fun st => (s.stn st).coll.any fun e =>
    ccValid e.2.cfg && !ccRoot e.2.cfg && e.2.any && ccRootCoord e.2.cfg == s.entryCoord station n

/-- R273: the open rounds of a partition end with a status; nothing is delivered. -/
def State.endRounds (s : State) (p : Nat) (status : Byte) : State :=
  (s.rootsOf p).foldl (fun s k =>
    if s.roundOpen (k / 4096) (k % 4096) then s.endRound (k / 4096) (k % 4096) status 0 else s) s

end Sys2Proof.Machine
end

