-- ==== Sys2Proof/Machine/Circuit.lean ====
section
/-! DEFINITION. Circuits and Twill schedules at run time: slot and item tables (R154 to R160), the
frame boundary (R161), feeds (R137, R162, R163, R377), bursts (R132, R133), receivers (R135, R164 to
R168), activation and stop (R173, R175), ring substitution (R144) and their
registers (R147, R177 to R179). -/

namespace Sys2Proof.Machine

/-! ## Slot entries (R154, R155) -/

def seValid (e : W64) : Bool := bit e.toNat 63
def sePart (e : W64) : Nat := bits e.toNat 62 57
def seFirst (e : W64) : Nat := bits e.toNat 56 43
def seRuns (e : W64) : Nat := bits e.toNat 42 40 + 1
def seMask (e : W64) : Nat := bits e.toNat 30 0
def seSrc (e : W64) : Nat := bits e.toNat 39 35

/-- The index of a slot entry (R177). -/
def slotIndex (gear slot k : Nat) : Nat := gear * 7056 + slot * 28 + (k - 4)

/-! ## Item entries (R156 to R158) -/

def ieKind (e : BitVec 256) : Nat := bits (wWord e 0) 63 60
def ieFirst (e : BitVec 256) : Nat := bits (wWord e 0) 59 50
def ieBlocks (e : BitVec 256) : Nat := bits (wWord e 0) 49 40
def ieRepeat (e : BitVec 256) : Nat := bits (wWord e 0) 39 31
def ieCounter (e : BitVec 256) : Nat := bits (wWord e 0) 30 27
def ieCountEn (e : BitVec 256) : Bool := bit (wWord e 0) 26
def ieRegion (e : BitVec 256) : Nat := bits (wWord e 1) 63 60
def ieTile (e : BitVec 256) : Nat := bits (wWord e 1) 59 52
def ieTileStride (e : BitVec 256) : Nat := bits (wWord e 1) 51 44
def ieRegionMask (e : BitVec 256) : Nat := bits (wWord e 1) 63 48
def ieClusterMask (e : BitVec 256) : Nat := bits (wWord e 1) 47 32
def ieTileMask (e : BitVec 256) : Nat := bits (wWord e 1) 31 16
def ieAddr (e : BitVec 256) : Nat := wWord e 2
def ieStride (e : BitVec 256) : Nat := bits (wWord e 3) 31 0

/-- An item of a burst: its number, its run and place in it, its first block, its entry. -/
structure CItem where
  num : Nat := 0
  run : Nat := 0
  i : Nat := 0
  first : Nat := 0
  entry : BitVec 256 := 0

def CItem.blocks (x : CItem) : Nat := ieBlocks x.entry
/-- R156: the seal follows the data blocks. -/
def CItem.seal (x : CItem) : Nat := x.first + x.blocks
/-- The rows that hold an item's data. -/
def CItem.rows (x : CItem) : List Nat :=
  (List.range ((x.seal - 1) / 16 - x.first / 16 + 1)).map (x.first / 16 + ·)
/-- The address of an item's first byte. -/
def CItem.addr (x : CItem) : Nat := ieAddr x.entry + x.i * ieStride x.entry

/-- The tile of a TILE source, or of a TILE_LIST target (R157, R158). -/
def CItem.tile (x : CItem) (station : Nat) : Nat :=
  tileKey station (ieRegion x.entry) (ieTile x.entry + x.i * ieTileStride x.entry)

/-- R156: the items of a burst, numbered in block order. -/
def burstItems (tab : SMap (BitVec 256)) (first runs : Nat) : List CItem :=
  let l := ((List.range runs).map fun r =>
    let e := mget 0 tab (first + r)
    (List.range (ieRepeat e)).map fun i =>
      ({ run := r, i := i, first := ieFirst e + i * (ieBlocks e + 1), entry := e } : CItem)).flatten
  ((l.mergeSort fun a b => decide (a.first ≤ b.first)).zipIdx).map fun x => { x.1 with num := x.2 }

/-! ## Live entries (R161) -/

/-- R161, R175: the partition's schedule is armed at a boundary; a strict one that has lost time in
this frame is stopped there. -/
def Partition.arms (x : Partition) : Bool :=
  x.twl == .active && x.launch.isSome && x.st != .safeState && !x.standing && x.stopFrame.isNone

/-- R161: the gear of a partition's live entries in the frame of an HT: the current frame's, or the
one that the next boundary will arm. -/
def State.liveGear (s : State) (p ht : Nat) : Option Nat :=
  let x := s.part p
  if frameOf ht = frameOf s.ht then x.live else if x.arms then some x.gearNext else none

/-- The live entry of a table for a slot start: its gear and the entry. -/
def State.liveEntry (s : State) (tab : SMap W64) (slotHt k : Nat) : Option (Nat × W64) :=
  if 63000 ≤ framePos slotHt ∨ k < 4 ∨ 31 < k then none
  else allParts.findSome? fun p =>
    match s.liveGear p slotHt with
    | none => none
    | some g =>
      let e := mget 0 tab (slotIndex g (framePos slotHt / 250) k)
      if seValid e && sePart e == p then some (g, e) else none

def State.liveTx (s : State) (station slotHt k : Nat) : Option (Nat × W64) :=
  s.liveEntry (s.stn station).txTab slotHt k
def State.liveRx (s : State) (station slotHt k : Nat) : Option (Nat × W64) :=
  s.liveEntry (s.stn station).rxTab slotHt k

def circuitIndices : List Nat := (List.range 28).map (· + 4)

/-! ## Bond-port limits (R138, R377, R378) -/

/-- The key of a rebinding. -/
def rebindKey (station dir gear slot k region : Nat) : Nat :=
  ((((station * 2 + dir) * 4 + gear) * 252 + slot) * 28 + (k - 4)) * 16 + region

def State.rebound (s : State) (station dir gear slotHt k region : Nat) : Nat :=
  mget 0 s.links.rebind (rebindKey station dir gear (framePos slotHt / 250) k region)

/-- R378 REBOUND: a rebinding of a region's port is in force. -/
def State.isRebound (s : State) (r : Nat) : Bool :=
  s.links.rebind.any fun e => e.1 % 16 == r % 16 && e.1 / 903168 == r / 16 && (e.2 == 1 || e.2 == 2)

/-- Bursts a direction of a bond port carries in a slot, by its width. -/
def widthBursts (w : Nat) : Nat := 2 - w

/-- The regions that an entry's items use at a station. -/
def CItem.regions (x : CItem) (target : Bool) : List Nat :=
  if target && ieKind x.entry == 1 then (List.range 16).filter fun r => bit (ieRegionMask x.entry) r
  else if ieKind x.entry == 0 then [ieRegion x.entry]
  else []

def State.txItems (s : State) (station : Nat) (e : W64) : List CItem :=
  burstItems (s.stn station).srcItems (seFirst e) (seRuns e)
def State.rxItems (s : State) (station : Nat) (e : W64) : List CItem :=
  burstItems (s.stn station).tgtItems (seFirst e) (seRuns e)

/-- The live bursts of a slot that a region feeds (dir 0) or drains (dir 1), by index, under one mark of
`State.rebound`. -/
def State.regionBursts (s : State) (station dir slotHt region mark : Nat) : List Nat :=
  circuitIndices.filter fun k =>
    match (if dir = 0 then s.liveTx station slotHt k else s.liveRx station slotHt k) with
    | none => false
    | some (g, e) =>
      (if dir = 0 then s.txItems station e else s.rxItems station e).any
        (fun x => (x.regions (dir == 1)).contains region) && s.rebound station dir g slotHt k region == mark

/-- R377, R378: the bursts that cross the port of a region in a slot, as (index, region): its own that have not been
moved, those moved to it from its partner, and its own feeds of the next slot that have been re-timed into this one. -/
def State.portBursts (s : State) (station dir slotHt region : Nat) : List (Nat × Nat) :=
  let l := (s.regionBursts station dir slotHt region 0).map (·, region) ++
    (s.regionBursts station dir slotHt (partner region) 1).map (·, partner region) ++
    (if dir = 0 then (s.regionBursts station 0 (slotHt + 250) region 2).map (·, region) else [])
  l.mergeSort fun a b => decide (a.1 ≤ b.1)

/-- R377: a burst is among those that the port of a region carries in a slot, the lower indices first; a port that is
not UP carries none (R382). -/
def State.portCarries (s : State) (station dir slotHt port : Nat) (b : Nat × Nat) : Bool :=
  let x := (s.rgn (station * 16 + port)).bond
  x.st == 2 &&
    decide (((s.portBursts station dir slotHt port).takeWhile (· != b)).length <
      widthBursts (if dir = 0 then x.widthUp else x.widthDn))

/-- R377, R378: the burst on index k of a region may cross the port that it is bound to. -/
def State.crosses (s : State) (station dir gear slotHt k region : Nat) : Bool :=
  match s.rebound station dir gear slotHt k region with
  | 0 => s.portCarries station dir slotHt region (k, region)
  | 1 => s.portCarries station dir slotHt (partner region) (k, region)
  | 2 => s.portCarries station dir (slotHt - 250) region (k, region)
  | _ => false

/-! ## Bursts -/

def Burst.sameBurst (b : Burst) (src k slotHt : Nat) : Bool := b.src == src && b.k == k && b.slotHt == slotHt

def State.findBurst (s : State) (src k slotHt : Nat) : Option Burst := s.bursts.find? (·.sameBurst src k slotHt)

def State.putBurst (s : State) (b : Burst) : State :=
  { s with bursts := (s.bursts.filter fun c => !c.sameBurst b.src b.k b.slotHt) ++ [b] }

/-- R133: the instant, in units of 10 ps from the slot's start, at which row t starts. -/
def rowStart (t : Nat) : Nat := 192 + 532 * t

/-- The failure ring (R168). -/
def State.failRecord (s : State) (p frame : Nat) (st : Byte) (slot src station : Nat) (side : Bool)
    (k item : Nat) : State :=
  let x := s.part p
  let n := 2 ^ x.ringSize
  if x.ringSize = 0 ∨ (x.ringWp - x.ringRp).toNat = n then
    s.updPart p fun y => { y with ringLost := (y.ringLost + 1) % 2 ^ 32 }
  else
    let rec_ := leBytes 8 frame ++ [st, BitVec.ofNat 8 slot, BitVec.ofNat 8 src,
      BitVec.ofNat 8 (station + 32 * b2n side), BitVec.ofNat 8 (k - 4)] ++ leBytes 2 item ++ [0]
    ((s.storeVa station x.job (x.ringBase.toNat + x.ringWp.toNat % n * 16) rec_).1).updPart p
      fun y => { y with ringWp := y.ringWp + 1 }

/-- The ring record of a burst's item. -/
def State.failItem (s : State) (b : Burst) (st : Byte) (station : Nat) (side : Bool) (item : Nat) : State :=
  s.failRecord (sePart b.entry) (frameOf b.slotHt) st (framePos b.slotHt / 250) b.src station side b.k item

/-- R165: a TILE source counts the end of an item's feed, in every state of the tile; a status of R163
sets the counter's CNT_FAIL bit and, unlike a descriptor's or a target's status, not FAIL_CNT. -/
def Tile.countFeed (x : Tile) (c : Nat) (fail : Bool) : Tile :=
  let x := x.wc c (x.rc c + 1)
  if fail then { x with flags := x.flags ||| BitVec.ofNat 32 (2 ^ (16 + c)) } else x

/-- R163, R165: one item is voided at its source with a status. -/
def State.voidOne (s : State) (b : Burst) (st : Byte) (x : CItem) : State :=
  let s := s.updStn b.src fun y => { y with voided := satInc 65535 y.voided }
  let s := if st = St.timeout then
      s.updPart (sePart b.entry) fun y => { y with lateFeed := satInc 65535 y.lateFeed }
    else s
  let s := if ieKind x.entry = 0 && ieCountEn x.entry then
      s.updTile (x.tile b.src) fun y => y.countFeed (ieCounter x.entry) true
    else s
  s.failItem b st b.src true x.num

/-- An item of a burst whose feed has neither ended nor been voided. -/
def Burst.openItem (b : Burst) (x : CItem) : Bool := !b.done.contains x.num && !b.voids.any (·.1 == x.num)

/-- R163: the blocks of an item from a row on are sent empty. -/
def Burst.emptied (b : Burst) (x : CItem) (row : Nat) : Burst :=
  { b with blocks := b.blocks.filter fun n => !(decide (x.first ≤ n.1) && decide (n.1 < x.seal) && decide (16 * row ≤ n.1)) }

/-- R163: an item is voided, with every later item of its run; what has not been sent before a row is
sent empty. -/
def State.voidItem (s : State) (b : Burst) (items : List CItem) (x : CItem) (row : Nat) (st : Byte) : State × Burst :=
  (items.filter fun y => y.run == x.run && decide (x.num ≤ y.num) && b.openItem y).foldl
    (fun (acc : State × Burst) y =>
      (acc.1.voidOne acc.2 st y, { acc.2.emptied y row with voids := minsert acc.2.voids y.num st.toNat })) (s, b)

/-- R163, row 1: items of which a row was not in the buffer by its row time. -/
def State.settle (s : State) (b : Burst) : State × Burst :=
  let items := s.txItems b.src b.entry
  items.foldl (fun (acc : State × Burst) x =>
    match x.rows.find? (fun r => !acc.2.rows.contains r && decide (b.slotHt * 100 + rowStart r < s.ht * 100)) with
    | some r => if acc.2.openItem x then acc.1.voidItem acc.2 items x r St.timeout else acc
    | none => acc) (s, b)

/-- The first row of a burst whose row time has not come. -/
def State.nextRow (s : State) (b : Burst) : Nat :=
  ((List.range 45).filter fun r => decide (b.slotHt * 100 + rowStart r < s.ht * 100)).length

/-! ## Feeds (R162, R163, R271) -/

/-- R271: the header of an ENGINE item. -/
def engineHeader (src : W32) (round : Nat) (ovf : Bool) (group first n : Nat) : List Byte :=
  leBytes 4 src.toNat ++ [BitVec.ofNat 8 round, BitVec.ofNat 8 (b2n ovf)] ++ leBytes 2 group ++
    leBytes 2 first ++ leBytes 2 n ++ leBytes 20 0

/-- R163: the entry's last round ended with PARTIAL_COLLECTIVE by an HT, and no later one has begun. -/
def CollEntry.partialBy (e : CollEntry) (by_ : Nat) : Bool :=
  e.lastStatus == St.partialCollective && !e.any && decide (e.lastAt ≤ by_)

/-- R163, R271: the bytes of an ENGINE source item that carries `n` chunks from `first` on, or the status with which
it is voided: what has not completed by an HT is late. -/
def State.engineBytes (s : State) (station entry by_ first n : Nat) : List Byte ⊕ Byte :=
  let e := s.coll station entry
  let c := e.cfg
  let n := Nat.min n (ccChunks c - first)
  let body := fun f : Nat → Int =>
    ((List.range n).map fun k =>
      (((List.range 16).map fun i =>
        let j := 16 * (first + k) + i
        if j < ccElems c then leBytes 16 (trunc 128 (f j)) else leBytes 16 0)).flatten).flatten
  let late : List Byte ⊕ Byte := .inr (if e.partialBy by_ then St.partialCollective else St.timeout)
  if !ccValid c then .inr St.timeout
  else if ccRoot c then
    if e.result.isEmpty || decide (by_ < e.resultAt) then late
    else .inl (engineHeader (s.entryCoord station entry) ((e.round + 255) % 256) e.resultOvf 0 first n ++
      body fun i => nth 0 e.result i)
  else if e.sent && decide (e.sentAt ≤ by_) then
    .inl (engineHeader (s.entryCoord station entry) e.round e.ovf (ccGroup c) first n ++
      body fun i => mget 0 e.acc i)
  else late

/-- R271: BLOCKS of an ENGINE item is 1 + 8 × chunks. -/
def CItem.chunks (x : CItem) : Nat := (x.blocks - 1) / 8

/-- R271: the first chunk of an ENGINE item: the items of a burst that name one entry carry its chunks one after
another, in the order of their numbers (DESIGN CHOICE, log entry 80). -/
def CItem.firstChunk (x : CItem) (items : List CItem) : Nat :=
  ((items.filter fun y => ieKind y.entry == 2 && ieAddr y.entry == ieAddr x.entry && decide (y.num < x.num)).map
    CItem.chunks).foldl (· + ·) 0

/-- R162: 32 bytes of a tile's SRAM for a burst, or the status with which the item is voided. -/
def State.readTileBlock (s : State) (b : Burst) (x : CItem) (a : Nat) : State × (List Byte ⊕ Byte) :=
  let t := x.tile b.src
  let y := s.tile t
  if !s.crosses b.src 0 b.gear b.slotHt b.k (ieRegion x.entry) then (s, .inr St.timeout)
  else if y.st == .fenced || y.st == .faulted then (s, .inr St.internal)
  else match y.badWord a 32 with
    | some w => ((s.setTile t (y.noteUncorr w)).recTile 0x6001 t (leBytes 4 (w * 8)), .inr St.poisoned)
    | none => (s.setTile t (y.noteCorr a 32), .inl (y.rmem a 32))

/-- R162: 32 bytes of module memory at an MPA for a burst. -/
def State.readMpaBlock (s : State) (a : Nat) : State × (List Byte ⊕ Byte) :=
  match s.mem.badWord a 32 with
  | some v => (s.hbmUncorr v, .inr St.poisoned)
  | none => (s.hbmCorr a 32, .inl (s.mem.read a 32))

/-- R162: 32 bytes of module memory at a job-virtual address for a burst. -/
def State.readMemBlock (s : State) (b : Burst) (a : Nat) : State × (List Byte ⊕ Byte) :=
  match s.findWindow b.src (s.part (sePart b.entry)).job 0 a 32 with
  | none => (s, .inr St.timeout)
  | some w => s.readMpaBlock (winAddr w a)

/-- A mask or block listed for a block number. -/
def blockAt (l : List (Nat × BitVec 256)) (n : Nat) : Option (BitVec 256) := (l.find? (·.1 == n)).map (·.2)

/-- R162: one 32 B block of an item, or the status with which the item is voided; a STREAM block is
what the station's endpoint gives, and one that it does not give is not in the buffer. -/
def State.readBlock (s : State) (b : Burst) (x : CItem) (stream : List (Nat × BitVec 256)) (j : Nat) :
    State × (List Byte ⊕ Byte) :=
  match ieKind x.entry with
  | 0 => s.readTileBlock b x (x.addr + 32 * j)
  | 1 => s.readMemBlock b (x.addr + 32 * j)
  | 2 =>
    match b.engine.find? (·.1 == x.num) with
    | some (_, .inl bs) => (s, .inl (((bs.drop (32 * j)).take 32) ++ List.replicate (32 - (bs.drop (32 * j)).length) 0))
    | some (_, .inr st) => (s, .inr st)
    | none => (s, .inr St.timeout)
  | _ =>
    match blockAt stream (x.first + j) with
    | some v => (s, .inl (leBytes 32 v.toNat))
    | none => (s, .inr St.timeout)

/-- One block of a row is fed; a TILE item's block may be damaged as it crosses the bond port (R380). -/
def State.feedBlock (s : State) (b : Burst) (items : List CItem) (stream damage : List (Nat × BitVec 256))
    (n : Nat) : State × Burst :=
  match items.find? fun x => decide (x.first ≤ n) && decide (n < x.seal) with
  | none => (s, b)
  | some x =>
    if !b.openItem x then (s, b)
    else match s.readBlock b x stream (n - x.first) with
      | (s, .inl bs) => (s, { b with
          blocks := minsert b.blocks n (BitVec.ofNat 256 (leNat bs))
          damage := match blockAt damage n with
            | some m => if ieKind x.entry = 0 then minsert b.damage n m else b.damage
            | none => b.damage })
      | (s, .inr st) => s.voidItem b items x (s.nextRow b) st

/-- R165: items whose last row is in have been fed whole. -/
def State.feedDone (s : State) (b : Burst) (items : List CItem) : State × Burst :=
  items.foldl (fun (acc : State × Burst) x =>
    if acc.2.openItem x && x.rows.all acc.2.rows.contains then
      let s := if ieKind x.entry = 0 && ieCountEn x.entry then
          acc.1.updTile (x.tile b.src) fun y => y.countFeed (ieCounter x.entry) false
        else acc.1
      (s, { acc.2 with done := acc.2.done ++ [x.num] })
    else acc) (s, b)

/-- A re-timed feed (R378). -/
def State.retimed (s : State) (station slotHt k gear : Nat) : Bool :=
  (List.range 16).any fun r => s.rebound station 0 gear slotHt k r == 2

/-- R162: the buffer space of a row is free: each earlier burst on the index has sent that row. -/
def State.rowFree (s : State) (station k row slotHt : Nat) : Bool :=
  [250, 500].all fun d => decide (slotHt < d) || (s.liveTx station (slotHt - d) k).isNone ||
    decide ((slotHt - d) * 100 + rowStart (row + 1) ≤ s.ht * 100)

/-- The HT at which the feed of a burst begins (R162; R378 when it is re-timed). -/
def State.feedStart (s : State) (station k slotHt gear : Nat) : Nat :=
  slotHt - (if s.retimed station slotHt k gear then 500 else 250)

/-- A burst at the start of its feed: its ENGINE items are judged there (R163). -/
def State.newBurst (s : State) (station k slotHt gear : Nat) (e : W64) : Burst :=
  let items := s.txItems station e
  { src := station, k := k, slotHt := slotHt, gear := gear, entry := e
    engine := (items.filter fun x => ieKind x.entry == 2).map fun x =>
      (x.num, s.engineBytes station (ieAddr x.entry % 4096) (s.feedStart station k slotHt gear) (x.firstChunk items)
        x.chunks) }

/-- A row of the burst of a slot may be fed now; what a tile gives waits while no traffic crosses bond ports (R375). -/
def State.feedable (s : State) (station k row slotHt : Nat) : Option (Nat × W64) :=
  (s.liveTx station slotHt k).filter fun ge =>
    let open_ := if s.retimed station slotHt k ge.1 then
        decide (slotHt ≤ s.ht + 500) && decide (s.ht + 250 ≤ slotHt)
      else decide (slotHt ≤ s.ht + 250) && decide (s.ht * 100 ≤ slotHt * 100 + rowStart row)
    open_ && s.rowFree station k row slotHt &&
      (s.bondOpen || !(s.txItems station ge.2).any fun x => ieKind x.entry == 0 && x.rows.contains row) && (match s.findBurst station k slotHt with
      | none => true
      | some b => !b.rows.contains row)

/-- R162 CIRCUIT_FEED: the station and the source region bring one row of a circuit's burst into its
transmit buffer. -/
def execCircuitFeed (station k : Nat) (row : FeedRow) (s : State) : Res :=
  .next (
    let now := s.ht / 250 * 250
    if s.time.st = .free ∨ 44 < row.row then s
    else match [now, now + 250, now + 500].findSome? fun h => (s.feedable station k row.row h).map fun e => (h, e) with
      | none => s
      | some (h, g, e) =>
        let b := (s.findBurst station k h).getD (s.newBurst station k h g e)
        let items := s.txItems station b.entry
        let r := s.settle b
        let r := ((List.range 16).map (16 * row.row + ·)).foldl
          (fun acc n => acc.1.feedBlock acc.2 items row.stream row.damage n) r
        let r := r.1.feedDone { r.2 with rows := addSorted row.row r.2.rows } items
        r.1.putBurst r.2)

/-! ## Crossbar and bursts (R132) -/

/-- R362: OPT_STATUS.DEEP reads 1. -/
def State.deepNow (s : State) : Bool :=
  match s.opt.deep with
  | .running _ | .applied _ => true
  | _ => false

/-- R132 CROSSBAR_SET: between 247.0 and 249.5 ns of a slot the elements take their states for the
next slot; none is set for the maintenance interval (R143) or during a deep calibration (R362). -/
def execCrossbarSet (s : State) : Res :=
  .next (
    let next := s.ht / 250 * 250 + 250
    if s.time.st ≠ .free ∧ 247 ≤ s.ht % 250 ∧ framePos next < 63000 ∧ s.deepNow = false then
      { s with opt := { s.opt with crossbarFor := some next } }
    else s)

/-- A burst whose last rows have drained leaves the buffers. -/
def State.retireBursts (s : State) : State :=
  let old := s.bursts.filter fun b => decide (b.slotHt + 500 ≤ s.ht)
  let s := old.foldl (fun s b => if b.launched then (s.settle b).1 else s) s
  { s with
    bursts := s.bursts.filter fun b => !decide (b.slotHt + 500 ≤ s.ht)
    rxs := s.rxs.filter fun b => !decide (b.slotHt + 500 ≤ s.ht) }

/-- R132 CIRCUIT_BURST_SEND: at a slot's start every source station starts the burst of each live
circuit. -/
def execCircuitBurstSend (s : State) : Res :=
  .next (
    let h := s.ht
    if s.time.st = .free ∨ h % 250 ≠ 0 ∨ 63000 ≤ framePos h then s
    else dataStations.foldl (fun s st => circuitIndices.foldl (fun s k =>
        match s.liveTx st h k with
        | none => s
        | some (g, e) =>
          let b := (s.findBurst st k h).getD (s.newBurst st k h g e)
          if b.launched || s.opt.crossbarFor != some h then s.putBurst b
          else (s.putBurst { b with launched := true }).updStn st
            fun x => { x with twlTx := (x.twlTx + 1) % 2 ^ 32 }) s) s.retireBursts)

/-! ## Failed rings and dark indices (R144, R145) -/

/-- Ring number. -/
def ringKey (station dir wg line : Nat) : Nat := ((station * 2 + dir) * 32 + wg) * 17 + line

/-- The lines of a waveguide's failed rings that have had their interval (dir 0 transmit). -/
def State.failedLines (s : State) (station dir wg : Nat) : List Nat :=
  (List.range 17).filter fun l =>
    (s.ring (ringKey station dir wg l)).failed && !s.opt.pendingSub.contains (ringKey station dir wg l)

/-- R144: a circuit that cannot be carried from a source to one receiver. The receivers of a Tulle are
judged one by one: one whose failed ring is on another line than another receiver's is no ground
(DEDUCED, log entry 80: the rule names the source's and a receiver's spares). -/
def State.cannotCarry (s : State) (src dst k : Nat) : Bool :=
  let a := s.failedLines src 0 k
  let b := s.failedLines dst 1 k
  2 ≤ a.length || 2 ≤ b.length || (a.length == 1 && b.length == 1 && a != b)

/-! ## Receivers (R135, R164 to R166) -/

/-- The target tiles of an item (R158). -/
def CItem.targetTiles (station : Nat) (x : CItem) : List Nat :=
  if ieKind x.entry = 0 then [x.tile station]
  else (List.range 16).flatMap fun r =>
    if bit (ieRegionMask x.entry) r then
      (List.range 250).filterMap fun l =>
        if bit (ieClusterMask x.entry) (l / 16) && bit (ieTileMask x.entry) (l % 16) then
          some (tileKey station r l)
        else none
    else []

/-- The data blocks of an item among blocks by number. -/
def CItem.blocksOf (x : CItem) (bs : SMap (BitVec 256)) : List (Nat × BitVec 256) :=
  bs.filter fun v => decide (x.first ≤ v.1) && decide (v.1 < x.seal)

/-- R159: the CRC-32C over blocks in block order. -/
def crcOf (bs : List (Nat × BitVec 256)) : Nat := crc32c (blockBytes (bs.map (·.2)))

/-- R159: the seal's fields of an item of a burst. -/
def Burst.body (b : Burst) (x : CItem) : Nat :=
  sealBody (frameOf b.slotHt) x.num (framePos b.slotHt / 250) b.src b.gear (sePart b.entry)

/-- R159, R163, R380: the seal that the source sends: its CRC is that of the blocks as read. -/
def Burst.sealOf (b : Burst) (x : CItem) : BitVec 256 :=
  sealWord (crcOf (x.blocksOf b.blocks)) (b.body x) (b.voids.any (·.1 == x.num))

/-- R134, R156, R160: the codeword of a block as the source sends it. -/
def Burst.codeword (b : Burst) (items : List CItem) (n : Nat) : BitVec 266 :=
  match items.find? fun x => x.seal == n with
  | some x => markedOf (b.sealOf x)
  | none => match blockAt b.blocks n with
    | some v => codewordOf (v ^^^ mget 0 b.damage n)
    | none => markedOf 0

/-- The data bytes of an item as its receiver has them. -/
def RxBurst.bytes (r : RxBurst) (x : CItem) : List Byte := blockBytes ((x.blocksOf r.got).map (·.2))

/-- R380: a received block after a region's bond port. -/
def RxBurst.atRegion (r : RxBurst) (region : Nat) (v : Nat × BitVec 256) : BitVec 256 :=
  v.2 ^^^ mget 0 r.damage (region * 720 + v.1)

/-- R164 row 5, R380: the CRC of an item differs, at the agent of a region for TILE targets, else at
the station. -/
def RxBurst.crcBad (r : RxBurst) (x : CItem) (region : Option Nat) : Bool :=
  let bs := x.blocksOf r.got
  crcOf (match region with
    | some g => bs.map fun v => (v.1, r.atRegion g v)
    | none => bs) != sealCrc (mget 0 r.got x.seal)

/-- R164 row 5: the places at which an item fails it: regions, or the station (16). -/
def RxBurst.crcBads (r : RxBurst) (x : CItem) : List Nat :=
  if ieKind x.entry ≤ 1 then (x.regions true).filter fun g => r.crcBad x (some g)
  else if r.crcBad x none then [16] else []

/-- R271: the chunks of an ENGINE item. -/
def itemChunks (c : BitVec 512) (issue : W32) (bs : List Byte) : List Chunk :=
  let f := fun i n => leNat ((bs.drop i).take n)
  (List.range (f 10 2)).map fun i =>
    let k := f 8 2 + i
    let raw := (bs.drop (32 + 256 * i)).take 256
    let w := if opWide (ccOp c) then 16 else laneWidth (ccOp c)
    { src := BitVec.ofNat 32 (f 0 4), job := ccJob c, op := ccOp c, round := f 4 1, chunk := k
      group := f 6 2, count := 0, ovf := bit (f 5 1) 0, issue := issue
      payload := (((chunks 16 raw).take (ccLanes c k)).map fun l => l.take w).flatten }

/-- R135: a data block of an item is known to be poisoned. -/
def RxBurst.poisonIn (r : RxBurst) (x : CItem) : Option Nat :=
  r.poisoned.find? fun n => decide (x.first ≤ n) && decide (n < x.seal)

/-- R135, R166: the data blocks of a failed item, by place in the item, whose bytes at a target tile are undefined: all
of them, or, where one is poisoned, those that had landed before the row of the poison was decoded. -/
def RxBurst.undefined (r : RxBurst) (x : CItem) : List Nat :=
  (List.range x.blocks).filter fun j => match r.poisonIn x with
    | none => true
    | some p => decide ((x.first + j) / 16 < p / 16) && r.got.any (·.1 == x.first + j)

/-- R166: after any status but DONE bytes of a target tile's range are undefined (free values), block by block. -/
def State.freeBlocks (s : State) (t a : Nat) (js : List Nat) : State :=
  js.foldl (fun s j =>
    { s.updTile t (fun x => x.wmem (a + 32 * j) ((List.range 32).map fun i => Config.freeByte (s.free + i))) with
      free := s.free + 32 }) s

/-- R165, R166: an item ends at one target tile that is not fenced. With COUNT_EN 0 no counter is named,
and neither a CNT_FAIL bit nor FAIL_CNT changes (DEDUCED, log entry 80: "that counter" is the one that counts). -/
def State.endAtTile (s : State) (x : CItem) (st : Byte) (undef : List Nat) (t : Nat) : State :=
  if (s.tile t).st == .fenced then s
  else
    let s := if st = St.done then s else s.freeBlocks t x.addr undef
    if ieCountEn x.entry then s.updTile t fun y => y.countEvent (ieCounter x.entry) (st != St.done) else s

/-- R165: the data of an item goes to a target that is not a tile. -/
def State.commitItem (s : State) (station : Nat) (b : Burst) (x : CItem) (bs : List Byte) : State :=
  match ieKind x.entry with
  | 2 =>
    ((chunks 32 bs).zipIdx).foldl (fun s c =>
      (s.storeVa station (s.part (sePart b.entry)).job (x.addr + 32 * c.2) c.1).1) s
  | 3 =>
    let n := ieAddr x.entry % 4096
    (itemChunks (s.coll station n).cfg (ht32 (s.stnHt station)) bs).foldl (fun s q => s.rootChunk station n q) s
  | _ => s.emit (.stream station (ieAddr x.entry) bs)

/-- R164 rows 5 and 6: the status at a target tile, of the rows before and the regions whose CRC
differs. -/
def targetStatus (st : Byte) (bad : List Nat) (t : Nat) : Byte :=
  if st = St.done ∧ bad.contains (tileRegion t % 16) then St.poisoned else st

/-- A receiver's part of a burst. -/
def RxBurst.sameRx (r : RxBurst) (station k slotHt : Nat) : Bool :=
  r.station == station && r.k == k && r.slotHt == slotHt

def State.findRx (s : State) (station k slotHt : Nat) : RxBurst :=
  (s.rxs.find? (·.sameRx station k slotHt)).getD { station := station, k := k, slotHt := slotHt }

def State.putRx (s : State) (r : RxBurst) : State :=
  { s with rxs := (s.rxs.filter fun q => !q.sameRx r.station r.k r.slotHt) ++ [r] }

/-- R164, R165: an item ends at a receiver: its status by rows 1 to 4, and the regions (or the
station, 16) where row 5 holds; one record of the ring per status other than DONE. -/
def State.endItem (s : State) (station : Nat) (b : Burst) (x : CItem) (st : Byte) (bad : List Nat)
    (bs : List Byte) : State :=
  let tiles := ieKind x.entry ≤ 1
  let ts := if tiles then x.targetTiles station else []
  let fenced := ts.any fun t => targetStatus st bad t == St.done && (s.tile t).st == .fenced
  let fails := (if st != St.done then [st] else if bad.isEmpty then [] else [St.poisoned]) ++
    if fenced then [St.destFenced] else []
  let undef := (s.findRx station b.k b.slotHt).undefined x
  let s := ts.foldl (fun s t => s.endAtTile x (targetStatus st bad t) undef t) s
  let s := if !tiles && fails.isEmpty then s.commitItem station b x bs else s
  let s := s.updPart (sePart b.entry) fun y =>
    if fails.isEmpty then { y with itemsOk := (y.itemsOk + 1) % 2 ^ 32 }
    else { y with itemsFail := (y.itemsFail + 1) % 2 ^ 32 }
  fails.foldl (fun s f => s.failItem b f station false x.num) s

/-- R394: a chiplet site whose link is not up. -/
def State.siteLost (s : State) (n : Nat) : Bool := decide (27 ≤ n) && decide (n ≤ 30) && (s.site n).st != 3

/-- R377, R378, R394: a burst cannot reach a receiver's regions or site, or cannot be fed. -/
def State.portLost (s : State) (b : Burst) (station : Nat) (e : W64) : Bool :=
  s.siteLost b.src || s.siteLost station || ((s.txItems b.src b.entry).any fun x =>
    (x.regions false).any fun r => s.rebound b.src 0 b.gear b.slotHt b.k r == 3) ||
  ((s.rxItems station e).any fun x =>
    (x.regions true).any fun r => !s.crosses station 1 b.gear b.slotHt b.k r)

/-- R164 rows 1 to 4: the status of an item at a receiver that expects the given fields of its seal; and
whether row 3 gave it. -/
def itemStatus (b : Burst) (r : RxBurst) (lost : Bool) (body : Nat) (x : CItem) : Byte × Bool :=
  if lost || r.dark then (St.linkLost, false)
  else if (r.poisonIn x).isSome then (St.poisoned, false)
  else match blockAt r.got x.seal with
    | none => (St.poisoned, true)
    | some w =>
      if sealFields w != body then (St.poisoned, true)
      else if sealVoid w then
        (((b.voids.find? (·.1 == x.num)).map fun v => BitVec.ofNat 8 v.2).getD St.internal, false)
      else (St.done, false)

/-- R135: a codeword that no correction mends. -/
def State.codewordBad (s : State) (station k : Nat) (r : RxBurst) (n : Nat) : State × RxBurst :=
  ((s.updStn station fun x => { x with bchUncorr := satInc 65535 x.bchUncorr }).recStn 0x3001 none station
    [BitVec.ofNat 8 k, BitVec.ofNat 8 (n % 16 / 2), BitVec.ofNat 8 (n / 16)],
    { r with poisoned := addSorted n r.poisoned })

/-- R135, R160: one codeword at a receiver: at a seal position it is decoded against the mark;
elsewhere a block with the mark is dropped without a count. -/
def State.codeword (s : State) (station k : Nat) (items : List CItem) (r : RxBurst) (n : Nat) (w : BitVec 266) :
    State × RxBurst :=
  let atSeal := items.any fun x => x.seal == n
  if !atSeal && isMarked w then (s, r)
  else match decodeWord (if atSeal then w ^^^ emptyMark else w) with
    | .bad => s.codewordBad station k r n
    | .block v corrected =>
      (if corrected then s.updStn station fun x => { x with bchCorr := satInc 4294967295 x.bchCorr } else s,
        { r with got := minsert r.got n v })

/-- R135, R166: a data block lands in its target tiles as it decodes, after their region's bond port; nothing of an
item that is known to be poisoned does. -/
def State.landBlock (s : State) (station : Nat) (r : RxBurst) (items : List CItem) (n : Nat) : State :=
  match items.find? fun x => decide (x.first ≤ n) && decide (n < x.seal) with
  | none => s
  | some x =>
    match blockAt r.got n with
    | none => s
    | some v =>
      if ieKind x.entry ≤ 1 && (r.poisonIn x).isNone then
        (x.targetTiles station).foldl (fun s t =>
          if (s.tile t).st == .fenced then s
          else s.updTile t fun y =>
            y.wmem (x.addr + 32 * (n - x.first)) (leBytes 32 (r.atRegion (tileRegion t % 16) (n, v)).toNat)) s
      else s

/-- The slot whose row a receiver decodes next, in row order: the one before last while its tail is in
flight. -/
def State.rxSlot (s : State) (station k row : Nat) : Option (Nat × Nat × W64) :=
  let now := s.ht / 250 * 250
  ([now - 250, now].filter fun h => decide (s.ht < h + 274)).findSome? fun h =>
    if decide (h * 100 + rowStart (row + 1) + 100 ≤ s.ht * 100) && (s.findRx station k h).rows == List.range row then
      (s.liveRx station h k).map fun e => (h, e)
    else none

/-- R131, R132: the burst whose light reaches a receive port in a slot. -/
def State.burstAt (s : State) (station k h : Nat) : Option Burst :=
  s.bursts.find? fun b => b.k == k && b.slotHt == h && b.launched && bit (seMask b.entry) station

/-- R164 to R166: the items of a receiver whose seal lies in a row end, in block order. -/
def State.endRow (s : State) (station k row h gear : Nat) (e : W64) (b : Burst) (lost : Bool) : State :=
  let due := (s.rxItems station e).filter fun x => x.seal / 16 == row && !(s.findRx station k h).decided.contains x.num
  due.foldl (fun s x =>
    let r := s.findRx station k h
    let expected := sealBody (frameOf h) x.num (framePos h / 250) (seSrc e) gear (sePart e)
    let q := itemStatus b r lost expected x
    let bad := if q.1 = St.done then r.crcBads x else []
    let s := if q.2 || !bad.isEmpty then s.updStn station fun y => { y with sealFail := satInc 65535 y.sealFail } else s
    let s := s.putRx { r with decided := r.decided ++ [x.num] }
    s.endItem station b x q.1 bad (r.bytes x)) s

/-- R135: a receive port without light in the window of a burst. -/
def State.noLight (s : State) (station k h : Nat) : State :=
  (s.updStn station fun x => { x with losCkt := satInc 65535 x.losCkt }).recStn 0x3002 none station
    [BitVec.ofNat 8 k, BitVec.ofNat 8 (framePos h / 250)]

/-- R135, R164 to R166: a row of a burst at a receiver. -/
def State.decodeRow (s : State) (station k row h gear : Nat) (e : W64) (light : Bool) (errs : List (Nat × Nat))
    (damage : List (Nat × Nat × BitVec 256)) : State :=
  let b0 := s.burstAt station k h
  let (s, b) := match b0 with
    | none => (s, ({ src := seSrc e, k := k, slotHt := h, gear := gear, entry := e } : Burst))
    | some b => let r := s.settle b; (r.1.putBurst r.2, r.2)
  let light := light && b0.isSome
  let r := s.findRx station k h
  let s := if r.rows.isEmpty && light then s.updStn station fun x => { x with twlRx := (x.twlRx + 1) % 2 ^ 32 } else s
  let s := if !light && !r.dark then s.noLight station k h else s
  let r := { r with
    rows := r.rows ++ [row], dark := r.dark || !light
    damage := damage.foldl (fun m d => minsert m (d.1 * 720 + d.2.1) d.2.2) r.damage }
  let lost := s.isUnlit k || s.cannotCarry b.src station k || s.portLost b station e
  let items := s.rxItems station e
  let sent := s.txItems b.src b.entry
  let blocks := (List.range 16).map (16 * row + ·)
  let (s, r) := if r.dark then (s, r)
    else blocks.foldl (fun acc n =>
      acc.1.codeword station k items acc.2 n (b.codeword sent n ^^^ errorMask errs n)) (s, r)
  let s := s.putRx r
  let s := if r.dark || lost then s else blocks.foldl (fun s n => s.landBlock station r items n) s
  s.endRow station k row h gear e b lost

/-- R135 CIRCUIT_ROW_DECODE. -/
def execCircuitRowDecode (station k row : Nat) (light : Bool) (errs : RowErrors) (s : State) : Res :=
  .next (
    if s.time.st = .free ∨ 44 < row then s
    else match s.rxSlot station k row with
      | none => s
      | some (h, g, e) => s.decodeRow station k row h g e light errs.errs errs.damage)

/-! ## The frame boundary (R143, R161, R174) -/

/-- R161, R174: a partition at the boundary that begins a frame. -/
def Partition.boundary (x : Partition) : Partition :=
  let live := if x.arms then some x.gearNext else none
  { x with
    gear := x.gearNext
    live := live
    everArmed := x.everArmed || live.isSome
    twl := if x.twl == .stopping then .loaded else x.twl }

/-! ## Circuit checks, activation and stop (R144, R173, R175) -/

/-- R144: the records of circuits of one station's transmit entries that cannot be carried. -/
def State.checkEntry (s : State) (station idx : Nat) (e : W64) : State :=
  let k := idx % 28 + 4
  if !seValid e then s
  else (dataStations.filter fun d => bit (seMask e) d).foldl (fun s d =>
    if s.cannotCarry station d k then
      s.recStn 0x3003 (some (sePart e)) d
        [BitVec.ofNat 8 k, BitVec.ofNat 8 (idx % 7056 / 28), BitVec.ofNat 8 (idx / 7056), BitVec.ofNat 8 station]
    else s) s

/-- R144: every circuit of every gear is checked, of one partition or of all. -/
def State.checkCircuits (s : State) (p : Option Nat) : State :=
  dataStations.foldl (fun s st =>
    ((s.stn st).txTab.filter fun e => p.all fun q => sePart e.2 == q).foldl
      (fun s e => s.checkEntry st e.1 e.2) s) s

/-- R173 TWILL_ACTIVATE: at the boundary that ends the maintenance interval a loaded schedule
becomes ACTIVE; not while FLIGHT_VALID reads 0 (R148), nor a strict one while TIME_UNCERTAIN is 1
(R291). -/
def execTwillActivate (p : Nat) (s : State) : Res :=
  .next (
    let x := s.part p
    if s.time.st = .free ∨ s.ht % 64000 ≠ 0 ∨ x.twl ≠ .loaded ∨ x.st ≠ .loaded ∨ s.opt.flightValid = false ∨
        (x.strict = true ∧ s.time.uncertain = true) then s
    else
      let s := s.checkCircuits (some p)
      s.updPart p fun y =>
        let y := { y with twl := .active, actFrame := BitVec.ofNat 64 (frameOf s.ht) }
        { y with
          live := if y.arms then some y.gear else none
          everArmed := y.everArmed || y.arms })

/-- R175: what a stopped partition still holds ends with a status: timed descriptors held, and
packets held at station 26. -/
def State.endHeld (s : State) (p : Nat) (st : Byte) : State :=
  let x := s.part p
  let s := x.tiles.foldl (fun s t => s.updTile t fun y =>
    (y.descs.filter fun d => match d.stage with
      | .held _ => true
      | _ => false).foldl (fun y d => y.endDesc d.id st) y) s
  let held := s.fabric.pkts.filter fun f => f.pkt.job == x.job && (match f.place with
    | .hallHeld _ _ => true
    | _ => false)
  held.foldl (fun s f => (s.dropPkt f.seq).bounce 26 f.pkt st) s

/-- R175: the items of one burst that a station has still to decide end; their number. -/
def State.endBurstAt (s : State) (b : Burst) (d : Nat) (st : Byte) : State × Nat :=
  match s.liveRx d b.slotHt b.k with
  | none => (s, 0)
  | some (_, e) =>
    let rx := s.findRx d b.k b.slotHt
    let left := (s.rxItems d e).filter fun x => !rx.decided.contains x.num
    ((left.foldl (fun s x => s.endItem d b x st [] []) s).putRx { rx with decided := rx.decided ++ left.map (·.num) }, left.length)

/-- R175: the safe state ends the items of a partition's bursts in progress. -/
def State.endCircuits (s : State) (p : Nat) (st : Byte) : State :=
  let bs := s.bursts.filter fun b => sePart b.entry == p && b.launched
  let r := bs.foldl (fun (acc : State × Nat) b =>
    (dataStations.filter fun d => bit (seMask b.entry) d).foldl (fun (acc : State × Nat) d =>
      let r := acc.1.endBurstAt b d st
      (r.1, acc.2 + r.2)) acc) (s, 0)
  let s := { r.1 with bursts := r.1.bursts.filter fun b => sePart b.entry != p }
  let s := s.updPart p fun y => { y with live := none }
  if r.2 = 0 then s else s.recStn 0x4002 (some p) 26 (leBytes 4 r.2)

/-- R171: the bytes of a frame word. -/
def frameBytes (jframe gear : Nat) (uncertain : Bool) : List Byte :=
  leBytes 8 jframe ++ [BitVec.ofNat 8 gear, BitVec.ofNat 8 (b2n uncertain)] ++ leBytes 6 0

/-! ## Ring substitution (R144) -/

/-- R127: the pair of a packet channel, from its source or from its receiver. -/
def channelDelta (c : Nat) : Nat := if c < 32 then c + 1 else c - 31

/-- R128: the loop channels. -/
def isLoop (c : Nat) : Bool := c % 32 == 30 || c % 32 == 31

/-- Line 16 of a waveguide is in use, or has failed (R144, R356). -/
def State.spareUsed (s : State) (station dir wg : Nat) : Bool :=
  bit (if dir = 0 then (s.stn station).spareTx else (s.stn station).spareRx).toNat wg ||
    (s.ring (ringKey station dir wg 16)).failed

/-- Line 16 of a waveguide is taken for a line. -/
def State.takeSpare (s : State) (station dir wg line : Nat) : State :=
  let m : W32 := BitVec.ofNat 32 (2 ^ wg)
  s.updStn station fun x =>
    let x := { x with spareLine := mset 0 x.spareLine (dir * 32 + wg) (line + 1) }
    if dir = 0 then { x with spareTx := x.spareTx ||| m } else { x with spareRx := x.spareRx ||| m }

/-- A packet channel with one end at a station, as source (dir 0) or receiver: its source and receiver. -/
def channelEnds (station dir c : Nat) : Nat × Nat :=
  let far := if isLoop c then station
    else if dir = 0 then (station + channelDelta c) % 31 else (station + 31 - channelDelta c) % 31
  if dir = 0 then (station, far) else (far, station)

/-- R144: a packet channel leaves service. -/
def State.channelOut (s : State) (src c : Nat) : State :=
  if isLoop c then s else s.updStn src fun x => { x with chOut := addSorted c x.chOut }

/-- R144: one failed ring is replaced, or its channel leaves service; a spare that fails takes the
channel it carries with it. A loop channel belongs to no pair (R128), and the rule gives it no row: its
two ends are both at its station, whose two spares it takes (DESIGN CHOICE, log entry 75). -/
def State.substitute (s : State) (key : Nat) : State :=
  let line := key % 17
  let wg := key / 17 % 32
  let dir := key / 544 % 2
  let station := key / 1088
  let s := { s with opt := { s.opt with pendingSub := s.opt.pendingSub.filter (· != key) } }
  if line = 16 then
    let l := mget 0 (s.stn station).spareLine (dir * 32 + wg)
    if wg < 4 ∧ l ≠ 0 then s.channelOut (channelEnds station dir (16 * wg + l - 1)).1 (16 * wg + l - 1) else s
  else if wg < 4 then
    let c := 16 * wg + line
    let e := channelEnds station dir c
    if s.spareUsed e.1 0 wg || s.spareUsed e.2 1 wg then s.channelOut e.1 c
    else (s.takeSpare e.1 0 wg line).takeSpare e.2 1 wg line
  else if s.spareUsed station dir wg then s
  else s.takeSpare station dir wg line

/-- R361: the channels that a substitution takes: on the packet plane the pair's other end too. -/
def substituted (key : Nat) : List Nat :=
  let wg := key / 17 % 32
  let e := channelEnds (key / 1088) (key / 544 % 2) (16 * wg + key % 17)
  if wg < 4 ∧ key % 17 ≠ 16 then [e.1 * 64 + wg, e.2 * 64 + 32 + wg] else [key / 17]

/-- R144: the failed rings whose maintenance interval this is. -/
def State.substitutable (s : State) : List Nat := s.opt.pendingSub.filter fun k => s.nextInterval (s.ring k).failedAt

/-- R144 RING_SUBSTITUTE: in the next maintenance interval; then every circuit is checked. -/
def execRingSubstitute (s : State) : Res :=
  .next (
    let done := s.substitutable
    if !s.swapTime || done.isEmpty then s
    else
      let s := done.foldl State.substitute s
      let s := if s.time.st = .free then s
        else { s with opt := { s.opt with subNow := s.opt.subNow ++ (done.map substituted).flatten } }
      s.checkCircuits none)

/-! ## Registers -/

/-- R147: the optical counters of a station. -/
def State.optStnClear (s : State) (station : Nat) : State :=
  s.updStn station fun x => { x with bchCorr := 0, bchUncorr := 0, pktCrc := 0, losPkt := 0, losCkt := 0 }

/-- R147 OPT_STN_CNT_CLR. -/
def execOptStnCntClr (_w : Who) (station : Nat) (v : W32) (s : State) : Res :=
  .next (if bit v.toNat 0 then s.optStnClear station else s)

/-- R177: every TWL_STN counter. -/
def State.twlClear (s : State) : State :=
  dataStations.foldl (fun s n => s.updStn n fun x => { x with twlTx := 0, twlRx := 0, sealFail := 0, voided := 0 }) s

/-- R177 TWL_CNT_CLR. -/
def execTwlCntClr (_w : Who) (v : W32) (s : State) : Res :=
  .next (if bit v.toNat 0 then s.twlClear else s)

/-- R178: a value ahead of WP is ignored. -/
def State.twlRpWrite (s : State) (p : Nat) (v : W32) : State :=
  if older (s.part p).ringWp v then s else s.updPart p fun x => { x with ringRp := v }

/-- R178 TWL_RING_RP_WRITE. -/
def execTwlRingRpWrite (_w : Who) (p : Nat) (v : W32) (s : State) : Res := .next (s.twlRpWrite p v)

end Sys2Proof.Machine
end

