-- ==== Sys2Proof/Machine/Launch.lean ====
section
/-! DEFINITION. Ownership between the two hosts (R450 to R452), launch tables (R453, R454), launches
(R97, R98, R313, R314, R455, R456) and the completion ring (R457). -/

namespace Sys2Proof.Machine

/-! ## Ownership -/

/-- R450: firmware, or the port that owns the partition. -/
def State.entitled (s : State) (w : Who) (p : Nat) : Bool :=
  match w with
  | .port0 => (s.part p).owner == 1
  | .port1 => (s.part p).owner == 2
  | .core0 | .core1 => true
  | .sideband => false

/-- R450: a denied write of a port is counted. -/
def State.deny (s : State) (w : Who) : State :=
  match w with
  | .port0 => s.updPort 0 fun q => { q with denied := satInc 65535 q.denied }
  | .port1 => s.updPort 1 fun q => { q with denied := satInc 65535 q.denied }
  | _ => s

/-- R442, R454: an ignored write of a port is counted. -/
def State.portErr (s : State) (w : Who) : State :=
  match w with
  | .port0 => s.updPort 0 fun q => { q with err := satInc 65535 q.err }
  | .port1 => s.updPort 1 fun q => { q with err := satInc 65535 q.err }
  | _ => s

/-- R452: a change of owner clears CQ_CFG.EN and writes a record; the lease is fresh. -/
def State.setOwner (s : State) (p n : Nat) : State :=
  let old := (s.part p).owner
  let s := s.updPart p fun x => { x with owner := n, expired := false, leaseAt := s.boot.osc }
  if old = n then s
  else (s.updPart p fun x => { x with cqEn := false }).record ioPoint 0xA002 (some p) (s.stnCoord 26)
    [BitVec.ofNat 8 old, BitVec.ofNat 8 n]

/-- R451: the lease is renewed. -/
def State.renewLease (s : State) (p : Nat) : State :=
  s.updPart p fun x => { x with expired := false, leaseAt := s.boot.osc }

def Who.owner : Who → Nat
  | .port0 => 1
  | .port1 => 2
  | _ => 0

/-- R451: the OWNER renews. -/
def State.renewNow (s : State) (w : Who) (p : Nat) : State :=
  if Who.owner w ≠ 0 ∧ (s.part p).owner = Who.owner w then s.renewLease p else s.deny w

/-- R452: port 0 claims in the same cycle, taken as the same nanosecond, as port 1 was taken (log entry 88). -/
def State.claimTie (s : State) (w : Who) (p : Nat) : Bool :=
  w == .port0 && (s.part p).owner == 2 && (s.part p).claimAt == some s.boot.osc

/-- R452: a claim is accepted when OWNER is none or EXPIRED is set; by the owner it renews; of two in one cycle that
of port 0 is taken. -/
def State.claimNow (s : State) (w : Who) (p : Nat) : State :=
  let x := s.part p
  if Who.owner w = 0 then s
  else if x.owner = Who.owner w then s.renewLease p
  else if x.owner = 0 ∨ x.expired = true ∨ s.claimTie w p = true then
    (s.setOwner p (Who.owner w)).updPart p fun y => { y with claimAt := if w = .port1 then some s.boot.osc else none }
  else s.deny w

/-- R452: the OWNER releases. -/
def State.releaseNow (s : State) (w : Who) (p : Nat) : State :=
  if Who.owner w ≠ 0 ∧ (s.part p).owner = Who.owner w then s.setOwner p 0 else s.deny w

/-- R451, R452, R465: a command of a partition's OWN register. -/
def State.ownNow (s : State) (w : Who) (cmd p : Nat) : State :=
  match cmd with
  | 1 => s.renewNow w p
  | 2 => s.claimNow w p
  | _ => s.releaseNow w p

/-- R417: in a hand-off a command is held. -/
def State.ownReq (s : State) (w : Who) (cmd p : Nat) : State :=
  if s.handOff then s.holdReq (.own w cmd p) else s.ownNow w cmd p

/-- R417, R465: firmware writes OWNER itself. -/
def State.ownerWrite (s : State) (p n : Nat) : State :=
  if s.handOff then s.holdReq (.owner p n) else s.setOwner p n

/-- R451 RENEW. -/
def execRenew (w : Who) (p : Nat) (s : State) : Res := .next (s.ownReq w 1 p)

/-- R452 CLAIM. -/
def execClaim (w : Who) (p : Nat) (s : State) : Res := .next (s.ownReq w 2 p)

/-- R452 RELEASE. -/
def execRelease (w : Who) (p : Nat) (s : State) : Res := .next (s.ownReq w 3 p)

/-- R417, R451 LEASE_EXPIRE: HIF_LEASE_TIME after the last renewal EXPIRED is set; not while leases are frozen in a
hand-off. -/
def execLeaseExpire (p : Nat) (s : State) : Res :=
  .next (
    let x := s.part p
    if s.handOff = false ∧ x.owner ≠ 0 ∧ x.expired = false ∧ x.leaseAt + s.leaseMs * 1000000 ≤ s.boot.osc then
      s.updPart p fun y => { y with expired := true }
    else s)

/-! ## Launch records -/

/-- The state of a launch record as its byte. -/
def RecSt.code : RecSt → Nat
  | .free => 0 | .pending => 1 | .running => 2 | .done => 3

/-- The 64 bytes of a launch record (R453). -/
def LaunchRec.bytes (r : LaunchRec) : List Byte :=
  leBytes 8 r.notBefore.toNat ++ leBytes 8 r.arg.toNat ++ [r.entry, r.flags] ++
  leBytes 2 0 ++ leBytes 4 r.tag.toNat ++ leBytes 8 0 ++
  [BitVec.ofNat 8 r.st.code, r.status] ++ leBytes 2 r.haltCode ++ leBytes 4 r.faulted ++
  leBytes 8 r.startHt.toNat ++ leBytes 8 r.endHt.toNat ++ leBytes 8 0

/-- The record with the host's bytes 0 to 31 replaced; reserved bits and bytes stay 0 (R7, R453). -/
def LaunchRec.withHost (r : LaunchRec) (b : List Byte) : LaunchRec :=
  let f := fun i n => leNat ((b.drop i).take n)
  { r with
    notBefore := BitVec.ofNat 64 (f 0 8)
    arg := BitVec.ofNat 64 (f 8 8)
    entry := BitVec.ofNat 8 (f 16 1 % 8)
    flags := BitVec.ofNat 8 (f 17 1 % 2)
    tag := BitVec.ofNat 32 (f 20 4) }

/-- R454: the changes of STATE a host may make. -/
def recStWrite (st : RecSt) (v : Nat) : Option RecSt :=
  match st, v with
  | .free, 1 => some .pending
  | .pending, 0 => some .free
  | .done, 0 => some .free
  | _, _ => none

/-- R454: one aligned 4-byte word of a record written by a host; none where it is ignored. -/
def LaunchRec.writeWord (r : LaunchRec) (b : Nat) (w : List Byte) : Option LaunchRec :=
  if b < 32 then
    if r.st = .free then
      some (r.withHost ((r.bytes.take b) ++ w ++ (r.bytes.drop (b + 4))))
    else none
  else if b = 32 then
    (recStWrite r.st (w.headD 0).toNat).map fun st => { r with st := st }
  else none

/-- The words of a write in ascending order; whether one was ignored. -/
def LaunchRec.writeWords (r : LaunchRec) (b : Nat) : List (List Byte) → LaunchRec × Bool
  | [] => (r, false)
  | w :: ws =>
    match r.writeWord b w with
    | some r' => LaunchRec.writeWords r' (b + 4) ws
    | none => ((LaunchRec.writeWords r (b + 4) ws).1, true)

/-- R344: with AUTO_WAKE a visible launch record ends the park. -/
def Partition.autoWakes (x : Partition) : Partition :=
  if x.autoWake ∧ x.table.any (fun e => e.2.st == .pending) then
    { x with parkSt := if x.parkSt = 1 then 0 else if x.parkSt = 2 then 3 else x.parkSt }
  else x

/-- R419: a write to the BAR4 staging window of recovery mode, of 16 MiB. -/
def State.stageBytes (s : State) (offset : Nat) (data : List Byte) : State :=
  { s with cfg := { s.cfg with bar4 := (data.take (16777216 - offset)).zipIdx.foldl (fun m x => mset 0 m (offset + x.2) x.1) s.cfg.bar4 } }

/-- R419, R449, R450, R453, R454 LAUNCH_RECORD_WRITE: a write through BAR4; a poisoned one is not applied. -/
def execLaunchRecordWrite (w : Who) (offset : Nat) (data : Bar4Write) (s : State) : Res :=
  .next (
    if data.poisoned then s.aerOf w Aer.poisoned
    else if s.cfg.recMode then s.stageBytes offset data.bytes
    else if 0x100000 ≤ offset then s
    else
      let data := data.bytes
      let p := offset / 0x4000
      let i := offset % 0x4000 / 64
      let b := offset % 64
      if !s.entitled w p then s.deny w
      else if b % 4 ≠ 0 ∨ data.length % 4 ≠ 0 ∨ 64 < b + data.length then s.portErr w
      else
        let (r, bad) := (mget {} (s.part p).table i).writeWords b (chunks 4 data)
        let s := (s.updPart p fun x => { x with table := mset {} x.table i r }).updPart p Partition.autoWakes
        if bad then s.portErr w else s)

/-! ## The end of a launch (R456, R457) -/

/-- R457: a record of the completion ring, or CQ_LOST. -/
def State.ringWrite (s : State) (p i : Nat) (r : LaunchRec) : State :=
  let x := s.part p
  if !x.cqEn || x.owner == 0 then s
  else
    let n := 2 ^ x.cqSize
    let wp := x.cqWp.toNat
    if (x.cqWp - x.cqRp).toNat = n then s.updPart p fun y => { y with cqLost := (y.cqLost + 1) % 2 ^ 32 }
    else
      let phase := 1 - wp / n % 2
      let data := leBytes 8 r.endHt.toNat ++ [r.status, BitVec.ofNat 8 phase, BitVec.ofNat 8 p,
        BitVec.ofNat 8 i] ++ leBytes 4 r.tag.toNat ++ leBytes 2 r.haltCode ++ leBytes 2 0 ++
        leBytes 4 r.faulted ++ leBytes 8 r.startHt.toNat
      (s.emit (.pcieWrite (x.owner - 1) (x.cqBase.toNat + wp % n * 32) data)).updPart p
        fun y => { y with cqWp := y.cqWp + 1 }

/-- R456: MSI-X with FLAGS.IRQ and CQ_CFG.EN, where the port's MSI-X is enabled (R465). -/
def State.launchMsix (s : State) (p : Nat) (r : LaunchRec) : State :=
  let x := s.part p
  if x.cqEn && x.owner != 0 && bit r.flags.toNat 0 then s.sendMsix (x.owner - 1) x.cqVec else s

/-- R456, R465: the results of a record, the ring record and the message, in that order. -/
def State.finishRec (s : State) (p i : Nat) (status : Byte) (halt faulted phase : Nat) : State :=
  let r : LaunchRec := { mget {} (s.part p).table i with
    status := status, haltCode := halt % 65536, faulted := faulted
    startHt := BitVec.ofNat 64 phase, endHt := BitVec.ofNat 64 s.ht, st := .done }
  let s := s.updPart p fun x => { x with
    table := mset {} x.table i r
    launches := (x.launches + 1) % 2 ^ 32 }
  (s.ringWrite p i r).launchMsix p r

/-- R98: the tile has stopped, and takes no part in a launch that starts. -/
def Tile.outOfLaunch (x : Tile) : Bool := x.st == .faulted || x.st == .fenced || x.st == .fencing

/-- The tile's part in the launch is over (R98). -/
def Tile.launchOver (x : Tile) : Bool :=
  (x.st == .idle && x.haltCode.isSome) || x.outOfLaunch

/-- The tiles of a partition. -/
def State.partTiles (s : State) (p : Nat) : List Tile := (s.part p).tiles.map s.tile

/-- R98: the largest HALT code. -/
def maxHalt (xs : List Tile) : Nat := xs.foldl (fun m x => Nat.max m (x.haltCode.getD 0)) 0

/-- R98, R456: an ended launch writes its results. -/
def State.endLaunch (s : State) (p : Nat) : State :=
  match (s.part p).launch with
  | none => s
  | some l =>
    let xs := s.partTiles p
    match l.stopStatus with
    | some st =>
      (s.updPart p fun x => { x with launch := none }).finishRec p l.index st (maxHalt xs)
        (xs.filter fun x => x.cause != .none).length l.phase
    | none =>
      if l.started && xs.all Tile.launchOver then
        let bad := (xs.filter fun x => x.st != .idle).length
        (s.updPart p fun x => { x with launch := none }).finishRec p l.index
          (if bad = 0 then St.done else St.internal) (maxHalt xs) bad l.phase
      else s

/-- R19, R456: a launch in progress is stopped with a status, if nothing stopped it before, and ends. -/
def State.stopLaunch (s : State) (p : Nat) (st : Byte) : State :=
  (s.updPart p fun x => { x with
    launch := x.launch.map fun l => { l with stopStatus := some (l.stopStatus.getD st) } }).endLaunch p

/-- R98, R456 LAUNCH_END. -/
def execLaunchEnd (p : Nat) (s : State) : Res := .next (s.endLaunch p)

/-! ## Decision and start (R313, R314, R455) -/

/-- The PENDING records with NOT_BEFORE at or before P: (NOT_BEFORE, index). -/
def Partition.dueRecs (x : Partition) (phase : Nat) : List (Nat × Nat) :=
  x.table.filterMap fun e =>
    if e.2.st = .pending ∧ e.2.notBefore.toNat ≤ phase then some (e.2.notBefore.toNat, e.1) else none

/-- The smallest NOT_BEFORE, then the lowest index. -/
def firstDue : List (Nat × Nat) → Option (Nat × Nat)
  | [] => none
  | a :: as =>
    match firstDue as with
    | none => some a
    | some b => if a.1 < b.1 || (a.1 == b.1 && a.2 < b.2) then some a else some b

/-- R455: a record is taken for phase P. -/
def State.takeRec (s : State) (p phase i : Nat) : State :=
  let s := s.updPart p fun x => { x with
    table := mupd {} x.table i fun r => { r with st := .running, startHt := BitVec.ofNat 64 phase } }
  let bad := ((s.partTiles p).filter fun x => x.st == .fencing || x.st == .fenced || x.st == .faulted).length
  if 0 < bad then s.finishRec p i St.destFenced 0 bad phase
  else s.updPart p fun x => { x with launch := some { index := i, phase := phase } }

/-- R455 LAUNCH_DECISION: at HT P − 1,000 ns the partition's pending records are decided. -/
def execLaunchDecision (p : Nat) (s : State) : Res :=
  .next (
    let phase := s.ht + 1000
    let x := s.part p
    if phase % 2000 ≠ 0 ∨ s.time.st = .free then s
    else if x.st = .safeState then
      (x.dueRecs phase).foldl (fun s r => s.finishRec p r.2 St.safeState 0 0 phase) s
    else if x.st ≠ .loaded ∨ x.launch.isSome ∨ x.twl = .stoppedTime ∨ x.noSample = true ∨
        x.standing = true ∨ (x.ck = .armed ∧ phase = x.ckFrame.toNat * 64000) then s
    else if x.parkSt ≠ 0 then s.updPart p Partition.autoWakes
    else match firstDue (x.dueRecs phase) with
      | none => s
      | some r => s.takeRec p phase r.2)

/-- R97: a tile begins at ENTRYi. -/
def Tile.start (x : Tile) (entry : Nat) (arg : W64) (jt : W64) : Tile :=
  { (x.ws 1 arg).ws 2 jt with pc := nth 0 x.entries entry, st := .running, haltCode := none, wait := none }

/-- R97, R314, R456 LAUNCH_START: at the launch phase every IDLE tile of the partition starts at its entry;
one that has faulted or been fenced since the decision does not, and the launch ends with INTERNAL. -/
def execLaunchStart (p : Nat) (s : State) : Res :=
  .next (
    let x := s.part p
    match x.launch with
    | none => s
    | some l =>
      if l.started || l.stopStatus.isSome || s.ht < l.phase ||
          !((s.partTiles p).all fun y => y.st == .idle || y.outOfLaunch) then s
      else
        let r := mget {} x.table l.index
        let jt := jobTime x l.phase
        let s := x.tiles.foldl (fun s t => s.updTile t fun y =>
          if y.st = .idle then y.start (r.entry.toNat % 8) r.arg jt else { y with haltCode := none }) s
        s.updPart p fun y => { y with launch := some { l with started := true } })

/-- R450, R465: a write of HIF_PARTp_CQ_RP; a value ahead of WP is ignored. -/
def State.cqRpCmd (s : State) (w : Who) (p : Nat) (v : W32) : State :=
  if !s.entitled w p then s.deny w
  else if older (s.part p).cqWp v then s
  else s.updPart p fun x => { x with cqRp := v }

/-- R465 CQ_RP_WRITE. -/
def execCqRpWrite (w : Who) (p : Nat) (v : W32) (s : State) : Res := .next (s.cqRpCmd w p v)

end Sys2Proof.Machine
end

