-- ==== Sys2Proof/Machine/Checkpoint.lean ====
section
/-! DEFINITION. Pause, save and resume of a partition (R278 to R281, R285), and the clearing of the
collective counters (R283). -/

namespace Sys2Proof.Machine

/-- The collective entries of a partition, as station × 4096 + entry. -/
def State.entriesOf (s : State) (p : Nat) : List Nat :=
  (dataStations.map fun n => (s.stn n).coll.filterMap fun e =>
    if ccValid e.2.cfg && ccPart e.2.cfg == p then some (n * 4096 + e.1) else none).flatten

/-! ## The area (R279) -/

/-- R279, R285: bytes of save area. -/
def State.areaBytes (s : State) (p : Nat) : Nat :=
  128 + 274432 * (s.part p).tiles.length + 4 * (s.entriesOf p).length

/-- R279: the fields of the header as one number: digest, grade by its tiles, logical tiles, job frame, gear, size and
the magic word; the bytes past them are 0. -/
def SaveArea.fields (a : SaveArea) : Nat :=
  a.digest.toNat + at_ 256 (a.gradeTiles % 2 ^ 32) + at_ 288 (a.tiles % 2 ^ 32) + at_ 320 (a.jframe % 2 ^ 64) +
    at_ 384 (a.gear % 2 ^ 8) + at_ 392 (a.size % 2 ^ 64) + at_ 456 Config.savedMagic.toNat

/-- A header read back (R279). -/
def SaveArea.ofFields (v : Nat) : SaveArea :=
  { digest := BitVec.ofNat 256 v, gradeTiles := bits v 287 256, tiles := bits v 319 288, jframe := bits v 383 320
    gear := bits v 391 384, size := bits v 455 392 }

/-- Byte `i` of a header in the layout of the manual's choice. -/
def placed (p : Equiv.Perm (Fin 128)) (v : Nat) : List Byte :=
  List.ofFn fun i : Fin 128 => BitVec.ofNat 8 (v / 256 ^ (p i).val)

/-- The fields of a header in that layout. -/
def unplaced (p : Equiv.Perm (Fin 128)) (bs : List Byte) : Nat :=
  leNat (List.ofFn fun i : Fin 128 => bs.getD (p.symm i).val 0)

/-- R279: the bytes of the header. -/
def SaveArea.header (a : SaveArea) : List Byte := placed Config.headerLayout a.fields

/-- R279: the 12,288 B of state of a tile's record. -/
def SavedTile.stateBytes (r : SavedTile) : List Byte :=
  (List.range 12288).map fun i => Config.savedByte { r with sram := [] } i

/-- R279: an area's bytes: the header, a record per tile of its SRAM and its state, the ROUNDs. -/
def SaveArea.bytes (a : SaveArea) : List Byte :=
  a.header ++ (a.recs.map fun r => readBytes r.sram 0 sramBytes ++ r.stateBytes).flatten ++
    (a.rounds.map fun r => leBytes 4 r.2).flatten

/-- Where a job-0 range lies (R279, R404): in a window of HBM or of HOST kind that holds all of it, at station 26. -/
inductive AreaPlace where
  | hbm (w : BitVec 256)
  | host (w : BitVec 256)
  deriving DecidableEq, Repr

def Partition.areaVa (x : Partition) : Nat := x.ckAddr.toNat / 4096 * 4096

def State.landing (s : State) (va n : Nat) : Option AreaPlace :=
  match s.findWindow 26 0 0 va n, s.findWindow 26 0 2 va n with
  | some w, _ => some (.hbm w)
  | none, some w => some (.host w)
  | none, none => none

/-- R279: the place of a partition's area, at the 4 KiB-aligned address of COL_CKPT_ADDR. -/
def State.areaPlace (s : State) (p : Nat) : Option AreaPlace := s.landing (s.part p).areaVa (s.areaBytes p)

/-- R279: what the state bytes of a record say: those of a record that this module wrote, else a free
reading. -/
def State.stateOf (s : State) (bs : List Byte) : SavedTile :=
  (s.saves.findSome? fun a => a.recs.find? fun r => r.stateBytes == bs).getD (Config.savedState bs)

/-- R279: what the header bytes say. -/
def headerOf (bs : List Byte) : SaveArea := SaveArea.ofFields (unplaced Config.headerLayout bs)

/-- R279: an area as its bytes give it to a partition. -/
def State.areaOf (s : State) (p : Nat) (bs : List Byte) : SaveArea :=
  let n := (s.part p).tiles.length
  { headerOf (bs.take 128) with
    recs := (List.range n).map fun i =>
      let r := (bs.drop (128 + 274432 * i)).take 274432
      { s.stateOf (r.drop sramBytes) with sram := writeBytes [] 0 (r.take sramBytes) }
    rounds := (s.entriesOf p).zipIdx.map fun k => (k.1, leNat ((bs.drop (128 + 274432 * n + 4 * k.2)).take 4) % 256) }

/-- R281: an area fits the partition: the digest, the grade and the tile count. -/
def State.fits (s : State) (p : Nat) (a : SaveArea) : Bool :=
  let x := s.part p
  x.isLoaded && a.digest == x.digest && a.gradeTiles == s.dies * 4000 && a.tiles == x.tiles.length

/-- R230, R231: a read of the module itself within one line of module memory: the bytes, with those of open combining
entries, or POISONED. -/
def State.readLine (s : State) (a n : Nat) : State × (List Byte ⊕ Byte) :=
  let cs := (s.stn (channelStation (s.mem.channelOf a))).combine
  match unreadable cs s.mem.hbmPoison 32 (s.mem.key a) a n with
  | some w => (s.hbmUncorr w, .inr St.poisoned)
  | none => (s.hbmCorr a n, .inl (mergedBytes cs a (s.mem.read a n)))

/-- R228: a long range, line by line from an address aligned to 256 bytes: the bytes, or the first failing line's
status. -/
def State.readLines (s : State) (a n : Nat) : State × (List Byte ⊕ Byte) :=
  (List.range ((n + 255) / 256)).foldl (fun (acc : State × (List Byte ⊕ Byte)) i =>
    let r := acc.1.readLine (a + 256 * i) (Nat.min 256 (n - 256 * i))
    (r.1, match acc.2, r.2 with
      | .inl x, .inl y => .inl (x ++ y)
      | .inl _, .inr st => .inr st
      | .inr st, _ => .inr st)) (s, .inl [])

/-- The first `n` bytes of the area of a partition; those of a HOST area are what its host answers. -/
def State.areaRead (s : State) (p n : Nat) (host : List Byte) : State × (List Byte ⊕ Byte) :=
  match s.areaPlace p with
  | some (.hbm w) =>
    if !wPermR w then (s, .inr St.notPermitted)
    else s.readLines (wTarget w + ((s.part p).areaVa - wBase w)) n
  | some (.host _) => (s, .inl host)
  | none => (s, .inr St.translationMiss)

/-- R281: RESTORE of the area at COL_CKPT_ADDR begins: where the module can read the header, its area must fit the
partition, which then stands; that of a host is read as the restore runs, and until then nothing changes. A header
that cannot be read fits nothing (DESIGN CHOICE, log entry 6). -/
def State.beginRestore (s : State) (p : Nat) : State :=
  let r := s.areaRead p 128 []
  match s.areaPlace p with
  | some (.hbm _) =>
    let fit := match r.2 with
      | .inl bs => s.fits p (headerOf bs)
      | .inr _ => false
    r.1.updPart p fun y => { y with ck := if fit then .restoring else .refusedImage, ckUnread := false }
  | some (.host _) =>
    s.updPart p fun y => { y with ck := if y.isLoaded then .restoring else .refusedImage, ckUnread := true }
  | none => s.updPart p fun y => { y with ck := .refusedImage }

/-! ## GO (R285) -/

/-- R285: GO with a written value of COL_CKPT_CTRL: OP and CONTINUE are written; GO starts nothing with
OP 0 or 3, from a source other than the owning host or firmware, or while an area is being written or
restored; a frame already begun refuses the operation. -/
def State.ckptGo (s : State) (w : Who) (p : Nat) (v : W32) : State × Bool :=
  let x := s.part p
  let op := bits v.toNat 31 30
  let t := s.updPart p fun y => { y with ckOp := op, ckCont := bit v.toNat 29 }
  if !bit v.toNat 0 || op == 0 || op == 3 || !s.entitled w p || x.ck == .saving || x.ck == .restoring then (t, false)
  else if x.ckFrame.toNat * 64000 ≤ s.ht then (t.updPart p fun y => { y with ck := .refusedBusy }, false)
  else (t, true)

/-- R278, R281, R285: a write of COL_CKPT_CTRL; a write of GO from a source that may not is ignored. -/
def State.ckptWrite (s : State) (w : Who) (p : Nat) (v : W32) : State :=
  if bit v.toNat 0 && !s.entitled w p then s.deny w
  else
    let (s, go) := s.ckptGo w p v
    if !go then s
    else if bits v.toNat 31 30 = 1 then s.updPart p fun y => { y with ck := .armed }
    else s.beginRestore p

/-- R278 CKPT_SAVE: a GO with OP SAVE. -/
def execCkptSave (w : Who) (p : Nat) (v : W32) (s : State) : Res :=
  .next (if bit v.toNat 0 ∧ bits v.toNat 31 30 = 1 then s.ckptWrite w p v else s)

/-- R281 CKPT_RESTORE: a GO with OP RESTORE. -/
def execCkptRestore (w : Who) (p : Nat) (v : W32) (s : State) : Res :=
  .next (if bit v.toNat 0 ∧ bits v.toNat 31 30 = 2 then s.ckptWrite w p v else s)

/-- R278: a timed descriptor not yet injected: held, or released and waiting for an agent entry or for
injection. -/
def Desc.notInjected (d : Desc) : Bool :=
  d.timed && d.sentPkts == 0 && (match d.stage with
    | .held _ | .waitEntry _ | .ready _ => true
    | _ => false)

/-- R278: the partition is clean. -/
def State.isClean (s : State) (p : Nat) : Bool :=
  let x := s.part p
  x.st == .loaded &&
  ((s.partTiles p).all fun y => y.descs.all Desc.notInjected) &&
  (dataStations.all fun n => (s.stn n).coll.all fun e =>
    !(ccValid e.2.cfg && ccPart e.2.cfg == p && e.2.any)) &&
  (s.bursts.all fun b => sePart b.entry != p || !b.launched || decide (b.slotHt + 274 ≤ s.ht)) &&
  s.fabric.pkts.all fun f => !(f.pkt.kind == kCOLL_DATA && f.pkt.job == x.job)

/-- R278, R280 SAVE_CLEAN_TEST: the test begins at B − 1,000, from where no launch is sampled (R280), and
decides at B itself. -/
def execSaveCleanTest (p : Nat) (s : State) : Res :=
  .next (
    let x := s.part p
    if x.ck ≠ .armed ∨ s.ht < x.ckFrame.toNat * 64000 ∨ s.isClean p = true then s
    else s.updPart p fun y => { y with ck := .refusedBusy })

/-- R280 SAVE_START at B: every tile of the partition stops issuing. -/
def execSaveStart (p : Nat) (s : State) : Res :=
  .next (
    let x := s.part p
    if x.ck ≠ .armed ∨ s.ht < x.ckFrame.toNat * 64000 then s
    else if s.isClean p then
      s.updPart p fun y => { y with
        ck := .saving, ckHeld := true, live := none, ckResume := none
        ckJ := BitVec.ofNat 64 ((jobTime x (x.ckFrame.toNat * 64000)).toNat / 64000) }
    else s.updPart p fun y => { y with ck := .refusedBusy })

/-- R279: a timed descriptor not yet injected, as the area holds it: held, with its release in job time. -/
def Desc.toJob (d : Desc) (joff : W32) : Desc :=
  match d.stage with
  | .held r => { d with stage := .held (r - joff) }
  | _ => { d with stage := .held (d.jobRelease.getD (d.releaseHt - joff)), agent := false, shared := false }

/-- R281, R115: a held descriptor re-issued under a new offset. -/
def Desc.fromJob (d : Desc) (joff : W32) : Desc :=
  match d.stage with
  | .held r => { d with stage := .held (r + joff) }
  | _ => d

/-- The low 32 bits of a partition's job offset. -/
def Partition.joff32 (x : Partition) : W32 := BitVec.ofNat 32 x.joff.toNat

/-- R279: the record of a tile. -/
def Tile.saved (x : Tile) (joff : W32) : SavedTile :=
  { sram := x.sram, poison := x.poison, s := x.s, v := x.v, m := x.m, c := x.c, flags := x.flags, pc := x.pc
    st := x.st, wait := x.wait, draw0 := x.draw0, draw1 := x.draw1, draw2 := x.draw2, cycles := x.cycles
    descs := x.descs.map fun d => d.toJob joff }

/-- R55, R56: the tile is FENCING, FENCED or FAULTED. -/
def TileSt.isOut : TileSt → Bool
  | .fencing | .fenced | .faulted => true
  | _ => false

/-- R281: a tile's record written back; its instruction buffer is refetched (R279). A tile that is out of service
stays so, since only a reconfiguration brings it back (R56). -/
def Tile.restored (x : Tile) (r : SavedTile) (joff : W32) : Tile :=
  { x with
    sram := r.sram, poison := r.poison, soft := [], s := r.s, v := r.v, m := r.m, c := r.c, flags := r.flags
    pc := r.pc, st := if x.st.isOut then x.st else if r.st.isOut then .idle else r.st
    wait := r.wait, draw0 := r.draw0, draw1 := r.draw1, draw2 := r.draw2
    cycles := r.cycles, descs := if x.st.isOut then x.descs else r.descs.map fun d => d.fromJob joff
    nextId := Nat.max x.nextId ((r.descs.map fun d => d.id + 1).foldl Nat.max 0), ibuf := [] }

/-- R279: the save area of a partition. -/
def State.area (s : State) (p : Nat) : SaveArea :=
  let x := s.part p
  { digest := x.digest, gradeTiles := s.dies * 4000, tiles := x.tiles.length, jframe := x.ckJ.toNat
    gear := x.gear, size := s.areaBytes p
    recs := (s.partTiles p).map fun y => y.saved x.joff32
    rounds := (s.entriesOf p).map fun k => (k, (s.coll (k / 4096) (k % 4096)).round) }

/-- R279, R280: the area is written; the status of the writes. To a host it is that of the host's
answers. -/
def State.writeArea (s : State) (p : Nat) (host : Byte) : State × Byte :=
  match s.areaPlace p with
  | some (.hbm w) => s.storeLines w (s.part p).areaVa (s.area p).bytes
  | some (.host w) =>
    if !wPermW w then (s, St.notPermitted)
    else (s.emit (.pcieWrite (wPort w) (winAddr w (s.part p).areaVa) (s.area p).bytes), statusIn host)
  | none => (s, St.translationMiss)

/-- R280 SAVE_DONE: the writes of the area have ended; `host` is the worst status of a host's answers. -/
def execSaveDone (p : Nat) (host : BitVec 8) (s : State) : Res :=
  .next (
    let x := s.part p
    if x.ck ≠ .saving ∨ x.ckResume.isSome = true then s
    else
      let r := s.writeArea p host
      if !statusOk r.2 then r.1.updPart p fun y => { y with ck := .failed, ckStatus := r.2 }
      else
        let s := { r.1 with saves := s.area p :: s.saves }
        let s := s.recStn 0x7002 (some p) 26 (leBytes 8 x.ckJ.toNat)
        s.updPart p fun y =>
          if y.ckCont then { y with ckResume := some (frameOf s.ht + 1) } else { y with ck := .paused })

/-- The schedule of a partition that goes on at a boundary is armed again (R161). -/
def Partition.rearm (x : Partition) : Partition := { x with live := if x.arms then some x.gear else none }

/-- R281: the job offset of a restored partition at resume frame F′. -/
def Partition.restoredJoff (x : Partition) (a : SaveArea) : W64 :=
  BitVec.ofInt 64 (64000 * ((x.ckFrame.toNat : Int) - a.jframe))

/-- R281: a tile's record is written back under an offset; the frame word of F′ stands over it (R171). -/
def Partition.restoreTile (x : Partition) (a : SaveArea) (uncertain : Bool) (r : SavedTile) (y : Tile) : Tile :=
  let y := y.restored r (BitVec.ofNat 32 (x.restoredJoff a).toNat)
  if x.fwEn then y.wmem x.fwAddr (frameBytes a.jframe x.gearNext uncertain) else y

/-- R281: the records and the ROUNDs of an area, and the job offset of resume frame F′; rounds that are open and ENDs
of rounds after the saved ones are forgotten at every station. -/
def State.restore (s : State) (p : Nat) (a : SaveArea) : State :=
  let x := s.part p
  let s := s.updPart p fun y => { y with joff := x.restoredJoff a }
  let s := (x.tiles.zip a.recs).foldl (fun s tr => s.updTile tr.1 (x.restoreTile a s.time.uncertain tr.2)) s
  let s := dataStations.foldl (fun s n => s.updStn n fun y => { y with
    endWaits := y.endWaits.filter fun w => w.job != x.job }) s
  a.rounds.foldl (fun s e =>
    s.setColl (e.1 / 4096) (e.1 % 4096) { (s.coll (e.1 / 4096) (e.1 % 4096)).clear with round := e.2 }) s

/-- R280, R281: at its frame a restored partition resumes with a re-based offset, and a partition saved
with CONTINUE goes on under its old one; `host`: the bytes of a HOST area as its host answers. An area that cannot be
read leaves the restore FAILED with the read's status: R281 names no outcome (DESIGN CHOICE, log entry 6). -/
def State.resumeHeld (s : State) (p : Nat) (host : List Byte) : State :=
  let x := s.part p
  match x.ck, x.ckResume with
  | .saving, some f =>
    if s.ht < f * 64000 then s
    else s.updPart p fun y => ({ y with ck := .idle, ckResume := none, ckHeld := false } : Partition).rearm
  | .restoring, _ =>
    if s.ht < x.ckFrame.toNat * 64000 then s
    else
      let r := s.areaRead p (s.areaBytes p) host
      match r.2 with
      | .inr st => r.1.updPart p fun y => { y with ck := .failed, ckStatus := st, ckUnread := false }
      | .inl bs =>
        let a := r.1.areaOf p bs
        if r.1.fits p a then
          (r.1.restore p a).updPart p fun y =>
            ({ y with ck := .idle, ckHeld := false, ckUnread := false } : Partition).rearm
        else r.1.updPart p fun y => { y with ck := .refusedImage, ckUnread := false }
  | _, _ => s

/-- R280, R281 RESTORE_RESUME. -/
def execRestoreResume (p : Resuming) (s : State) : Res := .next (s.resumeHeld p.p p.host)

/-- R283: the counters of R284. -/
def State.collClear (s : State) : State :=
  dataStations.foldl (fun s n => s.updStn n fun x => { x with
    collMerge := 0, collDup := 0, collStale := 0, collResend := 0, collPartial := 0 }) s

/-- R283 COL_CNT_CLR. -/
def execColCntClr (_w : Who) (v : W32) (s : State) : Res :=
  .next (if bit v.toNat 0 then s.collClear else s)

end Sys2Proof.Machine
end

