-- ==== Sys2Proof/Machine/Control.lean ====
section
/-! DEFINITION. Class 0x1: scalar memory, control and system (R103, R104), and the tile's own
housekeeping: instruction buffer (R23, R24), unit queues (R512) and scrubber (R33). -/

namespace Sys2Proof.Machine

/-- A scalar load of `n` bytes, zero- or sign-extended (R28, R103). -/
def State.ldS (s : State) (t : Nat) (f : Fields) (n : Nat) (signed : Bool) : State :=
  s.issue t f none 1 [f.dn, f.an] (iForm usesDA f)
    fun x => x.load (effAddr f x) n n fun x bs =>
      x.ws f.dn (if signed then BitVec.ofInt 64 (sext (8 * n) (leNat bs)) else BitVec.ofNat 64 (leNat bs))

/-- A scalar store of the low `n` bytes of b (R28, R103). -/
def State.stS (s : State) (t : Nat) (f : Fields) (n : Nat) : State :=
  s.issue t f none 1 [f.an, f.bn] (iForm { a := true, b := true } f)
    fun x => x.store (effAddr f x) n (leBytes n (x.rs f.bn).toNat)

/-- R103: a branch target's imm is a multiple of 8. -/
def immAligned (f : Fields) : Bool := f.low.toNat % 8 == 0

/-- The program counter of the instruction that the issued tile has just passed. -/
def Tile.here (x : Tile) : Nat := x.pc - 8

/-- Jump to an address, modulo 2^64. -/
def Tile.jump (x : Tile) (a : Int) : Tile := { x with pc := trunc 64 a }

/-- A conditional branch (R103). -/
def State.br (s : State) (t : Nat) (f : Fields) (c : W64 → W64 → Bool) : State :=
  s.issue t f none 1 [f.an, f.bn] (iForm { a := true, b := true } f && immAligned f)
    fun x => { tile := if c (x.rs f.an) (x.rs f.bn) then x.jump (x.here + f.imm) else x }

/-- R103 LDU1. -/
def execLdu1 (t : Nat) (f : Fields) (s : State) : Res := .next (s.ldS t f 1 false)

/-- R103 LDU2. -/
def execLdu2 (t : Nat) (f : Fields) (s : State) : Res := .next (s.ldS t f 2 false)

/-- R103 LDU4. -/
def execLdu4 (t : Nat) (f : Fields) (s : State) : Res := .next (s.ldS t f 4 false)

/-- R103 LDU8. -/
def execLdu8 (t : Nat) (f : Fields) (s : State) : Res := .next (s.ldS t f 8 false)

/-- R103 LDS1. -/
def execLds1 (t : Nat) (f : Fields) (s : State) : Res := .next (s.ldS t f 1 true)

/-- R103 LDS2. -/
def execLds2 (t : Nat) (f : Fields) (s : State) : Res := .next (s.ldS t f 2 true)

/-- R103 LDS4. -/
def execLds4 (t : Nat) (f : Fields) (s : State) : Res := .next (s.ldS t f 4 true)

/-- R103 ST1. -/
def execSt1 (t : Nat) (f : Fields) (s : State) : Res := .next (s.stS t f 1)

/-- R103 ST2. -/
def execSt2 (t : Nat) (f : Fields) (s : State) : Res := .next (s.stS t f 2)

/-- R103 ST4. -/
def execSt4 (t : Nat) (f : Fields) (s : State) : Res := .next (s.stS t f 4)

/-- R103 ST8. -/
def execSt8 (t : Nat) (f : Fields) (s : State) : Res := .next (s.stS t f 8)

/-- R103 BEQ. -/
def execBeq (t : Nat) (f : Fields) (s : State) : Res :=
  .next (s.br t f (· == ·))

/-- R103 BNE. -/
def execBne (t : Nat) (f : Fields) (s : State) : Res :=
  .next (s.br t f (· != ·))

/-- R103 BLT. -/
def execBlt (t : Nat) (f : Fields) (s : State) : Res :=
  .next (s.br t f (fun a b => decide (a.toInt < b.toInt)))

/-- R103 BGE. -/
def execBge (t : Nat) (f : Fields) (s : State) : Res :=
  .next (s.br t f (fun a b => decide (b.toInt ≤ a.toInt)))

/-- R103 BLTU. -/
def execBltu (t : Nat) (f : Fields) (s : State) : Res :=
  .next (s.br t f (fun a b => decide (a.toNat < b.toNat)))

/-- R103 BGEU. -/
def execBgeu (t : Nat) (f : Fields) (s : State) : Res :=
  .next (s.br t f (fun a b => decide (b.toNat ≤ a.toNat)))

/-- R103 JAL. -/
def execJal (t : Nat) (f : Fields) (s : State) : Res :=
  .next (s.issue t f none 1 [f.dn] (iForm usesD f && immAligned f)
    fun x => { tile := (x.ws f.dn (BitVec.ofNat 64 (x.here + 8))).jump (x.here + f.imm) })

/-- R103 JALR: the target is judged by itself (MISALIGNED). -/
def execJalr (t : Nat) (f : Fields) (s : State) : Res :=
  .next (s.issue t f none 1 [f.dn, f.an] (iForm usesDA f)
    fun x =>
      let target := effAddr f x
      if target % 8 ≠ 0 then TEff.bad x .misaligned
      else { tile := (x.ws f.dn (BitVec.ofNat 64 (x.here + 8))).jump target })

/-- R104: the energy tokens of the tile's cluster; 0 in the scheduled regime. -/
def State.tokensOf (s : State) (t : Nat) : Nat :=
  if (s.part (s.tile t).partition).adaptive then
    mget 0 (s.rgn (tileRegion t)).balance (s.physCluster t)
  else 0

/-- R104: the system value of an imm. -/
def State.sysValue (s : State) (t : Nat) (x : Tile) (imm : Nat) : W64 :=
  match imm with
  | 0 => BitVec.ofNat 64 x.logical
  | 1 => BitVec.ofNat 64 x.partition
  | 2 => BitVec.ofNat 64 (s.tileCoord t).toNat
  | 3 => jobTime (s.part x.partition) (s.stnHt (tileStation t))
  | 4 => BitVec.ofNat 64 x.cycles
  | 5 => BitVec.ofNat 64 (s.tokensOf t)
  | _ => BitVec.ofNat 64 x.flags.toNat

/-- R103, R104 RDSYS: any imm above 6 is ILLEGAL. -/
def execRdsys (t : Nat) (f : Fields) (s : State) : Res :=
  .next (s.issue t f none 1 [f.dn] (iForm usesD f && decide (f.low.toNat ≤ 6))
    fun x => { tile := x.ws f.dn (s.sysValue t x f.low.toNat) })

/-- R98, R103 HALT: the tile returns to IDLE with code IMM16. -/
def execHalt (t : Nat) (f : Fields) (s : State) : Res :=
  .next (s.issue t f none 1 [] (rForm { imm16 := true } f)
    fun x => { tile := { x with st := .idle, haltCode := some f.imm16 } })

/-- R24, R103 IBINV: every line of the instruction buffer is invalidated. -/
def execIbinv (t : Nat) (f : Fields) (s : State) : Res :=
  .next (s.issue t f none 4 [] (rForm {} f) fun x => { tile := { x with ibuf := [] } })

/-- R103 NOP. -/
def execNop (t : Nat) (f : Fields) (s : State) : Res :=
  .next (s.issue t f none 1 [] (rForm {} f) fun x => { tile := x })

/-- R34, R103 FLCLR: bits of IMM16, or of CNT_FAIL with X. -/
def execFlclr (t : Nat) (f : Fields) (s : State) : Res :=
  .next (s.issue t f none 1 [] (rForm { x := true, imm16 := true } f)
    fun x => { tile := x.w1cFlags (flclrMask f.x f.imm16) })

/-! ## Housekeeping -/

/-- The 512 bits of an SRAM line. -/
def Tile.line (x : Tile) (n : Nat) : BitVec 512 := BitVec.ofNat 512 (leNat (x.rmem (n * 64) 64))

/-- R23: fill the line that holds an address, through port B. -/
def Tile.fill (x : Tile) (a : Nat) : Tile :=
  let n := a / 64
  { x.noteCorr (n * 64) 64 with ibuf := mset {} x.ibuf (n % 256) { line := n, data := x.line n } }

/-- R23, R24 IBUF_MISS_FILL: the line of an address is fetched from SRAM; with a parity error met,
FLAGS.IBUF_PAR is set. A fetch outside [FETCH_LO, FETCH_HI) faults with RANGE (R103), an
uncorrectable word with SRAM_UNCORR (R25). A tile that does not issue fetches nothing. -/
def execIbufMissFill (t addr : Nat) (parity : Bool) (s : State) : Res :=
  .next (
    let x := s.tile t
    if !s.issuing t then s
    else if !(x.fetchLo ≤ addr && addr < x.fetchHi) then s.tileFault t .range
    else match x.badWord (addr / 64 * 64) 64 with
      | some w => s.putEff t (TEff.uncorr x w)
      | none =>
        let x := x.fill addr
        s.setTile t (if parity then x.orFlags fIBUF_PAR else x))

/-- R512 UNIT_QUEUE_START: the unit has finished the occupancy of its instruction and starts the
next of its queue. -/
def execUnitQueueStart (t : Nat) (u : ExecUnit) (s : State) : Res :=
  .next (s.updTile t fun x => x.setUnit u (x.unit u).startNext)

/-- R33: one line is read and its single-bit errors are written back, unless another write has
reached the line since its read; then the next line is due. -/
def Tile.scrubOne (x : Tile) (stale : Bool) : Tile :=
  let n := x.scrub
  let x := x.noteCorr (n * 64) 64
  { x with
    soft := if stale then x.soft else x.soft.filter (fun w => w / 8 != n)
    scrub := (n + 1) % 4096 }

/-- R32, R33: the scrubber's pass over a line, with an uncorrectable word counted and recorded;
it is paused in retention, and before the tile's SRAM has been cleared. -/
def State.scrubStep (s : State) (t : Nat) (stale : Bool) : State :=
  let x := s.tile t
  if x.st = .retention || (s.rgn (tileRegion t)).stopped then s
  else match x.badWord (x.scrub * 64) 64 with
    | none => s.setTile t (x.scrubOne stale)
    | some w => (s.setTile t ((x.scrubOne stale).noteUncorr w)).recTile 0x6001 t (leBytes 4 (w * 8))

/-- R33 SCRUB_LINE: in cycles that no other requester wants. -/
def execScrubLine (t : Nat) (writtenMeanwhile : Bool) (s : State) : Res :=
  .next (s.scrubStep t writtenMeanwhile)

/-- R33 SCRUB_FORCED: the cycle taken ahead of the rotation after 65,536 cycles without one. -/
def execScrubForced (t : Nat) (writtenMeanwhile : Bool) (s : State) : Res :=
  .next (s.scrubStep t writtenMeanwhile)

end Sys2Proof.Machine
end

