-- ==== Sys2Proof/Machine/Dma.lean ====
section
/-! DEFINITION. Class 0x6 and the DMA engine (R35 to R41, R57, R114 to R116, R513): issuing a
descriptor, its checks, local copies, agent entries, timed release, injection and completion. -/

namespace Sys2Proof.Machine

/-! ## Checks at issue -/

/-- R36: reserved fields are zero. -/
def descRsvdOk (d : Desc) : Bool :=
  bits d.w0.toNat 9 0 == 0 && bits d.w1.toNat 31 18 == 0 && bits d.w3.toNat 54 20 == 0 &&
    (d.kind != 0 || bits d.w2.toNat 63 18 == 0)

/-- R235: operand bytes of an atomic at LOCAL_ADDR; twice the width for CAS. -/
def atomicBytes (d : Desc) : Nat := if d.op = 6 then 2 * d.len else d.len

/-- R36: KIND and LENGTH are permitted. -/
def descLenOk (d : Desc) : Bool :=
  match d.kind with
  | 0 | 3 => decide (4 ≤ d.len ∧ d.len ≤ 262144) && d.len % 4 == 0
  | 1 | 2 => decide (4 ≤ d.len ∧ d.len ≤ 256) && d.len % 4 == 0
  | 4 => d.len == 4 || d.len == 8 || d.len == 16
  | 5 => true
  | _ => false

/-- The local bytes a descriptor names. -/
def descLocalBytes (d : Desc) : Nat := if d.kind = 4 then atomicBytes d else d.len

/-- R36: no local range passes byte 262,143. -/
def descRangeOk (d : Desc) : Bool :=
  decide (d.local_ + descLocalBytes d ≤ sramBytes) &&
    (d.kind != 0 || decide (bits d.w2.toNat 17 0 + d.len ≤ sramBytes))

/-- R36: the descriptor is not bad. -/
def descOk (d : Desc) : Bool := descRsvdOk d && descLenOk d && descRangeOk d

/-- R190, R261: VCs a descriptor may select. -/
def descVcOk (d : Desc) : Bool :=
  match d.kind with
  | 0 => true
  | 1 => d.vc == 0 || (d.vc == 2 && d.len ≤ 64)
  | 2 => d.vc == 0 || d.vc == 3 || (d.vc == 2 && d.len ≤ 64)
  | 3 => d.vc == 0 || d.vc == 3
  | 4 => d.vc == 0
  | _ => d.vc == 3

/-- R188: OPs of a descriptor. -/
def descOpOk (d : Desc) : Bool :=
  match d.kind with
  | 1 | 2 => d.op == 0
  | 3 => d.op < 32 && (bit d.op 4 == d.notify)
  | 4 => atomicOp d.op
  | 5 => 0x40 ≤ d.op && d.op ≤ 0x48
  | _ => true

/-- R222: size and placement of a memory request. -/
def placeOk (kind va len : Nat) : Bool :=
  if kind == 4 then va % len == 0
  else va % 4 == 0 && (if kind == 3 && 256 < len then va % 256 == 0 else va % 256 + len ≤ 256)

/-- R245: a resend whose timeout plus the margin is at or above W is refused. -/
def State.resendOk (s : State) (d : Desc) : Bool :=
  let home := cModule d.dst == s.cfg.module
  let tmo := if home then s.mem.tmoPkg else s.mem.tmoHall
  !d.resend || tmo + (if home then 4 else 10) < s.mem.mireW

/-- R261: chunks of a contribution. -/
def descChunks (d : Desc) : Nat := ceilDiv d.len (16 * opWidth d.op)

/-- R261: the reserved bits of a contribution's REMOTE_ADDR. -/
def contribRsvdOk (d : Desc) : Bool :=
  bits d.remote 63 56 == 0 && bits d.remote 47 44 == 0 && bits d.remote 31 10 == 0

/-- R261: the check of a contribution against an entry of the tile's own module. -/
def State.contribFits (s : State) (x : Tile) (t : Nat) (d : Desc) : Bool :=
  let st := cStation d.dst
  let c := (s.coll st (cLow d.dst)).cfg
  let first := caChunk d.remote
  let elems := d.len / opWidth d.op
  ccValid c && ccPart c == x.partition &&
    (d.op == ccOp c || (d.op == 0x48 && ccOp c == 0x42)) &&
    d.len % opWidth d.op == 0 && 0 < d.len &&
    decide (16 * first + elems ≤ ccElems c) &&
    (elems % 16 == 0 || 16 * first + elems == ccElems c) &&
    (if ccRoot c then decide (caGroup d.remote < ccGroup c)
     else caGroup d.remote == 0 && st == tileStation t)

/-- R261: the checks of a contribution. -/
def State.contribOk (s : State) (x : Tile) (t : Nat) (d : Desc) : Bool :=
  cKind d.dst == 2 && contribRsvdOk d &&
    (if cModule d.dst == s.cfg.module then s.contribFits x t d
     else d.len % opWidth d.op == 0 && 0 < d.len && decide (caChunk d.remote + descChunks d ≤ 4096))

/-- The status with which a descriptor ends at issue without being sent (R116, R188, R190, R222,
R245, R261), if any. -/
def State.descRefused (s : State) (x : Tile) (t : Nat) (d : Desc) : Bool :=
  if d.kind = 0 then false
  else if d.kind = 5 then !(descVcOk d && descOpOk d && s.contribOk x t d)
  else
    !(descVcOk d && descOpOk d) || bits d.remote 63 56 != 0 || !placeOk d.kind d.remote d.len ||
    (d.kind == 4 && !s.resendOk d) ||
    (d.kind == 4 && !(s.part x.partition).adaptive && (d.op == 10 || d.op == 11))

/-! ## Agent entries (R39) -/

/-- Own entries a tile holds, and shared entries a region has given out. -/
def Tile.ownAgents (x : Tile) : Nat := (x.descs.filter fun d => d.agent && !d.shared).length
def Tile.sharedAgents (x : Tile) : Nat := (x.descs.filter fun d => d.agent && d.shared).length

def State.sharedUsed (s : State) (r : Nat) : Nat :=
  ((regionTiles r).map fun t => (s.tile t).sharedAgents).foldl (· + ·) 0

/-- R39, R58: 3,072 entries, 8 for each tile that is not fenced, the rest shared. -/
def State.sharedLimit (s : State) (r : Nat) : Nat :=
  3072 - 8 * ((List.range 250).filter fun l => (s.tile (r * 256 + l)).st != .fenced).length

/-- A descriptor of the tile waits for an agent entry. -/
def Tile.entryWaited (x : Tile) : Bool :=
  x.descs.any fun d => match d.stage with
    | .waitEntry _ => true
    | _ => false

/-- A descriptor that is ready: one of the tile's own 8 entries, unless an older one waits for it; else it
waits. -/
def Tile.seekAgent (x : Tile) (d : Desc) (ht : Nat) : Desc :=
  if x.ownAgents < 8 && !x.entryWaited then { d with agent := true, shared := false, stage := .ready ht }
  else { d with stage := .waitEntry ht }

/-- Replace a descriptor. -/
def Tile.setDesc (x : Tile) (d : Desc) : Tile :=
  { x with descs := x.descs.map fun e => if e.id = d.id then d else e }

/-! ## Issue -/

/-- R38: the release instant is not yet reached at a tile's HT. -/
def notReleased (now release : W32) : Bool := older now release

/-- The stage a new descriptor takes (R38, R39, R513). -/
def Tile.firstStage (x : Tile) (d : Desc) (release : W32) (ht : Nat) : Desc :=
  if d.timed && notReleased (ht32 ht) release then { d with stage := .held release }
  else if d.kind = 0 then { d with stage := .copying 0 }
  else x.seekAgent d ht

/-- R35 to R38, R114, R115: issue the descriptor at an address. One that is both misaligned and past the end of
SRAM is MISALIGNED: the manual gives the two causes no order (DESIGN CHOICE, log entry 75). -/
def State.issueDesc (s : State) (t : Nat) (job : Bool) (x : Tile) (a : Nat) : TEff :=
  if a % 32 ≠ 0 then TEff.bad x .misaligned
  else if sramBytes < a + 32 then TEff.bad x .range
  else match x.badWord a 32 with
    | some w => TEff.uncorr x w
    | none =>
      let x := x.noteCorr a 32
      let w := fun i => BitVec.ofNat 64 (leNat (x.rmem (a + 8 * i) 8))
      let d : Desc := { id := x.nextId, addr := a, w0 := w 0, w1 := w 1, w2 := w 2, w3 := w 3 }
      if !descOk d then TEff.bad x .badDescriptor
      else
        let x := { x with nextId := x.nextId + 1 }
        let joff : W32 := BitVec.ofNat 32 (s.part x.partition).joff.toNat
        let release := if job then d.releaseHt + joff else d.releaseHt
        let d := { d with jobRelease := if job && d.timed then some d.releaseHt else none }
        if s.descRefused x t d then
          { tile := ({ x with descs := x.descs ++ [d] }).complete d St.notPermitted }
        else { tile := { x with descs := x.descs ++ [x.firstStage d release (s.stnHt (tileStation t))] } }

/-- R38: issuing a 257th descriptor stalls. -/
def State.dmaIssue (s : State) (t : Nat) (f : Fields) (job : Bool) : State :=
  if 256 ≤ (s.tile t).descs.length && s.issuing t && (s.tile t).fetchOk && regsOk { a := true } f then s
  else s.issue t f none 1 [f.an] (iForm { a := true } f) fun x => s.issueDesc t job x (effAddr f x)

/-- R114 DMA: RELEASE_HT is hall time. -/
def execDma (t : Nat) (f : Fields) (s : State) : Res := .next (s.dmaIssue t f false)
/-- R114, R115 DMAJ: RELEASE_HT is read as job time. -/
def execDmaj (t : Nat) (f : Fields) (s : State) : Res := .next (s.dmaIssue t f true)

/-- The counter number is 0-15 (R100). -/
def cOk (n : Nat) : Bool := n < 16

/-- R41, R114 CSET: the written value takes effect before increments that follow. -/
def execCset (t : Nat) (f : Fields) (s : State) : Res :=
  .next (s.issue t f none 1 [f.an] (rForm usesDA f && cOk f.dn)
    fun x => { tile := x.wc f.dn (BitVec.ofNat 32 (x.rs f.an).toNat) })

/-- R114 CRD. -/
def execCrd (t : Nat) (f : Fields) (s : State) : Res :=
  .next (s.issue t f none 1 [f.dn] (rForm usesDA f && cOk f.an)
    fun x => { tile := x.ws f.dn (BitVec.ofNat 64 (x.rc f.an).toNat) })

/-! ## Local copies (R513) -/

/-- Destination lines of a copy, and the byte range of the n-th: offset in the copy and length. -/
def copyLines (d : Desc) : Nat := ceilDiv (d.remote % 64 + d.len) 64
def copyStart (d : Desc) (n : Nat) : Nat := if n = 0 then 0 else 64 * n - d.remote % 64
def copyEnd (d : Desc) (n : Nat) : Nat := Nat.min d.len (64 * (n + 1) - d.remote % 64)

/-- One destination line of a copy (R513); uncorrectable words end it with POISONED (R32). -/
def Tile.copyLine (x : Tile) (d : Desc) (n : Nat) : Tile × Option Nat :=
  let o := copyStart d n
  let k := copyEnd d n - o
  let src := d.local_ + o
  let dst := d.remote + o
  match (x.badWord src k).orElse fun _ => x.badPartial dst k with
  | some w => (((x.noteUncorr w).endDesc d.id St.poisoned), some w)
  | none =>
    let x := (x.noteCorr src k).wmem dst (x.rmem src k)
    let stage := if copyLines d ≤ n + 1 then DStage.ended St.done else .copying (n + 1)
    (x.setDesc { d with stage := stage }, none)

def Tile.desc (x : Tile) (id : Nat) : Option Desc := x.descs.find? (·.id == id)

/-- R513 LOCAL_COPY_LINE: a granted cycle moves one destination line; none is granted while the region's clock is
stopped (R308). -/
def execLocalCopyLine (t id : Nat) (s : State) : Res :=
  .next (match (s.tile t).desc id with
    | some d =>
      match d.stage with
      | .copying n =>
        if (s.rgn (tileRegion t)).stands then s else
        let (x, bad) := (s.tile t).copyLine d n
        match bad with
        | none => s.setTile t x
        | some w => (s.setTile t x).recTile 0x6001 t (leBytes 4 (w * 8))
      | _ => s
    | none => s)

/-! ## Agent entries and timed release -/

/-- A waiting descriptor with the tile it belongs to. -/
def State.waiting (s : State) (r : Nat) : List (Nat × Desc × Nat) :=
  ((regionTiles r).map fun t => (s.tile t).descs.filterMap fun d =>
    match d.stage with
    | .waitEntry since => some (t, d, since)
    | _ => none).flatten

/-- R39: oldest first by readiness, ties by the rotating hash of the source (R193). -/
def State.firstWaiting (s : State) : List (Nat × Desc × Nat) → Option (Nat × Desc × Nat)
  | [] => none
  | a :: as =>
    match s.firstWaiting as with
    | none => some a
    | some b =>
      if goesFirst (ht32 b.2.2) (s.tileCoord b.1) (b.2.1.id + 1) (ht32 a.2.2) (s.tileCoord a.1) a.2.1.id
      then some b else some a

/-- R39: an entry is free for a tile: one of its own 8, or a shared one. -/
def State.entryFree (s : State) (region t : Nat) : Bool :=
  decide ((s.tile t).ownAgents < 8) || decide (s.sharedUsed region < s.sharedLimit region)

/-- R39 AGENT_ENTRY_GRANT: the oldest waiting descriptor of a region for which an entry is free takes an
entry of its tile's own 8, else a shared one. -/
def execAgentEntryGrant (region : Nat) (s : State) : Res :=
  .next (match s.firstWaiting ((s.waiting region).filter fun w => s.entryFree region w.1) with
    | none => s
    | some (t, d, _) =>
      let x := s.tile t
      let ht := s.stnHt (tileStation t)
      if x.ownAgents < 8 then
        s.setTile t (x.setDesc { d with agent := true, shared := false, stage := .ready ht })
      else s.setTile t (x.setDesc { d with agent := true, shared := true, stage := .ready ht }))

/-- R38 TIMED_RELEASE: a held descriptor whose RELEASE_HT has come becomes ready; in a stopped region not before
the restart, which releases the comparisons (R310). -/
def execTimedRelease (t id : Nat) (s : State) : Res :=
  .next (match (s.tile t).desc id with
    | some d =>
      match d.stage with
      | .held r =>
        let x := s.tile t
        let ht := s.stnHt (tileStation t)
        if notReleased (ht32 ht) r || (s.part x.partition).standing || (s.rgn (tileRegion t)).stands then s
        else if d.kind = 0 then s.setTile t (x.setDesc { d with stage := .copying 0 })
        else s.setTile t (x.setDesc (x.seekAgent d ht))
      | _ => s
    | none => s)

/-! ## Injection -/

/-- Packets of an item: 256 B each for a message, one chunk each for a contribution. -/
def descPackets (d : Desc) : Nat :=
  match d.kind with
  | 3 => ceilDiv d.len 256
  | 5 => descChunks d
  | _ => 1

/-- Bytes at LOCAL_ADDR that packet k carries: offset and length. -/
def packetSlice (d : Desc) (k : Nat) : Nat × Nat :=
  match d.kind with
  | 1 => (0, 0)
  | 3 => (256 * k, Nat.min 256 (d.len - 256 * k))
  | 4 => (0, atomicBytes d)
  | 5 => (16 * opWidth d.op * k, Nat.min (16 * opWidth d.op) (d.len - 16 * opWidth d.op * k))
  | _ => (0, d.len)

/-- R90, R263: FP32 elements converted to FX64: payload, tile flags, item OVERFLOW. -/
def convertFx (e : Int) (bs : List Byte) : List Byte × W32 × Bool :=
  let rs := (chunks 4 bs).map fun q => toFx64 e (decodeNum 0 (leNat q))
  ((rs.map fun r => leBytes 8 (trunc 64 r.1)).flatten, orAll (rs.map (·.2.1)), rs.any (·.2.2))

/-- The exponent of a contribution's entry (R90); for an entry of another module a free value (log
entry 17). -/
def State.contribExp (s : State) (d : Desc) : Int :=
  if cModule d.dst == s.cfg.module then ccExp (s.coll (cStation d.dst) (cLow d.dst)).cfg
  else Config.foreignExp d.dst

/-- The packet kind of a descriptor's KIND. -/
def descPktKind (d : Desc) : Nat :=
  match d.kind with
  | 1 => kLOAD | 2 => kSTORE | 3 => kMSG | 4 => kATOMIC | _ => kCONTRIB

/-- R37, R184, R204, R221, R262: packet k of an item, stamped at `issue`. -/
def State.descPacket (s : State) (t : Nat) (x : Tile) (d : Desc) (k : Nat) (issue : W32)
    (payload : List Byte) (ovf : Bool) : Packet :=
  let n := descPackets d
  mkPkt {
    kind := descPktKind d, vc := d.vc, pri := d.pri, timed := d.timed, retry := d.retry
    red := d.kind == 5, last := d.kind == 3 && d.notify && k + 1 == n
    job := (s.part x.partition).job, txid := d.txid, dst := d.dst, src := s.tileCoord t
    addr := match d.kind with
      | 1 => d.remote + d.len / 4 * 2 ^ 56
      | 3 => d.remote + 256 * k
      | 5 => mkCollAddr (caRound d.remote) false ovf
          (d.op == 0x47 && !(s.part x.partition).adaptive) (caChunk d.remote + k) 1 (caGroup d.remote)
      | _ => d.remote
    issue := issue
    op := if d.kind == 5 && d.op == 0x48 then 0x42 else d.op
    count := if d.kind == 3 then n else 1
    seq := if d.kind == 3 then k else 0
    payload := payload }

/-- A descriptor may inject a packet on a VC. -/
def Desc.injects (d : Desc) (vc : Nat) : Bool :=
  d.vc == vc && d.kind != 0 && (match d.stage with
    | .ready _ => true
    | _ => false)

def Desc.readySince (d : Desc) : Nat :=
  match d.stage with
  | .ready n => n
  | _ => 0

/-- R191, R194: PRI first, then readiness, then issue order. -/
def injectBefore (a b : Desc) : Bool :=
  if a.pri != b.pri then a.pri
  else if a.readySince ≠ b.readySince then decide (a.readySince < b.readySince)
  else decide (a.id < b.id)

def firstInject : List Desc → Option Desc
  | [] => none
  | d :: ds =>
    match firstInject ds with
    | none => some d
    | some e => if injectBefore e d then some e else some d

/-- R238: two items of the tile whose requests are applied in the order of their issue. -/
def ordItems (e d : Desc) : Bool :=
  e.id < d.id && e.dst == d.dst && e.vc == d.vc && !e.timed && !d.timed && !e.retry && !d.retry &&
    (1 ≤ e.kind && e.kind ≤ 4) && (1 ≤ d.kind && d.kind ≤ 4) &&
    e.remote / 64 ≤ (d.remote + d.len - 1) / 64 && d.remote / 64 ≤ (e.remote + e.len - 1) / 64

/-- R238: an earlier item of the same DST, line and VC is not yet injected. -/
def Tile.behind (x : Tile) (d : Desc) : Bool :=
  x.descs.any fun e => ordItems e d && (match e.stage with
    | .waitEntry _ | .ready _ => true
    | _ => false)

/-- R278, R279: while a partition is saved, paused or restored its timed descriptors that are not yet injected
stay so. -/
def Partition.holdsBack (p : Partition) (d : Desc) : Bool := p.ckStands && d.timed && d.sentPkts == 0

/-- R57: once fencing has begun no new packet is injected, but the retry of an atomic is. -/
def Tile.mayInject (x : Tile) (d : Desc) : Bool :=
  (!x.draining || d.retry) && x.st != .fenced && x.st != .retention

/-- The router of a tile's site. -/
def State.tileRouter (s : State) (t : Nat) : Router :=
  .tile (tileRegion t) ((s.rgn (tileRegion t)).siteOf (tileSlot t))

/-- R240: the timeout of an item, ns. -/
def State.itemTmo (s : State) (d : Desc) : Nat :=
  1000 * (if cModule d.dst == s.cfg.module then s.mem.tmoPkg else s.mem.tmoHall)

/-- R37, R184, R253: the first packet of an item fixes its TXID, its ISSUE_HT and its timeout. -/
def State.openItem (s : State) (t : Nat) (x : Tile) (d : Desc) : Desc :=
  if d.sentPkts == 0 && !d.retry then
    { d with txid := x.txid, firstHt := s.ht, issueHt := ht32 (s.stnHt (tileStation t)), tmo := s.itemTmo d }
  else d

/-- The payload of a packet from the bytes of its slice, with the flags and OVERFLOW of a conversion (R90). -/
def State.itemPayload (s : State) (d : Desc) (raw : List Byte) : List Byte × W32 × Bool :=
  if d.op == 0x48 && d.kind == 5 then convertFx (s.contribExp d) raw else (raw, 0, false)

/-- The next packet of an opened item; a retry keeps its ISSUE_HT (R240). -/
def State.nextPacket (s : State) (t : Nat) (x : Tile) (d : Desc) (pay : List Byte) (ovf : Bool) : Packet :=
  s.descPacket t x d d.sentPkts (if d.retry then d.issueHt else ht32 (s.stnHt (tileStation t))) pay ovf

/-- The retry of an atomic: its packet is the original's, not read anew (R243). -/
def Desc.again (d : Desc) : Bool := d.retry && d.kind == 4

/-- An item after one more of its packets. -/
def State.afterPacket (s : State) (d : Desc) (pay : List Byte) (ovf : Bool) : Desc :=
  { d with
    sentPkts := d.sentPkts + 1
    opnd := if d.kind == 4 then pay else []
    lastHt := s.ht
    ovf := d.ovf || ovf
    stage := if d.retry || descPackets d ≤ d.sentPkts + 1 then .sent else d.stage }

/-- The tile after a packet of an item: what the read of its slice met, the item, the flags, the next TXID. -/
def Tile.afterPacket (x : Tile) (a n : Nat) (d : Desc) (fl : W32) (first : Bool) : Tile :=
  { ((x.noteCorr a n).setDesc d).orFlags fl with txid := if first then x.txid + 1 else x.txid }

/-- Inject packet `d.sentPkts` of a descriptor (R37, R38, R204, R240, R243). -/
def State.injectPkt (s : State) (t : Nat) (d : Desc) : State :=
  let x := s.tile t
  let sl := packetSlice d d.sentPkts
  -- R32: no part of an item with an uncorrectable word is sent
  match x.badWord d.local_ (if d.kind = 1 || d.again then 0 else descLocalBytes d) with
  | some w =>
    (s.setTile t ((x.noteUncorr w).endDesc d.id St.poisoned)).recTile 0x6001 t (leBytes 4 (w * 8))
  | none =>
    let o := s.openItem t x d
    let c := s.itemPayload o (if d.again then d.opnd else x.rmem (d.local_ + sl.1) sl.2)
    (s.setTile t (x.afterPacket (d.local_ + sl.1) (if d.again then 0 else sl.2) (s.afterPacket o c.1 c.2.2) c.2.1
      (d.sentPkts == 0 && !d.retry))).putPkt (.router (s.tileRouter t) 0) (s.nextPacket t x o c.1 c.2.2)

/-- R204: PKT_MSG_SPAN has passed since the first packet of a message. -/
def State.spanOver (s : State) (d : Desc) : Bool :=
  d.kind == 3 && decide (0 < d.sentPkts) && decide (d.firstHt + 1000 * s.fabric.msgSpan < s.ht)

/-- The oldest response of a tile on a VC that waits for the local input of its router. -/
def State.tileRsp (s : State) (t vc : Nat) : Option Flight :=
  s.pickPkt fun f => decide (f.place = .tile t) && f.pkt.vc == vc

/-- The item of a tile whose packet goes next on a VC. -/
def State.nextItem (s : State) (t vc : Nat) : Option Desc :=
  let x := s.tile t
  firstInject (x.descs.filter fun d => d.injects vc && x.mayInject d && !s.spanOver d && !x.behind d &&
    !(s.part x.partition).holdsBack d)

/-- An item's next packet enters the local input of its router, where that has room. -/
def State.injectItem (s : State) (t vc : Nat) (d : Desc) : State :=
  let n := (packetSlice d d.sentPkts).2
  if s.hasRoom (s.tileRouter t) 0 vc (ceilDiv (40 + if d.op == 0x48 && d.kind == 5 then 2 * n else n) 64) then
    s.injectPkt t d
  else s

/-- A response of a tile enters the local input of its router, where that has room (R184). -/
def State.injectRsp (s : State) (t vc : Nat) (f : Flight) : State :=
  if s.hasRoom (s.tileRouter t) 0 vc f.pkt.flits then
    (s.dropPkt f.seq).putPkt (.router (s.tileRouter t) 0) (setIssue f.pkt (ht32 (s.stnHt (tileStation t))))
  else s

/-- DMA_INJECT: one packet of the tile on a VC enters the local input of its router once it has room there
(R184): the next packet of its first ready item if that has PRI (R191), else a response of the tile, which waits
for no item (R192), else the item. A tile whose region's clock is stopped sends nothing (R308). -/
def execDmaInject (t vc : Nat) (s : State) : Res :=
  .next (
    if (s.rgn (tileRegion t)).stands then s
    else match s.nextItem t vc, s.tileRsp t vc with
    | some d, none => s.injectItem t vc d
    | some d, some f => if d.pri then s.injectItem t vc d else s.injectRsp t vc f
    | none, some f => s.injectRsp t vc f
    | none, none => s)

/-! ## Completion -/

/-- R40 DESC_COMPLETE: an ended descriptor writes STATUS and DONE and is counted. -/
def execDescComplete (t id : Nat) (s : State) : Res :=
  .next (match (s.tile t).desc id with
    | some d =>
      match d.stage with
      | .ended st => s.setTile t ((s.tile t).complete d st)
      | _ => s
    | none => s)

/-- The item awaits a response: every packet is injected, or none of the rest will be (R57). -/
def Tile.awaitsRsp (x : Tile) (d : Desc) : Bool :=
  match d.stage with
  | .sent => true
  | .ready _ => x.draining && 0 < d.sentPkts
  | _ => false

/-- R240, R243, R270 ITEM_TIMEOUT: an item without a response by its timeout ends with TIMEOUT; an
atomic with RESEND is resent once, and then ends with OUTCOME_UNKNOWN. -/
def execItemTimeout (t id : Nat) (s : State) : Res :=
  .next (match (s.tile t).desc id with
    | some d =>
      let x := s.tile t
      if !x.awaitsRsp d || s.ht < d.lastHt + d.tmo then s
      else if d.kind = 4 && d.resend && !d.retry && x.st != .fenced then
        s.setTile t (x.setDesc { d with retry := true, sentPkts := 0, stage := .ready s.ht })
      else s.setTile t (x.endDesc id (if d.retry then St.outcomeUnknown else St.timeout))
    | none => s)

/-- R204 MSG_SPAN_TIMEOUT: a message whose last packet cannot be injected within PKT_MSG_SPAN of
its first sends none of the rest and ends with TIMEOUT. -/
def execMsgSpanTimeout (t id : Nat) (s : State) : Res :=
  .next (match (s.tile t).desc id with
    | some d =>
      match d.stage with
      | .ready _ =>
        if s.spanOver d then
          s.setTile t ((s.tile t).endDesc id St.timeout)
        else s
      | _ => s
    | none => s)

/-! ## Fencing (R56 to R58) -/

/-- R56: FENCE_REQ is accepted while the tile's partition is QUIESCING or APPLYING. -/
def State.fenceAllowed (s : State) (t : Nat) : Bool :=
  let x := s.tile t
  let p := (s.part x.partition).st
  x.enabled && (p == .quiescing || p == .applying)

/-- R56, R57, R64: a 1 in FENCE_REQ starts fencing; 0 has no effect. -/
def State.fenceWrite (s : State) (t : Nat) (v : W32) : State :=
  if !bit v.toNat 0 then s
  else if !s.fenceAllowed t then s.recTile 0x9001 t []
  else
    let x := s.tile t
    if x.st == .fenced || x.st == .fencing || x.st == .faulted then s.setTile t { x with fenceReq := true }
    else s.setTile t { x.startFencing .fencing with fenceReq := true }

/-- R64: a write of DIE_TILE_CTRL, FENCE_REQ and ECC_CLR. -/
def State.eccClear (s : State) (t : Nat) (v : W32) : State :=
  if bit v.toNat 2 then s.updTile t fun x => { x with corrCnt := 0, uncorrCnt := 0, eccAddr := none } else s

/-- R56 FENCE_REQ: a write of DIE_TILE_CTRL.FENCE_REQ. -/
def execFenceReq (_w : Who) (t : Nat) (v : W32) (s : State) : Res := .next (s.fenceWrite t v)

/-- R64 ECC_CLR: clears DIE_TILE_ECC and DIE_TILE_ECC_ADDR. -/
def execEccClr (_w : Who) (t : Nat) (v : W32) (s : State) : Res := .next (s.eccClear t v)

def Cause.code : Cause → Nat
  | .none => 0 | .illegal => 1 | .badDescriptor => 2 | .misaligned => 3 | .range => 4
  | .sramUncorr => 5 | .regParity => 6 | .router => 7

/-- R57 TILE_FENCE_COMPLETE: once every outstanding descriptor has been counted the tile is FENCED,
with FAULT_CAUSE kept. -/
def execTileFenceComplete (t : Nat) (s : State) : Res :=
  .next (
    let x := s.tile t
    if x.draining && x.descs.isEmpty && (x.st == .fencing || x.st == .faulted) then
      (s.setTile t { x with st := .fenced, draining := false }).recTile 0x9002 t
        [BitVec.ofNat 8 x.cause.code]
    else s)

end Sys2Proof.Machine
end

