-- ==== Sys2Proof/Machine/Container.lean ====
section
/-! DEFINITION. The container of a Bilup image: what the bytes of the HEADER (R398), the directory (R399),
STRUCTURE (R401), SIGNATURE (R402), per-tile descriptors (R94) and TRIMS (R370) say. -/

namespace Sys2Proof

open Machine

/-- The little-endian field of `n` bytes at byte `o`. -/
def descField (bs : List Byte) (o n : Nat) : Nat := leNat ((bs.drop o).take n)

/-! ## HEADER and directory (R398, R399) -/

/-- R399: the directory entry that 64 bytes hold, with whether the bytes of its section give its DIGEST. -/
def DirEntry.ofBytes (bs : List Byte) (sections : SMap (List Byte)) : DirEntry :=
  { type := descField bs 0 1, rsvd := descField bs 1 7 + descField bs 56 8, offset := descField bs 8 8
    length := descField bs 16 8, digest := descField bs 24 32
    digestOk := (Config.sha3 (mget [] sections (descField bs 0 1))).toNat == descField bs 24 32 }

/-- R398: the HEADER that 576 bytes hold, with their SHA3-256 (R402). -/
def ImgHeader.ofBytes (bs : List Byte) (sections : SMap (List Byte)) : ImgHeader :=
  { magic := descField bs 0 4, format := descField bs 4 2, scope := descField bs 6 1
    partition := descField bs 7 1, part := descField bs 8 1, stepping := descField bs 9 1
    rsvd := descField bs 10 2 + descField bs 32 32, tiles := descField bs 12 4
    imageId := BitVec.ofNat 64 (descField bs 16 8), length := descField bs 24 8
    dir := (List.range 8).map fun i => DirEntry.ofBytes ((bs.drop (64 + 64 * i)).take 64) sections
    digest := Config.sha3 bs }

/-! ## STRUCTURE (R401) -/

/-- R401: the record of a TYPE in its bytes, the four of TYPE and LENGTH among them; a record of another TYPE
or of another LENGTH than its TYPE has is none of the table. -/
def StructRec.ofBytes (t : Nat) (b : List Byte) : StructRec :=
  let f := descField b
  match t, b.length with
  | 0x01, 8 => .module (f 4 2) (f 6 2)
  | 0x02, 260 => .spareMap (f 4 1) (f 5 1) (((b.drop 6).take 250).map (·.toNat)) (f 256 4)
  | 0x03, 44 => .site (f 4 1) (f 5 1) (f 6 2) (f 8 2) (f 10 2) ((List.range 16).map fun i => f (12 + 2 * i) 2)
  | 0x10, 24 => .partition (f 4 1) (f 5 1) (f 6 2) (BitVec.ofNat 64 (f 8 8)) (f 16 8)
  | 0x11, 8 => .tiles (f 4 1) (f 5 1) (f 6 1) (f 7 1)
  | 0x12, 72 => .collective (f 4 1) (f 5 1) (f 6 2) (BitVec.ofNat 512 (f 8 64))
  | 0x13, 40 => .multicast (f 4 1) (f 5 1) (f 6 2) (BitVec.ofNat 256 (f 8 32))
  | 0x20, 40 => .keyOp (f 4 1) (f 5 1) (f 6 2) (BitVec.ofNat 256 (f 8 32))
  | _, _ => .other t

/-- R401: the records of a STRUCTURE section, at most `fuel` of them; none where a LENGTH does not fit. -/
def structRecs : Nat → List Byte → Option (List StructRec)
  | _, [] => some []
  | 0, _ => none
  | fuel + 1, bs =>
    let n := descField bs 2 2
    if n < 4 ∨ n % 4 ≠ 0 ∨ bs.length < n then none
    else (structRecs fuel (bs.drop n)).map (StructRec.ofBytes (descField bs 0 2) (bs.take n) :: ·)

/-! ## TRIMS (R370) -/

/-- R370: the record that 16 bytes hold; VALUE is signed for a ring offset. -/
def TrimRec.ofBytes (b : List Byte) : TrimRec :=
  let f := descField b
  let v := f 6 2
  { kind := f 0 1, hold := bit (f 1 1) 0, station := f 2 1, dir := bits (f 3 1) 5 5, wg := bits (f 3 1) 4 0
    line := f 4 1, point := f 5 1, value := if f 0 1 = 1 then sext 16 v else v
    rsvd := bits (f 1 1) 7 1 + bits (f 3 1) 7 6 + f 8 8 }

/-! ## CODE (R94) -/

/-- R94: the data segment at byte `o`. -/
def segOfBytes (bs : List Byte) (o : Nat) : Seg :=
  { offset := descField bs o 4, length := descField bs (o + 4) 4, addr := descField bs (o + 8) 4
    rsvd := descField bs (o + 12) 4 }

/-- R94: the per-tile descriptor that 256 bytes hold. -/
def TileDesc.ofBytes (bs : List Byte) : TileDesc :=
  { codeOffset := descField bs 0 4, codeLen := descField bs 4 4, loadAddr := descField bs 8 4
    fetchLo := descField bs 12 4, fetchHi := descField bs 16 4
    rsvd := descField bs 20 4, rsvd2 := descField bs 56 8
    entry := (List.range 8).map fun i => descField bs (24 + 4 * i) 4
    segs := (List.range 6).map fun i => segOfBytes bs (64 + 16 * i)
    init := (List.range 12).map fun i => BitVec.ofNat 64 (descField bs (160 + 8 * i) 8) }

/-- The per-tile descriptors of a CODE section, in order. -/
def CodeSec.tileDescs (c : CodeSec) : List TileDesc := c.descs.map TileDesc.ofBytes

/-! ## The image -/

/-- R402: the SIGNATURE section has its length, and its reserved bytes are 0. -/
def signatureOk (bs : List Byte) : Bool := bs.length == 3736 && descField bs 1 3 == 0

def ImageBytes.section (b : ImageBytes) (t : Nat) : List Byte := mget [] b.sections t

/-- R399: the reads delivered the HEADER and as many bytes of each section as its entry says. -/
def ImageBytes.whole (b : ImageBytes) (h : ImgHeader) : Bool :=
  b.header.length == 576 && h.dir.all fun e => e.type == 0 || (b.section e.type).length == e.length

/-- R398 to R402: the image that the bytes read by the loader hold. The SHA3-256 values and the outcome of the
ML-DSA-44 verification are those of its bytes. -/
def ImageBytes.image (b : ImageBytes) : Image :=
  let h := ImgHeader.ofBytes b.header b.sections
  let recs := structRecs ((b.section 1).length / 4) (b.section 1)
  let sig := b.section 8
  let key := (sig.drop 4).take 1312
  { header := h, readStatus := if b.whole h then b.readStatus else St.internal
    structure_ := recs.getD [], structureRsvdOk := recs.isSome
    windows := b.windows, code := { b.code with fwBytes := (b.section 5).length }, twill := b.twill
    governor := b.governor
    trims := (chunks 16 (b.section 7)).map TrimRec.ofBytes, trimsWhole := (b.section 7).length % 16 == 0
    routes := b.routes, sigSlot := descField sig 0 1, sigOk := signatureOk sig
    keyHash := Config.sha3 key, verifies := Config.verifies key h.digest ((sig.drop 1316).take 2420) }

/-- R410: a section read again gives another digest than its entry has. -/
def ImageBytes.differs (b : ImageBytes) (h : ImgHeader) : Bool :=
  h.dir.any fun e => e.type != 0 && e.type != 8 && (Config.sha3 (b.section e.type)).toNat != e.digest

/-- The image in a sparse store of bytes of a length (R419). -/
def imageIn (m : SMap Byte) : ImageBytes :=
  let bytes := fun o n => (List.range n).map fun i => mget 0 m (o + i)
  let header := bytes 0 576
  let dir := (ImgHeader.ofBytes header []).dir.filter fun e => e.type != 0 && decide (e.offset + e.length ≤ 16777216)
  { header := header, sections := dir.foldl (fun t e => minsert t e.type (bytes e.offset e.length)) [] }

end Sys2Proof
end

