-- ==== Sys2Proof/Machine/Reset.lean ====
section
/-! DEFINITION. Module reset (R5, R381, R436, R476) and what follows a Peat flush that a reset waits for
(R497, R502). -/

namespace Sys2Proof.Machine

/-- R372, R427: the commissioning values of a laser are fused; the rest is as after reset. -/
def Laser.afterReset (l : Nat) (x : Laser) : Laser :=
  { laserDefault l with p0 := x.p0, b0 := x.b0, bias := x.b0, tgt := x.b0 }

/-- R60, R65: the regions with their factory spare maps and fault marks. -/
def Fused.regions (f : Fused) : SMap Region :=
  mupdAll {} [] (f.spareMaps.map (·.1) ++ f.siteBad.map (·.1)) fun k x =>
    { x with spareMap := mget [] f.spareMaps k, siteBad := mget [] f.siteBad k }

/-- R381: a region after module reset keeps the epochs of its bond port, each one more by `Links.resets`. -/
def State.regionsAfter (s : State) : SMap Region :=
  s.regions.foldl (fun m e => mupd {} m e.1 fun x =>
    { x with bond := { ends := { base := e.2.bond.ends.base, far := e.2.bond.ends.far } } }) s.fused.regions

/-- R381: a chiplet site after module reset: its side's epoch rises and its memory is invalid. -/
def Site.afterReset (x : Site) : Site := { ends := { x.ends with base := x.ends.base + 1, baseSaw := none } }

/-- R476: SEQ goes on above the highest in the flash region, which keeps its sets. -/
def Peat.afterReset (e : Peat) : Peat :=
  let top := (e.sets.map (·.recs)).flatten.foldl (fun m r => Nat.max m r.seq) 0
  { next := top + 1, flushed := top + 1, sets := e.sets, flashFull := e.flashFull, erasing := e.erasing }

/-- R5: every register at its Reset value. Fuses, the board NOR flash, the flash region, the board's
pins, the TAP and the module's own oscillator are no registers that reset reaches; P0 is now. -/
def State.moduleReset (s : State) (mode : RunMode) : State :=
  let r := State.reset
  { r with
    pending := s.pending
    fused := s.fused
    boot := { osc := s.boot.osc, p0 := s.boot.osc, mode := mode }
    board := s.board
    regions := s.regionsAfter
    mem := { flashRetired := s.mem.flashRetired }
    power := { budget := if s.fused.m6416 then 9650 else 11500 }
    opt := { rings := s.fused.rings, lasers := s.opt.lasers.foldl (fun m x => mset (laserDefault x.1) m x.1 (x.2.afterReset x.1)) [] }
    links := { resets := s.links.resets + 1
               sites := mupdAll {} [] [27, 28, 29, 30] fun n _ => (s.site n).afterReset }
    cfg := { keys := s.cfg.keys, flashFw := s.cfg.flashFw, version := s.cfg.flashFw.1 }
    evt := s.evt.afterReset
    jtag := s.jtag
    saves := s.saves
    out := s.out
    free := s.free }

/-- R5 MODULE_RESET: reset and restart, which is a start at P0 (R424). -/
def execModuleReset (s : State) : Res := .next (s.moduleReset .boot)

/-- R497: power-off reset, after a power-fail flush or behind an open disconnect. -/
def State.powerOff (s : State) : State :=
  let s := s.moduleReset .powerOff
  { s with boot := { s.boot with failOff := true } }

/-- R497: power-off reset follows a flush that runs, or comes at once. -/
def State.thenOff (s : State) : State :=
  if s.evt.flush.isSome then { s with evt := { s.evt with after := 2 } } else s.powerOff

/-- R502: the mode after the reset that MOD_RESET_N asks for. -/
def Board.resetMode (b : Board) : RunMode := if b.resetLow then .held else .boot

/-- R497, R502: the flush has ended and the reset that waited for it follows. -/
def State.afterFlush (s : State) : State :=
  match s.evt.after with
  | 0 => s
  | 1 => s.moduleReset s.board.resetMode
  | _ => s.powerOff

end Sys2Proof.Machine
end

