-- ==== Sys2Proof/Machine/Peat.lean ====
section
/-! DEFINITION. The Peat recorder (R475 to R483, R492): records reaching the buffer, the die stages,
the rate windows, clears, flushes and the flash region, and the read latch. -/

namespace Sys2Proof.Machine

/-- Start-up runs and has not failed. -/
def State.booting (s : State) : Bool := s.boot.mode == .boot

/-- R435: an outcome is recorded: the step, DETAIL, and the row of R435, counted from 1. -/
def State.bootOutcome (s : State) (step detail row : Nat) : State :=
  s.recStn 0x9005 none 26 ([BitVec.ofNat 8 step] ++ leBytes 2 detail ++ [BitVec.ofNat 8 row])

/-- R435: an outcome of the step that has begun lowest and is not complete, where start-up runs. -/
def State.outcomeNow (s : State) (detail row : Nat) : State :=
  if s.booting then
    s.bootOutcome (((List.range 9).find? fun n => !bit s.boot.steps.toNat n).getD 8) detail row
  else s


/-! ## Records reach the buffer (R476 to R479) -/

/-- R479: a record enters the buffer and takes its SEQ, or is lost. -/
def Peat.enter (e : Peat) (r : PeatRec) : Peat :=
  if 32768 ≤ e.buf.length ∨ (32512 ≤ e.buf.length ∧ r.code / 4096 ≠ 14) then
    { e with lostFull := satInc 65535 e.lostFull }
  else
    { e with
      buf := e.buf ++ [{ r with seq := e.next }]
      next := e.next + 1
      full := e.full || e.buf.length == 32767
      unread := if r.code / 4096 = 14 ∨ r.code / 4096 = 2 then e.unread ++ [e.next] else e.unread }

/-- R465, HIF_PORTn_EVT: a port's MSI-X for a record of code block 0xA or 0xE. -/
def State.evtMsix (s : State) (code n : Nat) : State :=
  let q := s.port n
  if q.evtEn && (code / 4096 == 10 || code / 4096 == 14) then s.sendMsix n q.evtVec else s

/-- R465, R479: a record enters the buffer, and both ports send their message for it. -/
def State.enterRec (s : State) (r : PeatRec) : State :=
  (State.evtMsix { s with evt := s.evt.enter r } r.code 0).evtMsix r.code 1

/-- R476 PEAT_RECORD: the oldest record at the I/O die enters the buffer. -/
def execPeatRecord (s : State) : Res :=
  .next (match s.evt.offered with
    | [] => s
    | r :: rs => State.enterRec { s with evt := { s.evt with offered := rs } } r)

/-- R478: when space returns a die reports the records it has lost. -/
def State.reportLost (s : State) (die : Nat) : State :=
  let n := mget 0 s.evt.stageLost die
  if n = 0 then s
  else { s with evt := { s.evt with stageLost := merase s.evt.stageLost die } }.recDie 0xEF01 none die (leBytes 4 n)

/-- R476, R478 PEAT_STAGE_SEND: a die's oldest staged record reaches the I/O die. -/
def execPeatStageSend (die : Nat) (s : State) : Res :=
  .next (match mget [] s.evt.stages die with
    | [] => s
    | r :: rs =>
      State.reportLost
        { s with evt := { s.evt with stages := mset [] s.evt.stages die rs, offered := s.evt.offered ++ [r] } }
        die)

/-- R477: the count that the rate windows are aligned to. -/
def State.windowCount (s : State) : Nat := if s.time.firstAcq.isSome then s.time.ht else s.boot.osc

/-- R477 PEAT_RATE_WINDOW: a window of 10 ms ends; each recording point writes one summary for each
code that it suppressed. -/
def execPeatRateWindow (s : State) : Res :=
  .next (
    if s.windowCount % 10000000 ≠ 0 then s
    else
      let old := s.evt.supp
      let s := { s with evt := { s.evt with counts := [], supp := [] } }
      old.foldl (fun s k =>
        let point := k.1 / 65536
        let data := leBytes 4 (k.1 % 65536) ++ leBytes 4 k.2
        s.record point 0xEF00 none (s.stnCoord (if point < 20 then point else 26)) data) s)

/-! ## Flushes, clears and the flash region (R480 to R482) -/

/-- The records of the buffer that no flush has written, with SEQ below a bound. -/
def Peat.unwritten (e : Peat) (upTo : Nat) : List PeatRec :=
  e.buf.filter fun r => decide (e.flushed ≤ r.seq) && decide (r.seq < upTo)

/-- R481: a flush is asked for: it merges into a running one, waits for an erase, writes nothing
where nothing is left to write or no set is left, or begins. -/
def Peat.startFlush (e : Peat) (cause : Nat) : Peat :=
  match e.flush with
  | some f => { e with flush := some { f with upTo := e.next, cause := if cause = 2 then 2 else f.cause } }
  | none =>
    if e.erasing && cause != 2 then { e with flushWait := some (e.flushWait.getD cause) }
    else if (e.unwritten e.next).isEmpty then e
    else if e.erasing then { e with flushLost := satInc 65535 e.flushLost }
    else if 16 ≤ e.sets.length then { e with flashFull := true, flushLost := satInc 65535 e.flushLost }
    else { e with flush := some { cause := cause, upTo := e.next } }

def State.startFlush (s : State) (cause : Nat) : State := { s with evt := s.evt.startFlush cause }

/-- R471, R472, R481: the flush of an entry into the safe state begins from 2 µs after it: what has reached the I/O die
by then, the record of the entry with it, has entered the buffer. -/
def State.enterOffered (s : State) : State :=
  s.evt.offered.foldl State.enterRec { s with evt := { s.evt with offered := [] } }

def State.safeFlush (s : State) : State := s.enterOffered.startFlush 1

/-- R480: the buffer is emptied; the record of the clear is the first of the new contents. A record that is no longer
held is none that the side-band has unread (R501; log entry 88). -/
def State.clearNow (s : State) : State :=
  let e := s.evt
  let r : PeatRec :=
    { ht := s.evtHt, code := 0xEF02, flags := s.evtFlags none, source := s.stnCoord 26,
      data := pad8 (leBytes 8 (e.next - 1)) }
  State.enterRec { s with evt := { e with buf := [], unread := [], full := false, lostDie := 0, lostFull := 0 } } r

/-- R480, R481: a clear, which waits for a flush that runs. -/
def State.clearCmd (s : State) : State :=
  match s.evt.flush with
  | some f => { s with evt := { s.evt with flush := some { f with clearAfter := true } } }
  | none => s.clearNow

/-- R481: the erase begins: the region reads as empty. -/
def Peat.startErase (e : Peat) : Peat :=
  { e with erasing := true, sets := [], flashFull := false, flushed := 0 }

/-- R481: a FLASH_CLEAR, which waits for a flush that runs. -/
def State.flashClearCmd (s : State) : State :=
  match s.evt.flush with
  | some f => { s with evt := { s.evt with flush := some { f with eraseAfter := true } } }
  | none => if s.evt.erasing then s else { s with evt := s.evt.startErase }

/-- R481, R492: the actions of a write of EVT_CMD: FLUSH before CLEAR, which follows a flush of the same write
that waits for an erase. -/
def State.evtCmd (s : State) (w : Who) (v : W32) : State :=
  let s := if bit v.toNat 1 then s.startFlush 0 else s
  let s :=
    if !bit v.toNat 0 then s
    else if bit v.toNat 1 && s.evt.flushWait.isSome then { s with evt := { s.evt with waitClear := true } }
    else s.clearCmd
  if bit v.toNat 2 && w.isFw then s.flashClearCmd else s

/-- R480 CLEAR: EVT_CMD.CLEAR. -/
def execClear (w : Who) (v : W32) (s : State) : Res := .next (s.evtCmd w (v &&& 1))

/-- R481 FLUSH: EVT_CMD.FLUSH. -/
def execFlush (w : Who) (v : W32) (s : State) : Res := .next (s.evtCmd w (v &&& 2))

/-- R481 FLASH_CLEAR: EVT_CMD.FLASH_CLEAR, from firmware only. -/
def execFlashClear (w : Who) (v : W32) (s : State) : Res := .next (s.evtCmd w (v &&& 4))

/-- R482, R486: the record 0xE005 of a power-fail set: records held and written. -/
def State.failRec (s : State) (held written : Nat) : PeatRec :=
  { seq := s.evt.next, ht := s.evtHt, code := 0xE005, flags := s.evtFlags none, source := s.stnCoord 26,
    data := leBytes 4 held ++ leBytes 4 written }

/-- R481, R482, R497, R502 FLUSH_DONE: the set is written, whole but at power failure, where `written`
records, 5,000 at least, reached it; a clear, an erase and a reset that waited then act. -/
def execFlushDone (written : Nat) (s : State) : Res :=
  .next (match s.evt.flush with
    | none => s
    | some f =>
      let recs := s.evt.unwritten f.upTo
      let n := if f.cause = 2 then Nat.min (Nat.max 5000 written) recs.length else recs.length
      let took := recs.take n
      let last := if f.cause = 2 then [s.failRec recs.length n] else []
      let e := { s.evt with
        flush := none
        sets := s.evt.sets ++ [{ cause := f.cause, isPartial := decide (n < recs.length), recs := took ++ last }]
        flushed := took.foldl (fun m r => Nat.max m (r.seq + 1)) s.evt.flushed
        next := s.evt.next + last.length }
      let s := { s with evt := e }
      let s := if f.clearAfter then s.clearNow else s
      (if f.eraseAfter then { s with evt := s.evt.startErase } else s).afterFlush)

/-- R481 FLASH_ERASE_DONE: the erase ends and a flush that waited begins, with the CLEAR of its write behind it. -/
def execFlashEraseDone (s : State) : Res :=
  .next (
    if s.evt.erasing then
      let t : State := { s with evt := { s.evt with erasing := false, flushWait := none, waitClear := false } }
      let t := match s.evt.flushWait with
        | some c => t.startFlush c
        | none => t
      if s.evt.waitClear then t.clearCmd else t
    else s)

/-! ## Reading (R483) -/

/-- R483: the record with a SEQ in the buffer or in a flush set; none reads as zeros. -/
def Peat.find (e : Peat) (src seq : Nat) : PeatRec :=
  let l := if src = 0 then e.buf else (e.sets[src - 1]?.map (·.recs)).getD []
  (l.find? fun r => r.seq == seq).getD { data := List.replicate 8 0 }

/-- The 32 bytes of a record (R475). -/
def PeatRec.bytes (r : PeatRec) : List Byte :=
  leBytes 8 r.seq ++ leBytes 8 r.ht ++ leBytes 2 r.code ++ leBytes 1 r.flags ++ leBytes 1 r.partition ++
    leBytes 4 r.source.toNat ++ pad8 r.data

/-- R9: the value of a LO/HI pair after a write of HI, the staged LO half of the requester consumed. -/
def State.hiWrite (s : State) (w : Who) (loAddr : Nat) (old : W64) (v : W32) : State × W64 :=
  let k := w.slot * 2 ^ 32 + loAddr
  match s.stage.find? (·.1 == k) with
  | some p => ({ s with stage := merase s.stage k }, BitVec.ofNat 64 (v.toNat * 2 ^ 32 + p.2.toNat))
  | none => (s, BitVec.ofNat 64 (v.toNat * 2 ^ 32 + old.toNat % 2 ^ 32))

/-- R483, R492: the HI write of EVT_RD_SEQ latches the record for the requester. -/
def State.peatLatch (s : State) (w : Who) (v : W32) : State :=
  let r := s.hiWrite w 0xB00030 s.evt.rdSeq v
  let e := { r.1.evt with rdSeq := r.2 }
  { r.1 with evt := { e with latched := mset {} e.latched w.slot (e.find e.rdSrc r.2.toNat) } }

/-- R483 PEAT_READ_LATCH. -/
def execPeatReadLatch (w : Who) (v : W32) (s : State) : Res := .next (s.peatLatch w v)

end Sys2Proof.Machine
end

