-- ==== Sys2Proof/Machine/Safe.lean ====
section
/-! DEFINITION. The safe state of a partition and the shared safe state (R175, R291, R467 to R474,
R491), with the triggers of R469 that concern the whole module. -/

namespace Sys2Proof.Machine

/-! ## One partition (R470, R471, R474) -/

/-- R471: every item of a tile that has not ended ends with a status, written and counted. -/
def Tile.endAll (x : Tile) (st : Byte) : Tile :=
  x.descs.foldl (fun x d => x.complete d (match d.stage with
    | .ended e => e
    | _ => st)) x

/-- R471: the tile stops with its cause unchanged. -/
def Tile.safeStop (x : Tile) (st : Byte) : Tile :=
  { x.endAll st with st := .fenced, draining := false, wait := none }

/-- R470, R471: the packets queued for the hall that station 26 answers for a partition in the safe
state. -/
def State.endHall (s : State) (p : Nat) (st : Byte) : State :=
  let k := fun (f : Flight) => f.pkt.kind
  let out := s.fabric.pkts.filter fun f => f.pkt.job == (s.part p).job &&
    (k f == kSTORE || k f == kMSG || k f == kATOMIC || k f == kCONTRIB) && (match f.place with
      | .hall _ | .hallHeld _ _ => true
      | _ => false)
  out.foldl (fun s f => (s.dropPkt f.seq).bounce 26 f.pkt st) s

/-- R409: a partition of a request's scope is lost to the request. -/
def LoadRun.lose (l : LoadRun) (p : Nat) : LoadRun :=
  if p ∈ l.scope ∧ (l.phase = .quiescing ∨ l.phase = .applying) then { l with lost := addOnce p l.lost } else l

/-- R474: what the safe state leaves of a save that runs. -/
def Partition.saveLost (x : Partition) : Partition :=
  if x.ck = .saving ∨ x.ck = .armed then { x with ck := .failed, ckStatus := St.safeState } else x

/-- R471: the state of the partition itself. -/
def Partition.intoSafe (x : Partition) (trigger : Nat) (st : Byte) : Partition :=
  { x.saveLost with
    st := .safeState
    trigger := trigger
    live := none
    twl := if trigger = 9 then .stoppedTime else x.twl
    stopFrame := none
    launch := x.launch.map fun l => { l with stopStatus := some (l.stopStatus.getD st) } }

/-- R470, R471 SAFE_STATE_ENTER, all at the instant of entry; a trigger 9 gives its items TIME_LOST. A
launch already over keeps the status it ended with (R474). -/
def State.enterNow (s : State) (p trigger : Nat) : State :=
  let st := if trigger = 9 then St.timeLost else St.safeState
  let s : State := { s with cfg := { s.cfg with run := s.cfg.run.map (fun (l : LoadRun) => l.lose p) } }
  let s := (s.endLaunch p).endCircuits p st
  let s := (s.part p).tiles.foldl (fun (s : State) t => s.updTile t (fun x => x.safeStop st)) s
  let s := ((s.endHeld p st).endRounds p st).updPart p (·.intoSafe trigger st)
  (s.endHall p st).safeFlush

/-- R469: the record of a trigger. -/
def State.triggerRec (s : State) (p trigger : Nat) : State :=
  State.recStn { s with safe := { s.safe with trig := s.safe.trig ||| BitVec.ofNat 10 (2 ^ trigger) } } 0xE001
    (some p) 26 [BitVec.ofNat 8 trigger]

/-- R471, R474: a partition enters the safe state; a second trigger is only recorded. -/
def State.enterSafe (s : State) (p trigger : Nat) : State :=
  let x := s.part p
  if !x.isLoaded then s
  else if x.st = .safeState then
    (s.triggerRec p trigger).updPart p fun y => { y with trigger := if y.trigger = 9 then trigger else y.trigger }
  else (s.triggerRec p trigger).enterNow p trigger

/-! ## The shared safe state (R472) -/

def allLasers : List Nat := List.range 40

/-- R472: a laser that feeds an index is off; a spare that is warm is cold again, and a laser keeps
no spare and asks for none. -/
def Laser.darken (x : Laser) : Laser :=
  let x := { x with lit := false, started := false, spare := none, asked := none, switchDue := none }
  match x.st with
  | .active => { x with st := .off, wasActive := true }
  | .warming | .locked => { x with st := .cold, index := 0 }
  | .failed | .off | .cold => x

/-- R472, R482: every laser of field 31 is turned off. -/
def State.lasersOff (s : State) : State :=
  allLasers.foldl (fun s l => s.setLaser l (s.laser l).darken) { s with opt := { s.opt with waiting := [] } }

/-- R472: lasers off and hall transmitters dark. -/
def State.darken (s : State) : State :=
  hallPorts.foldl (fun s n => s.setHall n { s.hall n with up := false, listed := false }) s.lasersOff

/-- R472: the packets at station 26 for the hall are answered. -/
def State.emptyHall (s : State) : State :=
  let out := s.fabric.pkts.filter fun f => match f.place with
    | .hall _ | .hallHeld _ _ => true
    | _ => false
  out.foldl (fun s f => (s.dropPkt f.seq).bounce 26 f.pkt St.safeState) s

/-- The compute clocks of every region stop, with their state held (R472, R482). -/
def State.stopClocks (s : State) : State :=
  { s with regions := s.regions.map fun r => (r.1, { r.2 with stopped := true }) }

/-- R472 SHARED_SAFE_ENTER; while it is being left, a trigger ends the leaving. -/
def State.enterShared (s : State) (trigger : Nat) : State :=
  if s.safe.shared && !s.safe.exiting then s
  else
    let s := if s.safe.shared then s else s.recStn 0xE002 none 26 [BitVec.ofNat 8 trigger]
    let s := s.darken.emptyHall.stopClocks
    State.safeFlush
      { s with
        safe := { s.safe with shared := true, exiting := false, relit := false }
        mem := { s.mem with selfRefresh := true } }

/-- R472, second condition: no loaded partition is left outside the safe state; a partition there by
trigger 9 alone counts as outside it (R470). -/
def State.noneOutside (s : State) : Bool :=
  !s.loadedParts.isEmpty && s.loadedParts.all fun p => (s.part p).st == .safeState && (s.part p).trigger != 9

/-- R469, R472: a trigger acts on the partitions in its scope. -/
def State.trigger (s : State) (ps : List Nat) (n : Nat) : State :=
  let s := { s with safe := { s.safe with trig := s.safe.trig ||| BitVec.ofNat 10 (2 ^ n) } }
  let s' := (ps.filter fun p => (s.part p).isLoaded).foldl (fun s p => s.enterSafe p n) s
  if n != 9 && s'.noneOutside && ps.any (fun p => (s.part p).isLoaded && (s.part p).st != .safeState) then
    s'.enterShared n
  else s'

/-- R469: a trigger of every loaded partition and of the shared safe state. -/
def State.triggerAll (s : State) (n : Nat) : State := (s.trigger allParts n).enterShared n

/-! ## Scopes (R469) -/

/-- A partition has a tile that satisfies `q`. -/
def State.hasTile (s : State) (p : Nat) (q : Nat → Bool) : Bool := (s.part p).tiles.any q

/-- A partition's job has a window of a station. -/
def State.hasWindow (s : State) (p station : Nat) (q : BitVec 256 → Bool) : Bool :=
  (s.stn station).windows.any fun w => wValid w.2 && wJob w.2 == (s.part p).job && q w.2

/-- A partition has a circuit from or to a station. -/
def State.hasCircuit (s : State) (p station : Nat) : Bool :=
  let own := fun (e : Nat × W64) => seValid e.2 && sePart e.2 == p
  (s.stn station).txTab.any own || (s.stn station).rxTab.any own

/-- R305, R469: the partition has a tile, window or circuit at a station. -/
def State.atStation (s : State) (p station : Nat) : Bool :=
  s.hasTile p (fun t => tileStation t == station) || s.hasWindow p station (fun _ => true) || s.hasCircuit p station

/-- R472: the place of a trigger 1. -/
def State.partsInRegion (s : State) (r : Nat) : List Nat :=
  s.loadedParts.filter fun p => s.hasTile p fun t => tileRegion t == r

def State.partsAtStation (s : State) (n : Nat) : List Nat := s.loadedParts.filter fun p => s.atStation p n

/-- R387: the partitions that hold an HBM window; it stands at every station (R225). -/
def State.partsWithHbm (s : State) : List Nat :=
  s.loadedParts.filter fun p => dataStations.any fun n => s.hasWindow p n fun w => wKind w == 0

/-! ## Triggers 4, 5, 6 and 8, and loss of time -/

/-- R469, R496 INPUT_VOLTAGE_FAULT: trigger 4. -/
def execInputVoltageFault (s : State) : Res := .next ((s.triggerAll 4).outcomeNow 4 12)

/-- R469, R506 COOLANT_FLOW_LOSS: trigger 5. -/
def execCoolantFlowLoss (s : State) : Res :=
  .next (State.triggerAll { s with board := { s.board with flowGood := false } } 5 |>.outcomeNow 5 12)

/-- R469 LEAK_DETECT: trigger 6. -/
def execLeakDetect (s : State) : Res :=
  .next (State.triggerAll { s with board := { s.board with leakClr := false } } 6 |>.outcomeNow 6 12)

/-- R469, R417 MGMT_CORE_DISAGREE: trigger 8; no comparison is made while the standby core does not
shadow. -/
def execMgmtCoreDisagree (o : CoreOutput) (s : State) : Res :=
  .next (
    if !s.cfg.shadow then s
    else match o with
      | .partition p => s.trigger [p] 8
      | .shared => s.triggerAll 8)

/-- R291, R305: time is lost for a partition: a strict scheduled one stops at the end of this frame. -/
def State.timeLostFor (s : State) (p : Nat) : State :=
  let x := s.part p
  if x.isLoaded && x.strict && !x.adaptive && x.st != .safeState && x.stopFrame.isNone then
    s.updPart p fun y => { y with stopFrame := some (frameOf s.ht) }
  else s

/-- R175, R470 TWILL_STOP_TIME: at the end of the frame in which time was lost a strict partition
stops, in the safe state by trigger 9. -/
def execTwillStopTime (p : Nat) (s : State) : Res :=
  .next (match (s.part p).stopFrame with
    | none => s
    | some f => if f < frameOf s.ht then s.trigger [p] 9 else s)

/-! ## Power failure (R482) and leaving the shared safe state (R473) -/

/-- R482: at power failure the flush begins, and lasers and compute clocks stop where trigger 4 has
not acted. -/
def State.powerFail (s : State) : State :=
  let s := s.startFlush 2
  (if bit s.safe.trig.toNat 4 then s else s.lasersOff.stopClocks).thenOff

/-- R482 POWER_FAIL_FLUSH: the input falls below 34.0 V. -/
def execPowerFailFlush (s : State) : Res := .next (if s.boot.mode = .powerOff then s else s.powerFail)

/-- R473: a region or base field holds a shut-down latch. -/
def State.anyLatch (s : State) : Bool :=
  s.regions.any (fun r => r.2.sdLatch) || s.stations.any (fun n => n.2.baseSd) || s.links.hbmStacks.any fun n => n.2.cattrip

/-- R473: an accepted exit begins: region clocks restart at the next maintenance interval at their
points, HBM3E leaves self-refresh, and lasers may start. -/
def State.beginExit (s : State) : State :=
  { s with
    safe := { s.safe with exiting := true }
    board := { s.board with flowGood := true, leakClr := true }
    mem := { s.mem with selfRefresh := false }
    regions := s.regions.map fun r =>
      (r.1, if r.2.boot = .enabled ∧ r.2.stopped = true then { r.2 with stepTo := some r.2.op } else r.2) }

/-- R473: a write of GLB_SAFE_CTRL. -/
def State.safeCtrl (s : State) (w : Who) (v : W32) (inputsOk : Bool) : State :=
  if !bit v.toNat 0 || !w.isFw || !s.safe.shared || s.safe.exiting then s
  else if !s.loadedParts.isEmpty || !inputsOk || s.anyLatch then s.recStn 0xE004 none 26 []
  else s.beginExit

/-- R473 SAFE_EXIT. -/
def execSafeExit (w : Who) (v : W32) (inputsOk : Bool) (s : State) : Res := .next (s.safeCtrl w v inputsOk)

/-- R473: every index is fed by a light or dark. -/
def State.indicesSettled (s : State) : Bool :=
  (List.range 32).all fun k => bit s.opt.dark.toNat k ||
    allLasers.any fun l => (s.laser l).st == .active && (s.laser l).lit && (s.laser l).index == k

/-- R473 SAFE_EXIT_DONE: after the deep calibration of the exit SHARED becomes 0. -/
def execSafeExitDone (s : State) : Res :=
  .next (
    if s.safe.shared && s.safe.exiting && s.safe.relit then
      State.recStn { s with safe := {} } 0xE003 none 26 []
    else s)

end Sys2Proof.Machine
end

