-- ==== Sys2Proof/Machine/Time.lean ====
section
/-! DEFINITION. Hall time (R286 to R305, R316 to R318): the reference source, the fabric-disciplined
source, the time states, and the stations' copies of HT. The region clocks are in Clocks.lean. -/

namespace Sys2Proof.Machine

/-! ## Measurements -/

/-- The time domain with its count at a value in units of 2^-16 ns. -/
def TimeDom.setUnits (t : TimeDom) (u : Int) : TimeDom :=
  { t with ht := (u / 65536).toNat % 2 ^ 64, frac := BitVec.ofInt 16 u }

/-- Picoseconds of a value in units of 2^-16 ns. -/
def psOf (u : Int) : Int := u * 1000 / 65536

/-- R316: TIM_OFFSET saturates at ±(2^31 − 1). -/
def satPs (ps : Int) : Int := if 2147483647 < ps then 2147483647 else if ps < -2147483647 then -2147483647 else ps

/-- The little-endian two's-complement bytes of an integer. -/
def leInt (n : Nat) (i : Int) : List Byte := leBytes n (trunc (8 * n) i)

/-- A record of the time domain, whose station is 26. -/
def State.recTime (s : State) (code : Nat) (data : List Byte) : State := s.recStn code none 26 data

def State.setTime (s : State) (t : TimeDom) : State := { s with time := t }

/-- R289: the window in which a source's last valid instant lies, ns. -/
def sourceWindow : Nat := 1000000

/-- R292: a source that meets the conditions of its mode with any epoch is present. -/
def TimeDom.source (t : TimeDom) : Option (BitVec 16 × Int) :=
  match t.present with
  | none => none
  | some (e, o, at0) =>
    if (t.mode = 0 ∧ t.pllLocked = false) ∨ at0 + sourceWindow ≤ t.ht then none else some (e, o)

/-- The source is gone: nothing of it is held for a later one (R292). -/
def TimeDom.noSource (t : TimeDom) : TimeDom := { t with present := none, returned := false, reacqPending := false }

/-- R290: the runs of measurements within ±1 ns and ±0.25 ns. -/
def TimeDom.countGood (t : TimeDom) (o : Int) : TimeDom :=
  { t with
    good1 := if o.natAbs ≤ 65536 then t.good1 + 1 else 0
    good025 := if o.natAbs ≤ 16384 then t.good025 + 1 else 0
    estimates := t.estimates + 1 }

/-- R294, R301: acquisition is complete. -/
def TimeDom.acquired (t : TimeDom) : Bool :=
  if t.mode = 0 then decide (16 ≤ t.good025) else decide (64 ≤ t.estimates)

/-- R290, R294, R301 LOCKED_REACHED. -/
def State.settleTime (s : State) : State :=
  let t := s.time
  let s := if t.st = .acquiring ∧ t.acquired = true then
    (s.setTime { t with st := .locked }).recTime 0x1002 [BitVec.ofNat 8 t.mode] else s
  if s.time.st = .locked ∧ 16 ≤ s.time.good1 ∧ s.time.srcUncertain = false then
    s.setTime { s.time with uncertain := false }
  else s

/-- R294, R299: in FREE the first measurement sets the count, and the state is ACQUIRING; its source is present
(R292). -/
def TimeDom.acquire (t : TimeDom) (epoch : BitVec 16) (o : Int) : TimeDom :=
  let u := t.setUnits (t.units + o)
  { u with
    st := .acquiring, uncertain := true, epoch := epoch, slew := 0
    good1 := 0, good025 := 0, estimates := 0
    present := some (epoch, 0, u.ht), returned := false
    lastValid := some u.ht, firstAcq := some (t.firstAcq.getD u.ht), reacqPending := false }

/-- R299: the oscillator's corrected rate is held within ± 50 ppm, in units of 2^-32. -/
def rateMax : Int := 214748

/-- R299, R301: the rate after a measurement; how the frequency is estimated is left open (log entry 67). -/
def TimeDom.rateAfter (t : TimeDom) (o : Int) : Int :=
  clampAbs rateMax (Config.rateAfter t.mode t.rate o t.estimates)

/-- R287, R294, R299: the offset of a valid source is measured; it corrects the rate and is slewed out. -/
def State.track (s : State) (o : Int) : State :=
  State.settleTime (s.setTime
    { s.time.countGood o with
      offset := satPs (psOf o), slew := o * 65536, rate := s.time.rateAfter o, lastValid := some s.ht })

/-- R292: an accepted REACQUIRE acts: HT steps to the source. -/
def State.reacquireNow (s : State) (epoch : BitVec 16) (o : Int) : State :=
  (s.setTime { s.time.acquire epoch o with
    disagree := false, remeasure := false
    offset := satPs (psOf o) }).recTime 0x1005 (leInt 8 (psOf o / 1000))

/-- R424: the TIME step begins when field 31 has passed its built-in test. -/
def State.timeBegun (s : State) : Bool := mget .off s.boot.fields 31 == .passed

/-- One measurement by a source that meets the conditions of its mode but perhaps for its epoch:
the offset of the source from the module in units of 2^-16 ns. The first entry to ACQUIRING sets the
gear hold (R326) and completes the TIME step (R429), which no measurement before its begin can (R424). -/
def State.measured (s : State) (epoch : BitVec 16) (o : Int) : State :=
  let t := s.time
  if s.timeBegun = false then s
  else if t.st = .free then
    State.stepDone { s.setTime (t.acquire epoch o) with power := { s.power with gearHold := true } } 4
  else if t.reacqPending then s.reacquireNow epoch o
  else
    -- another epoch is another source (R292)
    let s := s.setTime { t with
      present := some (epoch, o, t.ht), returned := t.returned && t.present.all (·.1 == epoch) }
    if t.st = .holdover ∨ t.remeasure = true then
      s.setTime { s.time with offset := satPs (psOf o) }
    else if epoch = t.epoch then s.track o
    else s

/-! ## Reference mode (R293 to R295) -/

/-- The run of words and pulses ends (R293). -/
def TimeDom.endRun (t : TimeDom) : TimeDom :=
  { t.noSource with word := none, prevWord := none, pulseInRun := false }

def TimeDom.bad (t : TimeDom) : TimeDom := { t with badWord := satInc 65535 t.badWord }

/-- R294, R424, R500 REF_PLL_LOCK: the time-domain PLL locks to HT_REF, which the cable at J7 brings; a run can
begin. -/
def execRefPllLock (s : State) : Res :=
  .next (
    if s.time.mode ≠ 0 ∨ s.time.pllLocked = true ∨ s.timeBegun = false then s
    else State.setTime { s with board := { s.board with htPresent := true } } { s.time.endRun with pllLocked := true })

/-- R293 HT_REF_LOCK_LOSS. -/
def execHtRefLockLoss (s : State) : Res :=
  .next (if s.time.pllLocked then s.setTime { s.time.endRun with pllLocked := false } else s)

/-- R293: QUALITY and CRC of a word permit it. -/
def wordOk (w : BitVec 128) : Bool :=
  bits w.toNat 87 80 ≤ 1 && bits w.toNat 127 96 == crc32c (leBytes 12 (bits w.toNat 95 0))

def wordNext (w : BitVec 128) : Nat := bits w.toNat 63 0
def wordEpoch (w : BitVec 128) : Nat := bits w.toNat 79 64
def wordQuality (w : BitVec 128) : Nat := bits w.toNat 87 80

/-- R290, R293: a word whose EPOCH_ID is the acquired one, or any in FREE. -/
def TimeDom.epochOk (t : TimeDom) (e : Nat) : Bool := t.st == .free || t.epoch.toNat == e

/-- R290: the source reports whether it is uncertain. -/
def TimeDom.quality (t : TimeDom) (q : Nat) : TimeDom :=
  { t with srcUncertain := q == 1, uncertain := t.uncertain || q == 1, good1 := if q = 1 then 0 else t.good1 }

/-- R293 TIME_WORD_RECEIVE: a word begins, continues or ends a run. `timely`: it began 20 µs after
the last pulse. -/
def execTimeWordReceive (word : BitVec 128) (timely : Bool) (s : State) : Res :=
  .next (
    let t := s.time
    if t.mode ≠ 0 ∨ t.pllLocked = false then s
    else if !wordOk word || (t.word.isSome && !timely) then s.setTime t.endRun.bad
    else
      let w := (wordNext word, wordQuality word, wordEpoch word)
      let t1 := if t.word.isSome && t.pulseInRun then { t with prevWord := t.word, word := some w, pulseInRun := false }
        else { t.endRun with word := some w }
      s.setTime (if t.epochOk (wordEpoch word) then t1.quality (wordQuality word) else t1.bad))

/-- R293: the pulse is well timed in its run: 100,000 ns ± 2 ns after the one before. -/
def pulseTimely (intervalPs : Int) : Bool := decide (99998000 ≤ intervalPs) && decide (intervalPs ≤ 100002000)

/-- R294: the offset of the source from the module at a pulse that arrives `arrivalPs` after the
module's count. -/
def TimeDom.pulseOffset (t : TimeDom) (next : Nat) (arrivalPs : Int) : Int :=
  ((next : Int) * 1000 + t.refDelay - arrivalPs) * 65536 / 1000 - t.units

/-- R293, R294 SYNC_PULSE: `intervalPs` after the previous pulse, measured on the PLL; `arrivalPs`:
the arrival, from the module's count. -/
def execSyncPulse (intervalPs arrivalPs : Int) (s : State) : Res :=
  .next (
    let t := s.time
    if t.mode ≠ 0 ∨ t.pllLocked = false then s
    else match t.word, t.prevWord with
      | none, _ => s.setTime t.bad
      | some _, none =>
        if t.pulseInRun then s.setTime t.endRun.bad else s.setTime { t with pulseInRun := true }.bad
      | some w, some pw =>
        if t.pulseInRun || !pulseTimely intervalPs then s.setTime t.endRun.bad
        else
          let t := { t with pulseInRun := true }
          if w.1 ≠ pw.1 + 100000 then s.setTime t.bad
          else
            (s.setTime (if t.epochOk w.2.2 then t else t.bad)).measured (BitVec.ofNat 16 w.2.2)
              (t.pulseOffset w.1 arrivalPs))

/-! ## Loss and return (R289 to R292) -/

/-- R175, R289, R291 HOLDOVER_ENTER: 1 ms after the last instant at which the source was valid. -/
def execHoldoverEnter (s : State) : Res :=
  .next (
    let t := s.time
    let due := match t.lastValid with
      | some v => decide (v + sourceWindow ≤ t.ht)
      | none => true
    if (t.st = .locked ∨ t.st = .acquiring) ∧ due = true then
      let s := (s.setTime { t with
        st := .holdover, uncertain := true, lossHt := t.ht, loss := satInc 65535 t.loss
        slew := 0, good1 := 0, good025 := 0, estimates := 0
        returned := false, remeasure := t.remeasure && !t.returned }).recTime 0x1001 (leInt 4 t.offset)
      allParts.foldl (fun s p => s.timeLostFor p) s
    else s)

/-- R292 SOURCE_RETURN: the source that has returned in HOLDOVER, or the first of a new mode, is
used within 100 µs and of the epoch acquired; else DISAGREE is set. One source returns once. -/
def execSourceReturn (s : State) : Res :=
  .next (
    let t := s.time
    match t.source with
    | none => s
    | some (e, o) =>
      if t.returned || !(t.st == .holdover || t.remeasure) then s
      else if e = t.epoch ∧ (psOf o).natAbs ≤ 100000000 then
        let s' := s.setTime { t with
          st := .locked, slew := o * 65536, lastValid := some t.ht, good1 := 0, good025 := 0, estimates := 0
          returned := true, remeasure := false }
        if t.st = .locked then s' else s'.recTime 0x1002 [BitVec.ofNat 8 t.mode]
      else
        let s' := s.setTime { t with
          disagree := true, returned := true, remeasure := t.remeasure && t.st != .holdover }
        if t.disagree then s' else s'.recTime 0x1003 (leInt 8 (psOf o / 1000)))

/-- R292: a write of TIM_CMD.REACQUIRE. -/
def State.reacquireCmd (s : State) (v : W32) : State :=
  if !bit v.toNat 0 then s
  else if s.loadedParts.isEmpty && s.time.source.isSome then s.setTime { s.time with reacqPending := true }
  else s.recTime 0x1004 []

/-- R292 REACQUIRE. -/
def execReacquire (_w : Who) (v : W32) (s : State) : Res := .next (s.reacquireCmd v)

/-- R316: a write of TIM_CMD.CNT_CLR. -/
def State.timClear (s : State) : State :=
  let s := s.setTime { s.time with badWord := 0, loss := 0 }
  dataStations.foldl (fun s n => s.updStn n fun x => { x with mismatch := 0 }) s

/-- R316 TIM_CNT_CLR. -/
def execTimCntClr (_w : Who) (v : W32) (s : State) : Res := .next (if bit v.toNat 1 then s.timClear else s)

def timePorts : List Nat := List.range 8

def State.tport (s : State) (n : Nat) : TimePort := mget {} s.time.ports n
def State.setTport (s : State) (n : Nat) (x : TimePort) : State :=
  s.setTime { s.time with ports := mset {} s.time.ports n x }

/-- R316: a change of TIM_CTRL.MODE takes effect at once; the new mode's source is then measured as
after holdover. -/
def State.setMode (s : State) (m : Nat) : State :=
  if m = s.time.mode then s
  else
    s.setTime { s.time.endRun with
      mode := m, pllLocked := false, remeasure := s.time.st != .free
      ports := s.time.ports.map fun p => (p.1, { p.2 with valid := false, excluded := false, history := [], foreign := none }) }

/-- R316 TIME_MODE_WRITE. -/
def execTimeModeWrite (_w : Who) (v : W32) (s : State) : Res := .next (s.setMode (v.toNat % 2))

/-! ## Fabric-disciplined mode (R296 to R301) -/

def tpEn (c : W32) : Bool := bit c.toNat 31
def tpPort (c : W32) : Nat := bits c.toNat 4 0

/-- R317: an enabled time port: a source of EP_KIND 3, and no other enabled port of the same PORT. -/
def State.tpEnabled (s : State) (n : Nat) : Bool :=
  let x := s.tport n
  tpEn x.cfgNow && cKind x.srcNow == 3 &&
    !(timePorts.any fun m => m != n && tpEn (s.tport m).cfgNow && tpPort (s.tport m).cfgNow == tpPort x.cfgNow)

/-- R297: a stamp of 12 bytes. -/
def stampBytes (u : Int) : List Byte := leBytes 8 (u / 65536).toNat ++ leBytes 2 (u % 65536).toNat ++ [0, 0]

def stampOf (bs : List Byte) (i : Nat) : Int :=
  (leNat ((bs.drop i).take 8) : Int) * 65536 + leNat ((bs.drop (i + 8)).take 2)

/-- A TIME packet from this module's management endpoint, sent on a hall port (R296, R300). -/
def State.sendTime (s : State) (port : Nat) (dst : W32) (txid : BitVec 24) (payload : List Byte) : State :=
  s.emit (.hallTx port (mkPkt
    { kind := kTIME, vc := 2, txid := txid, dst := dst, src := s.stnCoord 26, issue := ht32 (s.stnHt 26),
      payload := payload }))

/-- R296, R429 TIME_REQUEST_SEND: at HT multiples of 10,000 ns offset by 1,000 n, on the named port, to a
module of the presence map unless the state is FREE, and in no maintenance interval. -/
def execTimeRequestSend (n : Nat) (s : State) : Res :=
  .next (
    let x := s.tport n
    if s.time.mode ≠ 1 ∨ s.tpEnabled n = false ∨ s.ht % 10000 ≠ 1000 * n % 10000 ∨
        (s.time.st ≠ .free ∧ (inMaint s.ht = true ∨ s.planeMask (cModule x.srcNow) = 0)) ∨ (s.hall (tpPort x.cfgNow)).up = false then s
    else
      let s' := s.sendTime (tpPort x.cfgNow) x.srcNow s.fabric.txid
        ([0, 0, 0, 0] ++ stampBytes s.time.units ++ List.replicate 24 0)
      { s' with fabric := { s'.fabric with txid := s'.fabric.txid + 1 } })

/-- R208, R297: a TIME packet as it arrives on a hall port. -/
def State.timePktOk (s : State) (port : Nat) (p : Packet) : Bool :=
  (s.hall port).up && crcOk p && !malformed p && p.kind == kTIME && p.payload.length == 40

/-- R298: the smallest round trip accepted on the port in the last 100 ms. -/
def TimePort.bestRtt (x : TimePort) (now : Nat) : Option Rat :=
  ((x.history.filter fun h => now ≤ h.1 + 100000000).map (·.2)).foldl (fun m r => match m with
    | none => some r
    | some b => some (if r < b then r else b)) none

/-- R297, R298: a reply at a time port, by its round trip and offset in ns. -/
def State.reply (s : State) (n : Nat) (quality : Nat) (epoch : BitVec 16) (rtt ofs : Rat) : State :=
  let x := s.tport n
  if quality = 1 then s.setTime (s.time.quality 1)
  else if quality ≠ 0 ∨ (s.time.rttMax : Rat) < rtt ∨
      (x.bestRtt s.ht).any (fun b => decide (b + 20 < rtt)) = true then s
  else if !s.time.epochOk epoch.toNat then s.setTport n { x with foreign := some (epoch, ofs, s.ht) }
  else
    let s := s.setTime { s.time with srcUncertain := false }
    s.setTport n { x with
      valid := true, rtt := Nat.min 65535 rtt.floor.toNat, ofs := ofs, epoch := epoch, acceptedAt := s.ht
      history := (x.history.filter fun h => s.ht ≤ h.1 + 100000000) ++ [(s.ht, rtt)], foreign := none }

/-- R296 to R298 TIME_REPLY_RECEIVE: stamped T4 as it crosses the port. -/
def execTimeReplyReceive (port : Nat) (p : Packet) (t4 : Nat) (t4frac : BitVec 16) (s : State) : Res :=
  .next (
    if s.time.mode ≠ 1 ∨ s.timePktOk port p = false ∨ (nth 0 p.payload 0).toNat ≠ 1 then s
    else match timePorts.find? fun n => s.tpEnabled n && tpPort (s.tport n).cfgNow == port with
      | none => s
      | some n =>
        let t1 := stampOf p.payload 4
        let t2 := stampOf p.payload 16
        let t3 := stampOf p.payload 28
        let u4 := (t4 : Int) * 65536 + t4frac.toNat
        s.reply n (nth 0 p.payload 1).toNat (BitVec.ofNat 16 (leNat ((p.payload.drop 2).take 2)))
          (mkRat ((u4 - t1) - (t3 - t2)) 65536) (mkRat ((t2 - t1) + (t3 - u4)) 131072))

/-- R298 TIME_PORT_INVALID: the last accepted reply is more than 1 ms old. -/
def execTimePortInvalid (n : Nat) (s : State) : Res :=
  .next (
    let x := s.tport n
    if x.valid && decide (x.acceptedAt + 1000000 < s.ht) then s.setTport n { x with valid := false } else s)

def insertRat (a : Rat) : List Rat → List Rat
  | [] => [a]
  | b :: l => if a < b then a :: b :: l else b :: insertRat a l

/-- The median; of an even number, the mean of the middle two (log entry 21). -/
def median (l : List Rat) : Rat :=
  let v := l.foldl (fun acc a => insertRat a acc) []
  if v.length % 2 = 1 then nth 0 v (v.length / 2)
  else (nth 0 v (v.length / 2 - 1) + nth 0 v (v.length / 2)) / 2

def mean (l : List Rat) : Rat := l.foldl (· + ·) 0 / l.length

/-- |a − b| is above 3 ns. -/
def apart (a b : Rat) : Bool := decide (3 < a - b) || decide (3 < b - a)

/-- R299: the combined estimate of ports with their offsets, and the ports excluded. -/
def combine (l : List (Nat × Rat)) : Option Rat × List Nat :=
  match l with
  | [] => (none, [])
  | [_] => (none, [])
  | [a, b] => (if apart a.2 b.2 then none else some ((a.2 + b.2) / 2), [])
  | _ =>
    let m := median (l.map (·.2))
    let out := l.filter fun p => apart p.2 m
    let rest := l.filter fun p => !apart p.2 m
    (if rest.length < 2 then none else some (mean (rest.map (·.2))), out.map (·.1))

/-- R299 TIME_ESTIMATE_COMBINE. -/
def execTimeEstimateCombine (s : State) : Res :=
  .next (
    if s.time.mode ≠ 1 ∨ s.ht % 10000 ≠ 0 then s
    else
      let live := timePorts.filter fun n => s.tpEnabled n && (s.tport n).valid
      let r := combine (live.map fun n => (n, (s.tport n).ofs))
      let s := timePorts.foldl (fun s n => s.setTport n { s.tport n with excluded := r.2.contains n }) s
      match r.1, live.head? with
      | some est, some n => s.measured (s.tport n).epoch (est * 65536).floor
      | _, _ =>
        let others := timePorts.filterMap fun n => match (s.tport n).foreign with
          | some (e, o, h) => if s.tpEnabled n && decide (s.ht ≤ h + 1000000) then some (n, e, o) else none
          | none => none
        match (combine (others.map fun p => (p.1, p.2.2))).1, others.head? with
        | some est, some p => s.measured p.2.1 (est * 65536).floor
        | _, _ => s.setTime s.time.noSource)

/-- R300 TIME_REQUEST_SERVE: in reference mode with SERVE a request is answered on its port. -/
def execTimeRequestServe (port : Nat) (p : Packet) (s : State) : Res :=
  .next (
    if !s.time.serve || s.time.mode != 0 || !s.timePktOk port p || p.dst != s.stnCoord 26 ||
        nth 0 p.payload 0 != 0 then s
    else
      let q : Byte := if s.time.st = .locked ∧ s.time.uncertain = false then 0 else 1
      let now := stampBytes s.time.units
      s.sendTime port p.src p.txid
        ([1, q] ++ leBytes 2 s.time.epoch.toNat ++ (p.payload.drop 4).take 12 ++ now ++ now))

/-- R317, R425 TIME_PORT_CFG_APPLY: the registers of a time port take effect. -/
def execTimePortCfgApply (n : Nat) (s : State) : Res :=
  .next (
    let x := s.tport n
    if !s.inInterval || (x.cfg == x.cfgNow && x.src == x.srcNow) then s
    else s.setTport n { x with cfgNow := x.cfg, srcNow := x.src, history := [], valid := false, foreign := none })

/-! ## The stations' copies (R303 to R305) -/

/-- R303, R305 STATION_TIME_WORD: the word that gives the HT of the tick that begins the next
microsecond, with TIME_UNCERTAIN and the state. -/
def execStationTimeWord (station : Nat) (checkOk : Bool) (w : StnWord) (s : State) : Res :=
  .next (
    let x := s.stn station
    let y := { x with wordUncertain := w.uncertain, wordSt := w.st }
    let due : Int := (s.ht / 1000 + 1) * 1000
    if checkOk && x.resync then s.setStn station { y with dev := (w.nextHt - due) * 65536, resync := false }
    else if checkOk && decide ((w.nextHt : Int) * 65536 = due * 65536 + x.dev) then s.setStn station y
    else (s.setStn station { x with
      resync := true, badWordAt := some s.ht, mismatch := satInc 255 x.mismatch }).recStn 0x1006 none station [])

/-- R305 TICK_MISSING: a 17th consecutive missing tick makes the station's time invalid. -/
def execTickMissing (station : Nat) (s : State) : Res :=
  .next (
    let x := s.stn station
    let n := if s.ht / 8 = x.missAt / 8 + 1 then x.missTicks + 1
      else if s.ht / 8 = x.missAt / 8 ∧ 0 < x.missTicks then x.missTicks else 1
    let x := { x with missTicks := n, missAt := s.ht }
    if 17 ≤ n ∧ x.timeBad = false then
      let s := (s.setStn station { x with timeBad := true }).recStn 0x1007 none station []
      (s.partsAtStation station).foldl (fun s p => s.timeLostFor p) s
    else s.setStn station x)

/-- R305 STATION_TIME_RESTORE: ticks and valid words for 1,000 consecutive ticks. -/
def execStationTimeRestore (station : Nat) (s : State) : Res :=
  .next (
    let x := s.stn station
    if x.timeBad && !x.resync && decide (x.missAt + 8000 ≤ s.ht) && x.badWordAt.all (fun h => decide (h + 8000 ≤ s.ht)) then
      (s.setStn station { x with timeBad := false, missTicks := 0 }).recStn 0x1008 none station []
    else s)

/-- R304: a station's delay: half the round trip plus its fused trim. -/
def State.delayOf (s : State) (station roundTripPs : Nat) : Nat :=
  Nat.min 65535 ((roundTripPs / 2 : Nat) + mget 0 s.fused.delayTrim station).toNat

/-- R304 STATION_DELAY_MEASURE: at start-up of every station; then of one in each maintenance
interval, in ascending order, its value going into force by blending. -/
def execStationDelayMeasure (station roundTripPs : Nat) (s : State) : Res :=
  .next (
    let d := s.delayOf station roundTripPs
    if !s.opt.flightValid then s.updStn station fun x => { x with delay := d, delayTgt := d, delayValid := true }
    else if s.time.st != .free && inMaint s.ht && station == s.time.delayNext && s.time.delayFrame != some (frameOf s.ht) then
      (s.setTime { s.time with delayNext := (station + 1) % 31, delayFrame := some (frameOf s.ht) }).updStn station fun x => { x with delayTgt := d }
    else s)

end Sys2Proof.Machine
end

