-- ==== Sys2Proof/Machine/Power.lean ====
section
/-! DEFINITION. Power, heat and energy (R320 to R349): the governor's gear choice, tokens, sensing and
prediction, thresholds, shut-down, and parking. -/

namespace Sys2Proof.Machine

def ratMax (a b : Rat) : Rat := if a < b then b else a
def ratMin (a b : Rat) : Rat := if b < a then b else a
def ratSum (l : List Rat) : Rat := l.foldl (· + ·) 0

/-- A temperature in units of 0.25 °C, as a register or record holds it. -/
def quarter (t : Rat) : Nat := Nat.min 1023 (t * 4).floor.toNat

def allRegions : List Nat := List.range 320

/-! ## Budgets (R320, R321) -/

/-- R320, R342: the module budget of a choice. -/
def Power.moduleBudget (p : Power) : Rat :=
  if p.inputLimit then (p.budget : Rat) * 13000 / (p.inputW : Rat) else p.budget

/-- R321, R435: the budget of a die, shared among the populated dies. -/
def State.dieBudget (s : State) (d : Nat) : Rat :=
  let ds := (List.range s.dies).filter fun e => (s.die e).populated
  let total := ratSum (ds.map fun e => ((s.die e).weight : Rat))
  if !ds.contains d || total == 0 then 0
  else ratMin 470 (ratMax 0 (s.power.moduleBudget - 2134) * (s.die d).weight / total)

/-- R321: the budget of a region. -/
def State.regionBudget (s : State) (r : Nat) : Rat :=
  let total := ratSum ((dieRegions (r / 16)).map fun e => ((s.rgn e).weight : Rat))
  if total = 0 then 0 else s.dieBudget (r / 16) * (s.rgn r).weight / total

/-! ## Regions as the governor sees them -/

/-- The enabled tiles of a region. -/
def State.enabledTiles (s : State) (r : Nat) : List Tile :=
  (s.tiles.filter fun t => tileRegion t.1 == r && t.2.enabled).map (·.2)

/-- R322: the region belongs to the adaptive regime. -/
def State.isAdaptive (s : State) (r : Nat) : Bool := (s.enabledTiles r).any fun x => (s.part x.partition).adaptive

/-- R325, R328, R55: a running adaptive region: a program runs on some tile of it, and its clocks are not
shut down (log entry 22). -/
def State.runningAdaptive (s : State) (r : Nat) : Bool :=
  s.isAdaptive r && !(s.rgn r).sdLatch && (s.enabledTiles r).any fun x => x.st == .running || x.st == .waiting

/-- R323: the floor power at an operating point and temperature, linear between 30 °C and 110 °C. -/
def Power.floorAt (p : Power) (op : Nat) (t : Rat) : Rat :=
  let f := nth (0, 0) p.floors op
  f.1 + f.2 * (ratMin 110 (ratMax 30 t) - 30)

/-- R312: the point that a region draws power and tokens at: on the fallback clock 0.6 GHz. -/
def Region.point (r : Region) : Nat := if r.fallback then 3 else r.op

def State.regionFloor (s : State) (r : Nat) : Rat := s.power.floorAt (s.rgn r).point (s.rgn r).tEff

/-- R323: the energy ratio of an operating point. -/
def Power.ratio (p : Power) (op : Nat) : Rat := nth 1 p.ratios op

/-! ## The gear choice (R325 to R328) -/

/-- The dies on which a partition holds tiles. -/
def Partition.dies (x : Partition) : List Nat := x.tiles.foldl (fun l t => addSorted (tileStation t) l) []

/-- R327: e_eff. -/
def Partition.eEff (x : Partition) (g d : Nat) : Rat := (mget {} x.energy (g * 32 + d)).eff

/-- The choice in progress: what is left of each die, and the gears. -/
structure GearChoice where
  avail : SMap Rat := []
  gears : SMap Nat := []
  deriving DecidableEq, Repr

def GearChoice.left (c : GearChoice) (d : Nat) : Rat := mget 0 c.avail d
def GearChoice.take (c : GearChoice) (d : Nat) (e : Rat) : GearChoice :=
  { c with avail := minsert c.avail d (c.left d - e) }

/-- R325: the availability of a die, microjoules. -/
def State.dieAvail (s : State) (d : Nat) : Rat :=
  64 * ratSum ((dieRegions d).map fun r => s.regionBudget r * (1 - (s.rgn r).n / 3)) -
    64 * ratSum (((dieRegions d).filter s.runningAdaptive).map s.regionFloor)

/-- R325: gear 0 of a partition is taken whatever the budget. -/
def State.takeZero (s : State) (c : GearChoice) (p : Nat) : GearChoice :=
  let x := s.part p
  let c := x.dies.foldl (fun c d => c.take d (x.eEff 0 d)) c
  { c with gears := minsert c.gears p 0 }

/-- R325, R326: the highest gear that a partition may be raised to; its top gear, G − 1, is what GEARS reads. -/
def Partition.gearLimit (x : Partition) (hold : Bool) : Nat :=
  let top := if hold then Nat.min 1 x.gears else x.gears
  if x.everArmed then Nat.min top (x.gear + 1) else 0

/-- R325: raise a partition by one gear where it fits; whether it was raised. -/
def State.tryRaise (s : State) (c : GearChoice × Bool) (p : Nat) : GearChoice × Bool :=
  let x := s.part p
  let g := mget 0 c.1.gears p
  let step := fun d => x.eEff (g + 1) d - x.eEff g d
  if g + 1 ≤ x.gearLimit s.power.gearHold ∧ x.dies.all (fun d => decide (0 ≤ c.1.left d - step d)) = true then
    let c' := x.dies.foldl (fun c d => c.take d (step d)) c.1
    ({ c' with gears := minsert c'.gears p (g + 1) }, true)
  else c

/-- R325: the passes. -/
def State.raisePasses (s : State) (order : List Nat) : Nat → GearChoice → GearChoice
  | 0, c => c
  | fuel + 1, c =>
    let r := order.foldl (fun c p => s.tryRaise c p) (c, false)
    if r.2 then s.raisePasses order fuel r.1 else r.1

/-- R325: the ACTIVE scheduled partitions. -/
def State.scheduledActive (s : State) : List Nat :=
  allParts.filter fun p => (s.part p).twl == .active && !(s.part p).adaptive && (s.part p).st != .safeState

/-- R323, R328: the share of a running adaptive region, capped; with a weight of 0, its own or its die's, its floor. -/
def State.share (s : State) (d : Nat) (power : Rat) (r : Nat) : Rat :=
  let x := s.rgn r
  let total := ratSum (((dieRegions d).filter s.runningAdaptive).map fun e => ((s.rgn e).weight : Rat))
  if !s.runningAdaptive r || x.weight == 0 || (s.die d).weight == 0 || total = 0 then s.regionFloor r
  else ratMin x.cap (power * x.weight / total)

/-! ## Step counts and operating points (R331, R340, R433) -/

/-- R340: the temperature below which n falls. -/
def stepBelow : Nat → Rat
  | 0 => 0 | 1 => 97 | 2 => 10033 / 100 | _ => 10367 / 100

/-- R340: the step count at 63,000. -/
def Region.nextN (r : Region) : Nat :=
  let want := Nat.min 3 (r.x * 3).ceil.toNat
  if r.n < want then want else if r.n ≠ 0 ∧ r.frameMax < stepBelow r.n then r.n - 1 else r.n

/-- R340: the region is in THROTTLE. -/
def Region.throttled (r : Region) : Bool := decide (0 < r.n) || decide (0 < r.x)

/-- R331, R340, R343: the point for the next interval, and whether the region stays stepped down for
power. -/
def Region.choose (r : Region) (adaptive : Bool) : Region :=
  let limit := if adaptive then Nat.min 3 (r.cfgOp + r.n) else Nat.min 3 r.cfgOp
  let down := Nat.min 3 (r.op + 1)
  let want :=
    if adaptive && r.powerDown then Nat.max limit down
    else if r.op < limit then limit
    else if limit < r.op && (!r.powerStep || r.powerUp) then r.op - 1
    else r.op
  let next := if r.stepDown && r.op != 3 then Nat.max want down else want
  { r with
    opNext := next
    powerStep := (adaptive && r.powerDown) || (r.powerStep && limit < next)
    powerDown := false, powerUp := r.powerUp && !r.powerDown
    stepDown := r.stepDown && r.op == 3 }

/-- R340: entry to THROTTLE is recorded. -/
def State.putThermal (s : State) (k : Nat) (r : Region) : State :=
  let was := (s.rgn k).throttled
  if r.throttled && !was then
    (s.setRgn k { r with throttleSeen := true }).recDie 0x2002 none (k / 16)
      (leBytes 2 (quarter r.tEff) ++ [BitVec.ofNat 8 r.n])
  else s.setRgn k r

/-- R311: the record of the step that a clock fault causes (log entry 73). -/
def State.noteStepDown (s : State) (k : Nat) (r : Region) : State :=
  if r.stepDown && r.op != 3 then
    s.recDie 0x100B none (k / 16) [if bit r.evt.toNat 1 then 1 else 2]
  else s

/-- R331, R333: the judgement of a round that has ended. -/
def Region.settle (r : Region) (now : Nat) : Region :=
  match r.judged with
  | none => r
  | some (t, down, up) =>
    if t ≤ now then { r with powerDown := r.powerDown || down, powerUp := up, judged := none } else r

/-- R340, R433 step counts of every region, and operating points of the regions that run, from the REGIONS
step on. -/
def State.chooseRegion (s : State) (k : Nat) : State :=
  let r := { (s.rgn k).settle s.ht with n := (s.rgn k).nextN, frameMax := (s.rgn k).tEff }
  if r.boot ≠ .enabled ∨ r.sdLatch = true ∨ s.stepIs 7 = false then s.putThermal k r
  else (s.noteStepDown k r).putThermal k (r.choose (s.isAdaptive k))

/-- R325: the gears chosen for the next frame. -/
def State.setNextGears (s : State) (ps : List Nat) (c : GearChoice) : State :=
  ps.foldl (fun s p => s.updPart p fun x => { x with gearNext := mget 0 c.gears p }) s

/-- R325: over-commit of a die is recorded when it begins. -/
def State.noteOverCommit (s : State) (deficit : Option Nat) : State :=
  let s := match deficit with
    | some d => if s.power.overCommit then s else s.recDie 0x2006 none d [BitVec.ofNat 8 d]
    | none => s
  { s with power := { s.power with overCommit := deficit.isSome } }

/-- R328: the allotments of the regions of each die for the next frame. -/
def State.setAllotments (s : State) (ds : List Nat) (c : GearChoice) : State :=
  ds.foldl (fun s d =>
    let power := ratMax 0 (c.left d) / 64
    let s := s.setDie d { s.die d with budget := s.dieBudget d, avail := c.left d }
    (dieRegions d).foldl (fun s r => s.setRgn r { s.rgn r with allotNext := s.share d power r }) s) s

/-- R325, R328, R340 GEAR_CHOICE: at HT mod 64,000 = 63,000. -/
def execGearChoice (s : State) : Res :=
  .next (
    if s.time.st = .free ∨ framePos s.ht ≠ 63000 then s
    else
      let s := allRegions.foldl State.chooseRegion s
      let ds := List.range s.dies
      let ps := s.scheduledActive
      let c : GearChoice := { avail := ds.map fun d => (d, s.dieAvail d) }
      let c := ps.foldl s.takeZero c
      let deficit := ds.find? fun d => c.left d < 0
      let f := frameOf s.ht
      let c := s.raisePasses (((List.range 64).map fun q => (f + q) % 64).filter fun p => ps.contains p) 4 c
      ((s.setNextGears ps c).noteOverCommit deficit).setAllotments ds c)

/-- R326 GEAR_HOLD_END: 100 ms after the first entry to ACQUIRING. -/
def execGearHoldEnd (s : State) : Res :=
  .next (match s.time.firstAcq with
    | some t => if t + 100000000 ≤ s.ht then { s with power := { s.power with gearHold := false } } else s
    | none => s)

/-! ## Measured gear energies and the allotments at the boundary (R327, R328) -/

/-- R327: a partition's energy on a die in the frame: of each region, the part of its enabled tiles
that are the partition's (log entry 22). -/
def State.measuredEnergy (s : State) (p d : Nat) : Rat :=
  ratSum ((dieRegions d).map fun r =>
    let own := ((s.part p).tiles.filter fun t => tileRegion t == r).length
    let all := (s.enabledTiles r).length
    if all = 0 then 0 else (s.rgn r).frameEnergy * own / all)

/-- R327: one frame of a gear on a die. -/
def GearEnergy.frame (e : GearEnergy) (m : Rat) : GearEnergy :=
  let big := ratMax e.maxMeas m
  let run := if e.declared * (11 / 10) < m then e.overRun + 1 else 0
  let rep := e.replaced || decide (16 ≤ run)
  { e with maxMeas := big, overRun := run, replaced := rep, eff := if rep then big * (11 / 10) else e.declared }

/-- R327 GEAR_ENERGY_REPLACE: after a frame in which a partition ran a gear. -/
def State.gearFrame (s : State) (p : Nat) : State :=
  match (s.part p).live with
  | none => s
  | some g => (s.part p).dies.foldl (fun s d =>
      let k := g * 32 + d
      let old := mget {} (s.part p).energy k
      let e := old.frame (s.measuredEnergy p d)
      let s := s.updPart p fun x => { x with energy := mset {} x.energy k e }
      if e.replaced && !old.replaced then
        (s.updPart p fun x => { x with overCnt := satInc 65535 x.overCnt }).recDie 0x2007 (some p) d
          ([BitVec.ofNat 8 g, BitVec.ofNat 8 d] ++ leBytes 4 e.eff.floor.toNat)
      else s) s

/-- R327, R328: at a frame boundary the energies of the frame that ends are judged, and the
allotments of the frame that begins are in force. -/
def State.powerBoundary (s : State) : State :=
  let s := allParts.foldl State.gearFrame s
  { s with regions := s.regions.map fun r => (r.1, { r.2 with allot := r.2.allotNext, frameEnergy := 0 }) }

/-- R347: the energy committed to scheduled gears for the frame that begins. -/
def State.commitGears (s : State) : State :=
  (List.range s.dies).foldl (fun s d =>
    s.setDie d { s.die d with
      sched := ratSum (s.scheduledActive.map fun p => (s.part p).eEff (s.part p).gear d) }) s

/-! ## Tokens (R329, R331) -/

/-- R329: the grant of each cluster of a region. -/
def State.grantOf (s : State) (k : Nat) : Nat :=
  let r := s.rgn k
  if s.runningAdaptive k then
    (ratMax 0 (r.allot * (1 - r.x) * r.scale - s.regionFloor k) * 1000 / (16 * s.power.ratio r.point)).floor.toNat
  else 0

/-- R329: a region's grant, added to the balances, which are capped at 8 grants. -/
def Region.granted (r : Region) (g : Nat) (adaptive : Bool) : Region :=
  { r with
    grant := g
    balance := if adaptive then
      (List.range 16).foldl (fun m c => mset 0 m c (Nat.min (8 * g) (mget 0 r.balance c + g))) [] else [] }

/-- R329 TOKEN_GRANT: at every HT multiple of 1,000 ns. -/
def execTokenGrant (s : State) : Res :=
  .next (
    if s.time.st = .free ∨ s.ht % 1000 ≠ 0 then s
    else { s with regions := s.regions.map fun r => (r.1, r.2.granted (s.grantOf r.1) (s.isAdaptive r.1)) })

/-- R331: one comparison of a region's measured power over the last 10 µs with its allotment P(r), scaled by
1 − x(r) for the correction. A round lasts 224 µs of each 250 (R333): the spans that lie whole in it judge it. -/
def Region.correct (r : Region) (m : Rat) (now : Nat) : Region :=
  let a := r.allot
  let pos := now % 250000
  let within := decide (10000 ≤ pos) && decide (pos ≤ 220000)
  let sc := if a * (1 - r.x) * (21 / 20) < m then ratMax (1 / 2) (r.scale * a / m) else ratMin 1 (r.scale + 1 / 64)
  let above := r.roundOver && decide (sc = 1 / 2) && decide (a * (11 / 10) < m)
  let under := r.roundUnder && decide (m < a)
  if !within then { r with scale := sc, roundOver := true, roundUnder := true }
  else { r with
    scale := sc, roundOver := above, roundUnder := under
    judged := if pos = 220000 then some (now + 4000, above, under) else r.judged }

/-- R331, R349 POWER_CORRECTION: every 10 µs, with the region's power over the last 10 µs. -/
def execPowerCorrection (region : Nat) (measured : Rat) (s : State) : Res :=
  .next (
    if s.ht % 10000 ≠ 0 then s
    else
      let r := { s.rgn region with power := measured }
      s.setRgn region (if s.isAdaptive region then (r.settle s.ht).correct measured s.ht else r))

/-! ## Sensing (R333 to R338) -/

/-- A reading is outside 10 °C to 150 °C (R334). -/
def faultyReading (t : Rat) : Bool := decide (t < 10) || decide (150 < t)

/-- R488: a thermal override, in 0.25 °C. -/
def overridden (v : W32) (t : Rat) : Rat := if bit v.toNat 31 then (bits v.toNat 9 0 : Rat) / 4 else t

/-- R335, R340: T_eff, the throttle fraction and the warning after a change of temperature. -/
def State.setTemps (s : State) (k : Nat) (r : Region) : State :=
  let t := ratMax (ratMax r.tMeas r.tPred) (s.stn (k / 16)).baseTemp
  let x := ratMin 1 (ratMax 0 ((t - 100) / 10))
  let warn := if 95 ≤ t then true else if t ≤ 90 then false else r.warn
  let r' := { r with
    tEff := t, x := x, frameMax := ratMax r.frameMax t, warn := warn, warnSeen := r.warnSeen || (warn && !r.warn) }
  let s := s.putThermal k r'
  if warn && !r.warn then s.recDie 0x2001 none (k / 16) (leBytes 2 (quarter t)) else s

/-- R336, R432: the first reading after the region's clock has started seeds the predictor. -/
def Region.seed (r : Region) (t tCool : Rat) (now : Nat) : Region :=
  { r with a := 0, b := 0, cOff := t - tCool, tMeas := t, tPred := t, firstRead := some now, conservative := true }

/-- The coolant temperature (R335). -/
def State.tCool (s : State) : Rat := (s.power.coolant : Rat) / 4

/-- R333 to R336: a region's diode is read. -/
def State.diodeRead (s : State) (k : Nat) (reading : Rat) : State :=
  let r := s.rgn k
  let raw := overridden r.tstT reading
  let bad := faultyReading raw
  let t := if bad then 110 else raw
  let r' := { r with sensorBad := bad, sensorFault := r.sensorFault || bad }
  let r' := match r.firstRead, r.boot with
    | none, .off | none, .enabling => { r' with tMeas := t }
    | none, _ => r'.seed t s.tCool s.ht
    | some _, _ => { r' with
        tMeas := t
        cOff := r.cOff + (if r.conservative then 1 else s.power.diodeGain) * (t - r.tPred) }
  let s := if bad && !r.sensorBad then s.recDie 0x2005 none (k / 16) (leInt 2 (raw * 4).floor) else s
  s.setTemps k r'

/-- R333: the die's measured power from the quadrants' voltages and currents. -/
def Die.power (d : Die) : Rat :=
  ratSum ((List.range 4).map fun q => mget 0 d.rails (16 + q) * mget 0 d.rails (20 + q))

/-- R333 ADC_SAMPLE: channel c is read 8c µs into each round of 250 µs. -/
def execAdcSample (die channel : Nat) (reading : Rat) (s : State) : Res :=
  .next (
    if 28 ≤ channel ∨ s.dies ≤ die ∨ s.ht % 250000 ≠ 8000 * channel then s
    else if channel < 16 then s.diodeRead (die * 16 + channel) reading
    else if channel < 26 then
      let d := { s.die die with rails := mset 0 (s.die die).rails channel reading }
      s.setDie die (if channel = 23 then { d with meas := d.power } else d)
    else if channel = 27 then s.setDie die { s.die die with lastRails := (s.die die).rails }
    else s)

/-- The quadrant of a die that holds a region: the regions' 4 × 4 grid (R49) cut in half both ways (log
entry 74). -/
def quadrantOf (region : Nat) : Nat := region % 16 / 8 * 2 + region % 4 / 2

/-- R335: a region's power: its current at its quadrant's core rail voltage of the last round. -/
def State.gatePower (s : State) (region : Nat) (current : Rat) : Rat :=
  current * mget 0 (s.die (region / 16)).lastRails (16 + quadrantOf region)

/-- R335, R336: one microsecond of the predictor. -/
def Region.predict (r : Region) (p tCool : Rat) : Region :=
  let k : Rat := if r.conservative then 3 / 2 else 1
  let a := r.a + (r.r1 * k * p - r.a) / r.tau1
  let b := r.b + (r.r2 * k * p - r.b) / r.tau2
  { r with a := a, b := b, tPred := tCool + r.cOff + a + b }

/-- R335, R337, R340 PREDICTOR_UPDATE: at every HT multiple of 1,000 ns, with the current that the
region's gate senses. -/
def execPredictorUpdate (region : Nat) (current : Rat) (s : State) : Res :=
  .next (
    let r := s.rgn region
    if s.ht % 1000 ≠ 0 ∨ r.firstRead.isNone = true then s
    else
      let power := s.gatePower region current
      let p := if s.power.compatNow then (s.die (region / 16)).meas / 16 else power
      s.setTemps region { r.predict p s.tCool with frameEnergy := r.frameEnergy + power })

/-- R336 CONSERVATIVE_END: 10 ms after the first reading. -/
def execConservativeEnd (region : Nat) (s : State) : Res :=
  .next (
    let r := s.rgn region
    match r.firstRead with
    | some t => if t + 10000000 ≤ s.ht then s.setRgn region { r with conservative := false } else s
    | none => s)

/-- R337 COMPAT_CHANGE: at the next round. -/
def execCompatChange (s : State) : Res :=
  .next (
    if s.power.compat = s.power.compatNow ∨ s.ht % 250000 ≠ 0 then s
    else State.recStn { s with power := { s.power with compatNow := s.power.compat } } 0x2008 none 26
      [BitVec.ofNat 8 (b2n s.power.compat)])

/-- R338, R339 BASE_DIODE_READ: every 10 µs. -/
def execBaseDiodeRead (station : Nat) (reading : Rat) (s : State) : Res :=
  .next (
    if s.ht % 10000 ≠ 0 then s
    else
      let x := s.stn station
      let raw := overridden x.tstBaseT reading
      let bad := faultyReading raw
      let t := if bad then 110 else raw
      let warn := if 95 ≤ t then true else if t ≤ 90 then false else x.baseWarn
      let s := s.setStn station { x with
        baseTemp := t, baseSensorBad := bad, baseWarn := warn, fieldTemp := if bad then x.fieldTemp else raw }
      let s := if bad && !x.baseSensorBad then s.recStn 0x2005 none station (leInt 2 (raw * 4).floor) else s
      if warn && !x.baseWarn then s.recStn 0x2001 none station (leBytes 2 (quarter t)) else s)

/-! ## Shut-down (R341) and the input limit (R342) -/

/-- R341, R486: the record of a shut-down. -/
def shutData (t : Rat) (comparator : Bool) (place : Nat) : List Byte :=
  leBytes 2 (quarter t) ++ [BitVec.ofNat 8 (b2n comparator), BitVec.ofNat 8 place]

/-- R341: a region's compute clocks stop and its rail drops to retention level; its routers move to the
fallback clock. -/
def State.shutRegion (s : State) (k : Nat) (comparator : Bool) : State :=
  let r := s.rgn k
  let s := s.setRgn k { r with
    sdLatch := true, stopped := true, stepTo := none, retained := true, fallback := true, locked := false }
  let s := s.recDie 0x2003 none (k / 16) (shutData r.tMeas comparator (k % 16))
  s.trigger (s.partsInRegion k) 1

/-- R338, R341: a base field shuts down. -/
def State.shutBase (s : State) (n : Nat) (comparator : Bool) : State :=
  let x := s.stn n
  let s := (s.setStn n { x with baseSd := true }).recStn 0x2003 none n (shutData x.baseTemp comparator 0xFE)
  s.trigger (s.partsAtStation n) 2

/-- R341 THERMAL_SHUTDOWN: the comparator trips, or the diode reads 115 °C or more. -/
def execThermalShutdown (place : ThermalPlace) (comparator : Bool) (s : State) : Res :=
  .next (match place with
    | .region k =>
      if !(s.rgn k).sdLatch && (comparator || decide (115 ≤ (s.rgn k).tMeas)) then s.shutRegion k comparator else s
    | .base n =>
      if !(s.stn n).baseSd && (comparator || decide (115 ≤ (s.stn n).baseTemp)) then s.shutBase n comparator else s)

/-- R344: every enabled tile of a region is in retention. -/
def State.allRetained (s : State) (k : Nat) : Bool :=
  let xs := s.enabledTiles k
  !xs.isEmpty && xs.all fun x => x.st == .retention

/-- R341: a write of DIE_RGN_THERM.SD_CLR: below 80 °C it is accepted, and the rail of a region that was shut down
returns to full level in its turn (R343), unless it is parked. -/
def State.sdClear (s : State) (k : Nat) (v : W32) : State :=
  let r := s.rgn k
  if !bit v.toNat 31 then s
  else if r.tMeas < 80 then
    if r.sdLatch then s.setRgn k { r with sdLatch := false, rising := !s.allRetained k, n := 0, x := 0 } else s
  else s.recDie 0x2004 none (k / 16) (leBytes 2 (quarter r.tMeas))

/-- R341 SD_CLR. -/
def execSdClr (_w : Who) (region : Nat) (v : W32) (s : State) : Res := .next (s.sdClear region v)

/-- R342, R346 INPUT_LIMIT: the input power averaged over 1 ms, which PWR_INPUT shows with the voltage. -/
def execInputLimit (reading : InputReading) (s : State) : Res :=
  .next (
    let watts := reading.watts
    let p := { s.power with inputW := watts, inputV := reading.volts }
    if 13000 < watts then
      let s' := { s with power := { p with inputLimit := true, belowSince := none } }
      if p.inputLimit then s' else s'.recStn 0x2009 none 26 (leBytes 2 watts)
    else if p.inputLimit = false then { s with power := p }
    else if 12500 ≤ watts then { s with power := { p with belowSince := none } }
    else
      let since := p.belowSince.getD s.ht
      if since + 10000000 ≤ s.ht then { s with power := { p with inputLimit := false, belowSince := none } }
      else { s with power := { p with belowSince := some since } })

/-! ## Parking (R344, R348) -/

/-- R344: nothing of the partition is under way. -/
def State.parkable (s : State) (p : Nat) : Bool :=
  let x := s.part p
  x.isLoaded && x.launch.isNone && (x.tiles.all fun t => (s.tile t).descs.isEmpty) &&
    !((s.rootsOf p).any fun k => s.roundOpen (k / 4096) (k % 4096))

/-- R344: a write of 1 to PWR_PARTp_CTRL.PARK; a partition that wakes is parked again. -/
def State.parkCmd (s : State) (w : Who) (p : Nat) : State :=
  let x := s.part p
  if !s.entitled w p then s.deny w
  else if x.parkSt = 1 ∨ x.parkSt = 2 then s
  else if s.parkable p then s.updPart p fun y => { y with park := true, parkSt := 1, parkHt := s.ht }
  else s.recStn 0x200A (some p) 26 []

/-- R344: a region's rail drops when every enabled tile of it is in retention. -/
def State.retainRegion (s : State) (k : Nat) : State :=
  if s.allRetained k then
    s.updRgn k fun r => { r with retained := true, stopped := true, stepTo := none, wakeReady := none, rising := false }
  else s

/-- The regions of a partition. -/
def Partition.regions (x : Partition) : List Nat := x.tiles.foldl (fun l t => addSorted (tileRegion t) l) []

/-- R344 PARK_ENTER: in the next maintenance interval after the park was accepted, from 63,040. -/
def execParkEnter (p : Nat) (s : State) : Res :=
  .next (
    let x := s.part p
    if x.parkSt ≠ 1 ∨ s.time.st = .free ∨ framePos s.ht < 63040 ∨ s.nextInterval x.parkHt = false then s
    else
      let s := x.tiles.foldl (fun s t => s.updTile t fun y =>
        if y.st = .idle then { y with st := .retention } else y) s
      let s := x.regions.foldl State.retainRegion s
      s.updPart p fun y => { y with parkSt := 2 })

/-- R344: PARK written 0. -/
def State.unparkCmd (s : State) (w : Who) (p : Nat) : State :=
  if !s.entitled w p then s.deny w
  else s.updPart p fun y => { y with
    park := false, parkSt := if y.parkSt = 1 then 0 else if y.parkSt = 2 then 3 else y.parkSt }

/-- R344, R348, R450: a write of PWR_PARTp_CTRL; a park that is not accepted leaves AUTO_WAKE too. -/
def State.parkWrite (s : State) (w : Who) (p : Nat) (v : W32) : State :=
  if !s.entitled w p then s.deny w
  else
    let s' := s.updPart p fun x => { x with autoWake := bit v.toNat 1 }
    if !bit v.toNat 0 then (if (s.part p).park then s'.unparkCmd w p else s')
    else if (s.part p).parkSt = 1 ∨ (s.part p).parkSt = 2 then s'
    else if s.parkable p then s'.parkCmd w p
    else s.parkCmd w p

/-- R344 PARK. -/
def execPark (w : Who) (p : Nat) (v : W32) (s : State) : Res :=
  .next (if bit v.toNat 0 then s.parkWrite w p v else s)

/-- R344 UNPARK. -/
def execUnpark (w : Who) (p : Nat) (v : W32) (s : State) : Res :=
  .next (if bit v.toNat 0 then s else s.parkWrite w p v)

/-- R341, R343, R344: the retained regions of waking partitions, and those whose shut-down has been cleared, in
ascending order. -/
def State.wakingRegions (s : State) : List Nat :=
  let ps := allParts.filter fun p => (s.part p).parkSt == 3
  (ps.foldl (fun l p => (s.part p).regions.foldl (fun l r => addSorted r l) l)
    ((s.regions.filter fun r => r.2.rising).map (·.1))).filter fun r =>
    (s.rgn r).retained && !(s.rgn r).sdLatch

/-- R343, R344: an instant at which a region may return to full rail: an HT multiple of 1,000 ns, 4 µs after
the last. -/
def State.wakeDue (s : State) : Bool :=
  s.ht % 1000 == 0 && s.power.lastWake.all fun t => decide (t + 4000 ≤ s.ht)

/-- R344: where the last region of a waking partition is up, its regions wait for their restart. -/
def State.wakeAll (s : State) : State :=
  (allParts.filter fun p => (s.part p).parkSt == 3 && !(s.part p).regions.any fun r => (s.rgn r).retained).foldl
    (fun s p => (s.part p).regions.foldl (fun s r => s.updRgn r fun x =>
      if x.stopped && x.stepTo.isNone then { x with wakeReady := some (x.wakeReady.getD s.ht) } else x) s) s

/-- R341, R344 WAKE_REGION_UP: the next retained region of the waking partitions is at full rail; one whose shut-down
was cleared restarts in the first maintenance interval that begins after it. -/
def execWakeRegionUp (region : Nat) (s : State) : Res :=
  .next (
    if s.wakeDue ∧ s.wakingRegions.head? = some region then
      State.wakeAll ({ s with power := { s.power with lastWake := some s.ht } }.updRgn region
        fun r => { r with
          retained := false, rising := false, wakeReady := if r.rising then some s.ht else r.wakeReady })
    else s)

/-- R344 WAKE_RESTART: at the boundary that ends the interval the partition runs again. -/
def execWakeRestart (p : Nat) (s : State) : Res :=
  .next (
    let x := s.part p
    if x.parkSt ≠ 3 ∨ framePos s.ht ≠ 0 ∨ x.regions.any (fun r => (s.rgn r).retained || (s.rgn r).stopped) = true
    then s
    else
      let s := x.tiles.foldl (fun s t => s.updTile t fun y =>
        if y.st = .retention then { y with st := .idle } else y) s
      s.updPart p fun y => { y with parkSt := 0 })

end Sys2Proof.Machine
end

