-- ==== Sys2Proof/Machine/Links.lean ====
section
/-! DEFINITION. Bond ports, HBM3E attach and chiplet sites (R373 to R397). -/

namespace Sys2Proof.Machine

/-! ## Lanes -/

/-- The numbers of the lanes of a map. -/
def lanesOf (m : BitVec 528) : List Nat := (List.range 528).filter fun i => m.getLsbD i

def laneCount (m : BitVec 528) : Nat := (lanesOf m).length

/-- R376: the WIDTH code of a direction: 0 ×512, 1 ×256, 2 DOWN. -/
def widthCode (m : BitVec 528) : Nat :=
  if 512 ≤ laneCount m then 0 else if 256 ≤ laneCount m then 1 else 2

/-- R373, R396: spares not in use, at most 16. -/
def sparesOf (m : BitVec 528) : Nat := Nat.min 16 (laneCount m - 512)

/-- R381: the epochs of the two sides mismatch. -/
def LinkEnds.mismatch (e : LinkEnds) : Bool := e.baseSaw != some e.far || e.farSaw != some e.base

/-- R382 step 5: each side records the peer's epoch. -/
def LinkEnds.agree (e : LinkEnds) : LinkEnds := { e with baseSaw := some e.far, farSaw := some e.base }

def BondPort.fails (b : BondPort) (dir : Nat) : BitVec 528 := if dir = 0 then b.upFail else b.dnFail

/-- The code of a chiplet link in records of block 0x8; a bond port's is 0 (R395, LINK). -/
def siteLink : Byte := 1

def State.bond (s : State) (r : Nat) : BondPort := (s.rgn r).bond
def State.setBond (s : State) (r : Nat) (b : BondPort) : State := s.updRgn r fun x => { x with bond := b }

/-- R375: a lane declared failed after 63,700 of a frame stays in the map until the next interval. -/
def BondPort.late (b : BondPort) (frame dir : Nat) (m : BitVec 528) : BondPort :=
  let b := if b.lateFrame = some frame then b else { b with lateFrame := some frame, upLate := 0, dnLate := 0 }
  if dir = 0 then { b with upLate := b.upLate ||| m } else { b with dnLate := b.dnLate ||| m }

/-- R375: the lanes that leave the map of a direction in the interval of a frame. -/
def BondPort.leaving (b : BondPort) (frame dir : Nat) : BitVec 528 :=
  let late := if b.lateFrame = some frame then (if dir = 0 then b.upLate else b.dnLate) else 0
  b.fails dir &&& ~~~late

/-- R374: a lane is declared failed, once. -/
def State.declareLane (s : State) (r dir lane : Nat) : State :=
  let b := s.bond r
  if 528 ≤ lane ∨ 2 ≤ dir ∨ (b.fails dir).getLsbD lane then s
  else
    let m : BitVec 528 := BitVec.ofNat 528 (2 ^ lane)
    let b := { b with laneFails := satInc 65535 b.laneFails }
    let b := if dir = 0 then { b with upFail := b.upFail ||| m } else { b with dnFail := b.dnFail ||| m }
    (s.setBond r (if s.time.st != .free && decide (63700 < framePos s.ht) then b.late (frameOf s.ht) dir m else b)).recStn 0x8001 none (regionStation r) ([0, BitVec.ofNat 8 dir] ++ leBytes 2 lane)

/-- R374 LANE_CHECK: one check in each maintenance interval; a lane with errors in two consecutive lane
checks is declared failed. -/
def execLaneCheck (region : Nat) (upErr dnErr : BitVec 528) (s : State) : Res :=
  .next (
    let b := s.bond region
    if s.time.st = .free ∨ framePos s.ht < 63100 ∨ 63700 < framePos s.ht ∨
        b.checkFrame = some (frameOf s.ht) then s
    else
      let s := s.setBond region { b with upErr := upErr, dnErr := dnErr, checkFrame := some (frameOf s.ht) }
      let s := (lanesOf (upErr &&& b.upErr)).foldl (fun s l => s.declareLane region 0 l) s
      (lanesOf (dnErr &&& b.dnErr)).foldl (fun s l => s.declareLane region 1 l) s)

/-- R374 LANE_FAIL: bit lock lost, or 16 errors within 1 ms on idle flits. -/
def execLaneFail (region dir lane : Nat) (s : State) : Res :=
  .next (s.declareLane region dir lane)

/-! ## Widths and maps (R375, R376, R381, R382) -/

/-- R376: new maps and their widths; a changed width is recorded. A port with both directions DOWN
is DOWN. -/
def State.putMaps (s : State) (r : Nat) (up dn : BitVec 528) : State :=
  let b := s.bond r
  let b' := { b with
    upMap := up, dnMap := dn, widthUp := widthCode up, widthDn := widthCode dn, mismatches := 0, retryAt := none
    st := if widthCode up = 2 ∧ widthCode dn = 2 then 0 else 2 }
  let s := s.setBond r b'
  let s := if b'.widthUp = b.widthUp then s
    else s.recStn 0x8002 none (regionStation r) [0, BitVec.ofNat 8 b'.widthUp]
  if b'.widthDn = b.widthDn then s
  else s.recStn 0x8002 none (regionStation r) [1, BitVec.ofNat 8 b'.widthDn]

/-- R382: a hash mismatch of a bond port: the sides probe again, and the third puts the link DOWN
until 1 ms later. -/
def State.bondMismatch (s : State) (r : Nat) : State :=
  let b := s.bond r
  if b.mismatches < 2 then s.setBond r { b with st := 1, mismatches := b.mismatches + 1 }
  else (s.setBond r { b with st := 0, mismatches := 0, retryAt := some (s.boot.osc + 1000000) }).recStn 0x8004
    none (regionStation r) [0]

/-- R382 step 4: the first 8 bytes of SHA3-256 over both epochs and both agreed maps; the rule gives no order or
layout of them (DESIGN CHOICE, log entry 87). -/
def linkHash (near far : BitVec 16) (up dn : BitVec 528) : BitVec 64 :=
  BitVec.ofNat 64 ((Config.sha3 (leBytes 2 near.toNat ++ leBytes 2 far.toNat ++ leBytes 66 up.toNat ++ leBytes 66 dn.toNat)).toNat
    % 2 ^ 64)

/-- R382: the hash that the base's side of a bond port forms. -/
def State.bondHash (s : State) (r : Nat) (up dn : BitVec 528) : BitVec 64 :=
  let e := (s.bond r).ends
  linkHash (s.links.resets + e.base) (s.links.resets + e.far) up dn

/-- R375, R376, R425 BP_MAP_CHANGE: in the interval, or at once where no frames exist, the lanes declared failed
leave the maps of an UP port, whose new width applies from 63,900; `hash` is what the other side sends. -/
def execBpMapChange (region : Nat) (hash : BitVec 64) (s : State) : Res :=
  .next (
    let b := s.bond region
    let up := b.upMap &&& ~~~b.leaving (frameOf s.ht) 0
    let dn := b.dnMap &&& ~~~b.leaving (frameOf s.ht) 1
    let early : Bool := s.time.st != .free && decide (framePos s.ht < 63900)
    if b.st ≠ 2 ∨ early = true ∨ (up = b.upMap ∧ dn = b.dnMap) then s
    else if hash = s.bondHash region up dn then s.putMaps region up dn
    else (s.bondMismatch region).updRgn region fun x =>
      { x with bond := { x.bond with trainings := satInc 65535 x.bond.trainings } })

/-- R381, R382: one training of a bond port from its probe: the lanes both ends mark good, less those
that have failed; without an epoch mismatch no lane that the old map has not. -/
def State.trainBond (s : State) (r : Nat) (t : TrainResult) : State :=
  let b := s.bond r
  if b.st = 2 ∨ b.retryAt.isSome ∨ ((s.rgn r).boot ≠ .clocked ∧ (s.rgn r).boot ≠ .enabled) then s
  else
    let b := if b.st = 1 then b else { b with st := 1, trainings := satInc 65535 b.trainings }
    let s := s.setBond r b
    let keep := fun (old new : BitVec 528) => if b.ends.mismatch then new else old &&& new
    let up := keep b.upMap (t.upTx &&& t.upRx &&& ~~~b.upFail)
    let dn := keep b.dnMap (t.dnTx &&& t.dnRx &&& ~~~b.dnFail)
    if t.hash ≠ s.bondHash r up dn then s.bondMismatch r
    else (s.setBond r { b with ends := b.ends.agree }).putMaps r up dn

/-- R381, R383: the region's side of a bond port resets in a reconfiguration: its epoch rises, and a port that is UP
or in training trains from a new probe. -/
def BondPort.farReset (b : BondPort) : BondPort :=
  let b := { b with ends := { b.ends with far := b.ends.far + 1 } }
  if b.st = 0 then b else { b with st := 1, mismatches := 0, trainings := satInc 65535 b.trainings }

/-! ## Chiplet sites (R388 to R394) -/

/-- R388, R397: the WIDTH code of a UCIe module by its 68 lanes in both directions. -/
def ucieWidth (up dn : BitVec 528) (m : Nat) : Nat :=
  let n := fun (x : BitVec 528) => ((List.range 68).filter fun i => x.getLsbD (68 * m + i)).length
  let k := Nat.min (n up) (n dn)
  if 64 ≤ k then 0 else if 32 ≤ k then 1 else 2

def siteWidth (up dn : BitVec 528) : Nat :=
  ((List.range 4).map fun m => ucieWidth up dn m * 4 ^ m).foldl (· + ·) 0

/-- R391, R435: the site refuses its chiplet. -/
def State.refuseChiplet (s : State) (n cause : Nat) : State :=
  let x := s.site n
  let s := (s.setSite n { x with st := 4, cause := cause, refusals := satInc 65535 x.refusals }).recStn 0x8005 none n
    [BitVec.ofNat 8 cause]
  if s.booting then s.bootOutcome 2 n 6 else s

/-- R388, R395: the lanes that a site has: 68 in each of four modules. -/
def siteLanes : BitVec 528 := BitVec.ofNat 528 (2 ^ 272 - 1)

/-- R381, R383: the training that a site begins or goes on with: a chiplet whose epoch has changed since the
training's first exchange has reset in it, which ends it and begins a new one. -/
def Site.trains (x : Site) (peerEpoch : BitVec 16) : Site :=
  if x.st = 1 ∧ ¬ (0 < x.mismatches ∧ x.ends.far ≠ peerEpoch) then x
  else { x with st := 1, mismatches := 0, trainings := satInc 65535 x.trainings }

/-- R382, R383, R388: one training of a chiplet link, which without an epoch mismatch gains no lane; its
declaration follows. -/
def State.trainSite (s : State) (n : Nat) (t : TrainResult) : State :=
  let x := s.site n
  if n < 27 ∨ 30 < n ∨ x.st = 2 ∨ x.st = 3 ∨ x.retryAt.isSome then s
  else
    let x := x.trains t.peerEpoch
    let x := { x with ends := { x.ends with far := t.peerEpoch, farSaw := t.peerSaw } }
    let keep := fun (old new : BitVec 528) => siteLanes &&& if x.ends.mismatch then new else old &&& new
    let up := keep x.upMap (t.upTx &&& t.upRx)
    let dn := keep x.dnMap (t.dnTx &&& t.dnRx)
    if t.hash = linkHash x.ends.base x.ends.far up dn then
      s.setSite n { x with
        st := 2, cause := 0, mismatches := 0, ends := x.ends.agree, upMap := up, dnMap := dn
        width := siteWidth up dn }
    else if x.mismatches < 2 then s.setSite n { x with mismatches := x.mismatches + 1 }
    else ((s.setSite n { x with mismatches := 0, retryAt := some (s.boot.osc + 1000000) }).recStn 0x8004 none n
      [siteLink]).refuseChiplet n 5

/-- R382 LINK_TRAINING. -/
def execLinkTraining (l : Link) (r : TrainResult) (s : State) : Res :=
  .next (match l with
    | .bondPort k => s.trainBond k r
    | .site n => s.trainSite n r)

/-- R382, R394 TRAINING_RETRY: the wait of a link that is DOWN is over. -/
def execTrainingRetry (l : Link) (s : State) : Res :=
  .next (match l with
    | .bondPort k =>
      let b := s.bond k
      if b.retryAt.any (· ≤ s.boot.osc) then
        s.setBond k { b with st := 1, retryAt := none, trainings := satInc 65535 b.trainings }
      else s
    | .site n =>
      let x := s.site n
      if x.retryAt.any (· ≤ s.boot.osc) then
        s.setSite n { x with st := 1, cause := 0, retryAt := none, trainings := satInc 65535 x.trainings }
      else s)

/-- A byte field of a declaration (R390). -/
def declField (d : BitVec 512) (i n : Nat) : Nat := d.toNat / 256 ^ i % 256 ^ n

/-- R390, R391 cause 4: a field out of range, or a reserved field that is not 0. -/
def declBad (d : BitVec 512) : Bool :=
  decide (2 < declField d 7 1) ||
  ((List.range 64).any fun k => bit (declField d 8 8) k && !kindListed k) ||
  decide (declField d 16 2 = 0) || decide (4096 < declField d 16 2) ||
  decide (declField d 18 2 = 0) ||
  decide (4 ≤ declField d 22 1) ||
  decide (declField d 23 1 < 12) || decide (56 < declField d 23 1) ||
  decide (declField d 24 8 ≠ 0)

/-- R391: the cause of a refusal, 0 for admission; of several the one of the lowest number. -/
def State.declCause (s : State) (n : Nat) (d : BitVec 512) : Nat :=
  let x := s.site n
  if declField d 0 2 ≠ 1 then 1
  else if x.expected ∧ (declField d 2 2 ≠ x.expVendor ∨ declField d 4 2 ≠ x.expDevice) then 2
  else if declField d 6 1 ≠ n then 3
  else if declBad d then 4
  else if !x.expected then 6
  else 0

/-- R391, R425: PRESENT of a site changes at the next maintenance interval; before time exists at once. -/
def State.setPresentNext (s : State) (n : Nat) (b : Bool) : State :=
  let s := s.setSite n { s.site n with presentNext := some b }
  if s.time.st = .free then s.presentSites else s

/-- R463: a measurement has changed. -/
def State.measured_ (s : State) (index : Nat) : State := s.recStn 0xB001 none 26 [BitVec.ofNat 8 index]

/-- R390, R463: the measurement of a site with this declaration becomes, or was, its IDENTITY. -/
def State.measuredSite (s : State) (n : Nat) (decl : BitVec 512) : State :=
  if decl.toNat / 2 ^ 256 = 0 then s else s.measured_ (n + 42)

/-- R390, R391 CHIPLET_DECLARATION. -/
def execChipletDeclaration (station : Nat) (decl : BitVec 512) (s : State) : Res :=
  .next (
    let x := s.site station
    if x.st ≠ 2 then s
    else
      let s := s.setSite station { x with decl := decl }
      let c := s.declCause station decl
      if c ≠ 0 then s.refuseChiplet station c
      else
        let s := s.setSite station { s.site station with st := 3, cause := 0, inFlight := 0 }
        let s := s.recStn 0x8007 none station (leBytes 2 (declField decl 2 2) ++ leBytes 2 (declField decl 4 2))
        (s.measuredSite station decl).setPresentNext station true)

/-- R393 CHIPLET_TIME_WORD: the station's time word to a chiplet of TIME level 1 or 2. -/
def execChipletTimeWord (station : Nat) (s : State) : Res :=
  .next (
    let x := s.site station
    if x.st = 3 ∧ 1 ≤ declField x.decl 7 1 ∧ s.stnHt station % 1000 = 0 then
      s.emit (.chipletTime station
        ⟨s.stnHt station, (s.stn station).wordUncertain, (s.stn station).wordSt⟩)
    else s)

/-- R394 SITE_LINK_DOWN. -/
def execSiteLinkDown (station : Nat) (s : State) : Res :=
  .next (
    let x := s.site station
    if x.st = 0 ∨ x.st = 5 ∨ station < 27 ∨ 30 < station then s
    else
      let s := s.setSite station { x with st := 5, cause := 0, retryAt := some (s.boot.osc + 10000000) }
      (if x.st = 3 then s.measuredSite station x.decl else s).setPresentNext station false)

/-! ## HBM3E (R385 to R387) -/

/-- R385, R386 HBM_RETRAIN: the next channel in turn, one in an interval; a lane beyond its thresholds is remapped while
the channel has a redundant lane. -/
def execHbmRetrain (channel : Nat) (badLane : Bool) (s : State) : Res :=
  .next (
    if s.time.st = .free ∨ framePos s.ht < 63100 ∨ 63700 < framePos s.ht ∨ channel ≠ s.links.retrainNext ∨
        s.links.retrainFrame = some (frameOf s.ht) then s
    else
      let s := { s with links := { s.links with
        retrainNext := (channel + 1) % 192, retrainFrame := some (frameOf s.ht) } }
      let c := s.chan channel
      if badLane ∧ c.repaired < Config.redundantLanes channel then
        let k := channel / 16
        let s := s.setChan channel { c with repaired := c.repaired + 1 }
        let s := s.setStack k { s.stack k with repairs := satInc 255 (s.stack k).repairs }
        s.recStn 0x8006 none (20 + k / 2) [BitVec.ofNat 8 k, BitVec.ofNat 8 channel]
      else s)

/-- R384, R387 HBM_TEMP_READ. -/
def execHbmTempRead (stack temp : Nat) (s : State) : Res :=
  .next (
    let s := s.setStack stack { s.stack stack with temp := temp, refresh2x := decide (85 < temp) }
    if 95 ≤ temp then s.recStn 0x200B none (20 + stack / 2) [BitVec.ofNat 8 stack, BitVec.ofNat 8 temp] else s)

/-- R387, R469 HBM_CATTRIP: the shut-down of the stack's memory station, trigger 3. -/
def execHbmCattrip (stack : Nat) (s : State) : Res :=
  .next (
    let x := s.stack stack
    if x.cattrip then s
    else
      let n := 20 + stack / 2
      let s := (s.setStack stack { x with cattrip := true }).updStn n fun y => { y with baseSd := true }
      let s := s.recStn 0x2003 none n (leBytes 2 (4 * x.temp) ++ [2, BitVec.ofNat 8 stack])
      s.trigger (allParts.filter fun p => s.partsWithHbm.contains p || (s.partsAtStation n).contains p) 3)

/-! ## Counters -/

/-- R395: a write of DLK_CMD.CNT_CLR. -/
def State.dlkClear (s : State) (v : W32) : State :=
  if !bit v.toNat 0 then s
  else
    { s with
      regions := s.regions.map fun r => (r.1, { r.2 with bond := { r.2.bond with trainings := 0, laneFails := 0 } })
      links := { s.links with sites := s.links.sites.map fun x => (x.1, { x.2 with trainings := 0, refusals := 0 }) } }

/-- R395 DLK_CNT_CLR. -/
def execDlkCntClr (_w : Who) (v : W32) (s : State) : Res := .next (s.dlkClear v)

end Sys2Proof.Machine
end

