-- ==== Sys2Proof/Machine/Clocks.lean ====
section
/-! DEFINITION. The region clocks (R306 to R312, R319): steps in the maintenance interval, failed
steps, restarts, monitors and the fallback clock. -/

namespace Sys2Proof.Machine

/-- The region's clock can be stepped: enabled, at full rail, not shut down. -/
def Region.steppable (r : Region) : Bool :=
  r.boot == .enabled && !r.stopped && !r.retained && !r.sdLatch

/-- R344: a region that waits for its restart after a wake, and was up before the interval began. -/
def Region.wakesNow (r : Region) (ht : Nat) : Bool :=
  r.stopped && !r.retained && !r.sdLatch && r.wakeReady.any fun t => decide (t + 40 ≤ ht)

/-- R308, R311, R312, R344: a region at 63,040: it steps where its point changes or it runs on the fallback
clock; a clock fault at 0.6 GHz puts it on the fallback clock. From here to the restart LOCKED reads 0 (R319): R308
fixes no instant of the lock (DESIGN CHOICE, log entry 85). -/
def Region.beginStep (r : Region) (frame : Nat) : Region :=
  if r.wakesNow (64000 * frame + 63040) then
    { r with locked := false, stepTo := some r.op, stepFrame := some frame, wakeReady := none }
  else if !r.steppable then r
  else if r.stepDown && r.op == 3 then { r with stepDown := false, fallback := true, locked := false }
  else if r.opNext != r.op || r.fallback then
    { r with stopped := true, locked := false, stepTo := some r.opNext, stepFrame := some frame }
  else r

/-- R308 CLOCK_STEP_STOP: at HT mod 64,000 = 63,040. -/
def execClockStepStop (s : State) : Res :=
  .next (
    if s.time.st = .free ∨ framePos s.ht ≠ 63040 then s
    else allRegions.foldl (fun s k =>
      let r := s.rgn k
      let r' := r.beginStep (frameOf s.ht)
      let s := s.setRgn k r'
      if r'.fallback && !r.fallback then s.recDie 0x100C none (k / 16) [] else s) s)

/-- R309 CLOCK_STEP_FAIL: a PLL not locked by 63,640 returns to its previous point; `backLocked`: it
locks there. -/
def execClockStepFail (region : Nat) (backLocked : Bool) (s : State) : Res :=
  .next (
    let r := s.rgn region
    if !r.stopped || r.stepTo.isNone || framePos s.ht < 63640 then s
    else
      (s.setRgn region { r with
        stepTo := some r.op, stepFailed := !backLocked, locked := backLocked, evt := r.evt ||| 0b100000 }).recDie 0x1009 none (region / 16)
        [BitVec.ofNat 8 r.op, BitVec.ofNat 8 (b2n !backLocked)])

/-- R308, R309, R312 CLOCK_RESTART: at 63,680 + 10 r the clock restarts and its crossings are
released (R310). -/
def execClockRestart (region : Nat) (s : State) : Res :=
  .next (
    let r := s.rgn region
    match r.stepTo with
    | none => s
    | some op =>
      if s.time.st = .free ∨ framePos s.ht < 63680 + 10 * (region % 16) ∨ r.retained = true ∨ r.sdLatch = true
      then s
      else
        let s' := s.setRgn region { r with
          op := op, stopped := false, stepTo := none, stepFailed := false
          locked := !r.stepFailed, fallback := r.stepFailed }
        if r.stepFailed then s'.recDie 0x100C none (region / 16) [] else s')

/-- The deviation of a duty from 50 %, in 0.25 % units. -/
def dutyOff (d : Nat) : Nat := if d < 200 then 200 - d else d - 200

/-- R311: a fault fires at the 16th consecutive window. -/
def monitorRun (bad : Bool) (run : Nat) : Nat × Bool :=
  if bad then (if 15 ≤ run then (0, true) else (run + 1, false)) else (0, false)

/-- R311: a station's tick receiver: its period is off by more than 20 ps, or its duty by more than 5 %. -/
def State.tickWindow (s : State) (station ps dutyMin dutyMax : Nat) : State :=
  let b := fun n => BitVec.ofNat 8 (Nat.min 255 n)
  if 20 < ps ∨ 20 < Nat.max (dutyOff dutyMin) (dutyOff dutyMax) then
    s.recStn 0x100A none station [b ps, b dutyMin, b dutyMax]
  else s

/-- R311: a region's clock: jitter and duty of one window. -/
def State.regionWindow (s : State) (region jitterPs dutyMin dutyMax : Nat) : State :=
    let r := s.rgn region
    if r.boot ≠ .enabled ∨ r.stopped = true then s
    else
      let t := s.time
      let off := Nat.max (dutyOff dutyMin) (dutyOff dutyMax)
      let warn := decide (t.jitWarn < jitterPs) || decide (t.dutyWarn < off)
      let j := monitorRun (decide (t.jitFault < jitterPs)) r.jitRun
      let d := monitorRun (decide (t.dutyFault < off)) r.dutyRun
      let set : BitVec 6 := BitVec.ofNat 6 (b2n warn + 2 * b2n j.2 + 4 * b2n d.2)
      let s := s.setRgn region { r with
        jitPP := Nat.min 255 jitterPs, dutyMin := Nat.min 255 dutyMin, dutyMax := Nat.min 255 dutyMax
        evt := r.evt ||| set, jitRun := j.1, dutyRun := d.1, stepDown := r.stepDown || j.2 || d.2 }
      let b := fun n => BitVec.ofNat 8 (Nat.min 255 n)
      let s := if warn then s.recDie 0x100A none (region / 16) [b jitterPs, b dutyMin, b dutyMax] else s
      let s := if j.2 then s.recDie 0x100B none (region / 16) [1] else s
      if d.2 then s.recDie 0x100B none (region / 16) [2] else s

/-- R311 CLOCK_MONITOR_WINDOW: one window of 1,000 ns. -/
def execClockMonitorWindow (place : ClockPlace) (ps dutyMin dutyMax : Nat) (s : State) : Res :=
  .next (
    if s.ht % 1000 ≠ 0 then s
    else match place with
      | .region k => s.regionWindow k ps dutyMin dutyMax
      | .tick n => s.tickWindow n ps dutyMin dutyMax)

/-- R311, R312 FALLBACK_SWITCH: on a suppressed edge, or on loss of lock. -/
def execFallbackSwitch (region : Nat) (shortPeriod : Bool) (s : State) : Res :=
  .next (
    let r := s.rgn region
    if r.boot ≠ .enabled ∨ r.stopped = true ∨ r.fallback = true then s
    else
      let s := s.setRgn region { r with
        fallback := true, locked := false, evt := r.evt ||| (if shortPeriod then 0b010000 else 0b001000) }
      (s.recDie 0x100B none (region / 16) [if shortPeriod then 4 else 3]).recDie 0x100C none (region / 16) [])

end Sys2Proof.Machine
end

