-- ==== Sys2Proof/Machine/Optics.lean ====
section
/-! DEFINITION. Optical control (R350 to R372): heater and pilot loops, sweeps, deep calibration,
laser fade and spares. Automatic power reduction (R369) is in Fabric.lean. -/

namespace Sys2Proof.Machine

/-! ## Heaters and pilot loops (R351 to R354) -/

/-- The nearest integer, ties to even. -/
def roundEven (q : Rat) : Int :=
  let f := q.floor
  let d := q - f
  if d < 1 / 2 then f else if 1 / 2 < d then f + 1 else if f % 2 = 0 then f else f + 1

def keepIn (lo hi v : Int) : Int := if v < lo then lo else if hi < v then hi else v

/-- R352: the feed-forward code of a ring at a field temperature. -/
def Ring.feedForward (r : Ring) (t : Rat) : Int :=
  let i := (keepIn 0 6 ((t - 30) / 10).floor).toNat
  let a : Rat := nth 0 r.table i
  let b : Rat := nth 0 r.table (i + 1)
  roundEven (a + (b - a) * (t - (30 + 10 * i)) / 10)

/-- R351: the heater code of the next 10 µs. -/
def Ring.heat (r : Ring) (t : Rat) : Ring :=
  let want := keepIn 0 16383 (r.feedForward t + r.off + r.pt)
  let lim : Int := 4000 / r.eta
  { r with heater := ((r.heater : Int) + keepIn (-lim) lim (want - r.heater)).toNat }

/-- R354: the pilot trim after an update, by the ring's error from its line in MHz (above the line:
positive), and R356 the instants since which it stands at its limit and its code is out of range. -/
def Ring.pilot (r : Ring) (err : Int) (t : Rat) (now : Nat) (paused : Bool) : Ring :=
  let pt := if paused then r.pt
    else if 250 < err then keepIn (-512) 511 (r.pt + 1)
    else if err < -250 then keepIn (-512) 511 (r.pt - 1) else r.pt
  let limit := pt == -512 || pt == 511
  let need := r.feedForward t + r.off + pt
  let outside := decide (need < 0) || decide (16383 < need)
  { r with
    pt := pt, pilotLimit := limit
    limitSince := if limit then some (r.limitSince.getD now) else none
    rangeSince := if outside then some (r.rangeSince.getD now) else none }

/-- R427: a ring of a field that is powered up: its heater takes the feed-forward code of its factory table. -/
def Ring.firstHeat (r : Ring) (t : Rat) : Ring :=
  { r with heater := (keepIn 0 16383 (r.feedForward t)).toNat, off := 0, offTgt := 0, pt := 0 }

/-- The rings of a station. -/
def stationRings (n : Nat) : List Nat := (List.range 1088).map (n * 1088 + ·)

/-- R427: every ring heater of a powered field takes its feed-forward code. -/
def State.heatField (s : State) (f : Nat) : State :=
  let m := s.opt.rings
  let heated := (stationRings f).filterMap fun k =>
    let r := (mget {} m k).firstHeat (s.stn f).fieldTemp
    if r = {} then none else some (k, r)
  { s with opt := { s.opt with
    rings := (m.filter fun e => e.1 < f * 1088) ++ heated ++ m.filter fun e => f * 1088 + 1088 ≤ e.1 } }

/-- R357: the channel of a ring. -/
def ringChannel (key : Nat) : Nat := key / 17

/-- R354, R358: the pilot loops of a channel pause while it is swept, and in deep calibration. -/
def State.pilotPaused (s : State) (key : Nat) : Bool :=
  s.opt.deep != .idle && s.opt.deep != .requested ||
    (s.recalNow && ringChannel key == s.opt.recalNext && s.time.st != .free &&
      decide (63100 ≤ framePos s.ht) && decide (framePos s.ht < 63800))

/-- R351, R427: the count whose multiples of 10,000 ns the loops follow. -/
def State.loopCount (s : State) : Nat := if s.time.st = .free then s.boot.osc else s.ht

/-- R351, R354 HEATER_UPDATE: every 10 µs the heaters of a station, then its pilot trims; `errs`
lists the rings with an error. -/
def execHeaterUpdate (station : Nat) (errs : List (Nat × Int)) (s : State) : Res :=
  .next (
    if s.loopCount % 10000 ≠ 0 then s
    else
      let t := (s.stn station).fieldTemp
      (stationRings station).foldl (fun s k =>
        let e := mget 0 errs k
        s.setRing k (((s.ring k).heat t).pilot e t s.boot.osc (s.pilotPaused k))) s)

/-- R355 SPLITTER_CHECK: a difference above 1.0 dB for 10 ms is recorded once; `diff` in 0.01 dB. -/
def execSplitterCheck (station k : Nat) (diff : Int) (s : State) : Res :=
  .next (
    let key := station * 32 + k
    let put := fun (s : State) v => { s with opt := { s.opt with splitSince := mset 0 s.opt.splitSince key v } }
    let told := 2 ^ 80
    if diff.natAbs ≤ 100 then put s 0
    else
      let since := mget 0 s.opt.splitSince key
      if since = 0 then put s (s.boot.osc + 1)
      else if since ≠ told ∧ since + 10000000 ≤ s.boot.osc + 1 then
        (put s told).recStn 0x3005 none station ([BitVec.ofNat 8 k] ++ leInt 2 diff)
      else s)

/-- R356: a ring meets a cause of failure. -/
def State.ringCause (s : State) (r : Ring) (cause : Nat) : Bool :=
  let held := fun (o : Option Nat) => o.any fun t => decide (t + 10000000 ≤ s.boot.osc)
  if cause = 1 then held r.limitSince
  else if cause = 2 then held r.rangeSince
  else 3 ≤ cause && cause ≤ 5 && r.fault == cause

/-- R356, R435 RING_FAIL. -/
def execRingFail (ring cause : Nat) (s : State) : Res :=
  .next (
    let r := s.ring ring
    if 33728 ≤ ring ∨ r.failed = true ∨ s.ringCause r cause = false then s
    else
      let s := s.setRing ring { r with failed := true, failedAt := s.ht }
      let s := { s with opt := { s.opt with pendingSub := s.opt.pendingSub ++ [ring] } }
      let s := s.recStn 0x3004 none (ring / 1088)
        [BitVec.ofNat 8 (ring / 544 % 2), BitVec.ofNat 8 (ring / 17 % 32), BitVec.ofNat 8 (ring % 17),
          BitVec.ofNat 8 cause]
      if s.booting && cause == 3 then s.bootOutcome 8 ring 11 else s)

/-! ## Sweeps (R357 to R361) -/

/-- R370: a coefficient of a KIND is held. -/
def Ring.held (r : Ring) (kind : Nat) : Bool := bit r.hold.toNat kind

/-- R359: the code that gives an extinction ratio of 6.0 dB, from the measured ratio and the driver's slope. -/
def Ring.swingFor (r : Ring) (ratio : Nat) : Nat :=
  (keepIn 0 63 (r.swing + roundEven (mkRat (600 - (ratio : Int)) r.slope))).toNat

/-- R359: the code that cancels a dark level; 512 is zero offset (R350). -/
def darkCode (dark : Int) : Nat := (keepIn 0 1023 (512 + dark)).toNat

/-- R359: the code that brings an amplitude to the factory reference. -/
def Ring.gainFor (r : Ring) (amplitude : Nat) : Nat :=
  if amplitude = 0 then 255 else (keepIn 0 255 (roundEven (mkRat (r.gain * r.ampRef) amplitude))).toNat

/-- R356: a condition met by a sweep stands until the next one. -/
def Ring.found (r : Ring) (fault : Nat) (bad : Bool) : Ring := { r with fault := if bad then fault else 0 }

/-- R359, R356: the targets that a sweep gives a ring; a held coefficient gets none. -/
def Ring.sweep (r : Ring) (dir : Nat) (x : SweepRead) : Ring :=
  match x.dist with
  | none => { r with fault := 3 }
  | some d =>
    let o := keepIn (-4096) 4095 (r.off + r.pt + roundEven (mkRat d r.eta))
    let r := if r.held 1 then r else { r with offTgt := o }
    if dir = 0 then
      if r.held 2 then r.found 5 false
      else { r with swingTgt := r.swingFor x.ratio }.found 5 (r.swingFor x.ratio == 63 && decide (x.ratio < 550))
    else
      let g := r.gainFor x.amplitude
      let o := darkCode x.dark
      let bad := !r.held 3 && g == 255 || !r.held 4 && (o == 0 || o == 1023)
      let r := if r.held 3 then r else { r with gainTgt := g }
      (if r.held 4 then r else { r with rxOffTgt := o }).found 4 bad

/-- R361: the channel of the next sweep: channels of dark indices are skipped. -/
def State.sweepFrom (s : State) : Nat → Nat → Nat
  | 0, ch => ch
  | fuel + 1, ch => if bit s.opt.dark.toNat (ch % 32) then s.sweepFrom fuel ((ch + 1) % 1984) else ch

/-- R357: the sequence advances behind a channel; passing 1,983 completes a cycle. -/
def Optics.advance (o : Optics) (ch : Nat) : Optics :=
  let wrapped := ch < o.recalNext || ch == 1983
  { o with
    recalNext := (ch + 1) % 1984
    recalCycles := if wrapped then satInc 65535 o.recalCycles else o.recalCycles }

/-- R357 to R359, R361 CHANNEL_SWEEP: at 63,800 of a maintenance interval; `reads` of lines 0-16. -/
def execChannelSweep (reads : List SweepRead) (s : State) : Res :=
  .next (
    let o := s.opt
    let ch := s.sweepFrom 1984 o.recalNext
    if !s.recalNow || (o.deep != .idle && o.deep != .requested) || s.time.st == .free || framePos s.ht < 63800 ||
        o.sweptFrame == some (frameOf s.ht) || o.switchNow.contains (ch % 32) || o.subNow.contains ch then s
    else
      let s := (List.range 17).foldl (fun s l =>
        let r := s.ring (ch * 17 + l)
        if r.failed then s else s.setRing (ch * 17 + l) (r.sweep (ch / 32 % 2) (nth {} reads l))) s
      { s with opt := { s.opt.advance ch with sweptFrame := some (frameOf s.ht) } })

/-! ## Blending (R360, R364) -/

def towardNat (v t : Nat) : Nat := if v < t then v + 1 else if t < v then v - 1 else v
def towardInt (v t : Int) : Int := if v < t then v + 1 else if t < v then v - 1 else v

/-- R360: one step of a ring's trims; held ones stay. -/
def Ring.blend (r : Ring) : Ring :=
  { r with
    off := if r.held 1 then r.off else towardInt r.off r.offTgt
    swing := if r.held 2 then r.swing else towardNat r.swing r.swingTgt
    gain := if r.held 3 then r.gain else towardNat r.gain r.gainTgt
    rxOff := if r.held 4 then r.rxOff else towardNat r.rxOff r.rxOffTgt }

/-- R364: the bias limit. -/
def Laser.limit (x : Laser) : Nat := Nat.min 4095 (x.b0 * 6 / 5)

/-- R360, R364: one step of a laser's bias; while its fade is to be met the target rises. -/
def Laser.blend (x : Laser) : Laser :=
  if x.held then x
  else
    let t := if x.raising && decide (x.tgt < x.limit) then x.tgt + 1 else x.tgt
    { x with tgt := t, bias := towardNat x.bias t }

/-- R304, R360: one step of 2 ps of a station's delay. -/
def Station.blendDelay (x : Station) : Station :=
  { x with delay :=
      if x.delay + 2 < x.delayTgt then x.delay + 2
      else if x.delayTgt + 2 < x.delay then x.delay - 2 else x.delayTgt }

/-- R360 TRIM_BLEND: never in FREE, nor during deep calibration. -/
def State.blendTrims (s : State) : State :=
  if s.opt.deep != .idle && s.opt.deep != .requested then s
  else
    let s := { s with
      opt := { s.opt with rings := s.opt.rings.map fun r => (r.1, r.2.blend) }
      stations := s.stations.map fun n => (n.1, n.2.blendDelay) }
    allLasers.foldl (fun s l => s.setLaser l (s.laser l).blend) s

/-! ## Deep calibration (R362, R431) -/

/-- R362: a write of OPT_CMD.DEEP. -/
def State.deepCmd (s : State) (v : W32) : State :=
  if !bit v.toNat 0 then s
  else if s.loadedParts.isEmpty && s.time.st != .free then
    (if s.opt.deep = .idle then { s with opt := { s.opt with deep := .requested } } else s)
  else s.recStn 0x3008 none 26 []

/-- R362 DEEP_CAL_REQUEST. -/
def execDeepCalRequest (_w : Who) (v : W32) (s : State) : Res := .next (s.deepCmd v)

/-- R431, R473: the deep calibration of start-up, or of leaving the shared safe state, is due. -/
def State.deepDue (s : State) : Bool :=
  (s.stepIs 4 && s.stepIs 5 && !s.stepIs 8 && s.boot.mode != .failed) ||
    (s.safe.exiting && !s.safe.relit && s.indicesSettled)

/-- R362, R431 DEEP_CAL_START: at a frame boundary. -/
def execDeepCalStart (s : State) : Res :=
  .next (
    if s.time.st = .free ∨ framePos s.ht ≠ 0 then s
    else if s.opt.deep = .requested ∨ (s.opt.deep = .idle ∧ s.deepDue = true) then
      { s with
        opt := { s.opt with deep := .running s.ht, deepStartup := s.deepDue }
        fabric := { s.fabric with planeOpen := false } }
    else s)

/-- R362, R370: the refitted table; a held point stays. -/
def Ring.refit (r : Ring) (table : List Nat) : List Nat :=
  (List.range 8).map fun i => if bit r.holdTable.toNat i then nth 0 r.table i else nth 0 table i

/-- R362: the values that deep calibration gives a ring at field temperature `t`, applied without
blending; the heater stands at once where its table and offset place it. -/
def Ring.deep (r : Ring) (dir : Nat) (t : Rat) (x : DeepRead) : Ring :=
  if r.failed then r
  else if !x.found then { r with fault := 3 }
  else
    let r := { r with table := r.refit x.table, pt := 0 }
    let r := if r.held 1 then r else { r with off := 0, offTgt := 0 }
    let r := { r with heater := (keepIn 0 16383 (r.feedForward t + r.off)).toNat }
    if dir = 0 then (if r.held 2 then r else { r with swing := x.swing, swingTgt := x.swing })
    else
      let r := if r.held 3 then r else { r with gain := x.gain, gainTgt := x.gain }
      if r.held 4 then r else { r with rxOff := x.offset, rxOffTgt := x.offset }

/-- R362 DEEP_CAL_APPLY: 38 ms after its start; `rings` lists what was measured by ring. -/
def execDeepCalApply (rings : List (Nat × DeepRead)) (s : State) : Res :=
  .next (match s.opt.deep with
    | .running b =>
      if s.ht < b + 38000000 then s
      else
        let s := rings.foldl (fun s x =>
          if x.1 < 33728 then s.setRing x.1 ((s.ring x.1).deep (x.1 / 544 % 2) (s.stn (x.1 / 1088)).fieldTemp x.2) else s) s
        { s with opt := { s.opt with deep := .applied b } }
    | _ => s)

/-- R431 PACKET_PLANE_OPEN: the measured flights and delays are in force, the Mire starts and Gingham
starts anew. -/
def State.firstLight (s : State) (flights : List (Nat × Nat)) (delays : List Nat) : State :=
  let s := { s with opt := { s.opt with
    flightValid := true, flights := flights.foldl (fun m (f : Nat × Nat) => mset 0 m f.1 f.2) [] } }
  let s := dataStations.foldl (fun s n => s.updStn n fun x => { x with
    mireStart := s.ht
    delay := s.delayOf n (nth 0 delays n), delayTgt := s.delayOf n (nth 0 delays n), delayValid := true }) s
  s.gngRestart.stepDone 8

/-- R435: the rings that have failed are replaced by line 16 at the boundary that ends deep calibration. -/
def State.substituteAll (s : State) : State := s.opt.pendingSub.foldl State.substitute s

/-- R473: the hall ports that are enabled return to service. -/
def State.hallBack (s : State) : State :=
  hallPorts.foldl (fun s n =>
    let h := s.hall n
    s.setHall n { h with
      up := h.enNow && h.aligned && !h.los, listed := h.enNow && h.aligned && !h.los }) s

/-- R362, R431 DEEP_CAL_END: 40 ms after its start, at a frame boundary; at start-up with the flight
table (key 32 × source + destination) and the round trips to the stations. A calibration on command before
that of start-up leaves the plane closed (R431). -/
def execDeepCalEnd (flights : List (Nat × Nat)) (delays : List Nat) (s : State) : Res :=
  .next (match s.opt.deep with
    | .applied b =>
      if s.ht < b + 40000000 ∨ framePos s.ht ≠ 0 then s
      else
        let startup := s.opt.deepStartup && !s.safe.exiting
        let s := { s with
          opt := { s.opt with deep := .idle, deepStartup := false }
          fabric := { s.fabric with planeOpen := startup || s.opt.flightValid }
          safe := { s.safe with relit := s.safe.exiting } }
        if startup then (s.firstLight flights delays).substituteAll
        else if s.safe.exiting then s.hallBack
        else s
    | _ => s)

/-! ## Laser fade and spares (R363 to R367) -/

def spareLasers : List Nat := [32, 33, 34, 35, 36, 37, 38, 39]

/-- R365: spares warming or locked. -/
def State.warmSpares (s : State) : Nat :=
  (spareLasers.filter fun l => (s.laser l).st == .warming || (s.laser l).st == .locked).length

/-- R365: of the lasers that ask, the one that asked first, then the lowest number. -/
def State.firstAsker (s : State) : Option Nat :=
  allLasers.foldl (fun best l => match (s.laser l).asked, best with
    | none, _ => best
    | some _, none => some l
    | some t, some b => if decide (t < (s.laser b).asked.getD t) then some l else best) none

/-- R365: the spare that is assigned next. -/
def State.coldSpare (s : State) : Option Nat := spareLasers.find? fun l => (s.laser l).st == .cold

/-- R145, R364 INDEX_DARK: the index of a laser is dark at every station and the laser off. -/
def State.darkIndex (s : State) (l : Nat) : State :=
  let x := s.laser l
  let s := s.setLaser l { x with st := if x.st = .failed then .failed else .off, asked := none, lit := false }
  let s := { s with opt := { s.opt with
    dark := s.opt.dark ||| BitVec.ofNat 32 (2 ^ x.index), waiting := s.opt.waiting.filter (· != x.index) } }
  s.recStn 0x3007 none 26 [BitVec.ofNat 8 x.index]

/-- R364, R430: a laser that asks leaves its index without light. -/
def Laser.lost (x : Laser) : Bool := x.st == .failed || decide (x.fade ≤ -400)

/-- R364, R430: no spare is left: the indices of the lasers that ask and give no light are dark. -/
def State.darkenAskers (s : State) : State :=
  if s.coldSpare.isSome then s
  else allLasers.foldl (fun s l => if (s.laser l).asked.isSome && (s.laser l).lost then s.darkIndex l else s) s

/-- A laser asks for a spare (R364), which it is given by the spare's start (R365, LASER_START). -/
def State.askSpare (s : State) (l : Nat) : State :=
  let x := s.laser l
  if x.spare.isSome then s
  else (s.setLaser l { x with asked := some (x.asked.getD s.boot.osc) }).darkenAskers

/-- R365: a spare is assigned to a laser and warms. -/
def State.assignSpare (s : State) (l sp : Nat) : State :=
  let x := s.laser l
  let s := s.setLaser l { x with asked := none, spare := some sp }
  let s := s.setLaser sp { s.laser sp with st := .warming, index := x.index, since := s.boot.osc, readings := [], readAt := none }
  (s.recStn 0x300A none 26 [BitVec.ofNat 8 l, BitVec.ofNat 8 sp]).darkenAskers

/-- R365: the laser for which a spare may start: the spare is the lowest cold one and fewer than two are warm. -/
def State.askerFor (s : State) (sp : Nat) : Option Nat :=
  if s.coldSpare == some sp && decide (s.warmSpares < 2) then s.firstAsker else none

/-- R364: a spare is released and returns to COLD. -/
def State.releaseSpare (s : State) (l : Nat) : State :=
  match (s.laser l).spare with
  | none => s
  | some sp =>
    (s.setLaser l { s.laser l with spare := none, above := none }).setLaser sp
      { s.laser sp with st := .cold, index := 0, lit := false }

/-- R363: 10^(n/1000) at least: whether a power is no less than the lower bound of `n` hundredths of a dB,
(n - 1/2) / 1000, against another. -/
def dbReaches (power ref : Nat) (n : Int) : Bool :=
  let e := 2 * n - 1
  if 0 ≤ e then decide (ref ^ 2000 * 10 ^ e.toNat ≤ power ^ 2000) else decide (ref ^ 2000 ≤ power ^ 2000 * 10 ^ (-e).toNat)

/-- R363: the ratio of two powers in 0.01 dB, to the nearest, within the 16 bits of FADE. -/
def dbRatio (power ref : Nat) : Int :=
  [15, 14, 13, 12, 11, 10, 9, 8, 7, 6, 5, 4, 3, 2, 1, 0].foldl (fun (n : Int) k =>
    if dbReaches power ref (n + 2 ^ k) then n + 2 ^ k else n) (-32768)

/-- R363: a reading joins those of the last 10 ms. -/
def Laser.read (x : Laser) (power : Nat) (db : Int) (now : Nat) : Laser :=
  { x with readings := ((power, db) :: x.readings).take 10, readAt := some now }

/-- R363: the mean of the readings. -/
def Laser.meanDb (x : Laser) : Int := roundEven (mkRat (x.readings.map (·.2)).sum x.readings.length)

/-- R364, R367: a laser's flags after an update of its fade. -/
def Laser.faded (x : Laser) (fade : Int) (now : Nat) : Laser :=
  { x with
    fade := fade
    raising := if fade ≤ -50 then true else if -25 ≤ fade then false else x.raising
    above := if -100 < fade ∧ x.bias < x.limit then some (x.above.getD now) else none }

/-- R364: the state of a laser's spare. -/
def State.spareLocked (s : State) (l : Nat) : Bool := (s.laser l).spare.any fun sp => (s.laser sp).st == .locked

/-- R364: a switchover falls due, if it is not due already. -/
def Laser.due (x : Laser) (ht : Nat) : Laser := { x with switchDue := some (x.switchDue.getD ht) }

/-- R364, R367: the actions on an active laser's fade. -/
def State.fadeActions (s : State) (l : Nat) : State :=
  let x := s.laser l
  let s := if x.fade ≤ -150 ∨ x.limit ≤ x.bias then s.askSpare l else s
  let x := s.laser l
  if x.st ≠ .active ∨ x.spare.isNone = true then s
  else
    let s := if x.fade ≤ -400 then
      { s with opt := { s.opt with waiting := addOnce x.index s.opt.waiting } } else s
    if x.fade ≤ -250 then s.setLaser l (x.due s.ht)
    else if s.spareLocked l = true ∧ x.switchDue = none ∧
        x.above.any (fun t => decide (t + 1000000000 ≤ s.boot.osc)) = true then s.releaseSpare l
    else s

/-- R363: a millisecond lies between the updates of a laser's fade. -/
def Laser.readDue (x : Laser) (now : Nat) : Bool :=
  match x.readAt with
  | none => true
  | some t => decide (t + 1000000 ≤ now)

/-- R363, R364, R488 FADE_UPDATE: every 1 ms a laser's power is read at its output monitor, in µW, and its fade
is the mean of the last 10 ms of readings against P0, from which a simulated fade is subtracted. -/
def execFadeUpdate (laser : Nat) (power : Nat) (s : State) : Res :=
  .next (
    let x := s.laser laser
    if !x.lit || !x.readDue s.boot.osc then s
    else
      let y := x.read power (dbRatio power (100 * x.p0) - mget 0 s.tst.fades laser) s.boot.osc
      let s := s.setLaser laser (y.faded y.meanDb s.boot.osc)
      if x.st = .active then s.fadeActions laser else s)

/-- R430: at start-up a spare feeds its index from the instant it locks. -/
def State.beforePlane (s : State) : Bool := !s.opt.flightValid || (s.safe.exiting && !s.safe.relit)

/-- R366: the spare takes the index of the laser it stands for, which has failed. -/
def State.takeIndex (s : State) (l sp : Nat) : State :=
  let k := (s.laser l).index
  let s := s.setLaser l { s.laser l with st := .failed, spare := none, asked := none, switchDue := none, lit := false }
  s.setLaser sp { s.laser sp with st := .active, index := k, lit := true, started := true }

/-- The laser that a spare is assigned to. -/
def State.spareOwner (s : State) (sp : Nat) : Option Nat := allLasers.find? fun l => (s.laser l).spare == some sp

/-- R364, R430 SPARE_LOCK: a warming spare locks, 40 ms after its start at the earliest; a switchover that is due
comes in the first interval after the lock. -/
def execSpareLock (laser : Nat) (s : State) : Res :=
  .next (
    let x := s.laser laser
    if x.st ≠ .warming ∨ s.boot.osc < x.since + 40000000 then s
    else
      let s := s.setLaser laser { x with st := .locked, lit := true }
      match s.spareOwner laser with
      | none => s
      | some l =>
        if s.beforePlane && (s.laser l).st == .failed then
          let s := s.takeIndex l laser
          if s.indicesSettled then s.stepDone 5 else s
        else s.setLaser l { s.laser l with switchDue := (s.laser l).switchDue.map fun _ => s.ht })

/-- R366: the mean power of a laser's readings in µW; P0 before the first. -/
def Laser.power (x : Laser) : Rat :=
  if x.readings.isEmpty then 100 * (x.p0 : Int) else mkRat (x.readings.map fun r => (r.1 : Int)).sum x.readings.length

/-- R366: a gain target scaled by the ratio of the old to the new power. -/
def scaledGain (gain : Nat) (old new : Rat) : Nat :=
  if new = 0 then 255 else (keepIn 0 255 (roundEven (gain * old / new))).toNat

/-- R366: after the switchover each receiver's gain target on the waveguide follows the light. -/
def State.scaleGains (s : State) (k : Nat) (old new : Laser) : State :=
  dataStations.foldl (fun s n => (List.range 17).foldl (fun s l =>
    let key := ringKey n 1 k l
    let r := s.ring key
    if r.held 3 then s
    else s.setRing key { r with gainTgt := scaledGain r.gainTgt old.power new.power }) s) s

/-- R361, R367: index `k` is switched in this interval, and waits for no spare any more; its packet channels
return at the frame boundary. In FREE there is no interval (R425). -/
def State.noteSwitch (s : State) (k : Nat) : State :=
  let o := { s.opt with waiting := s.opt.waiting.filter (· != k) }
  if s.time.st = .free then { s with opt := o }
  else
    { s with opt := { o with
      switchNow := addOnce k o.switchNow
      returning := if k < 4 ∧ s.opt.waiting.contains k = true then addOnce k o.returning else o.returning } }

/-- R366, R367: index `k` passes from laser `l` to its spare `sp`. -/
def State.switchOver (s : State) (k l sp : Nat) : State :=
  (((s.takeIndex l sp).scaleGains k (s.laser l) (s.laser sp)).noteSwitch k).recStn 0x3006 none 26
    [BitVec.ofNat 8 l, BitVec.ofNat 8 sp, BitVec.ofNat 8 k]

/-- R366: the active laser of index `k` that is due to be switched to a locked spare. -/
def State.switchDue (s : State) (k : Nat) : Option Nat :=
  allLasers.find? fun l =>
    (s.laser l).st == .active && (s.laser l).index == k && (s.laser l).switchDue.any s.nextInterval && s.spareLocked l

/-- R366: switchovers are possible now: at 63,050, within 10 ns, at most 8 in an interval; at once in FREE (R425). -/
def State.maySwitch (s : State) : Bool := s.swapTime && decide (s.opt.switchNow.length < 8)

/-- R364, R366 LASER_SWITCHOVER: in a maintenance interval, up to 8 indices. -/
def execLaserSwitchover (k : Nat) (s : State) : Res :=
  .next (match s.switchDue k with
    | none => s
    | some l =>
      if !s.maySwitch then s
      else match (s.laser l).spare with
        | none => s
        | some sp => s.switchOver k l sp)

/-- R364: a write of OPT_CMD.SWITCH. -/
def State.switchCmd (s : State) (v : W32) : State :=
  let l := bits v.toNat 13 8
  if !bit v.toNat 1 then s
  else if l < 40 ∧ (s.laser l).st = .active ∧ s.spareLocked l = true then s.setLaser l ((s.laser l).due s.ht)
  else s.recStn 0x3009 none 26 [BitVec.ofNat 8 l]

/-- R364 SWITCH_REQUEST. -/
def execSwitchRequest (_w : Who) (v : W32) (s : State) : Res := .next (s.switchCmd v)

/-! ## The frame boundary (R143, R161, R360, R367) -/

/-- R361, R366, R367: what of the interval ends at the boundary; packet channels return. -/
def State.opticsBoundary (s : State) : State :=
  let s := s.blendTrims
  { s with opt := { s.opt with switchNow := [], subNow := [], returning := [] } }

/-- R161, R327, R328, R360 FRAME_BOUNDARY. -/
def execFrameBoundary (s : State) : Res :=
  .next (
    if s.time.st = .free ∨ framePos s.ht ≠ 0 then s
    else
      let s := s.powerBoundary
      let s := allParts.foldl (fun s p => s.updPart p Partition.boundary) s
      let s := s.commitGears.opticsBoundary
      ({ s with fabric := { s.fabric with injectStop := false, quiet := false, begun := [] } }).listPorts)

end Sys2Proof.Machine
end

