-- ==== Sys2Proof/Machine/Image.lean ====
section
/-! DEFINITION. The checks of a Bilup image: HEADER and directory (R398, R399), sections by scope (R400),
signature and key (R402, R403), STRUCTURE (R401, R258, R322), WINDOWS (R225), TWILL (R150 to R158,
R168, R171, R172), CODE (R94, R95), GOVERNOR (R151, R323, R324), TRIMS (R370), ROUTES (R51), and the
declarations of chiplets (R391). -/

namespace Sys2Proof

open Machine

/-! The results of R406. -/

namespace LR
def done : Nat := 0
def badHeader : Nat := 1
def wrongPart : Nat := 2
def keyRefused : Nat := 3
def badSignature : Nat := 4
def digest : Nat := 5
def notAllowed : Nat := 6
def sectionCheck : Nat := 7
def source : Nat := 8
def notEntitled : Nat := 9
def badRequest : Nat := 10
def safeState : Nat := 11
def abandoned : Nat := 12
end LR

/-- All elements differ. -/
def distinct {α : Type} [DecidableEq α] : List α → Bool
  | [] => true
  | a :: l => !(a ∈ l) && distinct l

/-- Each two elements satisfy `q`. -/
def pairwise {α : Type} (q : α → α → Bool) : List α → Bool
  | [] => true
  | a :: l => l.all (q a) && pairwise q l

/-! ## HEADER and directory (R398, R399) -/

/-- Two ranges do not overlap. -/
def rangesApart (a n b m : Nat) : Bool := decide (a + n ≤ b) || decide (b + m ≤ a)

def DirEntry.used (e : DirEntry) : Bool := e.type != 0

/-- R399: one directory entry. -/
def DirEntry.ok (e : DirEntry) (length : Nat) : Bool :=
  if e.used then
    decide (e.type ≤ 8) && e.rsvd == 0 && e.offset % 64 == 0 && decide (576 ≤ e.offset) &&
      decide (e.offset + e.length ≤ length) && (e.type != 8 || e.digest == 0)
  else e.rsvd == 0 && e.offset == 0 && e.length == 0 && e.digest == 0

/-- R398, R399: the image's HEADER and directory, but for PART, STEPPING and TILES. -/
def ImgHeader.ok (h : ImgHeader) : Bool :=
  h.magic == 0x50554C42 && h.format == 1 && decide (h.scope ≤ 3) && h.rsvd == 0 &&
  (if h.scope = 1 then decide (h.partition ≤ 63) else h.partition == 0) &&
  decide (4096 ≤ h.length) && decide (h.length ≤ 536870912) && decide (h.dir.length ≤ 8) &&
  h.dir.all (fun e => e.ok h.length) &&
  distinct ((h.dir.filter DirEntry.used).map (·.type)) &&
  pairwise (fun a b => rangesApart a.offset a.length b.offset b.length) (h.dir.filter DirEntry.used)

/-- R398, R406 WRONG_PART: PART, STEPPING and TILES fit the module. -/
def Machine.State.partFits (s : State) (h : ImgHeader) : Bool :=
  let own := if s.fused.m6416 then 2 else 1
  (h.part == own || (h.part == 0 && decide (2 ≤ h.scope))) && h.stepping == 0xB1 &&
  (if h.scope = 1 then decide (1 ≤ h.tiles) && decide (h.tiles ≤ s.dies * 4000) else h.tiles == 0)

def Image.has (i : Image) (t : Nat) : Bool := i.header.dir.any fun e => e.type == t

/-- R400: the sections a scope permits (1 optional, 2 required), by TYPE 1 to 8. -/
def sectionRule (scope : Nat) : List Nat :=
  match scope with
  | 0 => [2, 2, 1, 0, 0, 1, 1, 2]
  | 1 => [2, 0, 1, 1, 2, 1, 0, 2]
  | 2 => [2, 0, 0, 0, 0, 0, 0, 2]
  | _ => [0, 0, 0, 0, 2, 0, 0, 2]

/-- The TYPE of the first section that R400 does not permit, or that is required and missing. -/
def Image.badSection (i : Image) : Option Nat :=
  (List.range 8).findSome? fun n =>
    let r := nth 0 (sectionRule i.header.scope) n
    if (r = 0 ∧ i.has (n + 1) = true) ∨ (r = 2 ∧ i.has (n + 1) = false) then some (n + 1) else none

/-! ## Keys (R402, R403) -/

def Machine.State.key (s : State) (k : Nat) : KeySlot := mget {} s.cfg.keys k
def Machine.KeySlot.live (k : KeySlot) : Bool := k.enrolled && !k.revoked

/-- The KEY_OP record of a SCOPE 2 image: OP, slot, rsvd, hash. -/
def Image.keyOp (i : Image) : Option (Nat × Nat × Nat × BitVec 256) :=
  i.structure_.findSome? fun r => match r with
    | .keyOp op slot rsvd hash => some (op, slot, rsvd, hash)
    | _ => none

/-- R402, R403: the signer's key is accepted. -/
def Machine.State.keyOk (s : State) (i : Image) : Bool :=
  let slot := i.sigSlot
  let k := s.key slot
  let enrolled := decide (slot < 4) && k.live && k.hash == i.keyHash
  match i.header.scope with
  | 3 => slot == 0 && i.keyHash == Config.fwKeyHash
  | 2 => match i.keyOp with
    | some (1, _, _, hash) =>
      enrolled || ((List.range 4).all (fun n => !(s.key n).enrolled) && i.keyHash == hash)
    | some (2, target, _, _) => enrolled && slot != target
    | _ => enrolled
  | _ => enrolled

/-- R401, R403: the one KEY_OP record, and its slot's state. -/
def Machine.State.keyOpOk (s : State) (i : Image) : Bool :=
  i.structure_.length == 1 &&
  match i.keyOp with
  | some (op, slot, rsvd, hash) =>
    decide (slot < 4) && rsvd == 0 &&
    (if op = 1 then !(s.key slot).enrolled
     else op == 2 && (s.key slot).live && hash == 0 && (List.range 4).any fun n => n != slot && (s.key n).live)
  | none => false

/-! ## Parts of the module that an image names -/

/-- R2, R146: a data station with an endpoint. -/
def Machine.State.stationPresent (s : State) (n : Nat) : Bool := decide (n ≤ 30) && (s.stn n).present

/-- R2: a populated compute station with an endpoint. -/
def Machine.State.diePresent (s : State) (n : Nat) : Bool := decide (n < s.dies) && s.stationPresent n

def Image.partRec (i : Image) : Option (Nat × Nat × Nat × W64 × Nat) :=
  i.structure_.findSome? fun r => match r with
    | .partition regime flags job seed origin => some (regime, flags, job, seed, origin)
    | _ => none

/-- The JOB of a SCOPE 1 image; 0 of a SCOPE 0 image (R400). -/
def Image.job (i : Image) : Nat := match i.partRec with
  | some (_, _, job, _, _) => job
  | none => 0

def Image.adaptive (i : Image) : Bool := match i.partRec with
  | some (regime, _, _, _, _) => regime == 1
  | none => false

def Image.origin (i : Image) : Nat := match i.partRec with
  | some (_, _, _, _, o) => o
  | none => 0

/-- R401: the logical tiles of a partition image in order, as tile keys. -/
def Image.tiles (i : Image) : List Nat :=
  i.structure_.flatMap fun r => match r with
    | .tiles station region first count => (List.range count).map fun n => tileKey station region (first + n)
    | _ => []

/-- The loaded partitions other than `p`. -/
def Machine.State.others (s : State) (p : Nat) : List Nat := s.loadedParts.filter (· != p)

/-! ## STRUCTURE, SCOPE 0 (R60, R391, R401, R420) -/

/-- R60, R401: the sites of a SPARE_MAP record. -/
def Machine.State.spareMapOk (s : State) (station region : Nat) (sites : List Nat) (rsvd : Nat) : Bool :=
  decide (station < s.dies) && decide (region < 16) && rsvd == 0 && sites.length == 250 &&
    sites.all (fun x => decide (x < 256) && !((s.rgn (station * 16 + region)).siteBad.contains x)) && distinct sites

def Machine.State.moduleRecOk (s : State) (r : StructRec) : Bool :=
  match r with
  | .module number rsvd => decide (number < 4096) && rsvd == 0 && (number == s.cfg.module || s.loadedParts.isEmpty)
  | .spareMap station region sites rsvd => s.spareMapOk station region sites rsvd
  | .site station count vendor device rsvd jobs =>
    decide (27 ≤ station) && decide (station ≤ 30) && decide (count ≤ 16) && decide (vendor < 65536) &&
      decide (device < 65536) && rsvd == 0 && jobs.length == 16 && jobs.all (fun j => decide (j < 4096)) &&
      (jobs.drop count).all (· == 0)
  | _ => false

def Machine.State.structure0Ok (s : State) (i : Image) : Bool :=
  i.structureRsvdOk && i.structure_.all s.moduleRecOk &&
    (i.structure_.filter fun r => match r with
      | .module _ _ => true
      | _ => false).length == 1

/-! ## STRUCTURE, SCOPE 1 (R258, R322, R391, R401) -/

/-- R401, R322: one TILES record of a partition. -/
def Machine.State.tilesRecOk (s : State) (p : Nat) (adaptive : Bool) (station region first count : Nat) : Bool :=
  s.diePresent station && decide (region < 16) && decide (1 ≤ count) && decide (count ≤ 250) &&
    decide (first + count ≤ 250) &&
    ((List.range count).all fun n =>
      let t := tileKey station region (first + n)
      !((s.tile t).enabled && (s.tile t).partition != p) &&
        !((s.rgn (station * 16 + region)).unplaced.contains (first + n))) &&
    (s.others p).all fun q =>
      (s.part q).adaptive == adaptive || !(s.hasTile q fun t => tileRegion t == station * 16 + region)

/-- R259: a multicast coordinate of a root: in its own module, to the stations of a group or to one station. -/
def Machine.State.mcCoordOk (s : State) (c : W32) : Bool :=
  cKind c == 7 && cModule c == s.cfg.module && decide (cLow c < 1024) &&
    (cStation c == 31 || s.stationPresent (cStation c))

/-- R15, R223: a coordinate of this module's memory. -/
def Machine.State.memCoordOk (s : State) (c : W32) : Bool :=
  cKind c == 1 && cModule c == s.cfg.module && cLow c == 0xFFF && decide (20 ≤ cStation c) && decide (cStation c ≤ 25)

/-- R257, R258, R272: an entry's fields, but for its ROOT's agreement. -/
def Machine.State.collFieldsOk (s : State) (p job : Nat) (adaptive : Bool) (c : BitVec 512) : Bool :=
  let n := c.toNat
  let op := ccOp c
  let f := cfgField n
  let exact := op == 0x42
  bits (f 0 1) 4 1 == 0 && bits (f 1 1) 7 6 == 0 && bits (f 4 2) 15 12 == 0 && f 6 2 == 0 && f 45 19 == 0 &&
  ccPart c == p && ccJob c == job && decide (0x40 ≤ op) && decide (op ≤ 0x47) && (exact || f 3 1 == 0) &&
  decide (1 ≤ ccElems c) && decide (ccElems c ≤ 65536) && decide (100 ≤ ccTime c) && decide (ccTime c ≤ 1000000) &&
  (!ccOrdered c || (op == 0x47 && !adaptive)) && (adaptive || op != 0x47 || ccOrdered c) &&
  (if ccRoot c then
    !ccCircuit c && decide (1 ≤ ccGroup c) && decide (ccGroup c ≤ 1024) && ccMembers c == 0 &&
    s.mcCoordOk (ccRootCoord c) && cStation (ccRootCoord c) == 31 &&
    ((ccResult c == 0 && ccResultAddr c == 0) ||
     (s.mcCoordOk (ccResult c) && ccResultAddr c == 0) ||
     (s.memCoordOk (ccResult c) && ccResultAddr c % 256 == 0)) &&
    ccStatusAddr c % 256 == 0 &&
    (ccOut c == 0 || (ccOut c == 1 && (op == 0x41 || op == 0x42 || op == 0x45 || op == 0x46)) ||
      (ccOut c == 2 && op == 0x40))
  else
    decide (ccGroup c ≤ 1023) && decide (1 ≤ ccMembers c) && decide (ccMembers c ≤ 4000) &&
    cKind (ccRootCoord c) == 2 && decide (cStation (ccRootCoord c) ≤ 30) &&
    (cModule (ccRootCoord c) != s.cfg.module || s.stationPresent (cStation (ccRootCoord c))) &&
    ccResult c == 0 && ccResultAddr c == 0 && ccStatusAddr c == 0 && ccOut c == 0)

/-- The COLLECTIVE records of an image: station, entry, configuration. -/
def Image.colls (i : Image) : List (Nat × Nat × BitVec 512) :=
  i.structure_.filterMap fun r => match r with
    | .collective station _ entry cfg => some (station, entry, cfg)
    | _ => none

def Image.mcasts (i : Image) : List (Nat × Nat × BitVec 256) :=
  i.structure_.filterMap fun r => match r with
    | .multicast station _ group cfg => some (station, group, cfg)
    | _ => none

/-- R258: a gather whose ROOT lies in this module agrees with that root. -/
def Machine.State.rootAgrees (s : State) (i : Image) (c : BitVec 512) : Bool :=
  let r := ccRootCoord c
  cModule r != s.cfg.module ||
    i.colls.any fun x => x.1 == cStation r && x.2.1 == cLow r && ccValid x.2.2 && ccRoot x.2.2 &&
      ccOp x.2.2 == ccOp c && ccExp x.2.2 == ccExp c && ccElems x.2.2 == ccElems c &&
      decide (ccTime c < ccTime x.2.2)

/-- R258: bytes of the accumulator pool, and of the tracking pool, that an entry takes. -/
def poolCharge (c : BitVec 512) : Nat × Nat :=
  let sum := decide (ccOp c ≤ 0x42) || ccOp c == 0x47
  let k := ccChunks c
  let plain := (if sum then 16 else 8) * ccElems c
  if !ccValid c then (0, 0)
  else if ccRoot c then
    (if ccOrdered c then 4 * ccGroup c * ccElems c else plain, ceilDiv (ccGroup c * k) 8 + 128)
  else if ccOrdered c then (4 * ccMembers c * ccElems c, 2 * k + ceilDiv (ccMembers c * k) 8)
  else (plain, 2 * k)

def poolSum (cs : List (BitVec 512)) : Nat × Nat :=
  cs.foldl (fun a c => (a.1 + (poolCharge c).1, a.2 + (poolCharge c).2)) (0, 0)

/-- The collective entries at a station that other partitions hold. -/
def Machine.State.collsOf (s : State) (station : Nat) (q : Nat → Bool) : List (BitVec 512) :=
  (s.stn station).coll.filterMap fun e => if ccValid e.2.cfg && q (ccPart e.2.cfg) then some e.2.cfg else none

/-- R258: the pools of a station suffice. -/
def Machine.State.poolsOk (s : State) (p : Nat) (i : Image) (station : Nat) : Bool :=
  let u := poolSum (s.collsOf station (· != p) ++
    (i.colls.filter fun x => x.1 == station).map fun x => x.2.2)
  decide (u.1 ≤ 8388608) && decide (u.2 ≤ 1048576)

/-- R260: an entry of the multicast table. -/
def Machine.State.mcOk (s : State) (m : BitVec 256) : Bool :=
  let f := cfgField m.toNat
  bits (f 10 2) 14 12 == 0 && bits (f 16 1) 6 4 == 0 && f 17 15 == 0 && mcSram m % 64 == 0 &&
    decide (mcSram m < sramBytes) && (!mcValid m || dataStations.all fun d => !bit (mcStations m) d || s.stationPresent d)

/-- R391: the RED bits of a site that an entry needs: members of a gather emit CONTRIB, receivers of a
group accept COLL_DATA and END. -/
def Machine.State.redOk (s : State) (i : Image) : Bool :=
  (i.colls.all fun x => decide (x.1 < 27) || ccRoot x.2.2 || ccCircuit x.2.2 ||
    bit (declField (s.site x.1).decl 22 1) 0) &&
  i.mcasts.all fun x => [27, 28, 29, 30].all fun d => !bit (mcStations x.2.2) d || bit (declField (s.site d).decl 22 1) 1

/-- R401: a record of a SCOPE 1 STRUCTURE section. -/
def Machine.State.partRecOk (s : State) (p : Nat) (i : Image) (r : StructRec) : Bool :=
  match r with
  | .partition regime flags job _ _ =>
    decide (regime ≤ 1) && decide (flags < 4) && decide (1 ≤ job) && decide (job ≤ 4095) &&
      (s.others p).all fun q => (s.part q).job != job
  | .tiles station region first count => s.tilesRecOk p i.adaptive station region first count
  | .collective station rsvd entry cfg =>
    s.stationPresent station && rsvd == 0 && decide (entry < 4096) &&
      (!ccValid (s.coll station entry).cfg || ccPart (s.coll station entry).cfg == p) &&
      s.collFieldsOk p i.job i.adaptive cfg && (ccRoot cfg || s.rootAgrees i cfg)
  | .multicast station rsvd group cfg =>
    s.stationPresent station && rsvd == 0 && decide (group < 1024) && s.mcOk cfg &&
      !((s.others p).any fun q => (s.part q).mcGroups.contains (station * 1024 + group))
  | _ => false

def Machine.State.structure1Ok (s : State) (p : Nat) (i : Image) : Bool :=
  i.structureRsvdOk && i.structure_.all (s.partRecOk p i) &&
    (i.structure_.filter fun r => match r with
      | .partition _ _ _ _ _ => true
      | _ => false).length == 1 &&
    i.tiles.length == i.header.tiles && distinct i.tiles &&
    distinct (i.colls.map fun x => (x.1, x.2.1)) && distinct (i.mcasts.map fun x => (x.1, x.2.1)) &&
    dataStations.all (s.poolsOk p i) && s.redOk i

/-! ## WINDOWS (R224, R225, R391) -/

/-- R225: the stations at which the loader places a window. -/
def WinRec.places (w : WinRec) : List Nat :=
  match wKind w.entry with
  | 0 => dataStations
  | 2 => [26]
  | _ => w.stations

/-- R391: the KINDs that a window of a site needs. -/
def Machine.State.siteKindsOk (s : State) (n : Nat) (e : BitVec 256) : Bool :=
  let k := declField (s.site n).decl 8 8
  (!wPermR e || bit k kLOAD) && (!wPermW e || bit k kSTORE)

/-- R225: the fields of a window of a job. -/
def Machine.State.winOk (s : State) (job : Nat) (w : WinRec) : Bool :=
  let e := w.entry
  let t := wTarget e
  let size := 2 ^ wLog2 e
  wJob e == job && wRsvd0 e == 0 && decide (21 ≤ wLog2 e) && decide (wLog2 e ≤ 36) &&
  wBase e % size == 0 && decide (wBase e < 2 ^ 56) && wRsvd3 e == 0 && (wKind e == 2 || wPort e == 0) &&
  (match wKind e with
   | 0 => t % size == 0 && decide (t + size ≤ s.mem.bytes)
   | 1 => bits t 47 28 == 0 && bits t 15 13 == 0 && decide (wLo e < wHi e) && decide (wHi e ≤ 4096) &&
     !w.stations.isEmpty && w.stations.all s.diePresent
   | 2 => !wPermA e
   | _ => !wPermA e && w.stations.length == 1 && w.stations.all fun n =>
     decide (27 ≤ n) && s.stationPresent n && s.siteKindsOk n e)

/-- R225: two valid windows of one TKIND do not overlap at a station. -/
def winApart (a b : WinRec) : Bool :=
  !wValid a.entry || !wValid b.entry || wKind a.entry != wKind b.entry ||
    !(a.places.any fun n => b.places.contains n) ||
    rangesApart (wBase a.entry) (2 ^ wLog2 a.entry) (wBase b.entry) (2 ^ wLog2 b.entry)

/-- R225: windows that a station holds, those of jobs that the load replaces apart. -/
def Machine.State.windowsHeld (s : State) (station : Nat) (jobs : List Nat) : Nat :=
  ((s.stn station).windows.filter fun e => !jobs.contains (wJob e.2)).length

/-- R225: the section may be loaded in place of the windows of `jobs`. A record with VALID = 0 takes no entry at a
station, since only a valid window translates: R225 leaves it open (DESIGN CHOICE, log entry 83). -/
def Machine.State.windowsOk (s : State) (jobs : List Nat) (i : Image) : Bool :=
  i.windows.all (s.winOk i.job) && pairwise winApart i.windows &&
    dataStations.all fun n =>
      decide (s.windowsHeld n jobs + (i.windows.filter fun w => wValid w.entry && w.places.contains n).length ≤ 2048)

/-- The jobs whose windows a load of a partition's image replaces. -/
def Machine.State.jobsReplaced (s : State) (p job : Nat) : List Nat :=
  if (s.part p).isLoaded then [job, (s.part p).job] else [job]

/-! ## CODE (R94, R95) -/

/-- R94, R95: one per-tile descriptor over a library of `lib` bytes. -/
def TileDesc.ok (d : TileDesc) (lib : Nat) : Bool :=
  let segs := d.segs.filter fun g => g.length != 0
  d.codeOffset % 64 == 0 && d.codeLen % 64 == 0 && decide (64 ≤ d.codeLen) && decide (d.codeLen ≤ sramBytes) &&
  d.loadAddr % 64 == 0 && decide (d.codeOffset + d.codeLen ≤ lib) && decide (d.loadAddr + d.codeLen ≤ sramBytes) &&
  d.fetchLo % 64 == 0 && d.fetchHi % 64 == 0 && decide (d.fetchLo < d.fetchHi) && decide (d.fetchHi ≤ sramBytes) &&
  d.rsvd == 0 && d.rsvd2 == 0 &&
  d.entry.all (fun e => e % 8 == 0 && decide (d.fetchLo ≤ e) && decide (e < d.fetchHi)) &&
  d.segs.all (fun g => g.length % 64 == 0 && g.addr % 64 == 0 && g.rsvd == 0) &&
  segs.all (fun g => decide (g.offset + g.length ≤ lib) && decide (g.addr + g.length ≤ sramBytes)) &&
  pairwise (fun a b => rangesApart a.1 a.2 b.1 b.2)
    ((d.loadAddr, d.codeLen) :: segs.map fun g => (g.addr, g.length))

def Image.codeOk (i : Image) : Bool :=
  decide (i.code.libLen ≤ 67108864) && i.code.descs.length == i.header.tiles &&
    i.code.descs.all fun d => d.length == 256 && (TileDesc.ofBytes d).ok i.code.libLen

/-! ## TWILL (R150 to R158, R168, R171, R172) -/

/-- A position of the slot tables: station, direction, index, slot (R151). -/
def SlotRec.position (r : SlotRec) : Nat × Bool × Nat × Nat := (r.station, r.rx, r.k, r.slot)

/-- The slot entry an image holds for a receiver: DROP is the loader's (R155). -/
def seDrop (e : W64) : Nat := bits e.toNat 34 29

/-- R154, R155: the encoding of a slot entry of partition p. -/
def SlotRec.ok (r : SlotRec) (p gears : Nat) : Bool :=
  let n := r.entry.toNat
  decide (r.station ≤ 30) && decide (r.gear < gears) && decide (r.slot < 252) && decide (4 ≤ r.k) &&
  decide (r.k ≤ 31) && seValid r.entry && sePart r.entry == p && decide (seFirst r.entry + seRuns r.entry ≤ 16384) &&
  (if r.rx then seDrop r.entry == 0 && bits n 28 0 == 0 && decide (seSrc r.entry ≤ 30) && seSrc r.entry != r.station
   else bits n 39 31 == 0 && !bit (seMask r.entry) r.station &&
    let c := ((List.range 31).filter fun d => bit (seMask r.entry) d).length
    decide (1 ≤ c) && decide (c ≤ 8))

/-- R157, R158: the encoding of an item entry; BLOCKS of an ENGINE item is 1 + 8 × chunks (R271). -/
def ItemRec.ok (r : ItemRec) : Bool :=
  let e := r.entry
  let w0 := wWord e 0
  let w1 := wWord e 1
  let k := ieKind e
  let tile := k == 0
  let mask := r.target && k == 1
  let memory := if r.target then k == 2 else k == 1
  let engine := if r.target then k == 3 else k == 2
  let stream := if r.target then k == 4 else k == 3
  decide (r.station ≤ 30) && decide (r.index < 16384) && (tile || mask || memory || engine || stream) &&
  decide (ieFirst e ≤ 719) && decide (1 ≤ ieBlocks e) && decide (ieBlocks e ≤ 719) && decide (1 ≤ ieRepeat e) &&
  decide (ieRepeat e ≤ 360) && bits w0 25 0 == 0 && (tile || mask || bits w0 30 26 == 0) &&
  (if tile then bits w1 43 0 == 0 && decide (ieTile e + (ieRepeat e - 1) * ieTileStride e ≤ 249) && decide (r.station < 20)
   else if mask then bits w1 15 0 == 0 && decide (r.station < 20) else w1 == 0) &&
  bits (wWord e 3) 63 32 == 0 &&
  (if tile || mask then
    ieAddr e % 32 == 0 && ieStride e % 32 == 0 &&
      decide (ieAddr e + (ieRepeat e - 1) * ieStride e + 32 * ieBlocks e ≤ sramBytes)
   else if memory then ieAddr e % 32 == 0 && ieStride e % 32 == 0
   else ieStride e == 0 && decide (ieAddr e < if engine then 4096 else 65536)) &&
  (!stream || decide (26 ≤ r.station)) && (!engine || ieBlocks e % 8 == 1)

/-- R153: the range of a memory item lies in a landing window of the job with a permission. -/
def Image.memItemOk (i : Image) (station : Nat) (write : Bool) (e : BitVec 256) : Bool :=
  (List.range (ieRepeat e)).all fun n => i.windows.any fun w =>
    w.places.contains station && wCovers w.entry i.job 0 (ieAddr e + n * ieStride e) (32 * ieBlocks e) &&
      (if write then wPermW w.entry else wPermR w.entry)

/-- R391, R393: a circuit at a site needs a chiplet of TIME level 2. -/
def Machine.State.siteTimeOk (s : State) (n : Nat) : Bool := decide (n < 27) || decide (2 ≤ declField (s.site n).decl 7 1)

/-- R153: sources and targets inside the partition and its job. -/
def Machine.State.itemTargetOk (s : State) (i : Image) (r : ItemRec) : Bool :=
  let e := r.entry
  let k := ieKind e
  let all := (List.range (ieRepeat e)).map fun n => ({ i := n, entry := e } : CItem)
  if k = 0 then all.all fun x => i.tiles.contains (x.tile r.station)
  else if r.target && k == 1 then
    (({ entry := e } : CItem).targetTiles r.station).all fun t => i.tiles.contains t
  else if (if r.target then k == 2 else k == 1) then i.memItemOk r.station r.target e
  else true

/-- The item table that an image gives a station. -/
def Image.itemTab (i : Image) (station : Nat) (target : Bool) : SMap (BitVec 256) :=
  (i.twill.items.filter fun r => r.station == station && r.target == target).foldl
    (fun m r => minsert m r.index r.entry) []

/-- The items of a slot entry of an image. -/
def Image.slotItems (i : Image) (r : SlotRec) : List CItem :=
  burstItems (i.itemTab r.station r.rx) (seFirst r.entry) (seRuns r.entry)

/-- R153: items of a burst do not overlap, and none runs past block 719. -/
def Image.layoutOk (i : Image) (r : SlotRec) : Bool :=
  let l := i.slotItems r
  l.all (fun x => decide (x.seal ≤ 719)) && pairwise (fun a b => decide (a.seal < b.first)) l &&
    decide (l.length ≤ 360) &&
    (List.range (seRuns r.entry)).all fun n =>
      i.twill.items.any fun q => q.station == r.station && q.target == r.rx && q.index == seFirst r.entry + n

/-- The runs of a slot entry: FIRST_BLOCK, BLOCKS, REPEAT. -/
def Image.runsOf (i : Image) (r : SlotRec) : List (Nat × Nat × Nat) :=
  (List.range (seRuns r.entry)).map fun n =>
    let e := mget 0 (i.itemTab r.station r.rx) (seFirst r.entry + n)
    (ieFirst e, ieBlocks e, ieRepeat e)

/-- R130, R131, R153: the circuits of an image join transmit ports to receive ports with equal runs. -/
def Image.circuitsOk (i : Image) : Bool :=
  let at_ := fun (r : SlotRec) (n : Nat) (rx : Bool) => i.twill.slots.find? fun q =>
    q.station == n && q.rx == rx && q.gear == r.gear && q.slot == r.slot && q.k == r.k
  distinct (i.twill.slots.map fun r => (r.position, r.gear)) &&
  i.twill.slots.all fun r =>
    if r.rx then match at_ r (seSrc r.entry) false with
      | some q => bit (seMask q.entry) r.station && i.runsOf q == i.runsOf r
      | none => false
    else (List.range 31).all fun d => !bit (seMask r.entry) d || match at_ r d true with
      | some q => seSrc q.entry == r.station
      | none => false

/-- R151, R152: another loaded partition owns a position. -/
def Machine.State.owned (s : State) (p : Nat) (r : SlotRec) : Bool :=
  let tab := if r.rx then (s.stn r.station).rxTab else (s.stn r.station).txTab
  (List.range 4).any fun g =>
    let e := mget 0 tab (slotIndex g r.slot r.k)
    seValid e && sePart e != p && (s.part (sePart e)).isLoaded

/-- Bursts of a loaded partition's gear that a region feeds (dir 0) or drains (dir 1) in a slot. -/
def Machine.State.burstsOf (s : State) (q gear station dir slot region : Nat) : Nat :=
  (circuitIndices.filter fun k =>
    let e := mget 0 (if dir = 0 then (s.stn station).txTab else (s.stn station).rxTab) (slotIndex gear slot k)
    seValid e && sePart e == q &&
      (if dir = 0 then s.txItems station e else s.rxItems station e).any
        fun x => (x.regions (dir == 1)).contains region).length

/-- The same of an image's gear. -/
def Image.burstsOf (i : Image) (gear station dir slot region : Nat) : Nat :=
  (i.twill.slots.filter fun r => r.station == station && r.rx == (dir == 1) && r.gear == gear && r.slot == slot &&
    (i.slotItems r).any fun x => (x.regions (dir == 1)).contains region).length

def largest (l : List Nat) : Nat := l.foldl Nat.max 0

/-- R138, R153: feeds and drains of a region in a slot, over all loaded partitions at their largest
gears, are within what its bond port carries. -/
def Machine.State.bondPortsOk (s : State) (p : Nat) (i : Image) : Bool :=
  i.twill.slots.all fun r =>
    let dir := if r.rx then 1 else 0
    ((i.slotItems r).flatMap fun x => x.regions r.rx).all fun region =>
      let b := (s.rgn (r.station * 16 + region)).bond
      let own := largest ((List.range i.twill.gears).map fun g => i.burstsOf g r.station dir r.slot region)
      let rest := (s.others p).foldl (fun n q =>
        n + largest ((List.range 4).map fun g => s.burstsOf q g r.station dir r.slot region)) 0
      decide (own + rest ≤ widthBursts (if r.rx then b.widthDn else b.widthUp))

/-- The key of an item entry of the station tables. -/
def ItemRec.key (r : ItemRec) : Nat := (r.station * 2 + b2n r.target) * 16384 + r.index

/-! The feed pace (R153, R162, R307) -/

/-- A region's configured point, as the image names it or as it stands (R323), in tenths of a GHz. -/
def Image.tenthsOf (i : Image) (s : State) (region : Nat) : Nat :=
  15 - 3 * ((i.governor.findSome? fun g => match g with
    | .opPoint r op => if r = region then some op else none
    | _ => none).getD (s.rgn region).cfgOp)

/-- The source items of a gear in a slot, with their stations. -/
def Image.sources (i : Image) (gear slot : Nat) : List (Nat × CItem) :=
  (i.twill.slots.filter fun r => !r.rx && r.gear == gear && r.slot == slot).flatMap fun r =>
    (i.slotItems r).map fun x => (r.station, x)

/-- The blocks of items that lie in rows up to t. -/
def blocksBy (l : List (Nat × CItem)) (t : Nat) : Nat :=
  (l.map fun x => Nat.min x.2.seal (16 * (t + 1)) - x.2.first).sum

/-- A tile gives its transmit buffers 64 B a cycle (R29, R30) from 250 ns before the slot: rows are in by
their row times. -/
def tilePaceOk (tenths : Nat) (l : List (Nat × CItem)) : Bool :=
  (List.range 45).all fun t => decide ((blocksBy l t + 1) / 2 * 1000000 ≤ 995 * tenths * (25000 + rowStart t))

/-- A memory station gives 2,457.6 GB/s (R141). -/
def memoryPaceOk (l : List (Nat × CItem)) : Bool :=
  (List.range 45).all fun t => decide (32 * blocksBy l t * 1000 ≤ 24576 * (25000 + rowStart t))

/-- R153, R307: every tile and memory source keeps the pace, over all that it feeds in one slot. -/
def Image.paceOk (i : Image) (s : State) : Bool :=
  i.twill.slots.all fun r => r.rx ||
    let l := i.sources r.gear r.slot
    (i.slotItems r).all fun x => match ieKind x.entry with
      | 0 =>
        let t := x.tile r.station
        tilePaceOk (i.tenthsOf s (tileRegion t))
          (l.filter fun y => ieKind y.2.entry == 0 && y.2.tile y.1 == t)
      | 1 => memoryPaceOk (l.filter fun y => ieKind y.2.entry == 1 && y.1 == r.station)
      | _ => true

/-- R150, R153, R168, R171, R172. -/
def Machine.State.twillOk (s : State) (p : Nat) (i : Image) : Bool :=
  let t := i.twill
  !i.adaptive && t.rsvd == 0 && decide (1 ≤ t.gears) && decide (t.gears ≤ 4) && i.paceOk s &&
  t.slots.all (fun r => r.ok p t.gears && s.stationPresent r.station && s.siteTimeOk r.station && !s.owned p r && i.layoutOk r) &&
  t.items.all (fun r => r.ok && s.stationPresent r.station && s.siteTimeOk r.station && s.itemTargetOk i r &&
    !((s.others p).any fun q => (s.part q).items.contains r.key)) &&
  distinct (t.items.map ItemRec.key) && i.circuitsOk && s.bondPortsOk p i &&
  (t.ringSize == 0 || (decide (8 ≤ t.ringSize) && decide (t.ringSize ≤ 20) && t.ringBase.toNat % 16 == 0 &&
    i.windows.any fun w => wPermW w.entry && wCovers w.entry i.job 0 t.ringBase.toNat (16 * 2 ^ t.ringSize))) &&
  t.frameWordAddr % 16 == 0 && decide (t.frameWordAddr < sramBytes) &&
  (t.hallPeriod == 0 || (decide (250 ≤ t.hallPeriod) && 64000 % t.hallPeriod == 0 && decide (t.hallPhase < t.hallPeriod))) &&
  decide (t.hallLead ≤ 64000)

/-! ## GOVERNOR (R151, R323, R324) -/

def inRat (lo hi v : Rat) : Bool := decide (lo ≤ v) && decide (v ≤ hi)

/-- R323: ranges, and which image may carry the parameter. -/
def Machine.State.govOk (s : State) (i : Image) (g : GovParam) : Bool :=
  let whole := i.header.scope == 0
  let own := fun r => whole || i.tiles.any fun t => tileRegion t == r
  match g with
  | .dieWeight d w => whole && decide (d < s.dies) && decide (w ≤ 255)
  | .regionWeight r w => own r && decide (r < 320) && decide (w ≤ 255)
  | .opPoint r op => own r && decide (r < 320) && decide (op ≤ 3)
  | .floor op base slope => whole && decide (op ≤ 3) && inRat 0 20 base && inRat 0 20 (base + slope * 80)
  | .energyRatio op e => whole && decide (op ≤ 3) && inRat (1 / 10) 1 e
  | .thermal r r1 t1 r2 t2 => own r && decide (r < 320) && inRat (1 / 10) 4 r1 && inRat (1 / 10) 4 r2 &&
    inRat 50 200000 t1 && inRat 50 200000 t2
  | .diodeGain v => whole && inRat (1 / 64) 1 v
  | .gearEnergy gear d e => !whole && !i.adaptive && i.has 4 && decide (gear < i.twill.gears) &&
    (i.tiles.any fun t => tileStation t == d) && inRat 0 60000 e
  | .powerCap r c => own r && decide (r < 320) && inRat 10 36 c

/-- The declared energy of a gear on a die (R324). -/
def Image.gearE (i : Image) (gear d : Nat) : Rat :=
  (i.governor.findSome? fun g => match g with
    | .gearEnergy gear' d' e => if gear' = gear ∧ d' = d then some e else none
    | _ => none).getD 0

/-- R151: the energy of a gear is never below that of the gear before it. -/
def Image.gearsRise (i : Image) (dies : Nat) : Bool :=
  (List.range dies).all fun d => (List.range 3).all fun g =>
    decide (i.twill.gears ≤ g + 1) || decide (i.gearE g d ≤ i.gearE (g + 1) d)

/-- R324: the gear-0 energies and the floors of running adaptive regions fit every die. -/
def Machine.State.energyFits (s : State) (p : Nat) (i : Image) : Bool :=
  (List.range s.dies).all fun d =>
    let sched := ratSum (((s.others p).filter fun q => !(s.part q).adaptive).map fun q => (s.part q).eEff 0 d)
    let floors := ratSum (((dieRegions d).filter s.runningAdaptive).map fun r => s.regionFloor r * 64)
    decide ((if i.adaptive then 0 else i.gearE 0 d) + sched + floors ≤ s.dieBudget d * 64)

def Machine.State.governorOk (s : State) (i : Image) : Bool := i.governor.all (s.govOk i) && i.gearsRise s.dies

/-! ## TRIMS and ROUTES (R370, R51) -/

/-- R370: one record. -/
def TrimRec.ok (r : TrimRec) : Bool :=
  let v := fun (lo hi : Int) => decide (lo ≤ r.value) && decide (r.value ≤ hi)
  r.rsvd == 0 &&
  if r.kind = 5 then
    r.station == 0 && r.dir == 0 && r.wg == 0 && r.line == 0 && decide (r.point < 40) && v 0 4095
  else
    decide (r.station ≤ 30) && decide (r.dir ≤ 1) && decide (r.wg < 32) && decide (r.line ≤ 16) &&
    match r.kind with
    | 0 => decide (r.point < 8) && v 0 16383
    | 1 => r.point == 0 && v (-4096) 4095
    | 2 => r.point == 0 && r.dir == 0 && v 0 63
    | 3 => r.point == 0 && r.dir == 1 && v 0 255
    | 4 => r.point == 0 && r.dir == 1 && v 0 1023
    | _ => false

/-- R51, R54: a ROUTES entry names a port of a router. -/
def Image.routesOk (i : Image) : Bool := i.routes.missing.isEmpty && i.routes.entries.all fun e => decide (e.2 ≤ 20)

/-! ## All checks (R402, R405, R406) -/

/-- The section checks, and R324; the TYPE of a section that fails. -/
def Machine.State.sectionsBad (s : State) (i : Image) : Option Nat :=
  let p := i.header.partition
  let check := fun (t : Nat) (b : Bool) => if i.has t && !b then some t else none
  match i.header.scope with
  | 0 => [check 1 (s.structure0Ok i), check 2 i.routesOk, check 3 (s.windowsOk [0] i), check 6 (s.governorOk i),
      check 7 (i.trimsWhole && i.trims.all TrimRec.ok)].findSome? id
  | 1 => [check 1 (s.structure1Ok p i), check 3 (s.windowsOk (s.jobsReplaced p i.job) i), check 4 (s.twillOk p i), check 5 i.codeOk,
      check 6 (s.governorOk i), if s.energyFits p i then none else some 6].findSome? id
  | 2 => check 1 (i.structureRsvdOk && s.keyOpOk i)
  | _ => check 5 (decide (i.code.fwBytes ≤ 16777216))

/-- R398 to R406: the result of the checks of an image, and its SECTION; 0 DONE. -/
def Machine.State.checkImage (s : State) (i : Image) : Nat × Nat :=
  let h := i.header
  if !statusOk i.readStatus then (LR.source, 0)
  else if !h.ok then (LR.badHeader, 0)
  else if !s.partFits h then (LR.wrongPart, 0)
  else if !i.has 8 then (LR.notAllowed, 8)
  else if !i.sigOk then (LR.sectionCheck, 8)
  else if !s.keyOk i then (LR.keyRefused, 8)
  else if !i.verifies then (LR.badSignature, 8)
  else match h.dir.find? fun e => e.used && e.type != 8 && !e.digestOk with
    | some e => (LR.digest, e.type)
    | none => match i.badSection with
      | some t => (LR.notAllowed, t)
      | none =>
        if h.scope = 1 ∧ i.adaptive = true ∧ i.has 4 = true then (LR.notAllowed, 4)
        else match s.sectionsBad i with
          | some t => (LR.sectionCheck, t)
          | none => (LR.done, 0)

end Sys2Proof
end

