-- ==== Sys2Proof/Machine/Loader.lean ====
section
/-! DEFINITION. The loader (R404 to R414): its queue, quiesce, apply and resume, LOAD and UNLOAD of a
partition, the whole-module image, region reconfiguration (R378, R379, R412), HOLD_HBM and key
operations (R403). -/

namespace Sys2Proof.Machine

/-! ## The queue (R404, R421) -/

/-- The request of a requester is not finished. -/
def ReqSt.busy : ReqSt → Bool
  | .queued | .checking | .quiescing | .applying | .resuming => true
  | .idle | .done | .refused => false

def State.updReqr (s : State) (r : Nat) (f : Requester → Requester) : State := s.setReqr r (f (s.reqr r))

/-- R421: a write of CFG_REQr_CTRL; GO is ignored while the previous request is unfinished. -/
def State.reqCtrlNow (s : State) (r : Nat) (v : W32) : State :=
  let n := v.toNat
  let x := { s.reqr r with op := bits n 30 28, partition := bits n 27 22, station := bits n 21 17, region := bits n 16 13 }
  if !bit n 31 || x.st.busy then s.setReqr r x
  else
    let q : Req := { who := r, op := x.op, partition := x.partition, station := x.station, region := x.region,
                     src := x.src, len := x.len.toNat, fence := x.fence }
    let s := s.setReqr r { x with st := .queued, result := 0, section_ := 0, quiesced := 0 }
    { s with cfg := { s.cfg with queue := s.cfg.queue ++ [q] } }

/-- R417: in a hand-off the write is held. -/
def State.reqCtrl (s : State) (r : Nat) (v : W32) : State :=
  if s.handOff then s.holdReq (.ctrl r v) else s.reqCtrlNow r v

/-- A GO with an OP. -/
def State.reqGo (s : State) (w : Who) (op : Nat) (v : W32) : State :=
  if bit v.toNat 31 ∧ bits v.toNat 30 28 = op then s.reqCtrl (Who.num w) v else s

/-- R404 LOAD. -/
def execLoad (w : Who) (v : W32) (s : State) : Res := .next (s.reqGo w 0 v)
/-- R404 UNLOAD. -/
def execUnload (w : Who) (v : W32) (s : State) : Res := .next (s.reqGo w 1 v)
/-- R404 REGION. -/
def execRegion (w : Who) (v : W32) (s : State) : Res := .next (s.reqGo w 2 v)
/-- R404 HOLD_HBM. -/
def execHoldHbm (w : Who) (v : W32) (s : State) : Res := .next (s.reqGo w 3 v)

/-- R417: a firmware update runs. -/
def FwSt.busy : FwSt → Bool
  | .staging | .standbyPrep | .takeover | .flashing => true
  | .idle | .done | .abandoned => false

/-- R424, R434, R472: a load that is not begun: of SCOPE 0 before HBM and field 26's test are complete, of SCOPE 1 before READY and in the shared safe state, of
SCOPE 3 while an update runs. -/
def State.holdsBack (s : State) (q : Req) : Bool :=
  match q.scope with
  | some 0 => !(s.stepIs 3 && mget .off s.boot.fields 26 == .passed)
  | some 1 => s.safe.shared || !s.boot.ready
  | some 3 => s.cfg.fw.busy
  | _ => false

/-- R404: REGION and HOLD_HBM first, then in the order of acceptance. -/
def State.nextReq (s : State) : Option Req :=
  let first := fun (q : Req) => q.op == 2 || q.op == 3
  (s.cfg.queue.filter first ++ s.cfg.queue.filter fun q => !first q).find? fun q => !s.holdsBack q

def State.setRun (s : State) (r : Option LoadRun) : State := { s with cfg := { s.cfg with run := r } }

/-- The request leaves the queue, and its requester is in a state. -/
def State.dequeue (s : State) (q : Req) : State :=
  { s with cfg := { s.cfg with queue := s.cfg.queue.filter fun r => r.who != q.who } }

def State.setPhase (s : State) (l : LoadRun) (ph : ReqSt) : State :=
  (s.setRun (some { l with phase := ph })).updReqr l.req.who fun x => { x with st := ph }

/-- R406: a request ends with its result. -/
def State.endReq (s : State) (q : Req) (result section_ : Nat) : State :=
  ((s.dequeue q).updReqr q.who fun x => { x with
    st := if result = LR.done then .done else .refused, result := result, section_ := section_ }).recStn
    0x9006 none 26 [BitVec.ofNat 8 q.who, BitVec.ofNat 8 q.op, BitVec.ofNat 8 result, BitVec.ofNat 8 section_]

/-- The request in progress ends. -/
def State.endRun (s : State) (l : LoadRun) (result section_ : Nat) : State :=
  (s.setRun none).endReq l.req result section_

/-! ## The first set of checks (R404, R405) -/

/-- R404, R450: the requester may load or unload the partition. -/
def State.mayLoad (s : State) (who p : Nat) : Bool := who == 2 || (s.part p).owner == who + 1

/-- R404, R406: the checks of an UNLOAD, a REGION and a HOLD_HBM. -/
def State.checkReqOp (s : State) (q : Req) : Nat :=
  match q.op with
  | 1 => if !(s.part q.partition).isLoaded then LR.badRequest
         else if s.mayLoad q.who q.partition then LR.done else LR.notEntitled
  | 2 => if q.who ≠ 2 then LR.notEntitled else if q.station < s.dies then LR.done else LR.badRequest
  | 3 => if q.who ≠ 2 then LR.notEntitled else LR.done
  | _ => LR.badRequest

/-- R403: a key operation is applied. -/
def State.applyKey (s : State) (i : Image) : State :=
  match i.keyOp with
  | some (op, slot, _, hash) =>
    let k := s.key slot
    let k' := if op = 1 then { k with hash := hash, enrolled := true } else { k with revoked := true }
    let s := { s with cfg := { s.cfg with keys := mset {} s.cfg.keys slot k' } }
    (s.recStn (if op = 1 then 0xB002 else 0xB003) none 26 [BitVec.ofNat 8 slot]).measured_ 4
  | none => s

/-- R417: a firmware image that has passed its checks lies in the staging RAM. -/
def State.stageFw (s : State) (q : Req) (i : Image) : State :=
  { s with cfg := { s.cfg with fw := .staging, staged := some (i.header.imageId, i.header.digest, q.who) } }

/-- R417: the standby core stops shadowing and restarts from the staging RAM; the loader has done its part. -/
def State.prepStandby (s : State) (l : LoadRun) : State :=
  let s := (s.setRun none).updReqr l.req.who fun x => { x with st := .applying }
  { s with cfg := { s.cfg with fw := .standbyPrep, shadow := false } }

/-! ## Reading an image (R404, R406) -/

/-- R228: a range of module memory from any address. -/
def State.readRange (s : State) (a n : Nat) : State × (List Byte ⊕ Byte) :=
  let r := s.readLines (a / 256 * 256) (a % 256 + n)
  (r.1, match r.2 with
    | .inl bs => .inl (bs.drop (a % 256))
    | .inr st => .inr st)

/-- A section of an image in module memory that begins at `base`. -/
def State.readSection (s : State) (base : Nat) (img : ImageBytes) (e : DirEntry) : State × ImageBytes :=
  let r := s.readRange (base + e.offset) e.length
  (r.1, match r.2 with
    | .inl bs => { img with sections := minsert img.sections e.type bs }
    | .inr st => { img with readStatus := worseStatus img.readStatus st })

/-- R404, R406: an image of `len` bytes at a job-0 address: module memory gives its own bytes; those of a host's window
are what the host answers. A HEADER that breaks R398 or R399 has no sections to read. -/
def State.readImage (s : State) (src len : Nat) (img : ImageBytes) : State × ImageBytes :=
  match s.landing src len with
  | none => (s, { img with readStatus := St.translationMiss })
  | some (.host _) => (s, img)
  | some (.hbm w) =>
    if !wPermR w then (s, { img with readStatus := St.notPermitted })
    else
      let base := wTarget w + (src - wBase w)
      let r := s.readRange base 576
      match r.2 with
      | .inr st => (r.1, { img with readStatus := st })
      | .inl bs =>
        let h := ImgHeader.ofBytes bs []
        let img := { img with header := bs, sections := [], readStatus := St.done }
        if h.ok then (h.dir.filter DirEntry.used).foldl (fun a e => a.1.readSection base a.2 e) (r.1, img) else (r.1, img)

/-- R404, R405, R421, R434, R452, R472: a LOAD is begun, refused or held back. -/
def State.startLoad (s : State) (q : Req) (i : Image) : State :=
  let p := i.header.partition
  let r := s.checkImage i
  if r.1 = LR.source ∨ r.1 = LR.badHeader then s.endReq q r.1 r.2
  else if i.header.length ≠ q.len then s.endReq q LR.badRequest 0
  else if s.holdsBack { q with scope := some i.header.scope } then
    { s with cfg := { s.cfg with queue := s.cfg.queue.map fun x =>
        if x.who = q.who then { x with scope := some i.header.scope } else x } }
  else
    let s := if i.header.scope = 1 ∧ q.who ≠ 2 ∧ (s.part p).owner = 0 ∧ (s.part p).isLoaded = false then
      s.setOwner p (q.who + 1) else s
    if i.header.scope = 1 ∧ s.mayLoad q.who p = false then s.endReq q LR.notEntitled 0
    else if r.1 ≠ LR.done then s.endReq q r.1 r.2
    else
      let s := (s.dequeue q).setPhase { req := { q with scope := some i.header.scope }, img := some i } .checking
      if i.header.scope = 3 then s.stageFw q i else s

/-- R404, R405 LOADER_START: the loader takes the next request and runs the first set of checks; `img`
is the image's bytes as its host delivers them. -/
def execLoaderStart (img : ImageBytes) (s : State) : Res :=
  .next (
    if s.cfg.run.isSome || s.cfg.paused then s
    else match s.nextReq with
      | none => s
      | some q =>
        if q.op = 0 then
          if q.src.toNat % 4096 ≠ 0 ∨ q.len = 0 then s.endReq q LR.badRequest 0
          else
            let r := s.readImage q.src.toNat q.len img
            r.1.startLoad q r.2.image
        else
          let r := s.checkReqOp q
          if r = LR.done then (s.dequeue q).setPhase { req := q } .checking else s.endReq q r 0)

/-! ## Scopes (R407, R412) -/

/-- R407: the request is a LOAD of a SCOPE. -/
def LoadRun.isLoad (l : LoadRun) (scope : Nat) : Bool :=
  l.req.op == 0 && (l.img.map fun i => i.header.scope) == some scope

/-- The partition that a LOAD of SCOPE 1 or an UNLOAD concerns. -/
def LoadRun.target (l : LoadRun) : Nat :=
  if l.req.op = 1 then l.req.partition else (l.img.map fun i => i.header.partition).getD 0

/-- The region key of a REGION request. -/
def LoadRun.region (l : LoadRun) : Nat := l.req.station * 16 + l.req.region

/-- R412 step 1: sites that a REGION request marks faulty, those not yet marked. -/
def State.newBadSites (s : State) (r : Nat) (mask : BitVec 256) : List Nat :=
  let x := s.rgn r
  (List.range 256).filter fun site => !x.siteBad.contains site &&
    (mask.getLsbD site || x.badTileRouters.contains site ||
      (List.range 250).any fun l => x.siteOf l == site &&
        ((s.tile (r * 256 + l)).cause != .none || (s.tile (r * 256 + l)).fenceReq))

/-- The logical tiles whose sites are among the newly faulty. -/
def State.movedTiles (s : State) (r : Nat) (bad : List Nat) : List Nat :=
  (List.range 250).filter fun l => bad.contains ((s.rgn r).siteOf l)

/-- R401: the spare map that a whole-module image gives a region. -/
def spareMapFor (i : Image) (r : Nat) : Option (List Nat) :=
  i.structure_.findSome? fun x => match x with
    | .spareMap station region sites _ => if station * 16 + region = r then some sites else none
    | _ => none

/-- R378, R407: a partition has a circuit fed or drained through a region's bond port. -/
def State.usesPort (s : State) (p r : Nat) : Bool :=
  let station := r / 16
  let own := fun (e : Nat × W64) => seValid e.2 && sePart e.2 == p
  ((s.stn station).txTab.any fun e => own e && (s.txItems station e.2).any fun x => (x.regions false).contains (r % 16)) ||
  ((s.stn station).rxTab.any fun e => own e && (s.rxItems station e.2).any fun x => (x.regions true).contains (r % 16))

/-- R407: the partitions that the request quiesces; those in the safe state stand already. -/
def State.scopeOf (s : State) (l : LoadRun) : List Nat :=
  let live := s.loadedParts.filter fun p => (s.part p).st != .safeState
  match l.req.op with
  | 2 => live.filter fun p => (s.hasTile p fun t => tileRegion t == l.region) || s.usesPort p l.region
  | 3 => live.filter fun p => s.partsWithHbm.contains p
  | _ => if l.isLoad 0 then live else live.filter (· == l.target)

/-- R407: a logical tile of the partition moves. -/
def State.moves (s : State) (l : LoadRun) (p : Nat) : Bool :=
  match l.req.op with
  | 2 =>
    let m := s.movedTiles l.region (s.newBadSites l.region l.req.fence)
    s.hasTile p fun t => tileRegion t == l.region && m.contains (tileSlot t)
  | 3 => false
  | _ => s.hasTile p fun t => match l.img.bind (spareMapFor · (tileRegion t)) with
    | some sites => nth 255 sites (tileSlot t) != (s.rgn (tileRegion t)).siteOf (tileSlot t)
    | none => false

/-- R407: the partition stops rather than holds. -/
def State.stopsIn (s : State) (l : LoadRun) (p : Nat) : Bool :=
  if l.req.op = 1 ∨ l.isLoad 1 then true else s.moves l p

/-! ## Quiesce (R408, R409) -/

/-- R408: the stop instant of a partition. -/
def State.stopInstant (s : State) (p : Nat) : Nat :=
  if (s.part p).adaptive ∨ s.time.st = .free then s.ht else nextFrame s.ht

/-- R408, R409: a partition begins to quiesce; a parked one is woken. -/
def Partition.beginQuiesce (x : Partition) : Partition :=
  { x with
    st := .quiescing
    noSample := true
    twl := if x.twl = .active then .stopping else x.twl
    parkSt := if x.parkSt = 1 then 0 else if x.parkSt = 2 then 3 else x.parkSt }

/-- R408 QUIESCE_BEGIN, instant q; it waits for a save of the scope to end (R409). -/
def execQuiesceBegin (s : State) : Res :=
  .next (match s.cfg.run with
    | none => s
    | some l =>
      let scope := s.scopeOf l
      if l.phase ≠ .checking ∨ l.isLoad 2 = true ∨ l.isLoad 3 = true ∨ scope.any (fun p => (s.part p).ck == .saving) then s
      else
        let l := { l with scope := scope, stops := scope.filter (s.stopsIn l), q := s.ht,
                          stopAt := scope.map fun p => (p, s.stopInstant p), deadline := s.ht,
                          bad := if l.req.op = 2 then s.newBadSites l.region l.req.fence else [] }
        let s := scope.foldl (fun s p => s.updPart p Partition.beginQuiesce) s
        let s := if l.req.op = 3 then { s with mem := { s.mem with bar2Held := true } } else s
        s.setPhase l .quiescing)

/-- R408: the time until an outstanding item's timeout expires, with one resend of R243. -/
def State.itemLeft (s : State) (d : Desc) : Nat :=
  let tmo := s.itemTmo d
  let left := match d.stage with
    | .sent => d.lastHt + tmo - s.ht
    | .ended _ => 0
    | .copying _ => 0
    | _ => tmo
  if d.kind = 4 && d.resend && !d.retry then left + tmo else left

/-- T_out of a partition at S. -/
def State.tOut (s : State) (p : Nat) : Nat :=
  ((s.partTiles p).map fun x => largest (x.descs.map s.itemLeft)).foldl Nat.max 0

/-- R408: a tile of a stopped partition returns to IDLE. -/
def Tile.stopIdle (x : Tile) : Tile :=
  if x.st = .running ∨ x.st = .waiting then { x with st := .idle, wait := none } else x

/-- R408: items ended QUIESCED are counted for the requester (R421). -/
def State.countQuiesced (s : State) (l : LoadRun) (n : Nat) : State :=
  s.updReqr l.req.who fun x => { x with quiesced := satAdd 65535 x.quiesced n }

/-- R407, R408: what a partition is after S: stopped, with its launch ended, or held from B_s. -/
def Partition.atStop (x : Partition) (stop : Bool) (bs : Nat) : Partition :=
  let x : Partition := { x with live := none, twl := if x.twl = .stopping then .loaded else x.twl }
  if stop then { x with launch := x.launch.map fun r => { r with stopStatus := some (r.stopStatus.getD St.quiesced) } }
  else { x with holdFrom := some bs }

/-- The first frame boundary at or after an HT. -/
def boundaryAt (ht : Nat) : Nat := if ht % 64000 = 0 then ht else nextFrame ht

/-- R408 QUIESCE_STOP, instant S of a partition of the scope. -/
def execQuiesceStop (p : Nat) (s : State) : Res :=
  .next (match s.cfg.run with
    | none => s
    | some l =>
      match l.stopAt.find? (·.1 == p) with
      | none => s
      | some (_, at_) =>
        if l.phase ≠ .quiescing ∨ p ∈ l.stopped ∨ p ∈ l.lost ∨ s.ht < at_ then s
        else
          let stop := p ∈ l.stops
          let n := ((s.partTiles p).map fun x => (x.descs.filter Desc.unsent).length).foldl (· + ·) 0
          let s := s.endLaunch p
          let s := (s.part p).tiles.foldl (fun (s : State) t => s.updTile t fun x =>
            let x := x.completeAll Desc.unsent St.quiesced
            if stop then x.stopIdle else x) s
          let s := (s.updPart p (·.atStop stop (boundaryAt s.ht))).countQuiesced l n
          let d := s.ht + Nat.min (200000 + s.tOut p) 2200000
          s.setRun (some { l with stopped := l.stopped ++ [p], deadline := Nat.max l.deadline d }))

/-! ## Release of a partition (R411) -/

/-- R5, R411: a released tile: its registers at their reset values; its TXID counter stays (R243). -/
def Tile.released (x : Tile) : Tile := { sram := x.sram, poison := x.poison, soft := x.soft, txid := x.txid, scrub := x.scrub }

/-- R258, R411: a station without the windows, entries, slot and item entries of a partition. -/
def Station.without (x : Station) (n p : Nat) (pt : Partition) : Station :=
  let mine := fun (c : BitVec 512) => ccValid c && ccPart c == p
  let freed := poolSum (x.coll.filterMap fun e => if mine e.2.cfg then some e.2.cfg else none)
  let items := fun (target : Nat) (m : SMap (BitVec 256)) =>
    m.filter fun e => !pt.items.contains ((n * 2 + target) * 16384 + e.1)
  { x with
    windows := x.windows.filter fun e => wJob e.2 != pt.job
    coll := x.coll.filter fun e => !mine e.2.cfg
    mcast := x.mcast.filter fun e => !pt.mcGroups.contains (n * 1024 + e.1)
    endWaits := x.endWaits.filter fun e => e.job != pt.job
    accFree := x.accFree + freed.1
    trackFree := x.trackFree + freed.2
    txTab := x.txTab.filter fun e => sePart e.2 != p
    rxTab := x.rxTab.filter fun e => sePart e.2 != p
    srcItems := items 0 x.srcItems
    tgtItems := items 1 x.tgtItems }

/-- R378: the rebindings of a partition's bursts end with its schedule. -/
def State.dropRebinds (s : State) (p : Nat) : State :=
  { s with links := { s.links with rebind := s.links.rebind.filter fun e =>
      let k := e.1 / 16
      let idx := k % 28 + k / 28 % 252 * 28 + k / 7056 % 4 * 7056
      let n := k / 28224
      let ent := mget 0 (if n % 2 = 0 then (s.stn (n / 2)).txTab else (s.stn (n / 2)).rxTab) idx
      !(seValid ent && sePart ent == p) } }

/-- R5: partition reset: what its registers keep, and its launch table (R452). -/
def Partition.emptied (x : Partition) : Partition :=
  { owner := x.owner, expired := x.expired, leaseAt := x.leaseAt, cqEn := x.cqEn, cqVec := x.cqVec, cqSize := x.cqSize
    cqBase := x.cqBase, cqWp := x.cqWp, cqRp := x.cqRp, cqLost := x.cqLost, table := x.table }

/-- R411: a partition's tiles, windows, entries and positions are released; a stopped launch whose results have not
been written yet ends first (R19). -/
def State.releasePart (s : State) (p : Nat) : State :=
  let s := s.stopLaunch p St.quiesced
  let pt := s.part p
  let s := s.dropRebinds p
  let s := pt.tiles.foldl (fun s t => s.updTile t Tile.released) s
  let s := dataStations.foldl (fun s n => s.updStn n fun x => x.without n p pt) s
  { s with bursts := s.bursts.filter fun b => sePart b.entry != p }.updPart p Partition.emptied

/-! ## LOAD of a partition (R42, R96, R152, R173, R225, R257, R260, R323, R327) -/

/-- R94, R96: the SRAM of a tile after its code and segments are copied. -/
def loadedSram (d : TileDesc) (lib : SMap Byte) : SMap Byte :=
  let copy := fun (m : SMap Byte) (offset n addr : Nat) =>
    (lib.filter fun e => decide (offset ≤ e.1) && decide (e.1 < offset + n)).foldl
      (fun m e => mset 0 m (e.1 - offset + addr) e.2) m
  d.segs.foldl (fun m g => copy m g.offset g.length g.addr) (copy [] d.codeOffset d.codeLen d.loadAddr)

/-- R5, R96: a tile set up by a load: its registers reset, its TXID counter as it was (R243). -/
def Tile.setUp (x : Tile) (p i : Nat) (d : TileDesc) (lib : SMap Byte) : Tile :=
  { st := .idle, fetchLo := d.fetchLo, fetchHi := d.fetchHi, entries := d.entry
    s := d.init.zipIdx.foldl (fun m v => mset 0 m (v.2 + 1) v.1) []
    sram := loadedSram d lib, txid := x.txid, partition := p, logical := i, enabled := true, scrub := x.scrub }

/-- The lowest unused number of a table. -/
def freeIndex {α : Type} (m : SMap α) : Nat :=
  ((List.range (m.length + 1)).find? fun n => !(m.any fun e => e.1 == n)).getD 0

/-- R225: the loader places a window at a station, in the entry of the lowest free index: R225 names none (DESIGN
CHOICE, log entry 83). -/
def Station.addWindow (x : Station) (e : BitVec 256) : Station :=
  { x with windows := minsert x.windows (freeIndex x.windows) e }

/-- R225: the valid windows of a section are placed (log entry 83). -/
def State.placeWindows (s : State) (ws : List WinRec) : State :=
  (ws.filter fun w => wValid w.entry).foldl (fun s w =>
    w.places.foldl (fun s n => s.updStn n fun x => x.addWindow w.entry) s) s

/-- R256, R258, R283: a collective entry is set; a root waits for its first round. -/
def State.placeColl (s : State) (x : Nat × Nat × BitVec 512) : State :=
  let c := x.2.2
  let k := poolCharge c
  (s.setColl x.1 x.2.1 { cfg := c, st := if ccValid c && ccRoot c then .opened else .unused }).updStn x.1 fun y =>
    { y with accFree := y.accFree - k.1, trackFree := y.trackFree - k.2 }

def State.placeMcast (s : State) (x : Nat × Nat × BitVec 256) : State :=
  s.updStn x.1 fun y => { y with mcast := mset 0 y.mcast x.2.1 x.2.2 }

/-- R155: DROP of a receiver: 0 full drop for a unicast circuit, else a coupling code 1 to 63. -/
def dropCode (mask k src d : Nat) : Nat :=
  if ((List.range 31).filter (bit mask ·)).length ≤ 1 then 0 else Config.coupling k src mask d % 63 + 1

/-- R154, R155: the slot entry as the loader writes it. -/
def placedSlot (i : Image) (r : SlotRec) : W64 :=
  if !r.rx then r.entry
  else
    let src := seSrc r.entry
    let mask := ((i.twill.slots.find? fun q => !q.rx && q.station == src && q.gear == r.gear && q.slot == r.slot &&
      q.k == r.k).map fun q => seMask q.entry).getD 0
    r.entry ||| BitVec.ofNat 64 (dropCode mask r.k src r.station * 2 ^ 29)

/-- R152, R173: the slot and item tables of a schedule. -/
def State.placeTwill (s : State) (i : Image) : State :=
  let s := i.twill.slots.foldl (fun s r => s.updStn r.station fun x =>
    let n := slotIndex r.gear r.slot r.k
    if r.rx then { x with rxTab := mset 0 x.rxTab n (placedSlot i r) }
    else { x with txTab := mset 0 x.txTab n (placedSlot i r) }) s
  i.twill.items.foldl (fun s r => s.updStn r.station fun x =>
    if r.target then { x with tgtItems := mset 0 x.tgtItems r.index r.entry }
    else { x with srcItems := mset 0 x.srcItems r.index r.entry }) s

/-- R323: a parameter of the GOVERNOR section, by an image for partition p. -/
def State.setGov (s : State) (p : Nat) (g : GovParam) : State :=
  let pw := s.power
  match g with
  | .dieWeight d w => s.setDie d { s.die d with weight := w }
  | .regionWeight r w => s.updRgn r fun x => { x with weight := w }
  | .opPoint r op => s.updRgn r fun x => { x with cfgOp := op }
  | .floor op base slope => { s with power := { pw with floors := updAt pw.floors op fun _ => (base, slope) } }
  | .energyRatio op e => { s with power := { pw with ratios := updAt pw.ratios op fun _ => e } }
  | .thermal r r1 t1 r2 t2 => s.updRgn r fun x => { x with r1 := r1, tau1 := t1, r2 := r2, tau2 := t2 }
  | .diodeGain v => { s with power := { pw with diodeGain := v } }
  | .gearEnergy gear d e => s.updPart p fun x => { x with
      energy := mset {} x.energy (gear * 32 + d) { declared := e, eff := e } }
  | .powerCap r c => s.updRgn r fun x => { x with cap := c }

/-- The registers of a partition that a load sets (R178, R315, R323, R401, R423). -/
def Partition.load (x : Partition) (i : Image) : Partition :=
  match i.partRec with
  | none => x
  | some (regime, flags, job, seed, origin) =>
    let t := i.twill
    let tw := i.has 4
    { x with
      st := .applying
      adaptive := regime == 1, strict := bit flags 0, production := bit flags 1, job := job
      imageId := i.header.imageId, slot := i.sigSlot, tiles := i.tiles, seed := seed, digest := i.header.digest
      noSample := true
      joff := BitVec.ofNat 64 (origin * 64000)
      twl := if tw then .loaded else .none
      gears := if tw then t.gears - 1 else 0
      hallPeriod := t.hallPeriod, hallPhase := t.hallPhase, hallLead := t.hallLead
      fwEn := t.frameWordEn, fwAddr := t.frameWordAddr, ringBase := t.ringBase, ringSize := t.ringSize
      mcGroups := i.mcasts.map fun m => m.1 * 1024 + m.2.1
      items := if tw then t.items.map ItemRec.key else [] }

/-- R489: the test block locks, and every perturbation is 0. -/
def State.lockTst (s : State) (cause : Nat) : State :=
  if !s.tst.unlocked then s
  else
    State.recStn { s with
      tst := { s.tst with unlocked := false, key1 := none, seed := 0, draws := 0, fades := [] }
      stations := s.stations.map fun x => (x.1, { x.2 with tstVc := [], tstHt := 0, tstBaseT := 0 })
      regions := s.regions.map fun r => (r.1, { r.2 with tstT := 0 }) } 0xC004 none 26 [BitVec.ofNat 8 cause]

/-- R96, R173, R411, R414: the apply step of a LOAD of SCOPE 1. -/
def State.applyPart (s : State) (p : Nat) (i : Image) : State :=
  let s := if (s.part p).isLoaded then s.releasePart p else s.updPart p Partition.emptied
  let s := s.updPart p (·.load i)
  let s := (i.tiles.zip i.code.tileDescs).zipIdx.foldl (fun (s : State) x =>
    s.updTile x.1.1 fun y => y.setUp p x.2 x.1.2 i.code.lib) s
  let s := s.placeWindows i.windows
  let s := i.mcasts.foldl State.placeMcast (i.colls.foldl State.placeColl s)
  let s := if i.has 4 then s.placeTwill i else s
  let s := i.governor.foldl (fun s g => s.setGov p g) s
  let s := if (s.part p).production then s.lockTst 2 else s
  s.measured_ (5 + p)

/-! ## The whole-module image (R370, R391, R401, R426) -/

/-- R370: a record sets the value in force and the target. -/
def State.setTrim (s : State) (r : TrimRec) : State :=
  if r.kind = 5 then
    s.setLaser r.point { s.laser r.point with bias := r.value.toNat, tgt := r.value.toNat, held := r.hold }
  else
    let k := ringKey r.station r.dir r.wg r.line
    let x := s.ring k
    let v := r.value.toNat
    let b : BitVec 5 := BitVec.ofNat 5 (2 ^ r.kind)
    let p : BitVec 8 := BitVec.ofNat 8 (2 ^ r.point)
    let x := if r.kind = 0 then { x with holdTable := if r.hold then x.holdTable ||| p else x.holdTable &&& ~~~p }
      else { x with hold := if r.hold then x.hold ||| b else x.hold &&& ~~~b }
    s.setRing k (match r.kind with
      | 0 => { x with table := updAt x.table r.point fun _ => v }
      | 1 => { x with off := r.value, offTgt := r.value }
      | 2 => { x with swing := v, swingTgt := v }
      | 3 => { x with gain := v, gainTgt := v }
      | _ => { x with rxOff := v, rxOffTgt := v })

/-- R391, R401: the sites' entries; a site without a record expects no chiplet. -/
def State.setSites (s : State) (i : Image) : State :=
  [27, 28, 29, 30].foldl (fun s n =>
    let e := i.structure_.findSome? fun r => match r with
      | .site station count vendor device _ jobs => if station = n then some (count, vendor, device, jobs) else none
      | _ => none
    s.setSite n (match e with
      | some (count, vendor, device, jobs) => { s.site n with
          expected := true, expVendor := vendor, expDevice := device, jobs := jobs.take count }
      | none => { s.site n with expected := false, jobs := [] })) s

/-- A spare map from the sites of its 250 logical tiles. -/
def spareTable (sites : List Nat) : SMap Nat :=
  sites.zipIdx.foldl (fun m x => mset x.2 m x.2 x.1) []

/-- R60, R401, R412: the new spare maps, which take effect at resume. -/
def State.setSpareMaps (s : State) (i : Image) : State :=
  i.structure_.foldl (fun s r => match r with
    | .spareMap station region sites _ => s.updRgn (station * 16 + region) fun x =>
        { x with spareNext := some (spareTable sites), unplaced := [] }
    | _ => s) s

/-- The apply step of a LOAD of SCOPE 0. -/
def State.applyModule (s : State) (i : Image) : State :=
  let number := (i.structure_.findSome? fun r => match r with
    | .module n _ => some n
    | _ => none).getD 0
  let s := { s with
    cfg := { s.cfg with module := number, moduleDigest := i.header.digest, moduleLoaded := true }
    fabric := { s.fabric with table := i.routes.entries } }
  let s := (s.setSpareMaps i).setSites i
  let s := dataStations.foldl (fun s n => s.updStn n fun x =>
    { x with windows := x.windows.filter fun e => wJob e.2 != 0 }) s
  let s := s.placeWindows i.windows
  let s := i.governor.foldl (fun s g => s.setGov 0 g) s
  (i.trims.foldl State.setTrim s).measured_ 3

/-! ## Region reconfiguration (R378, R379, R412, R413) -/

/-- R412 step 2: the new map, and the logical tiles left without a site. -/
def Region.remap (x : Region) (bad moved : List Nat) : SMap Nat × List Nat :=
  moved.foldl (fun (acc : SMap Nat × List Nat) l =>
    let y := { x with spareMap := acc.1 }
    match y.spares.find? fun site => !bad.contains site && !x.siteBad.contains site with
    | some site => (mset l acc.1 l site, acc.2)
    | none => (acc.1, acc.2 ++ [l])) (x.spareMap, [])

/-- R412: a tile at its new site stands IDLE; without a site it stays FENCED (R413). -/
def Tile.moved (x : Tile) (placed : Bool) : Tile :=
  if placed then
    { x with st := if x.enabled then .idle else .fenced, cause := .none, fenceReq := false, draining := false }
  else { x with st := .fenced, draining := false, unplaced := true }

/-- R412 steps 1, 2, 3 and 5. -/
def State.remapRegion (s : State) (r : Nat) (bad : List Nat) : State :=
  let moved := s.movedTiles r bad
  let (map, lost) := (s.rgn r).remap bad moved
  let s := s.updRgn r fun x => { x with
    siteBad := bad.foldl (fun l b => addSorted b l) x.siteBad
    spareNext := some map, unplaced := x.unplaced ++ lost }
  let s := moved.foldl (fun s l => s.updTile (r * 256 + l) (·.moved (!lost.contains l))) s
  s.regenTables r

/-- Indices of one gear whose bursts a region feeds or drains in a slot, whichever port they cross. -/
def State.gearBursts (s : State) (station dir gear slot region : Nat) : List Nat :=
  circuitIndices.filter fun k =>
    let e := mget 0 (if dir = 0 then (s.stn station).txTab else (s.stn station).rxTab) (slotIndex gear slot k)
    seValid e && (if dir = 0 then s.txItems station e else s.rxItems station e).any
      fun x => (x.regions (dir == 1)).contains region

def State.setRebind (s : State) (key v : Nat) : State :=
  { s with links := { s.links with rebind := mset 0 s.links.rebind key v } }

/-- Bursts of a slot that a region's own port carries, and those moved to it. -/
def State.portLoad (s : State) (station dir gear slot region : Nat) : Nat :=
  let here := fun r v => ((s.gearBursts station dir gear slot r).filter fun k =>
    mget 0 s.links.rebind (rebindKey station dir gear slot k r) == v).length
  here region 0 + here (partner region) 1

/-- R376, R382: the WIDTH code at which a direction of a port serves circuits: a port that is DOWN serves none. -/
def State.portWidth (s : State) (r dir : Nat) : Nat :=
  let b := s.bond r
  if b.st = 0 then 2 else if dir = 0 then b.widthUp else b.widthDn

/-- R378: one excess burst: moved, re-timed, or none. -/
def State.rebindOne (s : State) (station dir gear slot region k : Nat) : State :=
  let key := rebindKey station dir gear slot k region
  let width := fun r => s.portWidth (station * 16 + r) dir
  let tx := fun slot => mget 0 (s.stn station).txTab (slotIndex gear slot k)
  if width (partner region) = 0 ∧ s.portLoad station dir gear slot (partner region) < 2 then s.setRebind key 1
  else if dir = 0 ∧ width region = 1 ∧ 0 < slot ∧ s.portLoad station 0 gear (slot - 1) region = 0 ∧
      seValid (tx (slot - 1)) = false then s.setRebind key 2
  else (s.setRebind key 3).recStn 0x8003 none station [BitVec.ofNat 8 k, BitVec.ofNat 8 slot, BitVec.ofNat 8 gear]

/-- R378: the bursts of a direction of a region's port beyond its width are rebound, in every gear. -/
def State.rebindDir (s : State) (station dir region : Nat) : State :=
  let w := s.portWidth (station * 16 + region) dir
  (List.range 4).foldl (fun s gear => (List.range 252).foldl (fun s slot =>
    let ks := s.gearBursts station dir gear slot region
    let s := ks.foldl (fun s k => s.setRebind (rebindKey station dir gear slot k region) 0) s
    if w = 0 then s
    else (ks.drop (widthBursts w)).foldl (fun s k => s.rebindOne station dir gear slot region k) s) s) s

/-- R379: a direction of the port is DOWN. -/
def State.portDown (s : State) (r : Nat) (dir : Nat) : Bool := s.portWidth r dir == 2

/-- A region feeds or drains a burst in some slot of some gear. -/
def State.hasBursts (s : State) (r dir : Nat) : Bool :=
  (List.range 4).any fun gear => (List.range 252).any fun slot => !(s.gearBursts (r / 16) dir gear slot (r % 16)).isEmpty

/-- R379: a direction of the port is DOWN and its partner's cannot serve for it: it is DOWN too, or degraded so that
no circuit can be moved to it (R378 row 1) while the region has circuits in that direction. -/
def State.portDead (s : State) (r dir : Nat) : Bool :=
  s.portDown r dir && (s.portDown (partner r) dir || (s.portWidth (partner r) dir != 0 && s.hasBursts r dir))

/-- R378, R379, R412 step 4. -/
def State.rebindRegion (s : State) (r : Nat) : State :=
  let s := (s.rebindDir (r / 16) 0 (r % 16)).rebindDir (r / 16) 1 (r % 16)
  let via := s.portDown r 0 || s.portDown r 1
  let dead := s.portDead r 0 || s.portDead r 1
  let s := s.setBond r { s.bond r with viaPartner := via && !dead }
  if dead then (List.range 250).foldl (fun s l => s.updTile (r * 256 + l) fun x =>
    if x.enabled then { x with st := .fenced, draining := false } else x) s
  else s

/-- R381, R412: the apply step of a REGION request. -/
def State.applyRegion (s : State) (r : Nat) (bad : List Nat) : State :=
  let s := (s.remapRegion r bad).rebindRegion r
  s.setBond r (s.bond r).farReset

/-! ## The apply step and the resume (R405, R408, R410) -/

/-- R408: the apply step may begin. -/
def State.drained (s : State) (l : LoadRun) : Bool :=
  let left := l.scope.filter fun p => !(l.lost.contains p)
  left.all (fun p => l.stopped.contains p && (s.part p).parkSt == 0) &&
    (decide (l.deadline ≤ s.ht) || left.all fun p => (s.partTiles p).all fun x => x.descs.isEmpty)

/-- R273, R408: what is outstanding in a partition at the end of the drain ends with QUIESCED. -/
def State.endDrain (s : State) (l : LoadRun) (p : Nat) : State :=
  let n := ((s.partTiles p).map fun x => x.descs.length).foldl (· + ·) 0
  let s := (s.part p).tiles.foldl (fun s t => s.updTile t fun x => x.completeAll (fun _ => true) St.quiesced) s
  ((s.endRounds p St.quiesced).countQuiesced l n).updPart p fun x => { x with st := .applying }

/-- R408: the boundary at which a scope resumes whose apply step ends at an HT. -/
def resumeBoundary (ht : Nat) : Nat := nextFrame (ht + 1000)

/-- R251, R408: the boundary at which a scope resumes: a HOLD_HBM's change falls in a maintenance interval,
and its scope resumes at the boundary that ends it. -/
def LoadRun.resumeAt (l : LoadRun) (applyEnd : Nat) : Nat :=
  if l.req.op = 3 then nextFrame applyEnd else resumeBoundary applyEnd

/-- R405: the second set of checks. -/
def State.recheck (s : State) (l : LoadRun) : Nat × Nat :=
  match l.img with
  | none => (LR.done, 0)
  | some i => s.checkImage i

/-- R315: the image's job origin is later than the boundary at which the partition resumes, were the apply step
to end at an HT. -/
def LoadRun.originLate (l : LoadRun) (ht : Nat) : Bool :=
  match l.img with
  | none => false
  | some i => decide (l.resumeAt ht < i.origin * 64000)

/-- The change that a request makes. -/
def State.applyChange (s : State) (l : LoadRun) : State :=
  match l.req.op, l.img with
  | 0, some i =>
    if l.isLoad 1 then s.applyPart l.target i else if l.isLoad 2 then s.applyKey i else s.applyModule i
  | 1, _ => (s.releasePart l.target).measured_ (5 + l.target)
  | 2, _ => s.applyRegion l.region l.bad
  | _, _ => s

/-- R407, R410: the partitions that a change that cannot be trusted puts in the safe state: what is left of the scope,
and the partition of a LOAD of SCOPE 1 though it is EMPTY. -/
def LoadRun.untrusted (l : LoadRun) (left : List Nat) : List Nat := if l.isLoad 1 then addOnce l.target left else left

/-- R410: the sections are read again from their source; whether a digest then differs, or a read has failed. -/
def State.rereadFails (s : State) (l : LoadRun) (reread : ImageBytes) : State × Bool :=
  match l.req.op, l.img with
  | 0, some i =>
    let r := s.readImage l.req.src.toNat l.req.len reread
    (r.1, !statusOk r.2.readStatus || r.2.differs i.header)
  | _, _ => (s, false)

/-- R407, R408: the apply step may begin: what is to be quiesced has drained; a LOAD of SCOPE 2 or 3 quiesces nothing. -/
def State.mayApply (s : State) (l : LoadRun) : Bool :=
  if l.isLoad 2 || l.isLoad 3 then l.phase == .checking else l.phase == .quiescing && s.drained l

/-- R405, R408, R410, R417 APPLY_START; `reread` is the image's bytes as its host delivers them again. A firmware image
is taken from the staging RAM. -/
def execApplyStart (reread : ImageBytes) (s : State) : Res :=
  .next (match s.cfg.run with
    | none => s
    | some l =>
      if !s.mayApply l then s
      else if l.isLoad 3 then s.prepStandby l
      else if !l.lost.isEmpty && (l.req.op == 1 || l.isLoad 1) then s.endRun l LR.safeState 0
      else
        let left := l.scope.filter fun p => !(l.lost.contains p)
        let s := left.foldl (fun s p => s.endDrain l p) s
        let (s, fails) := s.rereadFails l reread
        if fails then (s.setRun none).trigger (l.untrusted left) 7 |>.endReq l.req LR.safeState 0
        else
          let r := s.recheck l
          if r.1 = LR.done then
            if l.originLate s.ht then s.setPhase { l with late := true } .applying
            else (s.applyChange l).setPhase l .applying
          else s.setPhase { l with result := r.1, section_ := r.2 } .applying)

/-- R315, R405: at the end of the apply step a job origin that is still too late refuses the load, and the
scope keeps its contents; else a change that waited for it is made. -/
def State.settleOrigin (s : State) (l : LoadRun) : State × LoadRun :=
  if !l.late then (s, l)
  else if l.originLate s.ht then (s, { l with late := false, result := LR.sectionCheck, section_ := 1 })
  else (s.applyChange l, { l with late := false })

/-- R408 APPLY_DONE: the apply step ends; that of HOLD_HBM is its maintenance interval. -/
def execApplyDone (s : State) : Res :=
  .next (match s.cfg.run with
    | none => s
    | some l =>
      if l.phase ≠ .applying ∨ (l.req.op = 3 ∧ s.inInterval = false) then s
      else if l.req.op = 1 then s.endRun l (if l.lost.isEmpty then LR.done else LR.safeState) 0
      else if l.isLoad 2 then s.endRun l l.result l.section_
      else
        let (s, l) := s.settleOrigin l
        let s := if l.isLoad 0 && l.result == LR.done then s.stepDone 6 else s
        s.setPhase { l with applyEnd := some s.ht } .resuming)

/-- R315, R408: the job offset of a partition that resumes at boundary `br`. -/
def LoadRun.joffAt (l : LoadRun) (br : Nat) (x : Partition) : W64 :=
  if l.isLoad 1 && l.result == LR.done && (l.img.map Image.origin).getD 0 == 0 then BitVec.ofNat 64 br
  else match x.holdFrom with
    | some bs => x.joff + BitVec.ofNat 64 (br - bs)
    | none => x.joff

/-- The partitions that a request's end resumes. -/
def State.resuming (s : State) (l : LoadRun) : List Nat :=
  (if l.isLoad 1 ∧ l.result = LR.done then [l.target] else l.scope).filter
    fun p => !(l.lost.contains p) && (s.part p).st != .safeState && (s.part p).isLoaded

/-- R315, R408: a partition resumes at boundary `br`. -/
def State.resumePart (s : State) (l : LoadRun) (br p : Nat) : State :=
  let noSite := (s.partTiles p).any (·.unplaced)
  s.updPart p fun x =>
    { x with
      joff := l.joffAt br x
      holdFrom := none
      st := if noSite then .noSite else .loaded
      noSample := false
      parkSt := if x.park then 1 else x.parkSt }

/-- R251, R446: BAR2 access held for a channel switch is released; it enters the fabric only now (R209). -/
def State.releaseBar2 (s : State) : State :=
  let held := s.fabric.pkts.filter fun f => decide (f.place = .bar2Hold)
  held.foldl (fun s f => (s.dropPkt f.seq).putPkt (.entry 26) (setIssue f.pkt (ht32 (s.stnHt 26))))
    { s with mem := { s.mem with bar2Held := false } }

/-- R60, R65: a region's new spare map takes effect. -/
def Region.takeMap (x : Region) : Region :=
  match x.spareNext with
  | some m => { x with spareMap := m, spareNext := none }
  | none => x

/-- R144, R408 SCOPE_RESUME at B_r, after the circuit checks; before time exists at once (R425). -/
def execScopeResume (s : State) : Res :=
  .next (match s.cfg.run with
    | none => s
    | some l =>
      match l.phase, l.applyEnd with
      | .resuming, some e =>
        let br := l.resumeAt e
        if s.time.st ≠ .free ∧ s.ht < br then s
        else
          let s := (s.resuming l).foldl (fun s p => s.resumePart l (if s.time.st = .free then s.ht else br) p) s
          let s := (s.resuming l).foldl (fun s p => s.checkCircuits (some p)) s
          let s := { s with regions := s.regions.map fun (r : Nat × Region) => (r.1, r.2.takeMap) }
          let s := if l.req.op = 3 then s.releaseBar2 else s
          s.endRun l (if !l.lost.isEmpty then LR.safeState else l.result) l.section_
      | _, _ => s)

end Sys2Proof.Machine
end

