-- ==== Sys2Proof/Machine/Firmware.lean ====
section
/-! DEFINITION. The presence map (R415, R416), the firmware update (R417, R418) and recovery (R419). -/

namespace Sys2Proof.Machine

/-! ## The presence map -/

/-- R415: plane masks set absolutely; the module's own entry is never changed. Packets queued for a
module that is absent now are answered (R249, R415). -/
def State.setPresence (s : State) (base : Nat) (masks : List Nat) : State :=
  let map := masks.zipIdx.foldl (fun (m : SMap Nat) (e : Nat × Nat) =>
    if base + e.2 = s.cfg.module ∨ 4096 ≤ base + e.2 then m else mset 0 m (base + e.2) (e.1 % 16)) s.cfg.presence
  let s := { s with cfg := { s.cfg with presence := map } }
  s.rehash

/-- R416: the fields of a PRESENCE packet: SEQ, BASE, the masks. -/
def presenceFields (p : Packet) : Nat × Nat × List Nat :=
  let f := fun a n => leNat ((p.payload.drop a).take n)
  (f 0 8, f 8 2, ((p.payload.drop 16).take (f 10 2)).map (·.toNat))

/-- R416: the packet is applied. -/
def State.presenceOk (s : State) (p : Packet) : Bool :=
  let (seq, base, masks) := presenceFields p
  let n := leNat ((p.payload.drop 10).take 2)
  cKind p.dst == 3 && p.job == 0 && p.src == s.cfg.fmCoord && decide (s.cfg.presSeq.toNat < seq) &&
    decide (base ≤ 4095) && decide (1 ≤ n) && decide (n ≤ 240) && decide (base + n ≤ 4096) && masks.length == n &&
    leNat ((p.payload.drop 12).take 4) == 0 && masks.all fun m => decide (m < 16)

/-- R416, R417 PRESENCE: the oldest PRESENCE packet at the management endpoint is applied or discarded; it is
held during a hand-off. -/
def execPresence (s : State) : Res :=
  .next (match if s.handOff then none else s.takeDest 26 fun p => p.kind == kPRESENCE with
    | none => s
    | some f =>
      let s := s.dropPkt f.seq
      if s.presenceOk f.pkt then
        let (seq, base, masks) := presenceFields f.pkt
        { s with cfg := { s.cfg with presSeq := BitVec.ofNat 64 seq } }.setPresence base masks
      else s.discardFmt 26 f.pkt)

/-- R420: CFG_PRESn takes a value. -/
def State.presNow (s : State) (n : Nat) (v : W32) : State :=
  s.setPresence (8 * n) ((List.range 8).map fun i => bits v.toNat (4 * i + 3) (4 * i))

/-- R417, R420: a firmware write of CFG_PRESn; in a hand-off it is held. -/
def State.presWrite (s : State) (w : Who) (n : Nat) (v : W32) : State :=
  if !Who.isFw w then s else if s.handOff then s.holdReq (.pres n v) else s.presNow n v

/-- R420 PRESENCE_WRITE. -/
def execPresenceWrite (w : Who) (n : Nat) (v : W32) (s : State) : Res := .next (s.presWrite w n v)

/-! ## Firmware update -/

def State.setFw (s : State) (f : Config → Config) : State := { s with cfg := f s.cfg }

/-- The requester of a firmware image. -/
def State.endFw (s : State) (result : Nat) : State :=
  match s.cfg.staged with
  | some (_, _, who) => s.endReq { who := who, op := 0 } result 0
  | none => s

/-- R417: a held management request has its effect. -/
def State.serveReq (s : State) (q : MgmtReq) : State :=
  match q with
  | .ctrl r v => s.reqCtrlNow r v
  | .own w cmd p => s.ownNow w cmd p
  | .owner p n => s.setOwner p n
  | .pres n v => s.presNow n v

/-- R417: what was held during the hand-off is served. -/
def State.releaseMgmt (s : State) : State :=
  let u := s.setFw fun c => { c with heldMgmt := [], heldReqs := [] }
  s.cfg.heldReqs.foldl State.serveReq (s.cfg.heldMgmt.foldl (fun s p => s.emit (.mgmt p)) u)

/-- R417 FW_STANDBY_READY: the loader queue is paused. -/
def execFwStandbyReady (s : State) : Res :=
  .next (if s.cfg.fw = .standbyPrep then s.setFw fun c => { c with fw := .takeover, paused := true, fwReadyHt := s.ht } else s)

/-- R417, R418: the other core becomes active with a firmware of low IMAGE_ID `version`. -/
def State.takeOver (s : State) (version : Nat) (digest : BitVec 256) : State :=
  let core := 1 - s.cfg.activeCore
  let s := s.setFw fun c => { c with activeCore := core, version := version, fwDigest := digest }
  (s.recStn 0x9003 none 26 ([BitVec.ofNat 8 core] ++ leBytes 2 version)).measured_ 2

/-- R417: the boundary that ends the interval of the hand-off, the first that begins after the core was ready. -/
def State.takeoverTime (s : State) : Bool :=
  s.time.st == .free || (s.ht % 64000 == 0 && decide (resumeBoundary s.cfg.fwReadyHt ≤ s.ht))

/-- R418: an update ends ABANDONED with the running firmware. -/
def State.abandon (s : State) : State :=
  ((s.endFw LR.abandoned).setFw fun c =>
    { c with fw := .abandoned, staged := none, paused := false, shadow := true, reverting := false }).releaseMgmt

/-- R417, R418 FW_TAKEOVER: at the boundary that ends the hand-off the other core becomes active, with the new
firmware, or with the old one after failed checks; the queue is served. -/
def execFwTakeover (s : State) : Res :=
  .next (match s.cfg.fw, s.cfg.staged with
    | .takeover, some (id, digest, _) =>
      if s.cfg.paused = false ∨ s.takeoverTime = false then s
      else if s.cfg.reverting then (s.takeOver s.cfg.oldFw.1 s.cfg.oldFw.2).abandon
      else
        let s := s.setFw fun c => { c with oldFw := (c.version, c.fwDigest), paused := false }
        (s.takeOver (id.toNat % 65536) digest).releaseMgmt
    | _, _ => s)

/-- R417 FW_CHECK_PASS: the other core takes the state and shadows again; the image goes to flash. -/
def execFwCheckPass (s : State) : Res :=
  .next (if s.cfg.fw = .takeover ∧ s.cfg.paused = false then
    s.setFw fun c => { c with fw := .flashing, shadow := true } else s)

/-- R417 FW_FLASH_DONE: the image is in the board NOR flash, and the staging RAM is free. -/
def execFwFlashDone (s : State) : Res :=
  .next (if s.cfg.fw = .flashing then
    (s.endFw LR.done).setFw fun c => { c with fw := .done, staged := none, flashFw := (c.version, c.fwDigest) }
  else s)

/-- R418 FW_ABANDON: before the takeover the standby reloads the old firmware and shadows again; after
it the other core reloads the old firmware and is ready to take over by the same hand-off. -/
def execFwAbandon (s : State) : Res :=
  .next (
    if s.cfg.fw = .standbyPrep ∨ (s.cfg.fw = .takeover ∧ s.cfg.paused = true) then s.abandon
    else if s.cfg.fw = .takeover then
      s.setFw fun c => { c with reverting := true, paused := true, fwReadyHt := s.ht }
    else s)

/-! ## Recovery (R419, R420) -/

/-- R402, R419: the ROM's checks of a firmware image in BAR4. -/
def State.recoveryImageOk (s : State) (i : Image) : Bool :=
  i.header.scope == 3 && i.header.length == s.cfg.recLen && (s.checkImage i).1 == LR.done

/-- R420: a write of CFG_RECOVERY: LEN, and GO with the image that lies in BAR4. -/
def State.recoveryWrite (s : State) (v : W32) : State :=
  let s := s.setFw fun c => { c with recLen := Nat.min 16777216 (bits v.toNat 24 0) }
  if !bit v.toNat 30 || !s.cfg.recMode || s.cfg.recState == 2 then s
  else
    let i := (imageIn s.cfg.bar4).image
    if s.recoveryImageOk i then
      s.setFw fun c => { c with recState := 2, staged := some (i.header.imageId, i.header.digest, 3) }
    else s.setFw fun c => { c with recState := 4 }

/-- R419 RECOVERY_GO: the host's image is written into BAR4, and GO set. -/
def execRecoveryGo (_w : Who) (v : W32) (img : List Byte) (s : State) : Res :=
  .next (
    let s := if s.cfg.recMode then s.stageBytes 0 img else s
    if bit v.toNat 30 then s.recoveryWrite v else s)

end Sys2Proof.Machine
end

