-- ==== Sys2Proof/Machine/Response.lean ====
section
/-! DEFINITION. Responses at the requester's station (R40, R210, R231, R232, R445, R514). -/

namespace Sys2Proof.Machine

/-- R210: a late response is counted at the station of its coordinate. -/
def State.lateRsp (s : State) (station : Nat) : State :=
  s.updStn station fun x => { x with lateRsp := satInc 65535 x.lateRsp }

/-- The item of a tile that a response ends: injected, not ended. -/
def Tile.itemOf (x : Tile) (kind : Nat) (txid : BitVec 24) : Option Desc :=
  x.descs.find? fun d => d.kind == kind && d.txid == txid && (0 < d.sentPkts || d.retry) &&
    (match d.stage with
      | .sent | .ready _ => true
      | _ => false)

/-- R32, R231: data written at LOCAL_ADDR, or the item ends with POISONED. -/
def State.landData (s : State) (t : Nat) (d : Desc) (st : Byte) (bs : List Byte) : State :=
  let x := s.tile t
  match x.badPartial d.local_ bs.length with
  | some w =>
    (s.setTile t ((x.noteUncorr w).endDesc d.id St.poisoned)).recTile 0x6001 t (leBytes 4 (w * 8))
  | none => s.setTile t ((x.wmem d.local_ bs).endDesc d.id st)

/-- R231: a load's data. -/
def State.loadLand (s : State) (t : Nat) (d : Desc) (p : Packet) : State :=
  let st := statusIn p.op
  if st ≠ St.done then s.updTile t (·.endDesc d.id st)
  else if p.payload.length ≠ d.len then s.updTile t (·.endDesc d.id St.internal)
  else s.landData t d st p.payload

/-- R231, R235: an atomic's prior value. -/
def State.atomicLand (s : State) (t : Nat) (d : Desc) (p : Packet) : State :=
  let st := statusIn p.op
  let want := if atomicReturns d.op then d.len else 0
  if !statusOk st then s.updTile t (·.endDesc d.id st)
  else if p.payload.length ≠ want then s.updTile t (·.endDesc d.id St.internal)
  else s.landData t d st p.payload

/-! ## Parts of host accesses through BAR2 (R443 to R445) -/

/-- The port of a host function coordinate. -/
def portOf (c : W32) : Nat := cLow c / 256

/-- R445: a write part is over: one that is not applied is counted and recorded. -/
def State.hostWriteDone (s : State) (n : Nat) (txid : BitVec 24) (st : Byte) : State :=
  let q := s.port n
  match q.writes.find? (·.txid == txid) with
  | none => s.lateRsp 26
  | some w =>
    let s := s.setPort n { q with writes := q.writes.filter (·.txid != txid) }
    if statusOk st then s
    else (s.updPort n fun q => { q with wfail := satInc 65535 q.wfail }).record ioPoint 0xA001 none
      (s.stnCoord 26) (leBytes 7 w.va ++ [st])

/-- R444: a read part is in. -/
def State.hostReadPart (s : State) (n : Nat) (txid : BitVec 24) (st : Byte) (bs : List Byte) : State :=
  let q := s.port n
  if q.reads.any fun r => r.parts.any fun x => x.txid == txid && x.status.isNone then
    s.setPort n { q with
      reads := q.reads.map fun r => { r with
        parts := r.parts.map fun x =>
          if x.txid == txid && x.status.isNone then { x with status := some st, data := bs } else x } }
  else s.lateRsp 26

/-! ## Arrival -/

/-- A response at its requester's station: of a tile's item, a host's part, or a chiplet's request;
every other is late. -/
def State.rspArrive (s : State) (station kind descKind : Nat)
    (tile : State → Nat → Desc → Packet → State) (host : State → Nat → Packet → State) : State :=
  match s.takeDest station fun p => p.kind == kind with
  | none => s
  | some f =>
    let p := f.pkt
    let s := s.dropPkt f.seq
    match cKind p.dst with
    | 0 =>
      let t := destTile p.dst
      if (s.tile t).st == .fenced then s.lateRsp station
      else match (s.tile t).itemOf descKind p.txid with
        | some d => tile s t d p
        | none => s.lateRsp station
    | 4 => if (s.site station).st = 3 then s.emit (.chipletTx station p 0) else s.lateRsp station
    | 5 => host s (portOf p.dst) p
    | _ => s.lateRsp station

/-- R231 LOAD_RSP_ARRIVE. -/
def execLoadRspArrive (station : Nat) (s : State) : Res :=
  .next (s.rspArrive station kLOAD_RSP 1 State.loadLand
    fun s n p =>
      let st := statusIn p.op
      s.hostReadPart n p.txid st p.payload)

/-- R232 STORE_ACK_ARRIVE. -/
def execStoreAckArrive (station : Nat) (s : State) : Res :=
  .next (s.rspArrive station kSTORE_ACK 2
    (fun s t d p => s.updTile t (·.endDesc d.id (statusIn p.op)))
    fun s n p => s.hostWriteDone n p.txid (statusIn p.op))

/-- R231, R235 ATOMIC_RSP_ARRIVE. -/
def execAtomicRspArrive (station : Nat) (s : State) : Res :=
  .next (s.rspArrive station kATOMIC_RSP 4 State.atomicLand fun s _ _ => s.lateRsp 26)

/-- R205, R514 MSG_ACK_ARRIVE: the item ends with the status of the first acknowledgement, and none
of its packets that are not yet injected is sent. -/
def execMsgAckArrive (station : Nat) (s : State) : Res :=
  .next (s.rspArrive station kMSG_ACK 3
    (fun s t d p => s.updTile t (·.endDesc d.id (statusIn p.op)))
    fun s _ _ => s.lateRsp 26)

end Sys2Proof.Machine
end

