-- ==== Sys2Proof/Machine/Host.lean ====
section
/-! DEFINITION. The PCIe ports: link events (R440), job-0 memory through BAR2 (R443 to R446), and the
module as requester (R447, R448). -/

namespace Sys2Proof.Machine

/-! ## BAR2 (R443 to R446) -/

/-- R443: an access split at every 256-byte block: VA and length of each part. -/
def bar2Parts : Nat → Nat → Nat → List (Nat × Nat)
  | 0, _, _ => []
  | fuel + 1, va, n =>
    if n = 0 then []
    else
      let k := Nat.min n (256 - va % 256)
      (va, k) :: bar2Parts fuel (va + k) (n - k)

def splitBar2 (va n : Nat) : List (Nat × Nat) := bar2Parts (n / 256 + 2) va n

/-- R362: OPT_STATUS.DEEP reads 1. -/
def Optics.deepRuns (o : Optics) : Bool :=
  match o.deep with
  | .running _ | .applied _ => true
  | _ => false

/-- R443: the coordinates of a part. -/
def State.hostCoord (s : State) (n : Nat) : W32 := coord 5 s.cfg.module 26 (n * 256)
def State.memCoord (s : State) : W32 := coord 1 s.cfg.module 20 0xFFF

/-- R445: a write part that is not applied. -/
def State.writeFail (s : State) (n va : Nat) (st : Byte) : State :=
  (s.updPort n fun q => { q with wfail := satInc 65535 q.wfail }).record ioPoint 0xA001 none
    (s.stnCoord 26) (leBytes 7 va ++ [st])

/-- One write part sent as a STORE. -/
def State.sendWrite (s : State) (n va : Nat) (bs : List Byte) : State :=
  let q := s.port n
  let part : Bar2Part := { txid := q.txid, va := va, len := bs.length }
  (s.setPort n { q with txid := q.txid + 1, writes := q.writes ++ [part] }).sendFrom 26
    { kind := kSTORE, vc := 0, job := 0, txid := q.txid, dst := s.memCoord, src := s.hostCoord n,
      addr := va, payload := bs }

/-- R11: one of the codes that tell a failure, by a byte. -/
def failStatus (b : Byte) : Byte :=
  if statusListed b && !statusOk b then b else St.internal

/-- R439, R443, R445, R449 BAR2_WRITE: a host write of job-0 memory. One that reaches beyond BAR2 is a request the
port does not support, and one of more than 512 B is malformed. While deep calibration runs it is
discarded (its parts' status is a free value among the codes of R11 that tell a failure, log entry 2);
poisoned data is not applied. -/
def execBar2Write (port addr : Nat) (data : List Byte) (poisoned : Bool) (s : State) : Res :=
  .next (
    let parts := splitBar2 addr data.length
    if !(s.port port).up then s
    else if 512 < data.length then s.aer port Aer.malformed
    else if 2 ^ s.fused.bar2Log2 < addr + data.length then s.aer port Aer.unsupported
    else if s.opt.deepRuns then
      parts.foldl (fun s p => { s.writeFail port p.1 (failStatus (Config.freeByte s.free)) with free := s.free + 1 }) s
    else if poisoned then (parts.foldl (fun s p => s.writeFail port p.1 St.poisoned) s).aer port Aer.poisoned
    else parts.foldl (fun s p => s.sendWrite port p.1 ((data.drop (p.1 - addr)).take p.2)) s)

/-- One read part sent as a LOAD of the whole 4-byte words it touches. -/
def State.sendRead (s : State) (n : Nat) (p : Nat × Nat) : State × Bar2Part :=
  let q := s.port n
  let part : Bar2Part := { txid := q.txid, va := p.1, len := p.2 }
  ((s.setPort n { q with txid := q.txid + 1 }).sendFrom 26
    { kind := kLOAD, vc := 0, job := 0, txid := q.txid, dst := s.memCoord, src := s.hostCoord n,
      addr := p.1 / 4 * 4 + (p.1 % 4 + p.2 + 3) / 4 * 2 ^ 56 }, part)

/-- R444: a read enters the fabric. -/
def State.enterRead (s : State) (n : Nat) (r : Bar2Read) : State × Bar2Read :=
  let (s, ps) := (splitBar2 r.addr r.len).foldl (fun (acc : State × List Bar2Part) p =>
    let x := acc.1.sendRead n p
    (x.1, acc.2 ++ [x.2])) (s, [])
  (s, { r with entered := true, parts := ps })

/-- R444: the reads of a port whose earlier writes are all acknowledged enter the fabric. -/
def State.enterReads (s : State) (n : Nat) : State :=
  let q := s.port n
  let (s, rs) := q.reads.foldl (fun (acc : State × List Bar2Read) r =>
    let waits := r.waits.filter fun t => q.writes.any (·.txid == t)
    let r := { r with waits := waits }
    if r.entered || !waits.isEmpty then (acc.1, acc.2 ++ [r])
    else
      let x := acc.1.enterRead n r
      (x.1, acc.2 ++ [x.2])) (s, [])
  s.updPort n fun q => { q with reads := rs }

/-- R445, R449: a read is completed; UR and CA are reported. -/
def State.bar2Answer (s : State) (port addr code : Nat) (data : List Byte) : State :=
  let s := s.emit (.bar2Done port addr code data)
  if code = 1 then s.aer port Aer.unsupported
  else if code = 2 then s.aer port Aer.completerAbort
  else s

/-- R439, R443 to R445 BAR2_READ; one beyond BAR2, or of more than 4,096 B, is not supported. -/
def execBar2Read (port addr len : Nat) (s : State) : Res :=
  .next (
    if !(s.port port).up then s
    else if 4096 < len ∨ 2 ^ s.fused.bar2Log2 < addr + len then s.bar2Answer port addr 1 []
    else if s.opt.deepRuns then s.bar2Answer port addr 2 []
    else
      let q := s.port port
      (s.setPort port { q with
        reads := q.reads ++ [{ addr := addr, len := len, waits := q.writes.map (·.txid) }] }).enterReads port)

/-- R240, R445: the parts of a port without a response by their timeout end with TIMEOUT. -/
def State.expireParts (s : State) (n : Nat) : State :=
  let late := fun x : Bar2Part => x.injected.any fun i => decide (i.1 + i.2 ≤ s.ht)
  let s := ((s.port n).writes.filter late).foldl (fun s w => s.hostWriteDone n w.txid St.timeout) s
  s.updPort n fun q => { q with
    reads := q.reads.map fun r => { r with
      parts := r.parts.map fun x => if x.status.isNone && late x then { x with status := some St.timeout } else x } }

/-- R445: the outcome of a read from its parts, the first row of the table that applies: 0 success,
3 poisoned data, 1 UR, 2 CA. -/
def readOutcome (ps : List Bar2Part) : Nat :=
  let has := fun q : Byte → Bool => ps.any fun x => q (x.status.getD St.internal)
  if !has (fun b => !statusOk b) then 0
  else if has (· == St.poisoned) then 3
  else if has fun b => b == St.notPermitted || b == St.translationMiss || b == St.noEndpoint then 1
  else 2

/-- R444, R445 BAR2_READ_COMPLETE: the first read all of whose parts are in is completed. -/
def execBar2ReadComplete (port : Nat) (s : State) : Res :=
  .next (
    let s := (s.expireParts port).enterReads port
    match (s.port port).reads.find? fun r => r.entered && r.parts.all fun x => x.status.isSome with
    | none => s
    | some r =>
      let code := readOutcome r.parts
      let data := if code = 0 then (r.parts.map fun x => (x.data.drop (x.va % 4)).take x.len).flatten else []
      (s.updPort port fun q => { q with reads := q.reads.erase r }).bar2Answer port r.addr code data)

/-! ## Requests to hosts (R447, R448) -/

/-- R232, R447: a host write is over with a status. -/
def State.hostWriteOver (s : State) (p : Packet) (st : Byte) : State :=
  if p.kind == kSTORE then (s.countAnswer 26 st).answer 26 p st []
  else s.updMsg 26 p.src p.txid fun e => { e with status := worseStatus e.status st }

/-- R447: host writes of the port are not yet acknowledged, under a flush on its way or none. -/
def Port.unacked (q : Port) : Bool := !q.unflushed.isEmpty || q.reqs.any fun r => !r.covers.isEmpty

/-- R447: a flush covers every write issued before it: its own, and those of the flushes before it that are on their
way, which keep none. -/
def Port.takeCovers (q : Port) (r : HostReq) : Port × HostReq :=
  let before := q.reqs.takeWhile (·.tag != r.tag)
  let rest := (q.reqs.dropWhile (·.tag != r.tag)).filter (·.tag != r.tag)
  if r.pkt.isSome then ({ q with reqs := before ++ rest }, r)
  else
    ({ q with reqs := before.map (fun x => { x with covers := [] }) ++ rest },
      { r with covers := (before.map (·.covers)).flatten ++ r.covers })

/-- R447 HOST_FLUSH_READ: a 4-byte read that covers every write not yet acknowledged. -/
def execHostFlushRead (port : Nat) (s : State) : Res :=
  .next (
    let q := s.port port
    if !q.unacked || q.refusal.isNone && q.reqsFull then s
    else match q.refusal with
      | some st =>
        (q.unflushed.foldl (fun s p => s.hostWriteOver p st)
          (s.setPort port { q with unflushed := [] })).msgSweep 26
      | none =>
        let tag := q.freeTag
        (s.setPort port { q with
          unflushed := []
          reqs := q.reqs ++ [{ tag := tag, covers := q.unflushed }]
          nextTag := (tag + 1) % 16384 }).emit (.pcieRead port (Config.flushAddr tag) 4 tag))

/-- R448: the status of a PCIe outcome, and its data. -/
def pcieStatus : PcieOutcome → Byte × List Byte
  | .success d => (St.done, d)
  | .ur => (St.notPermitted, [])
  | .ca => (St.internal, [])
  | .poisoned => (St.poisoned, [])

/-- A request to a host is over. -/
def State.reqOver (s : State) (r : HostReq) (st : Byte) (data : List Byte) : State :=
  match r.pkt with
  | some p => (s.countAnswer 26 st).answer 26 p st data
  | none => (r.covers.foldl (fun s p => s.hostWriteOver p st) s).msgSweep 26

/-- R447, R448 PCIE_COMPLETION. -/
def execPcieCompletion (port tag : Nat) (o : PcieOutcome) (s : State) : Res :=
  .next (match (s.port port).reqs.find? (·.tag == tag) with
    | none => s
    | some r =>
      let (st, data) := pcieStatus o
      let x := (s.port port).takeCovers r
      (s.setPort port x.1).reqOver x.2 st data)

/-! ## Links (R440) -/

/-- R448: with the link down every request of the module on it ends with LINK_LOST. -/
def State.linkLost (s : State) (port : Nat) : State :=
  let q := s.port port
  let s := s.setPort port { q with reqs := [], unflushed := [], reads := [] }
  let s := q.reqs.foldl (fun s r => s.reqOver r St.linkLost []) s
  (q.unflushed.foldl (fun s p => s.hostWriteOver p St.linkLost) s).msgSweep 26

/-- R440: a link is taken down and retrained; each attempt is counted. -/
def State.portLinkDown (s : State) (port : Nat) : State :=
  let q := s.port port
  let s := s.setPort port { q with
    up := false, width := 0, rate := 0
    downs := if q.up then satInc 65535 q.downs else q.downs
    retrains := satInc 65535 q.retrains }
  (if q.up then s.linkLost port else s).record ioPoint 0xA003 none (s.stnCoord 26) [BitVec.ofNat 8 port]

/-- R440 PCIE_PORT_RESET: the port's configuration space with its AER status, its MSI-X table and its latches of R8; a
staged half stays (R9). -/
def execPciePortReset (port : Nat) (s : State) : Res :=
  .next { s.updPort port fun q => { q with bme := false, msixEn := false, msixTable := [], aer := 0 } with
    latch := s.latch.filter fun e => e.1 / 2 ^ 32 != port }

/-- An entry of the MSI-X table written (R440). -/
def Port.putMsix (q : Port) (m : MsixWrite) : Port :=
  match m.entry with
  | some (v, a, d) => { q with msixTable := mset {} q.msixTable v { addr := a, data := d } }
  | none => q

/-- R440, R465 PCIE_CONFIG_WRITE: Bus Master Enable, MSI-X Enable and the MSI-X table. -/
def execPcieConfigWrite (port : Nat) (bme : Bool) (msix : MsixWrite) (s : State) : Res :=
  .next (s.updPort port fun q => { q.putMsix msix with bme := bme, msixEn := msix.en })

end Sys2Proof.Machine
end

