-- ==== Sys2Proof/Machine/MemAdmin.lean ====
section
/-! DEFINITION. Retirement of HBM3E channels (R250 to R252), the Mire window (R248), the memory
counters (R253) and the scrub of module memory (R230). -/

namespace Sys2Proof.Machine

/-- The place of a slot in the factory table (R228). -/
def factoryPlace (slot : Nat) : Nat := slot % 192 * 16 + slot / 192

/-- R227: the spare positions of a RESERVE. -/
def Mem.spares (m : Mem) : List Nat := (List.range (3072 - m.slots)).map fun i => factoryPlace (m.slots + i)

def State.freeSpares (s : State) : List Nat := s.mem.spares.filter fun p => !s.mem.claimed.contains p

/-- R250: the free spare positions that a retirement of channel c may take, lowest channel first. One on a
channel that is retired or moving itself is never given out (DESIGN CHOICE, log entry 72), though SPARE_FREE
counts it until it is claimed (R253). -/
def State.sparesFor (s : State) (c : Nat) : List Nat :=
  (s.freeSpares.filter fun p => p / 16 != c && (s.chan (p / 16)).st == 0).mergeSort (fun a b => decide (a ≤ b))

/-- The slots of a channel. -/
def Mem.slotsOf (m : Mem) (c : Nat) : List Nat :=
  (List.range m.slots).filter fun slot => m.slotPlace slot / 16 == c

/-- R252, R428: a channel retired while memory holds nothing: only the table changes. -/
def State.retireEmpty (s : State) (c : Nat) : Option State :=
  let slots := s.mem.slotsOf c
  let free := s.sparesFor c
  if free.length < slots.length then none
  else
    let moves := slots.zip free
    let s := s.setChan c { s.chan c with st := 2 }
    some { s with mem := { s.mem with
      slotMap := moves.foldl (fun t p => mset (factoryPlace p.1) t p.1 p.2) s.mem.slotMap
      claimed := s.mem.claimed ++ moves.map (·.2) } }

/-- R252: MEM_RETIRE before HBM3E is initialised. -/
def State.retireEarly (s : State) (c : Nat) : State :=
  if 191 < c || (s.chan c).st == 2 then { s with mem := { s.mem with retRefused := true } }
  else match s.retireEmpty c with
    | none => { s with mem := { s.mem with retRefused := true } }
    | some s => { s with mem := { s.mem with
        retSt := 3, retRefused := false, retDone := (s.mem.slotsOf c).length, retCh := c, retPoison := 0
        flashRetired := addOnce c s.mem.flashRetired } }

/-- R250 to R252: a write of MEM_RETIRE. -/
def State.retire (s : State) (v : W32) : State :=
  let c := v.toNat % 256
  if !bit v.toNat 8 then s
  else if !s.mem.initDone then s.retireEarly c
  else if s.mem.retSt = 1 || s.mem.retSt = 2 || 191 < c || (s.chan c).st == 2 then
    { s with mem := { s.mem with retRefused := true } }
  else
    let slots := s.mem.slotsOf c
    let free := s.sparesFor c
    if free.length < slots.length then { s with mem := { s.mem with retRefused := true } }
    else
      let moves := slots.zip free
      let s := s.setChan c { s.chan c with st := 1 }
      { s with mem := { s.mem with
        retSt := 1, retRefused := false, retDone := 0, retCh := c, retPoison := 0
        moves := moves, claimed := s.mem.claimed ++ moves.map (·.2) } }

/-- R250 CHANNEL_RETIRE. -/
def execChannelRetire (_w : Who) (v : W32) (s : State) : Res := .next (s.retire v)

/-- Bytes of a position. -/
def positionBytes : Nat := 150994944

/-- R251: one slot copied to its new place; the unreadable lines, by index in the slot. -/
def Mem.copySlot (m : Mem) (slot new : Nat) : Mem × List Nat :=
  let a := hbmKeyAt (m.slotPlace slot) 0 0
  let b := hbmKeyAt new 0 0
  let inA := fun k => decide (a ≤ k) && decide (k < a + positionBytes)
  let inB := fun k => decide (b ≤ k) && decide (k < b + positionBytes)
  let lines := (m.hbmPoison.filter fun w => inA (w * 32)).foldl (fun l w => addOnce ((w * 32 - a) / 256) l) []
  let moved := m.hbm.filter fun e => inA e.1
  ({ m with
      hbm := moved.foldl (fun h e => mset 0 h (e.1 - a + b) e.2) (m.hbm.filter fun e => !inB e.1)
      hbmPoison := (m.hbmPoison.filter fun w => !inB (w * 32)) ++
        (lines.map fun l => (List.range 8).map fun j => (b + l * 256) / 32 + j).flatten
      hbmSoft := m.hbmSoft.filter fun w => !inB (w * 32) }, lines)

/-- R230, R251 RETIRE_COPY_DONE: every line of the moving slots has been read and copied. -/
def execRetireCopyDone (s : State) : Res :=
  .next (
    if s.mem.retSt ≠ 1 then s
    else
      let read := fun l : List Nat => l.filter fun w => s.mem.moves.any fun p =>
        decide (hbmKeyAt (s.mem.slotPlace p.1) 0 0 ≤ w * 32) &&
          decide (w * 32 < hbmKeyAt (s.mem.slotPlace p.1) 0 0 + positionBytes)
      let x := s.chan s.mem.retCh
      let s := s.setChan s.mem.retCh { x with corr := satAdd 4294967295 x.corr (read s.mem.hbmSoft).length }
      let s := (read s.mem.hbmPoison).foldl State.hbmUncorr s
      let r := s.mem.moves.foldl (fun (acc : Mem × Nat) p =>
        let c := acc.1.copySlot p.1 p.2
        (c.1, acc.2 + c.2.length)) (s.mem, 0)
      { s with mem := { r.1 with
        retSt := 2, retRefused := false, retDone := s.mem.moves.length, retPoison := Nat.min 255 r.2 } })

/-- R251 RETIRE_SWITCH: in a maintenance interval with every holder of an HBM window quiesced by
HOLD_HBM the slot tables take the new mapping. -/
def execRetireSwitch (s : State) : Res :=
  .next (
    let held := match s.cfg.run with
      | some r => r.req.op == 3 && r.phase == .applying
      | none => false
    if s.mem.retSt ≠ 2 ∨ held = false ∨ s.inInterval = false then s
    else
      let c := s.mem.retCh
      let s := s.setChan c { s.chan c with st := 2 }
      let m := s.mem
      let map := m.moves.foldl (fun t p => mset (factoryPlace p.1) t p.1 p.2) m.slotMap
      ({ s with mem := { m with slotMap := map, moves := [], retSt := 3, retRefused := false,
                                     flashRetired := addOnce c m.flashRetired } }).recStn
        0x6005 none (channelStation c) [BitVec.ofNat 8 c, BitVec.ofNat 8 m.retPoison])

/-- A value stored as the nearer limit. -/
def clampTo (lo hi v : Nat) : Nat := if v < lo then lo else if hi < v then hi else v

/-- R248, R253: a write of MEM_MIRE_WINDOW. -/
def State.mireWrite (s : State) (v : W32) : State :=
  let raw := v.toNat % 2048
  let n := clampTo 10 1000 raw
  if s.mem.mireW ≤ n || s.loadedParts.isEmpty then { s with mem := { s.mem with mireW := n } }
  else s.record ioPoint 0x6006 none (s.stnCoord 26) (leBytes 2 raw)

/-- R248 MIRE_WINDOW_WRITE. -/
def execMireWindowWrite (_w : Who) (v : W32) (s : State) : Res := .next (s.mireWrite v)

/-- R253: MEM_CMD.CNT_CLR. -/
def State.memClear (s : State) : State :=
  let s := dataStations.foldl (fun s n => s.updStn n fun x => { x with
    miss := 0, perm := 0, replay := 0, unknown := 0, staleAtomic := 0, merge := 0, mireWait := 0 }) s
  (List.range 192).foldl (fun s c => s.setChan c { s.chan c with uncorr := 0, corr := 0 }) s

/-- R253 MEM_CNT_CLR. -/
def execMemCntClr (_w : Who) (v : W32) (s : State) : Res :=
  .next (if bit v.toNat 0 then s.memClear else s)

/-- R230 HBM_SCRUB: one line of a channel is read and its corrected data written back; it waits for the
channel's retrain (R385). -/
def execHbmScrub (channel line : Nat) (s : State) : Res :=
  .next (
    if 191 < channel ∨ 9437184 ≤ line ∨ s.mem.selfRefresh = true ∨ s.retraining channel = true then s
    else
      let ws := (List.range 8).map fun j => (channel * channelBytes + line * 256) / 32 + j
      let soft := ws.filter (· ∈ s.mem.hbmSoft)
      let x := s.chan channel
      let s := s.setChan channel { x with corr := satAdd 4294967295 x.corr soft.length }
      let s := { s with mem := { s.mem with hbmSoft := s.mem.hbmSoft.filter fun w => !soft.contains w } }
      (ws.filter (· ∈ s.mem.hbmPoison)).foldl State.hbmUncorr s)

end Sys2Proof.Machine
end

