-- ==== Sys2Proof/Machine/Boot.lean ====
section
/-! DEFINITION. Start-up (R424 to R438): firmware check, fields, HBM3E, lasers, the boot windows, the
enable of the regions, and what a fault decides (R435). -/

namespace Sys2Proof.Machine

/-! ## Faults (R435) -/

/-- R435 FAIL: lasers off, hall transmitters dark, regions disabled, initialised HBM3E in self-refresh,
Peat flushed. -/
def State.startupFail (s : State) (step detail : Nat) : State :=
  let s := (s.bootOutcome step detail 3).darken
  State.startFlush { s.enterOffered with
    boot := { s.boot with mode := .failed, failStep := step, failDetail := detail }
    regions := s.regions.map fun r => (r.1, { r.2 with boot := .off, ungated := [], stopped := true })
    mem := { s.mem with selfRefresh := s.mem.initDone } } 0

/-! ## Power and firmware (R424, R496) -/

/-- The pins of a module that leaves power-off reset (R501, R503). -/
def Board.powered (b : Board) : Board := { b with mate := true, leakClr := true, flowGood := true }

/-- R424, R496: start-up begins at P0 with the board's pins as they then stand. -/
def State.start (s : State) : State :=
  let s := s.moduleReset .boot
  { s with board := s.board.powered }

/-- R424, R496 POWER_ON: the input rises through 36.0 V. Behind a power-fail flush or an open
disconnect the module waits on (R497). -/
def execPowerOn (s : State) : Res :=
  .next (
    if s.boot.mode = .powerOff ∧ s.boot.failOff = false then s.start
    else if s.boot.mode = .boot ∧ s.boot.osc = s.boot.p0 ∧ s.boot.p1 = none then { s with board := s.board.powered }
    else s)

/-- R419, R424, R435, R461, R463 FIRMWARE_CHECK_DONE: P1, or recovery mode. The security block's check of its key and
chain is taken to end with it (log entry 30). -/
def execFirmwareCheckDone (ok : Bool) (s : State) : Res :=
  .next (
    if !s.booting || s.boot.p1.isSome then s
    else if ok then
      let s := if s.cfg.flashFw.2 = s.cfg.fwDigest then s else s.measured_ 2
      State.stepDone { s with
        boot := { s.boot with p1 := some s.boot.osc }
        cfg := { s.cfg with shadow := true, version := s.cfg.flashFw.1, fwDigest := s.cfg.flashFw.2 }
        sec := { s.sec with identity := true } } 0
    else
      State.bootOutcome { s with
        boot := { s.boot with mode := .recovery }, cfg := { s.cfg with recMode := true } } 0 0 1)

/-- R419 RECOVERY_FLASH_DONE: the image is in flash and the module restarts. -/
def execRecoveryFlashDone (s : State) : Res :=
  .next (match s.cfg.recMode, s.cfg.recState, s.cfg.staged with
    | true, 2, some (id, digest, _) =>
      State.moduleReset { s with cfg := { s.cfg with flashFw := (id.toNat % 65536, digest) } } .boot
    | _, _, _ => s)

/-! ## PCIe (R424, R435, R440) -/

/-- R424, R435: PCIE is complete when every port has trained or failed and one has trained; two that
fail end start-up. -/
def State.pcieSettled (s : State) : State :=
  let b := s.boot
  if s.booting = false ∨ s.stepIs 1 = true then s
  else if b.pcieFailed.length = 2 then s.startupFail 1 0xFFFF
  else if b.pcieTrained.length + b.pcieFailed.length = 2 then s.stepDone 1
  else s

/-- R435, R440 PCIE_LINK_DOWN: a link at a lower rate or width, or 10 ms in Recovery, is taken down and
retrained; each attempt is counted. In the PCIE step of start-up the port has failed. -/
def execPcieLinkDown (port : Nat) (_cause : LinkCause) (s : State) : Res :=
  .next (
    let s := s.portLinkDown port
    if s.booting = false ∨ s.stepIs 1 = true then s
    else
      let s := { s with boot := { s.boot with
        pcieTrained := s.boot.pcieTrained.filter (· != port), pcieFailed := addSorted port s.boot.pcieFailed } }
      (if s.boot.pcieFailed.length = 2 then s else s.bootOutcome 1 0 2).pcieSettled)

/-- R424, R440 PCIE_LINK_UP: 64 GT/s on all 8 lanes; at start-up from P0 + 20 ms. -/
def execPcieLinkUp (port : Nat) (s : State) : Res :=
  .next (
    if s.boot.mode = .powerOff ∨ s.boot.mode = .held ∨
        (s.booting = true ∧ s.boot.osc < s.boot.p0 + 20000000) then s
    else
      let s := s.updPort port fun q => { q with up := true, width := 8, rate := 6 }
      State.pcieSettled { s with boot := { s.boot with
        pcieTrained := addSorted port s.boot.pcieTrained, pcieFailed := s.boot.pcieFailed.filter (· != port) } })

/-! ## Fields (R427) -/

def State.field (s : State) (f : Nat) : FieldSt := mget .off s.boot.fields f
def State.setField (s : State) (f : Nat) (x : FieldSt) : State :=
  { s with boot := { s.boot with fields := mset .off s.boot.fields f x } }

/-- R343, R424, R427 FIELD_POWER_UP: field f at P1 + 2f ms, in ascending order; its heaters take their codes. -/
def execFieldPowerUp (field : Nat) (s : State) : Res :=
  .next (match s.boot.p1 with
    | none => s
    | some p =>
      if !s.booting || 31 < field || s.field field != .off || s.boot.osc < p + 2000000 * field ||
          (List.range field).any (fun f => s.field f == .off) then s
      else (s.setField field .testing).heatField field)

/-- R424: FIELDS is complete when every field has been tested. -/
def State.fieldsDone (s : State) : State :=
  if (List.range 32).all fun f => s.field f == .passed || s.field f == .failed then s.stepDone 2 else s

/-- R252, R428: HBM3E initialisation begins: RESERVE is fixed, and the channels recorded as retired are
written to the slot table. One for which the RESERVE now in force leaves too few spare positions stays in service:
R250 and R252 do not settle it (DESIGN CHOICE, log entry 83). -/
def State.hbmInit (s : State) : State :=
  if s.mem.initDone then s
  else s.mem.flashRetired.foldl (fun s c => if (s.chan c).st = 2 then s else (s.retireEmpty c).getD s) { s with mem := { s.mem with initDone := true } }

/-- R427: a field has passed; its station is present where something stands at it, a chiplet's site
only by admission (R146, R391). -/
def State.fieldPass (s : State) (f : Nat) : State :=
  let s := s.setField f .passed
  let s := if f < 27 ∧ (20 ≤ f ∨ f < s.dies) then s.updStn f fun x => { x with present := true } else s
  (if 20 ≤ f ∧ f ≤ 25 then s.hbmInit else s).fieldsDone

/-- R435: a field has failed. -/
def State.fieldFail (s : State) (f : Nat) : State :=
  let s := s.setField f .failed
  if f < 20 then ((s.setDie f { s.die f with populated := false }).bootOutcome 2 f 5).fieldsDone
  else if 27 ≤ f ∧ f ≤ 30 then (s.bootOutcome 2 f 6).fieldsDone
  else s.startupFail 2 f

/-- R427, R435 FIELD_BIST_DONE. -/
def execFieldBistDone (field : Nat) (ok : Bool) (s : State) : Res :=
  .next (
    if !s.booting || s.field field != .testing then s
    else if ok then s.fieldPass field else s.fieldFail field)

/-! ## HBM3E (R428) -/

/-- R435: channels that fail training are retired, or where no spare position is left fail their stack. -/
def State.retireFailed (s : State) : List Nat → State
  | [] => s
  | c :: cs =>
    if (s.chan c).st = 2 then s.retireFailed cs
    else match s.retireEmpty c with
      | some s' =>
        let s' := { s' with mem := { s'.mem with flashRetired := addOnce c s'.mem.flashRetired } }
        ((s'.bootOutcome 3 (c / 16) 4).recStn 0x6005 none (channelStation c) [BitVec.ofNat 8 c, 0]).retireFailed cs
      | none => s.startupFail 3 (c / 16)

/-- R428, R435 HBM_TRAIN_DONE: both stacks of a memory station are trained; a channel listed has failed,
and so has the stack named. -/
def execHbmTrainDone (station : Nat) (failedChannels : List Nat) (stackFail : Option Nat) (s : State) : Res :=
  .next (
    if !s.booting || station < 20 || 25 < station || s.field station != .passed ||
        s.boot.hbmTrained.contains station then s
    else match stackFail with
      | some k => s.startupFail 3 k
      | none =>
        let s := s.retireFailed (failedChannels.filter fun c => decide (20 + c / 32 = station))
        { s with boot := { s.boot with hbmTrained := addSorted station s.boot.hbmTrained } })

/-- R428 HBM_ZERO_FILL_DONE: every line of a station reads zero with valid check bits; retired channels
are skipped. -/
def execHbmZeroFillDone (station : Nat) (s : State) : Res :=
  .next (
    if !s.booting || !s.boot.hbmTrained.contains station || s.boot.hbmFilled.contains station then s
    else
      let filled := fun key : Nat =>
        let c := key / channelBytes
        decide (20 + c / 32 = station) && (s.chan c).st != 2
      let s := { s with
        mem := { s.mem with
          hbm := s.mem.hbm.filter fun e => !filled e.1
          hbmPoison := s.mem.hbmPoison.filter fun w => !filled (w * 32)
          hbmSoft := s.mem.hbmSoft.filter fun w => !filled (w * 32) }
        boot := { s.boot with hbmFilled := addSorted station s.boot.hbmFilled } }
      if s.boot.hbmFilled.length = 6 then s.stepDone 3 else s)

/-! ## Lasers (R343, R430) -/

/-- R343: 5 ms lie between laser starts. -/
def State.laserSpaced (s : State) : Bool :=
  match s.opt.lastStart with
  | none => true
  | some t => decide (t + 5000000 ≤ s.boot.osc)

/-- R430, R473: a laser may start: in start-up lasers 0–31 from the end of field 31's test, laser k at
P1 + 63.5 + 5k ms; in an exit from the shared safe state those that gave light before it. -/
def State.mayStart (s : State) (l : Nat) : Bool :=
  let x := s.laser l
  !x.started && s.laserSpaced &&
    (if s.safe.exiting then
       x.st == .off && x.wasActive && !((List.range l).any fun k => (s.laser k).st == .off && (s.laser k).wasActive && !(s.laser k).started)
     else
       s.booting && decide (l < 32) && x.st == .active && s.field 31 == .passed &&
       s.boot.p1.any (fun p => decide (p + 63500000 + 5000000 * l ≤ s.boot.osc)) &&
       (List.range l).all fun k => (s.laser k).started || (s.laser k).st != .active)

/-- R343: the module's own count at a laser's start. -/
def State.noteStart (s : State) : State := { s with opt := { s.opt with lastStart := some s.boot.osc } }

/-- R424, R430: LASERS is complete when every index is lit or dark. -/
def State.lasersDone (s : State) : State := if s.indicesSettled then s.stepDone 5 else s

/-- R343, R365, R430 LASER_START: a laser starts; the start of a cold spare is its assignment, to the laser that
asked first (DESIGN CHOICE, log entry 86). -/
def execLaserStart (laser : Nat) (s : State) : Res :=
  .next (
    if s.mayStart laser then
      (s.setLaser laser { s.laser laser with started := true, since := s.boot.osc, readings := [], readAt := none }).noteStart
    else if !s.laserSpaced then s
    else match s.askerFor laser with
      | none => s
      | some l => (s.assignSpare l laser).noteStart.lasersDone)

/-- R365, R430: a warming spare that has not locked 50 ms after its start has failed, and its laser asks anew. -/
def State.spareFailed (s : State) (sp : Nat) : State :=
  let owner := s.spareOwner sp
  let s := s.setLaser sp { s.laser sp with st := .failed, lit := false }
  let s := if s.booting then s.bootOutcome 5 0 7 else s
  match owner with
  | none => s
  | some l => ((s.setLaser l { s.laser l with spare := none }).askSpare l).lasersDone

/-- R430, R435, R473 LASER_LOCK: a laser that has started locks, or 50 ms after its start has failed. -/
def execLaserLock (laser : Nat) (locked : Bool) (s : State) : Res :=
  .next (
    let x := s.laser laser
    if x.st = .warming then (if locked ∨ s.boot.osc < x.since + 50000000 then s else s.spareFailed laser)
    else if !x.started || x.lit || (x.st != .active && x.st != .off) then s
    else if locked then (s.setLaser laser { x with st := .active, wasActive := false, lit := true }).lasersDone
    else if s.boot.osc < x.since + 50000000 then s
    else
      let s := s.setLaser laser { x with st := .failed, wasActive := false, lit := false }
      let s := if s.booting then s.bootOutcome 5 0 7 else s
      (s.askSpare laser).lasersDone)

/-! ## Boot windows (R426) -/

/-- R9: the LO half of a pair is staged for its requester. -/
def State.stageLo (s : State) (w : Who) (loAddr : Nat) (v : W32) : State :=
  { s with stage := minsert s.stage (w.slot * 2 ^ 32 + loAddr) v }

/-- R438: BAR0 address of GLB_BOOT_WINp_LO. -/
def bootWinAddr (p : Nat) : Nat := 0x110 + 8 * p

/-- R426, R438: a write of GLB_BOOT_WINp, accepted from PCIe port p before the first SCOPE 0 load. -/
def State.bootWin (s : State) (w : Who) (p : Nat) (hi : Bool) (v : W32) : State :=
  if !((w == .port0 && p == 0) || (w == .port1 && p == 1)) || s.cfg.moduleLoaded then s
  else if !hi then s.stageLo w (bootWinAddr p) v
  else
    let (s, a) := s.hiWrite w (bootWinAddr p) (if p = 0 then s.boot.bootWin0 else s.boot.bootWin1) v
    let s := { s with boot := if p = 0 then { s.boot with bootWin0 := a } else { s.boot with bootWin1 := a } }
    s.updStn 26 fun x => { x with windows := mset 0 x.windows p (bootWindow p a) }

/-- R426 BOOT_WIN_WRITE. -/
def execBootWinWrite (w : Who) (p : Nat) (hi : Bool) (v : W32) (s : State) : Res := .next (s.bootWin w p hi v)

/-! ## Regions (R432) -/

/-- The regions that start-up enables, in order. -/
def State.bootRegions (s : State) : List Nat :=
  ((List.range s.dies).filter fun d => (s.die d).populated).flatMap dieRegions

/-- R432: the enable instant of a region, E + 4 µs × k. -/
def State.enableAt (s : State) (r : Nat) : Option Nat := s.boot.e.map fun e => e + 4000 * r

/-- R432: HT has reached an offset from the region's enable instant. -/
def State.enableReached (s : State) (r ns : Nat) : Bool := (s.enableAt r).any fun t => decide (t + ns ≤ s.ht)

/-- R381, R432 REGION_ENABLE_START, in ascending order: the region's side of its bond port is reset, its map of the image
stands, and its PLL starts at OP_POINT 3. -/
def execRegionEnableStart (region : Nat) (s : State) : Res :=
  .next (
    let x := s.rgn region
    if !s.booting || !s.bootRegions.contains region || x.boot != .off || !s.enableReached region 0 ||
        s.bootRegions.any (fun k => decide (k < region) && (s.rgn k).boot == .off) then s
    else
      let x := x.takeMap
      s.setRgn region { x with
        boot := .enabling, ungated := [], op := 3, opNext := 3, locked := false, stopped := true
        bond := { x.bond with ends := { x.bond.ends with far := x.bond.ends.far + 1, farSaw := none } } })

/-- R343, R432 CLUSTER_UNGATE: physical cluster c at 250 c ns, in ascending order. -/
def execClusterUngate (region cluster : Nat) (s : State) : Res :=
  .next (
    let x := s.rgn region
    if x.boot != .enabling || cluster != x.ungated.length || !decide (cluster < 16) ||
        !s.enableReached region (250 * cluster) then s
    else s.setRgn region { x with ungated := x.ungated ++ [cluster] })

/-- R33, R310, R432 REGION_CLOCK_START: at 4,000 ns the clock runs at 0.6 GHz, locked, and the SRAM of
its tiles is cleared. -/
def execRegionClockStart (region : Nat) (s : State) : Res :=
  .next (
    let x := s.rgn region
    if x.boot != .enabling || x.ungated.length != 16 || !s.enableReached region 4000 then s
    else
      let s := s.setRgn region { x with boot := .clocked, stopped := false, locked := true }
      { s with tiles := s.tiles.map fun t =>
          if tileRegion t.1 = region then (t.1, { t.2 with sram := [], poison := [], soft := [] }) else t })

/-- R54, R435: routers that fail their test: 0–255 the tile router of a site, 256–271 a cluster router,
272 the region router. -/
def Region.badRouters (x : Region) (bad : List Nat) : Region :=
  { x with
    badTileRouters := (bad.filter (· < 256)).foldl (fun l b => addSorted b l) x.badTileRouters
    badClusterRouters := (bad.filter fun b => 256 ≤ b && b < 272).foldl (fun l b => addSorted (b - 256) l) x.badClusterRouters
    badRegionRouter := x.badRegionRouter || bad.contains 272 }

/-- R435: sites that fail are marked and their logical tiles moved as in step 2 of R412, or left without
a site; a site whose router fails is treated alike (R54). -/
def State.bootSites (s : State) (r : Nat) (bad : List Nat) : State :=
  let x := s.rgn r
  let new := bad.filter fun b => decide (b < 256) && !x.siteBad.contains b
  let moved := s.movedTiles r bad
  let (map, lost) := x.remap bad moved
  let s := s.setRgn r { x with
    siteBad := new.foldl (fun l b => addSorted b l) x.siteBad, spareMap := map, unplaced := x.unplaced ++ lost }
  lost.foldl (fun s l => s.updTile (r * 256 + l) fun y => { y with unplaced := true }) s

/-- R379, R435: a bond port that has trained DOWN in a direction. -/
def State.bootBond (s : State) (r : Nat) : State :=
  if s.portDown r 0 || s.portDown r 1 then (s.rebindRegion r).bootOutcome 7 0 10 else s

/-- R424: REGIONS is complete when every region is enabled. -/
def State.regionsDone (s : State) : State :=
  if s.bootRegions.all fun r => s.boot.regionsDone.contains r then s.stepDone 7 else s

/-- R54, R432, R435 REGION_ENABLE_DONE: with a router that failed, the region's tables are regenerated first. -/
def execRegionEnableDone (region : Nat) (badSites badRouters : List Nat) (s : State) : Res :=
  .next (
    if !s.booting || (s.rgn region).boot != .clocked then s
    else
      let sites := badSites ++ badRouters.filter (· < 256)
      let s := (s.updRgn region (·.badRouters badRouters)).bootSites region sites
      let s := if badRouters.isEmpty then s else s.regenTables region
      let s := badSites.foldl (fun s _ => s.bootOutcome 7 0 8) s
      let s := badRouters.foldl (fun s _ => s.bootOutcome 7 0 9) s
      let s := (s.bootBond region).updRgn region fun x => { x with boot := .enabled }
      State.regionsDone { s with boot := { s.boot with regionsDone := addSorted region s.boot.regionsDone } })

end Sys2Proof.Machine
end

