-- ==== Sys2Proof/Machine/Board.lean ====
section
/-! DEFINITION. The board: input power (R496, R497), MOD_RESET_N (R502) and MATE_N (R503). -/

namespace Sys2Proof.Machine

/-- R499: the connector J1 to J4 of a hall port, and its transmit and receive fibre positions there. -/
def hallConnector (port : Nat) : Nat := port / 8 + 1
def hallTxFibre (port : Nat) : Nat := port % 8 + 1
def hallRxFibre (port : Nat) : Nat := 16 - port % 8

/-- R496, R497 INPUT_DISCONNECT: the disconnect opens; a flush that runs is completed and power-off reset
follows. -/
def execInputDisconnect (s : State) : Res := .next (if s.boot.mode = .powerOff then s else s.thenOff)

/-- R497, R503 POWER_OFF_RESET_EXIT: 100 ms of input in range, the connector mated: start-up at P0. -/
def execPowerOffResetExit (s : State) : Res := .next (if s.boot.mode = .powerOff then s.start else s)

/-- R503 MATE_BREAK: MATE_N goes high while the module runs. -/
def execMateBreak (s : State) : Res :=
  .next (
    let s := { s with board := { s.board with mate := false } }
    if s.boot.mode = .powerOff then s else s.powerFail)

/-- R502: the reset of MOD_RESET_N: work ends at once, Peat is flushed and the reset follows. -/
def State.pinReset (s : State) : State :=
  let e := s.evt
  let r := s.moduleReset .held
  let s := State.startFlush { r with board := { r.board with resetLow := true }, evt := e } 0
  if s.evt.flush.isSome then { s with evt := { s.evt with after := Nat.max 1 s.evt.after } }
  else s.moduleReset .held

/-- R502 MOD_RESET: MOD_RESET_N low for 1 ms. -/
def execModReset (s : State) : Res :=
  .next (if s.boot.mode = .powerOff ∨ s.boot.mode = .held then { s with board := { s.board with resetLow := true } }
    else s.pinReset)

/-- R502 MOD_RESET_RELEASE: the pin is high again and start-up begins at P0, behind the flush. -/
def execModResetRelease (s : State) : Res :=
  .next (
    let s := { s with board := { s.board with resetLow := false } }
    if s.boot.mode = .held ∧ s.evt.flush = none then s.moduleReset .boot else s)

end Sys2Proof.Machine
end

