-- ==== Sys2Proof/Machine/Read.lean ====
section
/-! DEFINITION. The register space of BAR0 as it reads: the blocks of every chapter (R62 to R65, R147, R148,
R177 to R179, R217 to R220, R253 to R255, R283 to R285, R316 to R319, R346 to R349, R371, R372, R395 to
R397, R420 to R423, R438, R464 to R466, R491 to R493, R504). -/

namespace Sys2Proof.Machine

/-! ## Helpers -/

/-- Word n of a wide value: bytes 4n to 4n + 3. -/
def wordOf (v n : Nat) : Nat := v / 2 ^ (32 * n) % 2 ^ 32

/-- Word n of bytes. -/
def byteWord (bs : List Byte) (n : Nat) : Nat := leNat ((bs.drop (4 * n)).take 4)

/-- A quotient in a register's unit, rounded down and kept within its field. -/
def unitsOf (max : Nat) (q : Rat) : Nat := Nat.min max q.floor.toNat

/-- The index i with offset = base + i × step + rest, where i < n. -/
def slotIn (o base step n : Nat) : Option (Nat × Nat) :=
  if base ≤ o ∧ o < base + step * n then some ((o - base) / step, (o - base) % step) else none

def popCount (v : W32) : Nat := ((List.range 32).filter fun i => v.getLsbD i).length

/-! ## Codes of states -/

def TileSt.code : TileSt → Nat
  | .idle => 0 | .running => 1 | .waiting => 2 | .retention => 3 | .fencing => 4 | .fenced => 5 | .faulted => 7

def TimeSt.code : TimeSt → Nat
  | .free => 0 | .acquiring => 1 | .locked => 2 | .holdover => 3

def TwlSt.code : TwlSt → Nat
  | .none => 0 | .loaded => 1 | .active => 2 | .stopping => 3 | .stoppedTime => 4

def PartSt.code : PartSt → Nat
  | .empty => 0 | .loaded => 1 | .quiescing => 2 | .applying => 3 | .noSite => 4 | .safeState => 5

def CkptSt.code : CkptSt → Nat
  | .idle => 0 | .armed => 1 | .saving => 2 | .paused => 3 | .restoring => 4 | .refusedBusy => 5
  | .refusedImage => 6 | .failed => 7

def ReqSt.code : ReqSt → Nat
  | .idle => 0 | .queued => 1 | .checking => 2 | .quiescing => 3 | .applying => 4 | .resuming => 5
  | .done => 6 | .refused => 7

def FwSt.code : FwSt → Nat
  | .idle => 0 | .staging => 1 | .standbyPrep => 2 | .takeover => 3 | .flashing => 4 | .done => 5 | .abandoned => 6

def LaserSt.code : LaserSt → Nat
  | .active => 0 | .cold => 1 | .warming => 2 | .locked => 3 | .failed => 4 | .off => 5

def RootSt.code : RootSt → Nat
  | .unused => 0 | .opened => 1 | .ending => 2

/-! ## Identity and global control, 0x000_0000 (R438, R464, R491, R504) -/

/-- R441: the Device ID. -/
def State.deviceId (s : State) : Nat := if s.fused.m6416 then 0x6416 else 0x8020

/-- R441: what a port's function shows in its configuration space: vendor and device ID, revision, class code,
subsystem vendor and subsystem ID, and the log2 sizes of BAR0, BAR2 and BAR4. No command reads it. -/
def State.pciFunction (s : State) : List Nat :=
  [Config.vendorId.toNat, s.deviceId, 0xB1, 0x120000, s.fused.subVendor.toNat, s.fused.subId.toNat, 26, s.fused.bar2Log2, 24]

/-- R438 GLB_BOOT_STATUS. -/
def State.bootStatus (s : State) : Nat :=
  let waitImage := s.stepIs 3 && s.field 26 == .passed && !s.cfg.moduleLoaded
  let waitTime := s.field 31 == .passed && s.time.st == .free
  at_ 31 (b2n s.boot.ready) + at_ 30 (b2n (s.boot.mode == .failed)) + at_ 29 (b2n waitImage) + at_ 28 (b2n waitTime) +
    s.boot.steps.toNat

/-- R491 GLB_SAFE_MAP. -/
def State.safeMap (s : State) : Nat :=
  (allParts.map fun p => if (s.part p).st = .safeState then 2 ^ p else 0).foldl (· + ·) 0

def State.rdGlb (s : State) (o : Nat) : Nat :=
  match o with
  | 0x000 => at_ 24 0xB1 + s.deviceId
  | 0x008 => wordOf s.fused.serial.toNat 0
  | 0x00C => wordOf s.fused.serial.toNat 1
  | 0x100 => s.bootStatus
  | 0x104 => at_ 28 s.boot.failStep + s.boot.failDetail
  | 0x108 => wordOf s.boot.readyHt 0
  | 0x10C => wordOf s.boot.readyHt 1
  | 0x110 => wordOf s.boot.bootWin0.toNat 0
  | 0x114 => wordOf s.boot.bootWin0.toNat 1
  | 0x118 => wordOf s.boot.bootWin1.toNat 0
  | 0x11C => wordOf s.boot.bootWin1.toNat 1
  | 0x200 => at_ 31 (b2n s.safe.shared) + s.safe.trig.toNat / 2 * 2
  | 0x208 => wordOf s.safeMap 0
  | 0x20C => wordOf s.safeMap 1
  | 0x300 => at_ 7 (b2n s.board.htPresent) + at_ 6 (b2n s.board.mate) + at_ 5 (b2n s.board.leakClr) +
      at_ 4 (b2n s.board.flowGood) + s.board.addr.toNat
  | _ => 0

/-! ## Time, 0x010_0000 (R316 to R318) -/

/-- R297, R317: an offset in ns as signed ps. -/
def ofsPs (q : Rat) : Nat := trunc 32 (satPs (q * 1000).floor)

def State.timeStatus (s : State) : Nat :=
  let t := s.time
  at_ 16 t.epoch.toNat + at_ 8 ((List.range 8).filter fun n => (mget {} t.ports n).valid).length +
    at_ 5 (b2n t.disagree) + at_ 4 (b2n t.uncertain) + at_ 3 t.mode + t.st.code

def TimePort.rd (p : TimePort) (o : Nat) : Nat :=
  match o with
  | 0x0 => p.cfg.toNat
  | 0x4 => p.src.toNat
  | 0x8 => at_ 31 (b2n p.valid) + at_ 30 (b2n p.excluded) + Nat.min 65535 p.rtt
  | 0xC => ofsPs p.ofs
  | _ => 0

def Station.rdTime (x : Station) : Nat :=
  at_ 31 (b2n x.delayValid) + at_ 30 (b2n x.timeBad) + at_ 16 (Nat.min 255 x.mismatch) + x.delay % 65536

/-- The fraction of R316 is what the requester's last read of TIM_HT_LO latched. -/
def State.rdTim (s : State) (w : Who) (o : Nat) : Nat :=
  let t := s.time
  match o with
  | 0x000 => wordOf t.ht 0
  | 0x004 => wordOf t.ht 1
  | 0x008 => (mget 0 s.latch (w.slot * 2 ^ 32 + 0x100008)).toNat
  | 0x00C => s.timeStatus
  | 0x010 => at_ 2 (b2n t.serve) + t.mode
  | 0x018 => trunc 32 (satPs t.offset)
  | 0x01C => t.refDelay
  | 0x020 => wordOf t.lossHt 0
  | 0x024 => wordOf t.lossHt 1
  | 0x028 => t.rttMax
  | 0x02C => at_ 24 t.jitFault + at_ 16 t.jitWarn + at_ 8 t.dutyFault + t.dutyWarn
  | 0x030 => at_ 16 t.badWord + t.loss
  | _ =>
    match slotIn o 0x100 0x10 8, slotIn o 0x400 4 31 with
    | some (n, r), _ => (mget {} t.ports n).rd r
    | _, some (n, _) => (s.stn n).rdTime
    | _, _ => 0

/-! ## Power, 0x020_0000 (R346 to R348) -/

def State.powerStatus (s : State) : Nat :=
  let p := s.power
  let rg := fun (q : Region → Bool) => s.regions.any fun r => q r.2
  let st := fun (q : Station → Bool) => s.stations.any fun n => q n.2
  at_ 7 (b2n (rg (·.sdLatch) || st (·.baseSd))) + at_ 6 (b2n p.inputLimit) + at_ 5 (b2n p.overCommit) +
    at_ 4 (b2n p.gearHold) + at_ 3 (b2n (rg (·.conservative))) + at_ 2 (b2n p.compatNow) + at_ 1 (b2n (rg Region.throttled)) +
    b2n (rg (·.warn) || st (·.baseWarn))

def State.powerInput (s : State) : Nat := at_ 16 (s.power.inputW % 65536) + s.power.inputV % 65536

def State.rdPwr (s : State) (o : Nat) : Nat :=
  match o with
  | 0x00 => s.power.budget
  | 0x04 => b2n s.power.compat
  | 0x08 => s.powerStatus
  | 0x0C => s.powerInput
  | 0x10 => s.power.coolant
  | _ =>
    match slotIn o 0x100 0x10 s.dies, slotIn o 0x400 0x10 64, slotIn o 0x800 4 31 with
    | some (d, r), _, _ =>
      if r = 0 then unitsOf 65535 (s.die d).budget
      else if r = 4 then unitsOf 65535 (s.die d).meas
      else if r = 8 then unitsOf 4294967295 (s.die d).sched
      else 0
    | _, some (p, r), _ =>
      let x := s.part p
      if r = 0 then at_ 1 (b2n x.autoWake) + b2n x.park
      else if r = 4 then at_ 30 x.parkSt
      else if r = 8 then Nat.min 65535 x.overCnt
      else 0
    | _, _, some (n, _) => quarter (s.stn n).baseTemp
    | _, _, _ => 0

/-! ## Optics, 0x030_0000 (R147, R148, R371, R372) -/

/-- R371: the 32 bytes of a ring entry; `sub`: line 16 stands for a failed ring. -/
def Ring.bytes (r : Ring) (dir line : Nat) (sub : Bool) : List Byte :=
  let rx := dir == 1
  let flags := at_ 15 (b2n r.failed) + at_ 14 (b2n (line == 16 && sub)) + at_ 13 (b2n (r.hold != 0 || r.holdTable != 0)) +
    at_ 12 (b2n r.pilotLimit) + (if rx then r.rxOffTgt % 1024 else 0)
  ((List.range 8).map fun i => leBytes 2 (nth 0 r.table i % 16384)).flatten ++ leBytes 2 (r.heater % 16384) ++
    leInt 2 r.off ++ leInt 2 r.offTgt ++ leInt 2 r.pt ++ leBytes 2 r.eta ++
    leBytes 1 (if rx then r.gain else r.swing) ++ leBytes 1 (if rx then r.gainTgt else r.swingTgt) ++
    leBytes 2 (if rx then r.rxOff else 0) ++ leBytes 2 flags

def State.coefWord (s : State) (n : Nat) : Nat :=
  let v := s.opt.coefSel.toNat
  let station := bits v 31 27
  let dir := bits v 26 26
  let wg := bits v 25 21
  let line := bits v 20 16
  if station = 31 ∨ 16 < line then 0
  else
    let spares := if dir = 0 then (s.stn station).spareTx else (s.stn station).spareRx
    byteWord ((s.ring (ringKey station dir wg line)).bytes dir line (bit spares.toNat wg)) n

/-- R472: from its entry to its exit the shared safe state shows every laser OFF that is not FAILED. -/
def State.laserShown (s : State) (l : Nat) : LaserSt :=
  if s.safe.shared && !s.safe.exiting && (s.laser l).st != .failed then .off else (s.laser l).st

def State.rdLaser (s : State) (l r : Nat) : Nat :=
  let x := s.laser l
  match r with
  | 0x0 => at_ 29 (s.laserShown l).code + at_ 24 (x.index % 32) + trunc 16 x.fade
  | 0x4 => at_ 16 x.limit + x.bias
  | 0x8 => at_ 16 (x.p0 % 65536) + x.b0
  | 0xC => x.tgt
  | _ => 0

def stationKind (n : Nat) : Nat := if n < 20 then 0 else if n < 26 then 1 else if n = 26 then 2 else 3

/-- R147 PKT_CH_OUT: the packet channels out of service, by a ring (R144) or a dark index (R145). -/
def Station.channelsOut (x : Station) (dark : W32) : Nat :=
  ((List.range 64).filter fun c => x.chOut.contains c || (bit dark.toNat (c / 16) && !isLoop c)).length

def Station.rdOpt (x : Station) (dark : W32) (n r : Nat) : Nat :=
  match r with
  | 0x00 => at_ 24 (b2n x.present) + at_ 20 (stationKind n) + at_ 8 (popCount x.spareTx + popCount x.spareRx) +
      x.channelsOut dark
  | 0x04 => x.spareTx.toNat
  | 0x08 => x.spareRx.toNat
  | 0x0C => x.bchCorr
  | 0x10 => x.bchUncorr
  | 0x14 => x.pktCrc
  | 0x18 => at_ 16 x.losPkt + x.losCkt
  | _ => 0

/-- R371: spares neither FAILED nor ACTIVE. -/
def State.sparesLeft (s : State) : Nat :=
  (spareLasers.filter fun l => (s.laser l).st != .failed && (s.laser l).st != .active).length

def State.optStatus (s : State) : Nat :=
  let wait := ([0, 1, 2, 3].map fun k => if s.opt.waiting.contains k then 2 ^ k else 0).foldl (· + ·) 0
  at_ 31 (b2n s.opt.deepRuns) + at_ 24 s.sparesLeft + at_ 16 s.warmSpares + wait

/-- R148: word n of a station's row of the flight table. -/
def State.flightWord (s : State) (src n : Nat) : Nat :=
  ([0, 1, 2, 3].map fun i => at_ (8 * i) (if 4 * n + i = src ∨ 4 * n + i = 31 then 0
    else mget 0 s.opt.flights (src * 32 + 4 * n + i) % 256)).foldl (· + ·) 0

def State.rdOpt (s : State) (o : Nat) : Nat :=
  match o with
  | 0x00 => b2n s.opt.recalEn
  | 0x08 => s.optStatus
  | 0x0C => at_ 16 s.opt.recalCycles + s.opt.recalNext
  | 0x10 => s.opt.coefSel.toNat
  | 0xF1F00 => s.opt.dark.toNat
  | 0xF1F04 => b2n s.opt.flightValid
  | _ =>
    match slotIn o 0x20 4 8, slotIn o 0x100 0x10 40, slotIn o 0xF0000 0x100 31, slotIn o 0xF8000 0x20 31 with
    | some (n, _), _, _, _ => s.coefWord n
    | _, some (l, r), _, _ => s.rdLaser l r
    | _, _, some (n, r), _ => (s.stn n).rdOpt s.opt.dark n r
    | _, _, _, some (n, r) => s.flightWord n (r / 4)
    | _, _, _, _ => 0

/-! ## Twill, 0x040_0000 (R177 to R179) -/

/-- R177: the slot now; 0xFF in the maintenance interval and before time is acquired. -/
def State.slotReg (s : State) : Nat :=
  if s.time.st = .free ∨ inMaint s.ht = true then 0xFF else framePos s.ht / 250

/-- R177: word n of the selected entry. -/
def State.twlWord (s : State) (n : Nat) : Nat :=
  let v := s.twlSel.toNat
  let x := s.stn (bits v 31 27)
  let i := bits v 23 0
  if bits v 31 27 = 31 then 0
  else match bits v 26 24 with
    | 0 => if i < 28224 then wordOf (mget 0 x.txTab i).toNat n else 0
    | 1 => if i < 28224 then wordOf (mget 0 x.rxTab i).toNat n else 0
    | 2 => if i < 16384 then wordOf (mget 0 x.srcItems i).toNat n else 0
    | 3 => if i < 16384 then wordOf (mget 0 x.tgtItems i).toNat n else 0
    | _ => 0

def Partition.rdTwl (x : Partition) (r : Nat) : Nat :=
  match r with
  | 0x00 => at_ 26 x.gearNext + at_ 24 x.gear + at_ 18 x.gears + at_ 16 (b2n x.strict) + x.twl.code
  | 0x08 => wordOf x.actFrame.toNat 0
  | 0x0C => wordOf x.actFrame.toNat 1
  | 0x10 => x.itemsOk % 2 ^ 32
  | 0x14 => x.itemsFail % 2 ^ 32
  | 0x18 => at_ 16 (Nat.min 65535 x.lateHall) + Nat.min 65535 x.lateFeed
  | 0x1C => at_ 16 x.hallPeriod + x.hallPhase
  | 0x20 => x.hallLead
  | 0x24 => x.fwAddr / 16 % 16384 * 16 + b2n x.fwEn
  | 0x28 => wordOf x.ringBase.toNat 0
  | 0x2C => wordOf x.ringBase.toNat 1
  | 0x30 => x.ringSize
  | 0x34 => x.ringWp.toNat
  | 0x38 => x.ringRp.toNat
  | 0x3C => x.ringLost % 2 ^ 32
  | _ => 0

def Station.rdTwl (x : Station) (r : Nat) : Nat :=
  match r with
  | 0x00 => x.twlTx % 2 ^ 32
  | 0x04 => x.twlRx % 2 ^ 32
  | 0x08 => x.sealFail
  | 0x0C => x.voided
  | _ => 0

/-- R177. Before hall time is acquired MAINT and TIME_UNCERTAIN read 0, the reset value R177 gives them, although
TIM_STATUS.TIME_UNCERTAIN resets to 1 (R316) and R177 has the bit as in the frame word, of which there is then none
(DESIGN CHOICE, log entry 84). -/
def State.rdTwl (s : State) (o : Nat) : Nat :=
  match o with
  | 0x00 => wordOf (frameOf s.ht) 0
  | 0x04 => wordOf (frameOf s.ht) 1
  | 0x08 => at_ 9 (b2n (s.time.st != .free && inMaint s.ht)) + at_ 8 (b2n (s.time.st != .free && s.time.uncertain)) + s.slotReg
  | 0x0C => s.twlSel.toNat
  | _ =>
    match slotIn o 0x20 4 8, slotIn o 0x1000 0x40 64, slotIn o 0x4000 0x20 31 with
    | some (n, _), _, _ => s.twlWord n
    | _, some (p, r), _ => (s.part p).rdTwl r
    | _, _, some (n, r) => (s.stn n).rdTwl r
    | _, _, _ => 0

/-! ## Packet fabric, 0x050_0000 (R217 to R220) -/

def Station.rdPkt (x : Station) (r : Nat) : Nat :=
  match r with
  | 0x00 => x.discAge
  | 0x04 => x.discFmt
  | 0x08 => x.discNoent
  | 0x0C => x.msgExp
  | 0x10 => x.lateRsp
  | 0x14 => x.adapt % 2 ^ 32
  | 0x18 => x.msgs.length
  | _ => 0

def HallPort.rd (h : HallPort) (r : Nat) : Nat :=
  match r with
  | 0x00 => at_ 2 (b2n h.en) + h.plane
  | 0x04 => at_ 3 (b2n h.up) + at_ 2 (b2n h.los) + at_ 1 (b2n h.apr) + b2n h.aligned
  | 0x08 => h.rsCorr
  | 0x0C => h.rsUncorr
  | 0x10 => h.disc
  | 0x14 => h.down
  | _ => 0

/-- R220: word n of a station's Gingham map, of one sample. -/
def State.gngWord (s : State) (station n : Nat) : Nat :=
  if 240 < n then 0
  else ([0, 1, 2, 3].map fun i =>
    let b := 4 * n + i
    at_ (8 * i) (if b < 961 then mget 0 (s.stn station).gngShown b % 256 else 0)).foldl (· + ·) 0

def State.rdPkt (s : State) (o : Nat) : Nat :=
  let f := s.fabric
  match o with
  | 0x00 => at_ 24 f.margin + at_ 16 f.thresh + at_ 8 (b2n f.adaptDis) + f.gngPush
  | 0x04 => f.ageMax
  | 0x08 => f.msgSpan
  | 0x0C => f.gngFm.toNat
  | 0x10 => at_ 31 (b2n (decide (64 ≤ f.samples))) + Nat.min 65535 f.samples
  | 0x18 => wordOf f.gngAddr.toNat 0
  | 0x1C => wordOf f.gngAddr.toNat 1
  | _ =>
    match slotIn o 0x100 0x20 31, slotIn o 0x1000 0x20 32, slotIn o 0x10000 0x400 31 with
    | some (n, r), _, _ => (s.stn n).rdPkt r
    | _, some (p, r), _ => (s.hall p).rd r
    | _, _, some (n, r) => s.gngWord n (r / 4)
    | _, _, _ => 0

/-! ## Memory, 0x060_0000 (R253 to R255) -/

/-- R253: the two slots of MEM_SLOTn. -/
def Mem.slotWord (m : Mem) (n : Nat) : Nat :=
  let half := fun slot => let p := m.slotPlace slot; at_ 15 (b2n (decide (slot < m.slots))) + at_ 4 (p / 16) + p % 16
  at_ 16 (half (2 * n + 1)) + half (2 * n)

def State.winWord (s : State) (n : Nat) : Nat :=
  let v := s.mem.winSel.toNat
  if bits v 31 27 = 31 then 0 else wordOf (mget 0 (s.stn (bits v 31 27)).windows (bits v 10 0)).toNat n

def Station.rdMem (x : Station) (r : Nat) : Nat :=
  match r with
  | 0x00 => x.miss
  | 0x04 => x.perm
  | 0x08 => x.mire.length
  | 0x0C => x.replay % 2 ^ 32
  | 0x10 => at_ 16 x.unknown + x.staleAtomic
  | 0x14 => x.merge % 2 ^ 32
  | 0x18 => x.mireWait
  | _ => 0

def State.rdChannel (s : State) (c r : Nat) : Nat :=
  match r with
  | 0x0 => at_ 30 (s.chan c).st + (s.chan c).uncorr
  | 0x4 => (s.chan c).corr
  | 0x8 => (s.mem.slotsOf c).length
  | _ => 0

def State.rdMem (s : State) (o : Nat) : Nat :=
  let m := s.mem
  match o with
  | 0x00 => m.tmoPkg
  | 0x04 => m.tmoHall
  | 0x08 => m.mireW
  | 0x0C => at_ 28 m.reserve + at_ 16 s.freeSpares.length + m.slots
  | 0x14 => at_ 29 (if m.retRefused then 4 else m.retSt) + at_ 24 m.retDone + at_ 8 m.retCh + m.retPoison
  | 0x18 => m.winSel.toNat
  | _ =>
    match slotIn o 0x20 4 8, slotIn o 0x1000 4 1536, slotIn o 0x4000 0x20 31, slotIn o 0x6000 0x10 192 with
    | some (n, _), _, _, _ => s.winWord n
    | _, some (n, _), _, _ => m.slotWord n
    | _, _, some (n, r), _ => (s.stn n).rdMem r
    | _, _, _, some (c, r) => s.rdChannel c r
    | _, _, _, _ => 0

/-! ## Collectives, 0x070_0000 (R283 to R285) -/

/-- R283: the bits of a list of groups. -/
def groupBits (gs : List Nat) : Nat := gs.foldl (fun n g => n ||| 2 ^ (g % 1024)) 0

/-- R283: the 256 bytes of a collective entry's view. -/
def CollEntry.view (e : CollEntry) : List Byte :=
  leBytes 64 e.cfg.toNat ++ leBytes 1 e.st.code ++ leBytes 1 e.round ++ [e.lastStatus, 0] ++
    leBytes 2 e.groupsIn.length ++ leBytes 2 0 ++ leBytes 4 e.oldest.toNat ++ leBytes 4 e.rounds ++
    leBytes 4 e.partials ++ leBytes 44 0 ++ leBytes 128 (groupBits e.missing)

def State.collWord (s : State) (n : Nat) : Nat :=
  let v := s.colSel.toNat
  let x := s.stn (bits v 31 27)
  let i := bits v 11 0
  if bits v 31 27 = 31 then 0
  else if bit v 26 then (if i < 1024 ∧ n < 8 then wordOf (mget 0 x.mcast i).toNat n else 0)
  else byteWord (mget {} x.coll i).view n

def Station.rdColl (x : Station) (r : Nat) : Nat :=
  match r with
  | 0x00 => x.collMerge % 2 ^ 32
  | 0x04 => x.collDup
  | 0x08 => x.collStale
  | 0x0C => x.collResend
  | 0x10 => x.collPartial
  | 0x14 => at_ 16 (x.accFree / 1024) + x.trackFree / 1024
  | _ => 0

def State.rdCkpt (s : State) (p r : Nat) : Nat :=
  let x := s.part p
  match r with
  | 0x00 => at_ 30 x.ckOp + at_ 29 (b2n x.ckCont)
  | 0x04 => at_ 28 x.ck.code + x.ckStatus.toNat
  | 0x08 => wordOf x.ckFrame.toNat 0
  | 0x0C => wordOf x.ckFrame.toNat 1
  | 0x10 => wordOf x.ckAddr.toNat 0
  | 0x14 => wordOf x.ckAddr.toNat 1
  | 0x18 => if x.isLoaded then wordOf (s.areaBytes p) 0 else 0
  | 0x1C => if x.isLoaded then wordOf (s.areaBytes p) 1 else 0
  | 0x20 => wordOf x.joff.toNat 0
  | 0x24 => wordOf x.joff.toNat 1
  | 0x28 => wordOf x.ckJ.toNat 0
  | 0x2C => wordOf x.ckJ.toNat 1
  | _ => 0

def State.rdCol (s : State) (o : Nat) : Nat :=
  if o = 0 then s.colSel.toNat
  else match slotIn o 0x100 4 64, slotIn o 0x400 0x20 31, slotIn o 0x1000 0x40 64 with
    | some (n, _), _, _ => s.collWord n
    | _, some (n, r), _ => (s.stn n).rdColl r
    | _, _, some (p, r) => s.rdCkpt p r
    | _, _, _ => 0

/-! ## Die links, 0x080_0000 (R395 to R397) -/

def State.mapWord (s : State) (n : Nat) : Nat :=
  let v := s.links.mapSel.toNat
  let station := bits v 29 25
  let dn := bit v 20
  match bits v 31 30 with
  | 0 =>
    if station < s.dies then
      let b := s.bond (station * 16 + bits v 24 21)
      wordOf (if dn then b.dnMap else b.upMap).toNat n
    else 0
  | 1 =>
    let x := s.site station
    if 27 ≤ station ∧ station ≤ 30 then wordOf (if dn then x.dnMap else x.upMap).toNat n % 2 ^ 32 else 0
  | _ => 0

/-- R381: an epoch of a bond port's side. -/
def State.bondEpoch (s : State) (e : BitVec 16) : Nat := (s.links.resets + e).toNat

def State.rdBond (s : State) (k r : Nat) : Nat :=
  let b := s.bond k
  match r with
  | 0x0 => at_ 30 b.st + at_ 28 b.widthUp + at_ 26 b.widthDn + at_ 21 (sparesOf b.upMap) + at_ 16 (sparesOf b.dnMap) +
      at_ 1 (b2n b.viaPartner) + b2n (s.isRebound k)
  | 0x4 => at_ 16 (s.bondEpoch b.ends.base) + s.bondEpoch b.ends.far
  | 0x8 => at_ 16 b.trainings + b.laneFails
  | _ => 0

def Site.rd (x : Site) (r : Nat) : Nat :=
  match r with
  | 0x00 => at_ 29 x.st + at_ 24 x.cause + at_ 16 x.width
  | 0x04 => at_ 16 x.ends.far.toNat + x.ends.base.toNat
  | 0x08 => at_ 16 x.trainings + x.refusals
  | _ => if 0x10 ≤ r ∧ r < 0x50 then wordOf x.decl.toNat ((r - 0x10) / 4) else 0

def State.rdDlk (s : State) (o : Nat) : Nat :=
  if o = 0x10 then s.links.mapSel.toNat
  else match slotIn o 0x20 4 17, slotIn o 0x400 4 12, slotIn o 0x800 0x80 4, slotIn o 0x1000 0x10 (s.dies * 16) with
    | some (n, _), _, _, _ => s.mapWord n
    | _, some (j, _), _, _ => at_ 24 (s.stack j).temp + at_ 8 (s.stack j).repairs + b2n (s.stack j).cattrip
    | _, _, some (n, r), _ => (s.site (27 + n)).rd r
    | _, _, _, some (k, r) => s.rdBond k r
    | _, _, _, _ => 0

/-! ## Loader, 0x090_0000 (R420 to R423) -/

def Requester.rd (x : Requester) (r : Nat) : Nat :=
  match r with
  | 0x00 => at_ 28 x.op + at_ 22 x.partition + at_ 17 x.station + at_ 13 x.region
  | 0x04 => at_ 29 x.st.code + at_ 8 x.section_ + x.result
  | 0x08 => wordOf x.src.toNat 0
  | 0x0C => wordOf x.src.toNat 1
  | 0x10 => x.len.toNat
  | 0x14 => x.quiesced
  | _ => if 0x20 ≤ r then wordOf x.fence.toNat ((r - 0x20) / 4) else 0

def KeySlot.rd (k : KeySlot) (r : Nat) : Nat :=
  if r = 0 then at_ 31 (b2n k.enrolled) + at_ 30 (b2n k.revoked)
  else if 0x20 ≤ r then wordOf k.hash.toNat ((r - 0x20) / 4) else 0

def Partition.rdCfg (x : Partition) (r : Nat) : Nat :=
  match r with
  | 0x00 => at_ 29 x.st.code + at_ 28 (b2n x.adaptive) + at_ 27 (b2n x.strict) + at_ 26 (b2n x.production) + at_ 12 x.job
  | 0x04 => x.tiles.length
  | 0x08 => wordOf x.imageId.toNat 0
  | 0x0C => wordOf x.imageId.toNat 1
  | 0x10 => x.slot
  | _ => 0

/-- R415: the presence mask of a module. -/
def State.presMask (s : State) (m : Nat) : Nat := if m = s.cfg.module then 0xF else mget 0 s.cfg.presence m

def State.loaderState (s : State) : Nat := if s.cfg.paused then 2 else if s.cfg.run.isSome then 1 else 0

def State.fwStatus (s : State) : Nat :=
  at_ 29 s.cfg.fw.code + at_ 28 s.cfg.activeCore + at_ 27 (b2n s.cfg.shadow) + s.cfg.version

def State.recoveryReg (s : State) : Nat := at_ 31 (b2n s.cfg.recMode) + at_ 27 s.cfg.recState + s.cfg.recLen

def State.rdCfg (s : State) (o : Nat) : Nat :=
  let c := s.cfg
  match o with
  | 0x00 => at_ 30 s.loaderState + c.queue.length
  | 0x04 => at_ 24 0xB1 + at_ 20 (if s.fused.m6416 then 2 else 1) + c.module
  | 0x08 => c.fmCoord.toNat
  | 0x0C => s.fwStatus
  | 0x10 => wordOf c.presSeq.toNat 0
  | 0x14 => wordOf c.presSeq.toNat 1
  | 0x18 => s.recoveryReg
  | _ =>
    match slotIn o 0x100 0x40 3, slotIn o 0x400 0x40 4, slotIn o 0x800 4 512, slotIn o 0x1000 0x20 64 with
    | some (n, r), _, _, _ => (s.reqr n).rd r
    | _, some (k, r), _, _ => (mget {} c.keys k).rd r
    | _, _, some (n, _), _ => ((List.range 8).map fun i => at_ (4 * i) (s.presMask (8 * n + i))).foldl (· + ·) 0
    | _, _, _, some (p, r) => (s.part p).rdCfg r
    | _, _, _, _ => 0

/-! ## Host interface, 0x0A0_0000 (R465) -/

def Port.rd (q : Port) (r : Nat) : Nat :=
  match r with
  | 0x00 => at_ 31 (b2n q.up) + at_ 30 (b2n q.bme) + at_ 29 (b2n q.msixEn) + at_ 20 q.width + at_ 16 q.rate
  | 0x04 => at_ 16 q.downs + q.retrains
  | 0x08 => q.wfail
  | 0x0C => q.denied
  | 0x10 => q.err
  | 0x14 => at_ 31 (b2n q.evtEn) + q.evtVec
  | _ => 0

/-- R451, R465: ms of lease remaining, begun ones not counted. -/
def State.leaseLeft (s : State) (p : Nat) : Nat :=
  let x := s.part p
  if x.owner = 0 ∨ x.expired = true then 0 else (x.leaseAt + s.leaseMs * 1000000 - s.boot.osc) / 1000000

def State.rdHifPart (s : State) (p r : Nat) : Nat :=
  let x := s.part p
  match r with
  | 0x00 => at_ 28 x.owner + at_ 27 (b2n x.expired) + Nat.min 65535 (s.leaseLeft p)
  | 0x04 => at_ 31 (b2n x.cqEn) + at_ 16 x.cqVec + x.cqSize
  | 0x08 => wordOf x.cqBase.toNat 0
  | 0x0C => wordOf x.cqBase.toNat 1
  | 0x10 => x.cqWp.toNat
  | 0x14 => x.cqRp.toNat
  | 0x18 => x.cqLost % 2 ^ 32
  | 0x1C => x.launches % 2 ^ 32
  | _ => 0

def State.rdHif (s : State) (o : Nat) : Nat :=
  if o = 0x100 then s.leaseMs
  else match slotIn o 0 0x40 2, slotIn o 0x1000 0x40 64 with
    | some (n, r), _ => (s.port n).rd r
    | _, some (p, r) => s.rdHifPart p r
    | _, _ => 0

/-! ## Peat, 0x0B0_0000 (R492) -/

/-- EVT_FIRST_SEQ: the oldest record held; with none held, the SEQ the next will take. -/
def Peat.first (e : Peat) : Nat := (e.buf.head?.map (·.seq)).getD e.next

def FlashSet.info (x : FlashSet) : Nat := at_ 28 x.cause + at_ 27 (b2n x.isPartial) + x.recs.length

def FlashSet.first (x : FlashSet) : Nat := (x.recs.head?.map (·.seq)).getD 0

/-- R481, R492: EVT_RD_SRC names the RAM, or a flush set while no erase runs. -/
def Peat.srcReads (e : Peat) : Bool := e.rdSrc == 0 || (decide (e.rdSrc ≤ 16) && !e.erasing)

def State.rdEvt (s : State) (w : Who) (o : Nat) : Nat :=
  let e := s.evt
  match o with
  | 0x00 => at_ 31 (b2n e.full) + at_ 30 (b2n e.flashFull) + at_ 29 (b2n e.flush.isSome) + at_ 28 (b2n e.erasing) +
      at_ 23 e.sets.length
  | 0x04 => e.rate
  | 0x10 => wordOf e.first 0
  | 0x14 => wordOf e.first 1
  | 0x18 => wordOf e.next 0
  | 0x1C => wordOf e.next 1
  | 0x20 => at_ 16 e.lostDie + e.lostFull
  | 0x24 => e.suppressed
  | 0x28 => e.flushLost
  | 0x30 => wordOf e.rdSeq.toNat 0
  | 0x34 => wordOf e.rdSeq.toNat 1
  | 0x38 => e.rdSrc
  | _ =>
    match slotIn o 0x40 4 8, slotIn o 0x100 0x10 16 with
    | some (n, _), _ => if e.srcReads then byteWord (mget {} e.latched w.slot).bytes n else 0
    | _, some (k, r) =>
      match e.sets[k]? with
      | none => 0
      | some x => if r = 0 then x.info else if r = 4 then wordOf x.first 0 else if r = 8 then wordOf x.first 1 else 0
    | _, _ => 0

/-! ## Test block, 0x0C0_0000 (R493) -/

/-- R489: a loaded partition has PRODUCTION set. -/
def State.prodLock (s : State) : Bool := s.loadedParts.any fun p => (s.part p).production

def Station.rdTst (x : Station) (r : Nat) : Nat :=
  if r < 0x10 then (mget 0 x.tstVc (r / 4)).toNat
  else if r = 0x10 then x.tstHt.toNat
  else if r = 0x14 then x.tstBaseT.toNat
  else if r = 0x18 then at_ 16 x.tstCorrupted + x.tstDropped
  else 0

def State.rdTst (s : State) (o : Nat) : Nat :=
  match o with
  | 0x04 => at_ 31 (b2n s.tst.unlocked) + at_ 30 (b2n s.prodLock)
  | 0x08 => s.tst.seed.toNat
  | _ =>
    match slotIn o 0x800 4 40, slotIn o 0x1000 0x40 31 with
    | some (l, _), _ => mget 0 s.tst.fades l
    | _, some (n, r) => (s.stn n).rdTst r
    | _, _ => 0

/-! ## Security, 0x0D0_0000 (R463, R466) -/

/-- R403, R463: the four signer slots as measured. -/
def State.keyBytes (s : State) : List Byte :=
  ([0, 1, 2, 3].map fun k =>
    let x := s.key k
    leBytes 32 x.hash.toNat ++ leBytes 1 (2 * b2n x.enrolled + b2n x.revoked)).flatten

/-- R463: the measurement of an index; 0 where there is none. -/
def State.measurement (s : State) (i : Nat) : BitVec 256 :=
  if i = 1 then Config.romDigest
  else if i = 2 then s.cfg.fwDigest
  else if i = 3 then s.cfg.moduleDigest
  else if i = 4 then Config.sha3 s.keyBytes
  else if 5 ≤ i ∧ i < 69 then (if (s.part (i - 5)).isLoaded then (s.part (i - 5)).digest else 0)
  else if 69 ≤ i ∧ i < 73 then
    (if (s.site (i - 42)).st = 3 then BitVec.ofNat 256 ((s.site (i - 42)).decl.toNat / 2 ^ 256) else 0)
  else 0

def State.rdSec (s : State) (o : Nat) : Nat :=
  match o with
  | 0x00 => at_ 31 (b2n s.sec.identity) + s.sec.signs
  | 0x04 => s.sec.measSel
  | _ =>
    match slotIn o 0x20 4 8 with
    | some (n, _) => wordOf (s.measurement s.sec.measSel).toNat n
    | none => 0

/-! ## The die window, 0x100_0000 (R62 to R65, R319, R349, R493) -/

def State.rdTile (s : State) (t r : Nat) : Nat :=
  let x := s.tile t
  match r with
  | 0x00 => at_ 20 x.cause.code + x.st.code
  | 0x04 => b2n x.fenceReq
  | 0x08 => x.flags.toNat
  | 0x0C => x.pc / 8 % 32768 * 8
  | 0x10 => at_ 24 x.uncorrCnt + x.corrCnt
  | 0x14 => match x.eccAddr with
    | some w => at_ 31 1 + w % 32768 * 8
    | none => 0
  | 0x18 => at_ 16 x.failCnt + x.descs.length
  | 0x1C => at_ 24 ((s.rgn (tileRegion t)).siteOf (tileSlot t)) + at_ 17 x.partition + x.logical
  | 0x20 => wordOf x.draw0.toNat 0
  | 0x24 => wordOf x.draw0.toNat 1
  | 0x28 => wordOf x.draw1.toNat 0
  | 0x2C => wordOf x.draw1.toNat 1
  | 0x30 => wordOf x.draw2.toNat 0
  | 0x34 => wordOf x.draw2.toNat 1
  | _ => if 0x40 ≤ r ∧ r < 0x80 then (mget 0 x.c ((r - 0x40) / 4)).toNat else 0

/-- R65: word n of a region's spare map. -/
def Region.mapWord (x : Region) (n : Nat) : Nat :=
  ([0, 1, 2, 3].map fun i => at_ (8 * i) (if 4 * n + i < 250 then x.siteOf (4 * n + i) else 0)).foldl (· + ·) 0

/-- R65: word n of the marks of faulty sites. -/
def Region.badWord (x : Region) (n : Nat) : Nat :=
  ((List.range 32).map fun b => if x.siteBad.contains (32 * n + b) then 2 ^ b else 0).foldl (· + ·) 0

/-- R349: the thermal STATE. -/
def Region.thermState (x : Region) : Nat := if x.sdLatch then 3 else if x.throttled then 2 else if x.warn then 1 else 0

/-- R65 SPARES_FREE: spare sites not marked faulty; with a map that waits for its resume, that map's (the
worked example under R413: SPARES_FREE falls in the apply step). -/
def Region.sparesFree (x : Region) : Nat :=
  ((({ x with spareMap := x.spareNext.getD x.spareMap } : Region).spares).filter fun i => !x.siteBad.contains i).length

def Region.rd (x : Region) (r : Nat) : Nat :=
  match r with
  | 0x000 => at_ 8 (Nat.min 255 x.siteBad.length) + x.sparesFree
  | 0x300 => at_ 6 (b2n x.locked) + at_ 5 (b2n x.fallback) + at_ 2 x.opNext + x.op
  | 0x304 => at_ 24 (Nat.min 255 x.jitPP) + at_ 16 x.dutyMin + at_ 8 x.dutyMax
  | 0x308 => x.evt.toNat
  | 0x400 => at_ 20 (quarter x.tEff) + at_ 10 (quarter x.tPred) + quarter x.tMeas
  | 0x404 => at_ 12 (b2n x.powerStep) + at_ 11 (b2n x.sensorFault) + at_ 10 (b2n x.sdLatch) + at_ 9 (b2n x.throttleSeen) +
      at_ 8 (b2n x.warnSeen) + at_ 4 x.n + x.thermState
  | 0x408 => at_ 16 (x.grant % 65536) + at_ 8 (unitsOf 255 (x.scale * 128)) + unitsOf 128 (x.x * 128)
  | 0x40C => unitsOf 65535 (x.power * 100)
  | 0x500 => x.tstT.toNat
  | _ =>
    match slotIn r 0x100 4 63, slotIn r 0x200 4 8 with
    | some (n, _), _ => x.mapWord n
    | _, some (n, _) => x.badWord n
    | _, _ => 0

/-- Where an address of the die window lies: a tile (key, register), or a region (key, register). -/
inductive DieReg where
  | tile (t r : Nat)
  | region (k r : Nat)
  | none
  deriving DecidableEq, Repr

/-- R62, R63: the die window; the dies of stations 16–19 map none on the M6416. -/
def State.dieReg (s : State) (a : Nat) : DieReg :=
  match slotIn a 0x1000000 0x200000 s.dies with
  | none => .none
  | some (d, o) =>
    if o < 0x100000 then .tile (tileKey d (o / 0x10000) (o / 0x100 % 256)) (o % 0x100)
    else if o < 0x110000 then .region (d * 16 + (o - 0x100000) / 0x1000) (o % 0x1000)
    else .none

/-- R58: the tile and the byte of its SRAM that firmware reads at an offset of a die's window that has no register:
the manual gives the place of none, so that any may be read at any such offset (log entry 77). -/
def State.sramPlace (s : State) (w : Who) (a : Nat) : Option (Nat × Nat) :=
  match slotIn a 0x1000000 0x200000 s.dies with
  | none => none
  | some (d, o) =>
    if w.isFw && decide (0x110000 ≤ o) then
      let x := Config.sramAt d o s.free
      some (d * 4096 + x.1 % 4096, x.2 % 65536 * 4)
    else none

/-- R58: the word read there; a word with an uncorrectable error has no value (R32), and reads as a free one. -/
def State.sramWord (s : State) (w : Who) (a : Nat) : Nat :=
  match s.sramPlace w a with
  | none => 0
  | some (t, b) =>
    if ((s.tile t).badWord b 4).isSome then leNat ((List.range 4).map fun i => Config.freeByte (s.free + i))
    else leNat ((s.tile t).rmem b 4)

/-- R32: the errors that such a read meets. -/
def State.sramRead (s : State) (w : Who) (a : Nat) : State :=
  match s.sramPlace w a with
  | none => s
  | some (t, b) =>
    let s := { s with free := s.free + 4 }
    match (s.tile t).badWord b 4 with
    | some v => (s.updTile t (·.noteUncorr v)).recTile 0x6001 t (leBytes 4 (v * 8))
    | none => s.updTile t (·.noteCorr b 4)

/-! ## The register at an address -/

/-- The value at an aligned BAR0 address as a requester reads it, without any latch of R8. -/
def State.live (s : State) (w : Who) (a : Nat) : Nat :=
  let o := a % 0x100000
  match a / 0x100000 with
  | 0x0 => s.rdGlb o
  | 0x1 => s.rdTim w o
  | 0x2 => s.rdPwr o
  | 0x3 => s.rdOpt o
  | 0x4 => s.rdTwl o
  | 0x5 => s.rdPkt o
  | 0x6 => s.rdMem o
  | 0x7 => s.rdCol o
  | 0x8 => s.rdDlk o
  | 0x9 => s.rdCfg o
  | 0xA => s.rdHif o
  | 0xB => s.rdEvt w o
  | 0xC => s.rdTst o
  | 0xD => s.rdSec o
  | _ =>
    match s.dieReg a with
    | .tile t r => s.rdTile t r
    | .region k r => (s.rgn k).rd r
    | .none => s.sramWord w a

/-- R8: the address is the LO word of a 64-bit pair. -/
def State.isLo (s : State) (a : Nat) : Bool :=
  let o := a % 0x100000
  match a / 0x100000 with
  | 0x0 => o == 0x8 || o == 0x108 || o == 0x110 || o == 0x118 || o == 0x208
  | 0x1 => o == 0x0 || o == 0x20
  | 0x4 => o == 0x0 || (match slotIn o 0x1000 0x40 64 with
    | some (_, r) => r == 0x08 || r == 0x28
    | none => false)
  | 0x5 => o == 0x18
  | 0x7 => (match slotIn o 0x1000 0x40 64 with
    | some (_, r) => r == 0x08 || r == 0x10 || r == 0x18 || r == 0x20 || r == 0x28
    | none => false)
  | 0x9 => o == 0x10 || (match slotIn o 0x100 0x40 3 with
    | some (_, r) => r == 0x08
    | none => false) || (match slotIn o 0x1000 0x20 64 with
    | some (_, r) => r == 0x08
    | none => false)
  | 0xA => (match slotIn o 0x1000 0x40 64 with
    | some (_, r) => r == 0x08
    | none => false)
  | 0xB => o == 0x10 || o == 0x18 || o == 0x30 || (match slotIn o 0x100 0x10 16 with
    | some (_, r) => r == 0x04
    | none => false)
  | _ => match s.dieReg a with
    | .tile _ r => r == 0x20 || r == 0x28 || r == 0x30
    | _ => false

/-- R419: in recovery mode BAR0 holds CFG_RECOVERY alone; the rest of the module is then without power,
as it is in reset. -/
def State.mapped (s : State) (a : Nat) : Bool :=
  match s.boot.mode with
  | .recovery => a == 0x900018
  | .powerOff | .held => false
  | _ => true

/-- R7, R8: what a requester reads at an address: a HI word that its own read of LO has latched, else
the live register. -/
def State.regValue (s : State) (w : Who) (a : Nat) : W32 :=
  if !s.mapped a then 0
  else if 4 ≤ a && s.isLo (a - 4) then
    mget (BitVec.ofNat 32 (s.live w a)) s.latch (w.slot * 2 ^ 32 + (a - 4))
  else BitVec.ofNat 32 (s.live w a)

/-- R8, R316: a read of LO latches HI for the requester, and one of TIM_HT_LO the fraction too; a read of SRAM meets
its errors (R32, R58). -/
def State.readLatch (s : State) (w : Who) (a : Nat) : State :=
  if !(s.mapped a && s.isLo a) then (if s.mapped a then s.sramRead w a else s)
  else
    let put := fun (m : SMap W32) k v => minsert m (w.slot * 2 ^ 32 + k) v
    let m := put s.latch a (BitVec.ofNat 32 (s.live w (a + 4)))
    { s with latch := if a = 0x100000 then put m 0x100008 (BitVec.ofNat 32 s.time.frac.toNat) else m }

/-- A read of BAR0: its value, and the state with its latches. -/
def State.regRead (s : State) (w : Who) (a : Nat) : State × W32 := (s.readLatch w a, s.regValue w a)

/-- R8, R442, R449 REG_LO_READ_LATCH: the value is returned to the requester; a read of another size or alignment is
completed with UR. -/
def execRegLoReadLatch (w : Who) (a : RegAccess) (s : State) : Res :=
  .next (
    if a.addr % 4 = 0 ∧ a.size = 4 then (s.readLatch w a.addr).emit (.regRead w a.addr (s.regValue w a.addr))
    else (s.emit (.regUr w a.addr)).aerOf w Aer.unsupported)

end Sys2Proof.Machine
end

