-- ==== Sys2Proof/Machine/Test.lean ====
section
/-! DEFINITION. The test block (R487 to R490, R493). Its perturbations act where the real conditions do:
in Fabric.lean (delay, drop, corrupt), Window.lean (back-pressure), Ops.lean (HT offset), Power.lean
(thermal override) and Optics.lean (simulated fade). -/

namespace Sys2Proof.Machine

/-- The number of a requester in records of block 0xC: ports 0 and 1, firmware 2. -/
def Who.byte (w : Who) : Byte := BitVec.ofNat 8 (Who.num w)

/-- R489: any other write of the block comes between the two keys. -/
def State.dropKey (s : State) : State := { s with tst := { s.tst with key1 := none } }

/-- R489: the second key unlocks, or is refused while a loaded partition has PRODUCTION set. -/
def State.unlockTst (s : State) (w : Who) : State :=
  if s.tst.unlocked then s
  else if s.prodLock then s.recStn 0xC002 none 26 [Who.byte w]
  else State.recStn { s with tst := { s.tst with unlocked := true } } 0xC001 none 26 [Who.byte w]

/-- R489: a write of TST_KEY: 0x3C1F and, within 1 ms from the same requester, 0xC3E0. -/
def State.tstKey (s : State) (w : Who) (v : W32) : State :=
  let k := v.toNat % 65536
  if k = 0x3C1F then { s with tst := { s.tst with key1 := some (w, s.boot.osc) } }
  else
    let fits := k == 0xC3E0 && s.tst.key1.any fun x => decide (Who.slot x.1 = Who.slot w) && decide (s.boot.osc ≤ x.2 + 1000000)
    if fits then s.dropKey.unlockTst w else s.dropKey

/-- R489 TST_KEY_WRITE. -/
def execTstKeyWrite (w : Who) (v : W32) (s : State) : Res := .next (s.tstKey w v)

/-- R489: a write of TST_CMD. -/
def State.tstCmd (s : State) (v : W32) : State :=
  let s := s.dropKey
  if bit v.toNat 0 then s.lockTst 1 else s

/-- R489 TST_LOCK. -/
def execTstLock (_w : Who) (v : W32) (s : State) : Res := .next (s.tstCmd v)

/-- R488: the generator is seeded anew. The seed is a setting of R493, so its write is recorded. -/
def State.tstSeed (s : State) (v : W32) : State :=
  let s := s.dropKey
  if s.tst.unlocked then
    State.recStn { s with tst := { s.tst with seed := v, draws := 0 } } 0xC003 none 26
      (leBytes 4 0xC00008 ++ leBytes 4 v.toNat)
  else s

/-- R488 TST_SEED_WRITE. -/
def execTstSeedWrite (_w : Who) (v : W32) (s : State) : Res := .next (s.tstSeed v)

/-- R493: a station's settings. -/
def Station.setTst (x : Station) (r : Nat) (v : W32) : Option Station :=
  if r < 0x10 then some { x with tstVc := mset 0 x.tstVc (r / 4) (v &&& 0xFFFFFF00) }
  else if r = 0x10 then some { x with tstHt := BitVec.ofNat 16 v.toNat }
  else if r = 0x14 then some { x with tstBaseT := v &&& 0x800003FF }
  else none

/-- R493: the setting at a BAR0 address takes a value; none where no setting lies there. -/
def State.setTstAt (s : State) (a : Nat) (v : W32) : Option State :=
  match slotIn a 0xC00800 4 40, slotIn a 0xC01000 0x40 31, s.dieReg a with
  | some (l, _), _, _ =>
    some { s with tst := { s.tst with fades := mset 0 s.tst.fades l (Nat.min 1000 (bits v.toNat 9 0)) } }
  | _, some (n, r), _ => ((s.stn n).setTst r v).map (s.setStn n)
  | _, _, .region k 0x500 => some (s.updRgn k fun x => { x with tstT := v &&& 0x800003FF })
  | _, _, _ => none

/-- R489, R490: a write of a setting, which is recorded; ignored while the block is locked. -/
def State.tstSetting (s : State) (a : Nat) (v : W32) : State :=
  let s := s.dropKey
  if !s.tst.unlocked then s
  else match s.setTstAt a v with
    | some s' => s'.recStn 0xC003 none 26 (leBytes 4 a ++ leBytes 4 v.toNat)
    | none => s

/-- R490 TST_SETTING_WRITE. -/
def execTstSettingWrite (_w : Who) (addr : Nat) (v : W32) (s : State) : Res := .next (s.tstSetting addr v)

end Sys2Proof.Machine
end

