-- ==== Sys2Proof/Machine/Access.lean ====
section
/-! DEFINITION. Writes of the register space of BAR0 (R6, R7, R9, R442) by every access type, over the
operations that the commands with rows of their own share. -/

namespace Sys2Proof.Machine

/-- R9: the other half of a pair is applied by a write of HI; `get` and `put` are the 64-bit value. -/
def State.pairWrite (s : State) (w : Who) (lo : Nat) (hi : Bool) (v : W32) (old : W64) (put : State → W64 → State) :
    State :=
  if hi then
    let (s, x) := s.hiWrite w lo old v
    put s x
  else s.stageLo w lo v

/-- R473, R491: a write of GLB_SAFE_CTRL at its address; the inputs of triggers 4, 5 and 6 are judged by
the pins as they stand. -/
def State.wrGlb (s : State) (w : Who) (o : Nat) (v : W32) : State :=
  match o with
  | 0x110 => s.bootWin w 0 false v
  | 0x114 => s.bootWin w 0 true v
  | 0x118 => s.bootWin w 1 false v
  | 0x11C => s.bootWin w 1 true v
  | 0x204 => s.safeCtrl w v (s.board.flowGood && s.board.leakClr)
  | _ => s

/-- R316, R317. -/
def State.wrTim (s : State) (o : Nat) (v : W32) : State :=
  let n := v.toNat
  match o with
  | 0x010 =>
    let s := s.setMode (n % 2)
    s.setTime { s.time with serve := bit n 2 }
  | 0x014 =>
    let s := s.reacquireCmd v
    if bit n 1 then s.timClear else s
  | 0x01C => s.setTime { s.time with refDelay := n % 1048576 }
  | 0x028 => s.setTime { s.time with rttMax := clampTo 50 10000 (n % 65536) }
  | 0x02C => s.setTime { s.time with
      jitFault := bits n 31 24, jitWarn := Nat.min (bits n 23 16) (bits n 31 24)
      dutyFault := bits n 15 8, dutyWarn := Nat.min (bits n 7 0) (bits n 15 8) }
  | _ =>
    match slotIn o 0x100 0x10 8 with
    | some (k, 0x0) => s.setTport k { s.tport k with cfg := v &&& 0x8000001F }
    | some (k, 0x4) => s.setTport k { s.tport k with src := v }
    | _ => s

/-- R320, R346, R348. -/
def State.wrPwr (s : State) (w : Who) (o : Nat) (v : W32) : State :=
  let n := v.toNat
  match o with
  | 0x00 => { s with power := { s.power with
      budget := clampTo 4000 (if s.fused.m6416 then 9654 else 11534) (n % 65536) } }
  | 0x04 => { s with power := { s.power with compat := bit n 0 } }
  | 0x10 => { s with power := { s.power with coolant := n % 1024 } }
  | _ =>
    match slotIn o 0x400 0x10 64 with
    | some (p, 0x0) => s.parkWrite w p v
    | _ => s

/-- R147, R371. -/
def State.wrOpt (s : State) (o : Nat) (v : W32) : State :=
  match o with
  | 0x00 => { s with opt := { s.opt with recalWas := s.recalNow, recalHt := s.ht, recalEn := bit v.toNat 0 } }
  | 0x04 => (s.deepCmd v).switchCmd v
  | 0x10 => { s with opt := { s.opt with coefSel := v &&& 0xFFFF0000 } }
  | _ =>
    match slotIn o 0xF0000 0x100 31 with
    | some (n, 0x1C) => if bit v.toNat 0 then s.optStnClear n else s
    | _ => s

/-- R177, R178. -/
def State.wrTwl (s : State) (o : Nat) (v : W32) : State :=
  match o with
  | 0x0C => { s with twlSel := v }
  | 0x40 => if bit v.toNat 0 then s.twlClear else s
  | _ =>
    match slotIn o 0x1000 0x40 64 with
    | some (p, 0x38) => s.twlRpWrite p v
    | _ => s

/-- R217, R219. A PKT_GNG_FM of another EP_KIND than those it is for, or a PKT_GNG_ADDR that is not aligned, is
stored as written and used so: the manual states no refusal (DESIGN CHOICE, log entry 82). -/
def State.wrPkt (s : State) (w : Who) (o : Nat) (v : W32) : State :=
  let n := v.toNat
  let f := s.fabric
  let put := fun f => { s with fabric := f }
  match o with
  | 0x00 => put { f with
      margin := bits n 31 24, thresh := bits n 23 16, adaptDis := bit n 8, gngPush := bits n 7 0 }
  | 0x04 => put { f with ageMax := clampTo 10 1000 (n % 2048) }
  | 0x08 => put { f with msgSpan := clampTo 50 1000 (n % 2048) }
  | 0x0C => put { f with gngFm := v }
  | 0x14 =>
    let s := if bit n 1 then s.gngRestart else s
    if bit n 0 then s.pktClear else s
  | 0x18 | 0x1C => s.pairWrite w 0x500018 (o == 0x1C) v f.gngAddr fun s x =>
      { s with fabric := { s.fabric with gngAddr := x } }
  | _ =>
    match slotIn o 0x1000 0x20 32 with
    | some (p, 0x0) => 
      let h := s.hall p
      s.setHall p { h with
        en := bit n 2, plane := n % 4
        cfgHt := if h.en == bit n 2 && h.plane == n % 4 then h.cfgHt else s.ht }
    | _ => s

/-- R253. -/
def State.wrMem (s : State) (o : Nat) (v : W32) : State :=
  let n := v.toNat
  let put := fun m => { s with mem := m }
  match o with
  | 0x00 => put { s.mem with tmoPkg := clampTo 5 1000 (n % 2048) }
  | 0x04 => put { s.mem with tmoHall := clampTo 20 1000 (n % 2048) }
  | 0x08 => s.mireWrite v
  | 0x0C => if s.mem.initDone then s else put { s.mem with reserve := bits n 29 28 }
  | 0x10 => s.retire v
  | 0x18 => put { s.mem with winSel := v &&& 0xF80007FF }
  | 0x1C => if bit n 0 then s.memClear else s
  | _ => s

/-- R283, R285. -/
def State.wrCol (s : State) (w : Who) (o : Nat) (v : W32) : State :=
  match o with
  | 0x0 => { s with colSel := v &&& 0xFC000FFF }
  | 0x4 => if bit v.toNat 0 then s.collClear else s
  | _ =>
    match slotIn o 0x1000 0x40 64 with
    | some (p, r) =>
      let lo := 0x701000 + 0x40 * p
      match r with
      | 0x00 => s.ckptWrite w p v
      | 0x08 | 0x0C => s.pairWrite w (lo + 0x08) (r == 0x0C) v (s.part p).ckFrame fun s x =>
          s.updPart p fun y => { y with ckFrame := x }
      | 0x10 | 0x14 => s.pairWrite w (lo + 0x10) (r == 0x14) v (s.part p).ckAddr fun s x =>
          s.updPart p fun y => { y with ckAddr := x }
      | _ => s
    | none => s

/-- R395. -/
def State.wrDlk (s : State) (o : Nat) (v : W32) : State :=
  match o with
  | 0x00 => s.dlkClear v
  | 0x10 => { s with links := { s.links with mapSel := v &&& 0xFFF00000 } }
  | _ => s

/-- Word n of a wide value replaced. -/
def setWord {k : Nat} (x : BitVec k) (n : Nat) (v : W32) : BitVec k :=
  BitVec.ofNat k (x.toNat - wordOf x.toNat n * 2 ^ (32 * n) + v.toNat * 2 ^ (32 * n))

/-- R421: a write of requester r's registers, from that requester alone. -/
def State.wrReq (s : State) (w : Who) (r o : Nat) (v : W32) : State :=
  if Who.num w ≠ r then s
  else match o with
    | 0x00 => s.reqCtrl r v
    | 0x08 | 0x0C => s.pairWrite w (0x900108 + 0x40 * r) (o == 0x0C) v (s.reqr r).src fun s x =>
        s.updReqr r fun y => { y with src := x }
    | 0x10 => s.updReqr r fun y => { y with len := v }
    | _ =>
      match slotIn o 0x20 4 8 with
      | some (n, _) => s.updReqr r fun y => { y with fence := setWord y.fence n v }
      | none => s

/-- R419, R420. The recovery image in BAR4 comes with RECOVERY_GO alone. -/
def State.wrCfg (s : State) (w : Who) (o : Nat) (v : W32) : State :=
  match o with
  | 0x08 => if Who.isFw w then { s with cfg := { s.cfg with fmCoord := v } } else s
  | 0x18 => s.recoveryWrite v
  | _ =>
    match slotIn o 0x100 0x40 3, slotIn o 0x800 4 512 with
    | some (r, k), _ => s.wrReq w r k v
    | _, some (n, _) => s.presWrite w n v
    | _, _ => s

/-- R450, R465: a write of a partition's completion registers. -/
def State.wrCq (s : State) (w : Who) (p r : Nat) (v : W32) : State :=
  let n := v.toNat
  if !s.entitled w p then s.deny w
  else match r with
    | 0x04 =>
      if 4 ≤ n % 32 ∧ n % 32 ≤ 16 then
        s.updPart p fun x => { x with cqEn := bit n 31, cqVec := bits n 21 16, cqSize := n % 32 }
      else s
    | 0x08 | 0x0C => s.pairWrite w (0xA01008 + 0x40 * p) (r == 0x0C) v (s.part p).cqBase fun s x =>
        s.updPart p fun y => { y with cqBase := x }
    | 0x14 => s.cqRpCmd w p v
    | _ => s

/-- R451, R452, R465: the command of a write of HIF_PARTp_OWN; with none, firmware writes OWNER itself. -/
def State.ownCmd (s : State) (w : Who) (p : Nat) (v : W32) : State :=
  match bits v.toNat 31 30 with
  | 0 => if Who.isFw w && bits v.toNat 29 28 != 3 then s.ownerWrite p (bits v.toNat 29 28) else s
  | n => s.ownReq w n p

/-- R465. -/
def State.wrHif (s : State) (w : Who) (o : Nat) (v : W32) : State :=
  let n := v.toNat
  if o = 0x100 then (if Who.isFw w then { s with leaseMs := clampTo 200 5000 (n % 65536) } else s)
  else match slotIn o 0 0x40 2, slotIn o 0x1000 0x40 64 with
    | some (k, 0x14), _ => s.updPort k fun q => { q with evtEn := bit n 31, evtVec := n % 64 }
    | _, some (p, 0x00) => s.ownCmd w p v
    | _, some (p, r) => if r = 0x04 ∨ r = 0x08 ∨ r = 0x0C ∨ r = 0x14 then s.wrCq w p r v else s
    | _, _ => s

/-- R483, R492. -/
def State.wrEvt (s : State) (w : Who) (o : Nat) (v : W32) : State :=
  match o with
  | 0x04 => { s with evt := { s.evt with rate := clampTo 1 1024 (v.toNat % 2048) } }
  | 0x08 => s.evtCmd w v
  | 0x30 => s.stageLo w 0xB00030 v
  | 0x34 => s.peatLatch w v
  | 0x38 => { s with evt := { s.evt with rdSrc := v.toNat % 32 } }
  | _ => s

/-- R489, R493. -/
def State.wrTst (s : State) (w : Who) (a : Nat) (v : W32) : State :=
  match a with
  | 0xC00000 => s.tstKey w v
  | 0xC00008 => s.tstSeed v
  | 0xC0000C => s.tstCmd v
  | _ => s.tstSetting a v

/-- R466. -/
def State.wrSec (s : State) (o : Nat) (v : W32) : State :=
  if o = 0x4 then { s with sec := { s.sec with measSel := v.toNat % 256 } } else s

/-- R34, R56, R64: a write of a tile's register. -/
def State.wrTile (s : State) (t r : Nat) (v : W32) : State :=
  match r with
  | 0x04 => (s.eccClear t v).fenceWrite t v
  | 0x08 => s.updTile t fun x => { x with flags := x.flags &&& ~~~v }
  | _ => s

/-- R319, R341, R349, R493: a write of a region's register. -/
def State.wrRegion (s : State) (a k r : Nat) (v : W32) : State :=
  match r with
  | 0x308 => s.updRgn k fun x => { x with evt := x.evt &&& ~~~(BitVec.ofNat 6 v.toNat) }
  | 0x404 => (s.sdClear k v).updRgn k fun x => { x with
      sensorFault := x.sensorFault && !bit v.toNat 11
      throttleSeen := x.throttleSeen && !bit v.toNat 9
      warnSeen := x.warnSeen && !bit v.toNat 8 }
  | 0x500 => s.tstSetting a v
  | _ => s

/-- A write of the register at an aligned BAR0 address: its action, or none (R6, R7). -/
def State.regAct (s : State) (w : Who) (a : Nat) (v : W32) : State :=
  let o := a % 0x100000
  match a / 0x100000 with
  | 0x0 => s.wrGlb w o v
  | 0x1 => s.wrTim o v
  | 0x2 => s.wrPwr w o v
  | 0x3 => s.wrOpt o v
  | 0x4 => s.wrTwl o v
  | 0x5 => s.wrPkt w o v
  | 0x6 => s.wrMem o v
  | 0x7 => s.wrCol w o v
  | 0x8 => s.wrDlk o v
  | 0x9 => s.wrCfg w o v
  | 0xA => s.wrHif w o v
  | 0xB => s.wrEvt w o v
  | 0xC => s.wrTst w a v
  | 0xD => s.wrSec o v
  | _ =>
    match s.dieReg a with
    | .tile t r => s.wrTile t r v
    | .region k r => s.wrRegion a k r v
    | .none => s

/-- R442: a write of another size or alignment is discarded and counted. R459: the side-band never
writes. -/
def State.regWrite (s : State) (w : Who) (a size : Nat) (v : W32) : State :=
  if w = .sideband then s
  else if size ≠ 4 ∨ a % 4 ≠ 0 then s.portErr w
  else if s.mapped a then s.regAct w a v
  else s

/-- R6, R442, R449 REG_WRITE; a poisoned one is not applied. -/
def execRegWrite (w : Who) (addr : Nat) (size : RegSize) (v : W32) (s : State) : Res :=
  .next (if size.poisoned && (Who.port w).isSome then s.aerOf w Aer.poisoned else s.regWrite w addr size.size v)

/-- R9 REG_LO_WRITE_STAGE: a write of the LO word of a 64-bit pair; elsewhere it has no effect. -/
def execRegLoWriteStage (w : Who) (addr : Nat) (v : W32) (s : State) : Res :=
  .next (if s.isLo addr then s.regWrite w addr 4 v else s)

/-- R9 REG_HI_WRITE_APPLY: a write of the HI word of a 64-bit pair; elsewhere it has no effect. -/
def execRegHiWriteApply (w : Who) (addr : Nat) (v : W32) (s : State) : Res :=
  .next (if 4 ≤ addr ∧ s.isLo (addr - 4) = true then s.regWrite w addr 4 v else s)

end Sys2Proof.Machine
end

