-- ==== Sys2Proof/Machine/FrameWord.lean ====
section
/-! DEFINITION. The frame word (R171, R308). -/

namespace Sys2Proof.Machine

/-- The job offset that a partition has from an HT boundary on: its present one, or the one with which it
resumes there after a request (R408). -/
def State.joffFrom (s : State) (p br : Nat) : W64 :=
  let x := s.part p
  (s.cfg.run.bind fun l => match l.applyEnd with
    | some e => if l.phase = .resuming ∧ l.resumeAt e = br ∧ (s.resuming l).contains p = true then
        some (l.joffAt br x) else none
    | none => none).getD x.joff

/-- R171: the frame word of a partition for the frame after an HT. -/
def State.frameWord (s : State) (p : Nat) : List Byte :=
  let br := (frameOf s.ht + 1) * 64000
  frameBytes ((BitVec.ofNat 64 br - s.joffFrom p br : W64).toNat / 64000) (s.part p).gearNext s.time.uncertain

/-- R308: the tile's region steps in this interval: its frame word comes at 63,840. -/
def State.wordDue (s : State) (t : Nat) : Bool :=
  (s.rgn (tileRegion t)).stepFrame != some (frameOf s.ht) || decide (63840 ≤ framePos s.ht)

/-- R171 FRAME_WORD_WRITE: between 63,500 and 63,900; from 63,840 for the tiles of stepping regions. -/
def execFrameWordWrite (p : Nat) (s : State) : Res :=
  .next (
    let x := s.part p
    if s.time.st = .free ∨ x.fwEn = false ∨ x.isLoaded = false ∨ framePos s.ht < 63500 ∨ 63900 < framePos s.ht
    then s
    else x.tiles.foldl (fun s t =>
      if (s.tile t).enabled && (s.tile t).st != .fenced && s.wordDue t then
        s.updTile t fun y => y.wmem x.fwAddr (s.frameWord p)
      else s) s)

end Sys2Proof.Machine
end

