-- ==== Sys2Proof/Machine/Vector.lean ====
section
/-! DEFINITION. Class 0x2: vector arithmetic (R71, R80, R105). -/

namespace Sys2Proof.Machine

/-- R105: the lane formats of class 0x2. -/
def laneFmt (fa : Nat) : Bool := fa ≤ 4 || fa == 8 || fa == 10

/-- R105: float lanes round by RND and have SAT = 0; integer lanes have RND = 0. -/
def laneOk (f : Fields) : Bool :=
  laneFmt f.fa && (if fmtIsFloat f.fa then !f.sat && rndOk f.fa f.rnd else f.rnd == 0)

def usesLane : Uses := { d := true, a := true, b := true, fa := true, rnd := true, sat := true }

/-- The same of an operation that does not round: RND is a field it does not use (R100, log entry 66); SAT
changes nothing (R71). -/
def usesPick : Uses := { usesLane with rnd := false }

/-- Issue an instruction of the vector unit. -/
def State.vecIssue (s : State) (t : Nat) (f : Fields) (occ : Nat) (sregs : List Nat) (legal : Bool)
    (run : Tile → Tile) : State :=
  s.issue t f (some .vector) occ sregs legal fun x => { tile := run x }

/-- Write the lanes of a result with its flags. -/
def Tile.putRes (x : Tile) (fmt r : Nat) (rs : List (Nat × W32)) : Tile :=
  (x.putLanes fmt r (rs.map (·.1))).orFlags (orAll (rs.map (·.2)))

/-- One lane of an arithmetic operation: floats round once, integers wrap or clamp. -/
def laneArith (fop : Nat → Nat → Nat → Nat → Nat → Nat × W32) (iop : Int → Int → Int)
    (f : Fields) (p : (Nat × Nat) × Nat) : Nat × W32 :=
  if fmtIsFloat f.fa then fop f.fa f.rnd p.2 p.1.1 p.1.2
  else intRes (fmtWidth f.fa) f.sat (iop (sext (fmtWidth f.fa) p.1.1) (sext (fmtWidth f.fa) p.1.2))

/-- An arithmetic operation of va with the lanes `bs`, in SR mode with bits of stream 1 (R78). -/
def Tile.vArith (x : Tile) (seed : W64) (f : Fields) (bs : List Nat)
    (fop : Nat → Nat → Nat → Nat → Nat → Nat × W32) (iop : Int → Int → Int) : Tile :=
  let n := fmtLanes f.fa
  let (us, y) := x.roundBits seed f.rnd n
  y.putRes f.fa f.dn ((((x.lanes f.fa f.an).zip bs).zip us).map (laneArith fop iop f))

/-- Lane operations of va and vb. -/
def State.vv (s : State) (t : Nat) (f : Fields) (fop : Nat → Nat → Nat → Nat → Nat → Nat × W32)
    (iop : Int → Int → Int) : State :=
  s.vecIssue t f 1 [] (rForm usesLane f && laneOk f)
    fun x => x.vArith (s.seedOf x) f (x.lanes f.fa f.bn) fop iop

/-- Lane operations of va and the low bits of sb (R105). -/
def State.vs (s : State) (t : Nat) (f : Fields) (fop : Nat → Nat → Nat → Nat → Nat → Nat × W32)
    (iop : Int → Int → Int) : State :=
  s.vecIssue t f 1 [f.bn] (rForm usesLane f && laneOk f)
    fun x => x.vArith (s.seedOf x) f
      (List.replicate (fmtLanes f.fa) ((x.rs f.bn).toNat % 2 ^ fmtWidth f.fa)) fop iop

/-- Lane operations that do not round: the code of each lane is one of the operands' or a mask. -/
def State.vPick (s : State) (t : Nat) (f : Fields) (op : Nat → Nat → Nat → Nat) : State :=
  s.vecIssue t f 1 [] (rForm usesPick f && laneOk f)
    fun x => x.putLanes f.fa f.dn
      (((x.lanes f.fa f.an).zip (x.lanes f.fa f.bn)).map fun p => op f.fa p.1 p.2)

/-- Minimum and maximum of a lane in a format (R80; signed for integers). -/
def laneMin (fa a b : Nat) : Nat :=
  if fmtIsFloat fa then minCode fa a b
  else if sext (fmtWidth fa) a ≤ sext (fmtWidth fa) b then a else b
def laneMax (fa a b : Nat) : Nat :=
  if fmtIsFloat fa then maxCode fa a b
  else if sext (fmtWidth fa) a ≤ sext (fmtWidth fa) b then b else a

/-- A comparison of lanes: all-ones or all-zeros; with a NaN it does not hold (R80). -/
def laneCmp (test : Int → Bool) (fa a b : Nat) : Nat :=
  let x := decodeNum fa a
  let y := decodeNum fa b
  if !x.isNan && !y.isNan && test (x.cmp y) then 2 ^ fmtWidth fa - 1 else 0

/-- R105 VADD. -/
def execVadd (t : Nat) (f : Fields) (s : State) : Res := .next (s.vv t f addCode (· + ·))
/-- R105 VSUB. -/
def execVsub (t : Nat) (f : Fields) (s : State) : Res := .next (s.vv t f subCode (· - ·))
/-- R105 VMUL. -/
def execVmul (t : Nat) (f : Fields) (s : State) : Res := .next (s.vv t f mulCode (· * ·))

/-- R105 VFMA: one rounding; float lanes only. -/
def execVfma (t : Nat) (f : Fields) (s : State) : Res :=
  .next (s.vecIssue t f 1 [] (rForm { usesLane with c := true } f && laneOk f && fmtIsFloat f.fa)
    fun x =>
      let (us, y) := x.roundBits (s.seedOf x) f.rnd (fmtLanes f.fa)
      let abc := ((x.lanes f.fa f.an).zip (x.lanes f.fa f.bn)).zip (x.lanes f.fa f.cn)
      y.putRes f.fa f.dn ((abc.zip us).map fun p => fmaCode f.fa f.rnd p.2 p.1.1.1 p.1.1.2 p.1.2))

/-- R80, R105 VMIN. -/
def execVmin (t : Nat) (f : Fields) (s : State) : Res := .next (s.vPick t f laneMin)
/-- R80, R105 VMAX. -/
def execVmax (t : Nat) (f : Fields) (s : State) : Res := .next (s.vPick t f laneMax)
/-- R80, R105 VCEQ. -/
def execVceq (t : Nat) (f : Fields) (s : State) : Res := .next (s.vPick t f (laneCmp (· == 0)))
/-- R80, R105 VCLT. -/
def execVclt (t : Nat) (f : Fields) (s : State) : Res :=
  .next (s.vPick t f (laneCmp fun c => decide (c < 0)))
/-- R80, R105 VCLE. -/
def execVcle (t : Nat) (f : Fields) (s : State) : Res :=
  .next (s.vPick t f (laneCmp fun c => decide (c ≤ 0)))

/-- R105 VSEL: the lane of a where the lane of c is not zero, else of b. The lane of c is judged by its code, so
that −0 of a float format is not zero (DEDUCED, log entry 81). -/
def execVsel (t : Nat) (f : Fields) (s : State) : Res :=
  .next (s.vecIssue t f 1 [] (rForm { usesPick with c := true } f && laneOk f)
    fun x =>
      let abc := ((x.lanes f.fa f.an).zip (x.lanes f.fa f.bn)).zip (x.lanes f.fa f.cn)
      x.putLanes f.fa f.dn (abc.map fun p => if p.2 ≠ 0 then p.1.1 else p.1.2))

/-- A bitwise operation on 1,024 bits: FA must be 0 and no other R-form field is used (R105). -/
def State.vBits (s : State) (t : Nat) (f : Fields) (op : VReg → VReg → VReg) : State :=
  s.vecIssue t f 1 [] (rForm usesDAB f) fun x => x.wv f.dn (op (x.rv f.an) (x.rv f.bn))

/-- R105 VAND. -/
def execVand (t : Nat) (f : Fields) (s : State) : Res := .next (s.vBits t f (· &&& ·))
/-- R105 VOR. -/
def execVor (t : Nat) (f : Fields) (s : State) : Res := .next (s.vBits t f (· ||| ·))
/-- R105 VXOR. -/
def execVxor (t : Nat) (f : Fields) (s : State) : Res := .next (s.vBits t f (· ^^^ ·))

/-- R105 VADDS. -/
def execVadds (t : Nat) (f : Fields) (s : State) : Res := .next (s.vs t f addCode (· + ·))
/-- R105 VMULS. -/
def execVmuls (t : Nat) (f : Fields) (s : State) : Res := .next (s.vs t f mulCode (· * ·))

/-- R105 VBCAST: the low bits of sa in every lane. -/
def execVbcast (t : Nat) (f : Fields) (s : State) : Res :=
  .next (s.vecIssue t f 1 [f.an] (rForm { usesPick with b := false } f && laneOk f)
    fun x => x.putLanes f.fa f.dn
      (List.replicate (fmtLanes f.fa) ((x.rs f.an).toNat % 2 ^ fmtWidth f.fa)))

/-- One level of the pairwise tree of R27. -/
def pairUp (op : Nat → Nat → Nat × W32) : List Nat → List (Nat × W32)
  | a :: b :: l => op a b :: pairUp op l
  | _ => []

/-- The tree of R27 over a power of two of lanes: the result and the flags of every add. -/
def treeReduce (op : Nat → Nat → Nat × W32) : Nat → List Nat → Nat × W32
  | 0, l => (l.headD 0, 0)
  | n + 1, l =>
    let r := pairUp op l
    let (c, fl) := treeReduce op n (r.map (·.1))
    (c, fl ||| orAll (r.map (·.2)))

/-- R105: formats of a cross-lane reduction. -/
def redFmt (fa : Nat) : Bool := fa ≤ 2 || fa == 10

/-- A cross-lane reduction (R27, R105) with the fields it uses: floats as raw bits, INT32 sign-extended. -/
def State.vRed (s : State) (t : Nat) (u : Uses) (f : Fields) (op : Nat → Nat → Nat × W32) : State :=
  s.vecIssue t f 2 [f.dn] (rForm { u with b := false } f && laneOk f && redFmt f.fa)
    fun x =>
      let (c, fl) := treeReduce op (Nat.log2 (fmtLanes f.fa)) (x.lanes f.fa f.an)
      (x.ws f.dn (if f.fa = 10 then BitVec.ofInt 64 (sext 32 c) else BitVec.ofNat 64 c)).orFlags fl

/-- R105 VREDSUM: each add of the tree rounds (R80), or wraps or clamps (R71). -/
def execVredsum (t : Nat) (f : Fields) (s : State) : Res :=
  .next (s.vRed t usesLane f fun a b => laneArith addCode (· + ·) f ((a, b), 0))
/-- R105 VREDMAX. -/
def execVredmax (t : Nat) (f : Fields) (s : State) : Res :=
  .next (s.vRed t usesPick f fun a b => (laneMax f.fa a b, 0))
/-- R105 VREDMIN. -/
def execVredmin (t : Nat) (f : Fields) (s : State) : Res :=
  .next (s.vRed t usesPick f fun a b => (laneMin f.fa a b, 0))

end Sys2Proof.Machine
end

