-- ==== Sys2Proof/Machine/Matrix.lean ====
section
/-! DEFINITION. Class 0x4: the matrix unit (R81 to R86, R108 to R111). -/

namespace Sys2Proof.Machine

/-- R81: an operand format of the matrix unit: BF16, FP16, the narrow floats, INT8, INT4. -/
def matFmt (n : Nat) : Bool := (1 ≤ n && n ≤ 9)

/-- R81: both floats or both integers. -/
def matPair (fa fb : Nat) : Bool := matFmt fa && matFmt fb && (fmtIsInt fa == fmtIsInt fb)

/-- The unit of the exact sums: the smallest product is 2^-266 (R82). -/
def sumUnit : Int := -266

/-- Add a product to the open sum of an element (R82, R83). -/
def OpenSum.addProd (o : OpenSum) (a b : Num) : OpenSum :=
  match (a.mul b).1 with
  | .nan => { o with nan := true }
  | .inf true => { o with negInf := true }
  | .inf false => { o with posInf := true }
  | .fin n m e => { o with sum := o.sum + toUnits n m e sumUnit }

/-- R82: the class of a product: whether each operand's format is block-scaled. -/
def scaleClass (fa fb : Nat) : Nat := 2 * b2n (fmtNarrow fa) + b2n (fmtNarrow fb)

/-- The exact value of an open sum times 2^k. -/
def OpenSum.value (o : OpenSum) (k : Int) : Num :=
  if o.nan || (o.posInf && o.negInf) then .nan
  else if o.posInf then .inf false
  else if o.negInf then .inf true
  else .fin (decide (o.sum < 0)) o.sum.natAbs (sumUnit + k)

/-- One part of a block: its value under the scale codes of its operands; a scale of 0xFF that is
read gives NaN (R72, R83). -/
def scaledPart (o : OpenSum) (useA useB : Bool) (xa xb : Nat) : Num :=
  if (useA && xa == 255) || (useB && xb == 255) then .nan
  else o.value ((if useA then (xa : Int) - 127 else 0) + (if useB then (xb : Int) - 127 else 0))

/-- Infinities and NaN of the parts of one block together, finite parts summed (R83). -/
def blockSum : Num → Num → Num
  | .nan, _ => .nan
  | _, .nan => .nan
  | .inf a, .inf b => if a = b then .inf a else .nan
  | a, b => (a.add b).1

/-- R82, R83: fold a block value into an accumulator element. -/
def foldElem (acc : W32) (v : Num) : W32 × W32 :=
  match v with
  | .nan => (0x7FC00000, fINVALID)
  | _ =>
    let (c, fl) := roundRes 0 0 0 ((decodeNum 0 acc.toNat).add v)
    (BitVec.ofNat 32 c, fl)

/-- The value of the open block of element `k` = 16 j + i under the accumulator's scales. -/
def Acc.blockValue (a : Acc) (k : Nat) : Num :=
  let xa := (mget 0x7F a.xa (k % 16)).toNat
  let xb := (mget 0x7F a.xb (k / 16)).toNat
  a.classes.foldl (fun v c =>
    blockSum v (scaledPart (mget {} a.sums (c * 256 + k)) (c / 2 == 1) (c % 2 == 1) xa xb))
    (.fin false 0 sumUnit)

/-- R82: the 256 elements after the fold of the open block, and the flags. -/
def Acc.foldedElems (a : Acc) : SMap W32 × W32 :=
  (List.range 256).foldl (fun r k =>
    let (v, fl) := foldElem (mget 0 r.1 k) (a.blockValue k)
    (mset 0 r.1 k v, r.2 ||| fl)) (a.elem, 0)

/-- Discard the open block. -/
def Acc.noBlock (a : Acc) : Acc := { a with ksteps := 0, sums := [], classes := [] }

/-- R82: fold the open block, if there is one. -/
def Acc.fold (a : Acc) : Acc × W32 :=
  if a.ksteps = 0 then (a, 0)
  else
    let (e, fl) := a.foldedElems
    ({ a with elem := e }.noBlock, fl)

/-- The products of one k-step into the sums of a class. -/
def Acc.stepSums (a : Acc) (cls : Nat) (av bv : List Num) : SMap OpenSum :=
  (bv.zipIdx).foldl (fun m q =>
    (av.zipIdx).foldl (fun m p =>
      mupd {} m (cls * 256 + 16 * q.2 + p.2) (·.addProd p.1 q.1)) m) a.sums

/-- One k-step of a float outer product; the 32nd closes the block (R82). -/
def Acc.kstep (a : Acc) (cls : Nat) (av bv : List Num) : Acc × W32 :=
  let a := { a with
    sums := a.stepSums cls av bv
    classes := addSorted cls a.classes
    ksteps := a.ksteps + 1 }
  if a.ksteps = 32 then a.fold else (a, 0)

/-- R85: add a product to an INT32 element; beyond the range it wraps and sets OVERFLOW. -/
def intAcc (e : W32) (p : Int) : W32 × W32 :=
  let v := e.toInt + p
  (BitVec.ofInt 32 v, if v < -(2 ^ 31) ∨ 2 ^ 31 ≤ v then fOVERFLOW else 0)

/-- One k-step of an integer outer product (R85). -/
def Acc.kstepInt (a : Acc) (av bv : List Int) : Acc × W32 :=
  (bv.zipIdx).foldl (fun r q =>
    (av.zipIdx).foldl (fun r p =>
      let k := 16 * q.2 + p.2
      let (v, fl) := intAcc (mget 0 r.1.elem k) (p.1 * q.1)
      ({ r.1 with elem := mset 0 r.1.elem k v }, r.2 ||| fl)) r) (a, 0)

/-- R109: the k-steps of a MOP. -/
def mopSteps (fa fb : Nat) : Nat := Nat.min (fmtLanes fa) (fmtLanes fb) / 16

/-- Issue an instruction of the matrix unit. -/
def State.matIssue (s : State) (t : Nat) (f : Fields) (occ : Nat) (sregs : List Nat) (legal : Bool)
    (run : Tile → TEff) : State := s.issue t f (some .matrix) occ sregs legal run

/-- The accumulator number is 0-3 (R100). -/
def mOk (r : Nat) : Bool := r ≤ 3

/-- Write an accumulator with the flags of the operation. -/
def Tile.wmFl (x : Tile) (r : Nat) (p : Acc × W32) : Tile := (x.wm r p.1).orFlags p.2

/-- R109: the k-steps of an outer product of two registers. -/
def Acc.mop (a : Acc) (fa fb : Nat) (as bs : List Nat) : Acc × W32 :=
  (List.range (mopSteps fa fb)).foldl (fun r t =>
    let av := (as.drop (16 * t)).take 16
    let bv := (bs.drop (16 * t)).take 16
    let (a', fl) :=
      if fmtIsInt fa then
        r.1.kstepInt (av.map (sext (fmtWidth fa))) (bv.map (sext (fmtWidth fb)))
      else r.1.kstep (scaleClass fa fb) (av.map (decodeNum fa)) (bv.map (decodeNum fb))
    (a', r.2 ||| fl)) (a, 0)

/-- R108, R109 MOP; an operand kind that differs from the accumulator's is ILLEGAL. -/
def execMop (t : Nat) (f : Fields) (s : State) : Res :=
  .next (s.matIssue t f 8 []
    (rForm { usesDAB with fa := true, fb := true } f && mOk f.dn && matPair f.fa f.fb &&
      (fmtIsInt f.fa == ((s.tile t).rm f.dn).integer))
    fun x => { tile := x.wmFl f.dn ((x.rm f.dn).mop f.fa f.fb (x.lanes f.fa f.an) (x.lanes f.fb f.bn)) })

/-- R110: bytes of a 32-element block of weights. -/
def mmvWidth (fa : Nat) : Nat := fmtWidth fa * 4

/-- R110: blocks that a register holds in a format. -/
def mmvBlocks (fb : Nat) : Nat := fmtLanes fb / 32

/-- R110: bytes of a weight panel of n rows. -/
def mmvBytes (fa n : Nat) : Nat := n * mmvWidth fa + (if fmtNarrow fa then n else 0)

/-- R110: one row of an MMV: its exact dot product with the block, folded at once (R82), or added
to the integer element (R85). The dot product of an integer row is added as one number, so that a row whose sum
leaves the INT32 range and comes back within its 32 products sets no OVERFLOW (DEDUCED, log entry 81). -/
def mmvRow (fa fb : Nat) (panel : List Byte) (n r : Nat) (vb : List Nat) (xscale : Nat) (e : W32) :
    W32 × W32 :=
  let w := mmvWidth fa
  let row := leNat ((panel.drop (r * w)).take w)
  let ws := (List.range 32).map fun i => bits row (fmtWidth fa * i + fmtWidth fa - 1) (fmtWidth fa * i)
  if fmtIsInt fa then
    intAcc e (((ws.zip vb).map fun p => sext (fmtWidth fa) p.1 * sext (fmtWidth fb) p.2).foldl (· + ·) 0)
  else
    let o := (ws.zip vb).foldl (fun o p => o.addProd (decodeNum fa p.1) (decodeNum fb p.2)) ({} : OpenSum)
    let rowScale := (nth 0 panel (n * w + r)).toNat
    foldElem e (scaledPart o (fmtNarrow fa) (fmtNarrow fb) rowScale xscale)

/-- R110: all rows. -/
def mmvRows (a : Acc) (fa fb n : Nat) (panel : List Byte) (vb : List Nat) (xscale : Nat) : Acc × W32 :=
  (List.range n).foldl (fun r k =>
    let (v, fl) := mmvRow fa fb panel n k vb xscale (mget 0 r.1.elem k)
    ({ r.1 with elem := mset 0 r.1.elem k v }, r.2 ||| fl)) (a, 0)

/-- R108, R110, R111 MMV: an open block is folded first. -/
def execMmv (t : Nat) (f : Fields) (s : State) : Res :=
  let n := f.imm16
  .next (s.matIssue t f (ceilDiv (mmvBytes f.fa n) 128) [f.an, f.cn]
    (rForm { usesDAB with c := true, fa := true, fb := true, imm16 := true } f && mOk f.dn &&
      matPair f.fa f.fb && decide (1 ≤ n ∧ n ≤ 256) && (fmtIsInt f.fa == ((s.tile t).rm f.dn).integer))
    fun x =>
      let sc := (x.rs f.cn).toNat
      let q := bits sc 10 8 % mmvBlocks f.fb
      let vb := ((x.lanes f.fb f.bn).drop (32 * q)).take 32
      x.load (x.rs f.an).toNat (mmvBytes f.fa n) 1 fun x bs =>
        let (a, fl) := (x.rm f.dn).fold
        let (a, fl2) := mmvRows a f.fa f.fb n bs vb (sc % 256)
        x.wmFl f.dn (a, fl ||| fl2))

/-- R82, R108, R111 MFOLD: no effect with no open block. -/
def execMfold (t : Nat) (f : Fields) (s : State) : Res :=
  .next (s.matIssue t f 1 [] (rForm usesD f && mOk f.dn)
    fun x => { tile := x.wmFl f.dn (x.rm f.dn).fold })

/-- R108 MCLR: kind by FA, 0 or 10; no open block, block scales 0x7F. -/
def execMclr (t : Nat) (f : Fields) (s : State) : Res :=
  .next (s.matIssue t f 1 [] (rForm { usesD with fa := true } f && mOk f.dn && (f.fa == 0 || f.fa == 10))
    fun x => { tile := x.wm f.dn { integer := f.fa == 10 } })

/-- 16 bytes as a table of block scales. -/
def scaleTable (bs : List Byte) : SMap Byte :=
  (bs.zipIdx).foldl (fun m p => mset 0x7F m p.2 p.1) []

/-- R82, R108 MSCL. -/
def execMscl (t : Nat) (f : Fields) (s : State) : Res :=
  .next (s.matIssue t f 1 [] (rForm usesDA f && mOk f.dn)
    fun x =>
      let bs := vregBytes (x.rv f.an)
      { tile := x.wm f.dn { x.rm f.dn with
          xa := scaleTable (bs.take 16)
          xb := scaleTable ((bs.drop 16).take 16) } })

/-- R86: one element delivered with an optional row scale: without one it is converted once; OVERFLOW of a
scaled one stands only where an infinity is delivered (R74). -/
def deliver (fa rnd : Nat) (integer : Bool) (e : W32) (scale : Option Nat) : Nat × W32 :=
  if fa = 10 then (e.toNat, 0)
  else
    match scale with
    | none =>
      if integer then encodeNum fa rnd 0 (intNum e.toInt)
      else if fa = 0 ∧ rnd = 0 then (e.toNat, 0)
      else encodeNum fa rnd 0 (decodeNum 0 e.toNat)
    | some k =>
      let (c, fl) := if integer then encodeNum 0 0 0 (intNum e.toInt) else (e.toNat, 0)
      let (c, fl2) := mul32 c k
      let (r, fl3) := encodeNum fa rnd 0 (decodeNum 0 c)
      (r, (if (decodeNum fa r).isInf then fl ||| fl2 else (fl ||| fl2) &&& ~~~fOVERFLOW) ||| fl3)

/-- R108: registers of an MRD's destination. -/
def mrdRegs (fa : Nat) : Nat := if fa == 1 || fa == 2 then 4 else 8

/-- R108: the row scale of element 16 j + i by IMM16. -/
def mrdScale (f : Fields) (x : Tile) (k : Nat) : Option Nat :=
  match f.imm16 with
  | 0 => none
  | 1 => some (nth 0 (x.lanes 0 f.bn) (k % 16))
  | _ => some (nth 0 (x.groupLanes 0 f.bn 256) k)

/-- R108: permitted forms of MRD. -/
def mrdOk (f : Fields) (integer : Bool) : Bool :=
  (f.fa ≤ 2 || f.fa == 10) && mOk f.an && decide (f.rnd ≤ 1) && decide (f.imm16 ≤ 2) &&
  groupOk f.dn (mrdRegs f.fa) && (f.imm16 != 0 || f.bn == 0) && (f.imm16 != 2 || groupOk f.bn 8) &&
  (f.fa != 10 || (integer && f.imm16 == 0))

/-- R86, R108, R111 MRD: with an open block the folded values are delivered and the block stays. -/
def execMrd (t : Nat) (f : Fields) (s : State) : Res :=
  .next (s.matIssue t f 8 []
    (rForm { usesDAB with fa := true, rnd := true, imm16 := true } f &&
      mrdOk f ((s.tile t).rm f.an).integer)
    fun x =>
      let a := x.rm f.an
      let (b, fl) := a.fold
      let rs := (List.range 256).map fun k =>
        deliver f.fa f.rnd a.integer (mget 0 b.elem k) (mrdScale f x k)
      { tile := (x.putRes f.fa f.dn rs).orFlags fl })

/-- R108, R111 MWR: 256 values of va to va + 7; an open block is discarded. -/
def execMwr (t : Nat) (f : Fields) (s : State) : Res :=
  .next (s.matIssue t f 8 []
    (rForm { usesDA with fa := true } f && mOk f.dn && (f.fa == 0 || f.fa == 10) && groupOk f.an 8)
    fun x =>
      { tile := x.wm f.dn { (x.rm f.dn).noBlock with
          integer := f.fa == 10
          elem := ((x.groupLanes 0 f.an 256).zipIdx).foldl
            (fun m p => mset 0 m p.2 (BitVec.ofNat 32 p.1)) [] } })

end Sys2Proof.Machine
end

