-- ==== Sys2Proof/Machine/Sideband.lean ====
section
/-! DEFINITION. The side-band (R458, R459), the JTAG port (R460), the SPDM responder (R461 to R463) and
DOE Discovery (R462). -/

namespace Sys2Proof.Machine

/-- R458: MCTP runs from P0 + 20 ms, whatever becomes of start-up. -/
def State.mctpRuns (s : State) : Bool :=
  s.boot.mode != .powerOff && s.boot.mode != .held && decide (s.boot.p0 + 20000000 ≤ s.boot.osc)

/-- R458, R501: the module's 7-bit address. -/
def State.mctpAddr (s : State) : BitVec 7 := BitVec.ofNat 7 (0x60 + s.board.addr.toNat)

/-- R458: a message in packets of the MTU of 64 B. -/
def mctpPackets (msg : List Byte) : List (List Byte) := chunks 64 msg

def State.mctp (s : State) (body : List Byte) : State :=
  if s.mctpRuns then s.emit (.mctp s.mctpAddr (mctpPackets body)) else s

/-- R458, R459 MCTP_CONTROL: the bus owner assigns and reads the endpoint ID, and reads the supported message
types; other commands are unsupported (bodies: log entry 29). A vendor-defined command that R459 does not list is
answered with code 1. -/
def execMctpControl (m : MctpMsg) (s : State) : Res :=
  .next (
    if !s.mctpRuns then s
    else if m.vendor then s.mctp [1]
    else match m.command with
      | 1 =>
        if m.eid = 0 ∨ m.eid = 0xFF then s.mctp [m.command, 2]
        else State.mctp { s with sec := { s.sec with eid := m.eid } } [m.command, 0, 0, m.eid, 0]
      | 2 => s.mctp [m.command, 0, s.sec.eid, 0, 0]
      | 5 => s.mctp [m.command, 0, 3, 0x00, 0x05, 0x7E]
      | _ => s.mctp [m.command, 5])

/-- R501: SMB_ALERT_N is low: a record of block 0xE or 0x2 is unread by the side-band. -/
def State.smbAlert (s : State) : Bool := !s.evt.unread.isEmpty

/-- R501: the STATUS pin is low: READY and not SHARED. -/
def State.statusLow (s : State) : Bool := s.boot.ready && !s.safe.shared

/-! ## Vendor-defined messages (R459) -/

/-- R459 GET_STATE. -/
def execGetState (s : State) : Res :=
  .next (s.mctp ([0] ++ leBytes 4 s.bootStatus ++ leBytes 4 s.timeStatus ++ leBytes 4 s.powerStatus ++
    leBytes 4 s.powerInput))

/-- R459 GET_TEMPS. -/
def execGetTemps (die : Nat) (s : State) : Res :=
  .next (
    if 19 < die then s.mctp [2]
    else
      let top := (dieRegions die).foldl (fun m r => Nat.max m (quarter (s.rgn r).tEff)) 0
      s.mctp ([0] ++ leBytes 2 top ++ leBytes 2 (quarter (s.stn die).baseTemp)))

/-- R459 READ_REG: the side-band reads as a requester of its own. -/
def execReadReg (offset : Nat) (s : State) : Res :=
  .next (
    if offset % 4 ≠ 0 ∨ 0x4000000 ≤ offset then s.mctp [2]
    else if s.mctpRuns then
      (s.readLatch .sideband offset).mctp ([0] ++ leBytes 4 (s.regValue .sideband offset).toNat)
    else s)

/-- R459, R501 READ_PEAT: a record held in RAM, which counts as read. -/
def execReadPeat (seq : Nat) (s : State) : Res :=
  .next (
    if !s.mctpRuns then s
    else match s.evt.buf.find? fun r => r.seq == seq with
      | some r =>
        State.mctp { s with evt := { s.evt with unread := s.evt.unread.filter (· != seq) } } ([0] ++ r.bytes)
      | none => s.mctp [2])

/-! ## SPDM (R462) -/

/-- The number of an interface with transcripts of its own. -/
def spdmKey : SpdmVia → Nat
  | .port0 => 0 | .port1 => 1 | .sideband => 2

/-- The interface can carry a request: its link is up, or MCTP runs. -/
def State.spdmUp (s : State) (via : SpdmVia) : Bool :=
  match via with
  | .port0 => (s.port 0).up
  | .port1 => (s.port 1).up
  | .sideband => s.mctpRuns

def State.conn (s : State) (via : SpdmVia) : Spdm := mget {} s.sec.spdm (spdmKey via)
def State.setConn (s : State) (via : SpdmVia) (c : Spdm) : State :=
  { s with sec := { s.sec with spdm := mset {} s.sec.spdm (spdmKey via) c } }

/-- The bytes of a message of SPDM 1.3: version, code, two parameters, body (log entry 29). -/
def spdmMsg (code p1 p2 : Byte) (body : List Byte) : List Byte := [0x13, code, p1, p2] ++ body

/-- R458, R462: a message leaves by its interface. -/
def State.spdmSend (s : State) (via : SpdmVia) (msg : List Byte) : State :=
  s.emit (.spdm via (if via = .sideband then mctpPackets msg else [msg]))

/-- An ERROR response (its codes: log entry 29): 1 InvalidRequest, 4 UnexpectedRequest, 7
UnsupportedRequest. -/
def State.spdmError (s : State) (via : SpdmVia) (code data : Byte) : State := s.spdmSend via (spdmMsg 0x7F code data [])

/-- A request is answered when the connection stands where it needs it; request and answer join the transcripts. -/
def State.spdmServe (s : State) (via : SpdmVia) (ready : Spdm → Bool) (put : Spdm → List Byte → Spdm)
    (req rsp : List Byte) : State :=
  if !s.spdmUp via then s
  else
    let c := s.conn via
    if ready c then (s.setConn via (put c (req ++ rsp))).spdmSend via rsp
    else s.spdmError via 4 0

/-- Messages that join the first transcript, that of the chain, or none (log entry 29). -/
def Spdm.addVca (c : Spdm) (b : List Byte) : Spdm := { c with vca := c.vca ++ b }
def Spdm.addM1 (c : Spdm) (b : List Byte) : Spdm := { c with m1 := c.m1 ++ b, l1 := [] }

/-- R462 GET_VERSION: versions 1.2 and 1.3; the connection starts anew. -/
def execGetVersion (via : SpdmVia) (s : State) : Res :=
  .next (s.spdmServe via (fun _ => true) (fun _ b => { version := true, vca := b })
    [0x10, 0x84, 0, 0] [0x10, 0x04, 0, 0, 0, 2, 0x00, 0x12, 0x00, 0x13])

/-- R462 GET_CAPABILITIES: CERT_CAP (bit 1), CHAL_CAP (bit 2), MEAS_CAP = 2 (bits 4:3). -/
def execGetCapabilities (via : SpdmVia) (s : State) : Res :=
  .next (s.spdmServe via (·.version) (fun c b => { c.addVca b with caps := true })
    (spdmMsg 0xE1 0 0 []) (spdmMsg 0x61 0 0 (leBytes 4 0x16)))

/-- R462: the offer as the request carries it, and the algorithms as the answer selects them: the measurement
specification DMTF, SHA3-256 as measurement hash and as hash, no BaseAsymAlgo, and one ExtAsym entry: registry PCI-SIG,
the vendor identifier, 0x0044 (their codes: log entry 29). -/
def AlgOffer.bytes (o : AlgOffer) : List Byte :=
  let x := fun (q : Bool) (b : List Byte) => if q then b else b.map fun _ => 0
  x o.dmtf [1] ++ x o.sha3 (leBytes 4 0x10) ++ leBytes 4 0 ++ x o.sha3 (leBytes 4 0x08) ++
  x o.mldsa ([1, 3] ++ leBytes 2 Config.vendorId.toNat ++ leBytes 2 0x0044)

/-- R462 NEGOTIATE_ALGORITHMS: answered where the requester offers what the responder supports. -/
def execNegotiateAlgorithms (via : SpdmVia) (offer : AlgOffer) (s : State) : Res :=
  .next (
    if offer.dmtf && offer.sha3 && offer.mldsa then
      s.spdmServe via (·.caps) (fun c b => { c.addVca b with algs := true })
        (spdmMsg 0xE3 0 0 (AlgOffer.bytes offer)) (spdmMsg 0x63 0 0 (AlgOffer.bytes offer))
    else if s.spdmUp via then s.spdmError via 1 0 else s)

/-- R461: the chain of slot 0: root, intermediate, and the device certificate of GLB_SERIAL. -/
def State.certChain (s : State) : List Byte := Config.rootCert ++ Config.interCert ++ Config.deviceCert s.fused.serial

def State.chainDigest (s : State) : List Byte := leBytes 32 (Config.sha3 s.certChain).toNat

/-- R461, R462 GET_DIGESTS: slot 0 alone holds a chain. -/
def execGetDigests (via : SpdmVia) (s : State) : Res :=
  .next (s.spdmServe via (·.algs) Spdm.addM1 (spdmMsg 0x81 0 0 []) (spdmMsg 0x01 0 1 s.chainDigest))

/-- R461, R462 GET_CERTIFICATE: a part of the chain of slot 0. -/
def execGetCertificate (via : SpdmVia) (slot offset length : Nat) (s : State) : Res :=
  .next (
    if slot ≠ 0 then (if s.spdmUp via then s.spdmError via 1 0 else s)
    else s.spdmServe via (·.algs) Spdm.addM1
      (spdmMsg 0x82 0 0 (leBytes 2 offset ++ leBytes 2 length)) (spdmMsg 0x02 0 0 ((s.certChain.drop offset).take length)))

/-- R462, R466: an answer with the signature of a message, counted. -/
def State.serveSigned (s : State) (via : SpdmVia) (put : Spdm → Spdm) (req rsp before : List Byte) : State :=
  if s.spdmUp via && (s.conn via).algs then
    State.spdmServe { s with sec := { s.sec with signs := satInc 65535 s.sec.signs } } via (·.algs) (fun c _ => put c)
      req (rsp ++ Config.sign (before ++ req ++ rsp))
  else s.spdmServe via (·.algs) (fun c _ => c) req []

/-- R462 CHALLENGE: the signed answer, over the transcripts so far. -/
def execChallenge (via : SpdmVia) (slot : Nat) (nonce : BitVec 256) (s : State) : Res :=
  .next (
    if slot ≠ 0 then (if s.spdmUp via then s.spdmError via 1 0 else s)
    else s.serveSigned via (fun c => { c with m1 := [], l1 := [] }) (spdmMsg 0x83 0 0 (leBytes 32 nonce.toNat))
      (spdmMsg 0x03 0 1 s.chainDigest) ((s.conn via).vca ++ (s.conn via).m1))

/-- R463: the DMTF value type of a measurement: immutable ROM, mutable firmware, hardware configuration, firmware
configuration, freeform manifest (their numbers: log entry 29). -/
def measType (i : Nat) : Byte := if i = 1 then 0 else if i = 2 then 1 else if i = 4 then 2 else if i < 69 then 3 else 4

/-- R463: every measurement, each as a block of its index, the specification DMTF, its size, its value type, and its
digest, at one instant. -/
def State.measurements (s : State) : List Byte :=
  ((List.range 72).map fun k =>
    [BitVec.ofNat 8 (k + 1), 1] ++ leBytes 2 35 ++ [measType (k + 1)] ++ leBytes 2 32 ++
      leBytes 32 (s.measurement (k + 1)).toNat).flatten

/-- R463 GET_MEASUREMENTS: signed. -/
def execGetMeasurements (via : SpdmVia) (nonce : BitVec 256) (s : State) : Res :=
  .next (s.serveSigned via (fun c => { c with m1 := [], l1 := [] }) (spdmMsg 0xE0 1 0xFF (leBytes 32 nonce.toNat))
    (spdmMsg 0x60 0 0 s.measurements) ((s.conn via).vca ++ (s.conn via).l1))

/-- R462 SPDM_UNSUPPORTED: ERROR UnsupportedRequest. -/
def execSpdmUnsupported (via : SpdmVia) (code : BitVec 8) (s : State) : Res :=
  .next (if s.spdmUp via then s.spdmError via 7 code else s)

/-- R462 DOE_DISCOVERY: DOE Discovery and CMA/SPDM, and no other type (codes: log entry 29). -/
def execDoeDiscovery (port index : Nat) (s : State) : Res :=
  .next (
    if !(s.port port).up then s
    else if index = 0 then s.emit (.doe port 1 0 1)
    else if index = 1 then s.emit (.doe port 1 1 0)
    else s.emit (.doe port 0xFFFF 0xFF 0))

/-! ## JTAG (R460) -/

def State.setIr (s : State) (i : JtagIr) : State := { s with jtag := i }

/-- R460: an instruction that acts only while the board holds the module in reset. -/
def State.setIrHeld (s : State) (i : JtagIr) : State := s.setIr (if s.board.resetLow then i else .bypass)

/-- R460: the instruction that acts: those after SAMPLE/PRELOAD act as BYPASS outside reset. -/
def State.jtagActs (s : State) : JtagIr :=
  match s.jtag with
  | .bypass | .idcode | .samplePreload => s.jtag
  | i => if s.board.resetLow then i else .bypass

/-- R460 BYPASS. -/
def execBypass (s : State) : Res := .next (s.setIr .bypass)

/-- R460: the IDCODE register. -/
def State.idcode (s : State) : W32 :=
  BitVec.ofNat 32 (at_ 28 1 + at_ 12 s.deviceId + at_ 1 Config.jedecCode.toNat + 1)

/-- R460 IDCODE. -/
def execIdcode (s : State) : Res := .next ((s.setIr .idcode).emit (.idcode s.idcode))

/-- R460: the levels that the cells capture: the header's pins (R501), and each PCIe lane and time-connector input,
whose levels come from outside (their number and order: log entry 88). -/
def State.cells (s : State) : List Bool :=
  [s.board.htPresent, s.board.addr.getLsbD 0, s.board.addr.getLsbD 1, s.board.resetLow, s.board.flowGood,
    s.board.leakClr, s.smbAlert, s.statusLow] ++
  (List.range 24).map fun k => Config.lineLevel k s.free

/-- R460: the cells are captured. -/
def State.capture (s : State) : State :=
  { s with board := { s.board with scan := s.cells }, free := s.free + 1 }

/-- What drives the scanned outputs (R460): the module, the cells, or nothing. -/
inductive JtagDrive where
  | module | cells | none
  deriving DecidableEq, Repr

def State.jtagDrives (s : State) : JtagDrive :=
  match s.jtagActs with
  | .extest | .extestPulse | .extestTrain | .clamp => .cells
  | .highz => .none
  | .bypass | .idcode | .samplePreload => .module

/-- R460: an instruction of the EXTEST family, which captures the cells where it acts. -/
def State.extestIr (s : State) (i : JtagIr) : State :=
  if s.board.resetLow then (s.setIr i).capture else s.setIr .bypass

/-- R460 SAMPLE_PRELOAD. -/
def execSamplePreload (s : State) : Res := .next (s.setIr .samplePreload).capture
/-- R460 EXTEST. -/
def execExtest (s : State) : Res := .next (s.extestIr .extest)
/-- R460 EXTEST_PULSE. -/
def execExtestPulse (s : State) : Res := .next (s.extestIr .extestPulse)
/-- R460 EXTEST_TRAIN. -/
def execExtestTrain (s : State) : Res := .next (s.extestIr .extestTrain)
/-- R460 CLAMP. -/
def execClamp (s : State) : Res := .next (s.setIrHeld .clamp)
/-- R460 HIGHZ. -/
def execHighz (s : State) : Res := .next (s.setIrHeld .highz)

end Sys2Proof.Machine
end

