-- ==== Sys2Proof/Machine/Special.lean ====
section
/-! DEFINITION. Class 0x5: special functions and random bits (R42, R112, R113). -/

namespace Sys2Proof.Machine

/-- R112: a special function on the lanes of a register; 4 cycles in FP32, 8 in 16-bit formats. -/
def State.special (s : State) (t : Nat) (f : Fields) (fn : SpecFn) : State :=
  s.issue t f (some .special) (if f.fa = 0 then 4 else 8) []
    (rForm { d := true, a := true, fa := true, rnd := true } f && fmtWide f.fa && decide (f.rnd ≤ 1))
    fun x => { tile := x.putRes f.fa f.dn ((x.lanes f.fa f.an).map (specialLane fn f.fa f.rnd)) }

/-- R112 FEXP2. -/
def execFexp2 (t : Nat) (f : Fields) (s : State) : Res := .next (s.special t f .exp2)
/-- R112 FLOG2. -/
def execFlog2 (t : Nat) (f : Fields) (s : State) : Res := .next (s.special t f .log2)
/-- R112 FRCP. -/
def execFrcp (t : Nat) (f : Fields) (s : State) : Res := .next (s.special t f .rcp)
/-- R112 FRSQ. -/
def execFrsq (t : Nat) (f : Fields) (s : State) : Res := .next (s.special t f .rsq)
/-- R112 FTANH. -/
def execFtanh (t : Nat) (f : Fields) (s : State) : Res := .next (s.special t f .tanh)

/-- R112 RANDV: 8 blocks of stream 2, block q in bits [128q + 127 : 128q]. -/
def execRandv (t : Nat) (f : Fields) (s : State) : Res :=
  .next (s.issue t f (some .special) 2 [] (rForm usesD f)
    fun x => { tile := (x.wv f.dn (BitVec.ofNat 1024 (packCodes 128 (x.peekBlocks (s.seedOf x) 2 8)))).advance 2 8 })

/-- R112 RANDS: bits [63:0] of one block of stream 2. -/
def execRands (t : Nat) (f : Fields) (s : State) : Res :=
  .next (s.issue t f (some .special) 1 [f.dn] (rForm usesD f)
    fun x => { tile := (x.ws f.dn (BitVec.ofNat 64 ((x.peekBlocks (s.seedOf x) 2 1).headD 0))).advance 2 1 })

end Sys2Proof.Machine
end

