-- ==== Sys2Proof/Machine/VecMem.lean ====
section
/-! DEFINITION. Class 0x3: vector memory and conversion (R28, R75 to R79, R106, R107). -/

namespace Sys2Proof.Machine

/-- R106 VLD: 128 bytes, 64-byte aligned (R28). -/
def execVld (t : Nat) (f : Fields) (s : State) : Res :=
  .next (s.issue t f (some .vector) 1 [f.an] (iForm usesDA f)
    fun x => x.load (effAddr f x) 128 64 fun x bs => x.wv f.dn (bytesVreg bs))

/-- R106 VST: 128 bytes, 64-byte aligned (R28). -/
def execVst (t : Nat) (f : Fields) (s : State) : Res :=
  .next (s.issue t f (some .vector) 1 [f.an] (iForm { a := true, b := true } f)
    fun x => x.store (effAddr f x) 64 (vregBytes (x.rv f.bn)))

/-- R66: an operand format of a conversion: codes 0-10. -/
def convFmt (n : Nat) : Bool := n ≤ 10

/-- R106: N elements of the narrower format, and the registers that hold them. -/
def convN (fa fb : Nat) : Nat := Nat.max (fmtLanes fa) (fmtLanes fb)
def groupRegs (fmt n : Nat) : Nat := ceilDiv n (fmtLanes fmt)

/-- R106 VCVT: N elements of the va group in FB to the vd group in FA, rounded by RND. -/
def execVcvt (t : Nat) (f : Fields) (s : State) : Res :=
  let n := convN f.fa f.fb
  let ka := groupRegs f.fa n
  let kb := groupRegs f.fb n
  .next (s.vecIssue t f (Nat.max ka kb) []
    (rForm { d := true, a := true, fa := true, fb := true, rnd := true } f && convFmt f.fa &&
      convFmt f.fb && rndOk f.fa f.rnd && groupOk f.dn ka && groupOk f.an kb)
    fun x =>
      let (us, y) := x.roundBits (s.seedOf x) f.rnd n
      y.putRes f.fa f.dn (((x.groupLanes f.fb f.an n).zip us).map fun p =>
        encodeNum f.fa f.rnd p.2 (decodeNum f.fb p.1)))

/-- R79: the blocks of a conversion: scale codes, element codes, flags. -/
def mxBlocks (fa rnd : Nat) (xs : List Num) (us : List Nat) : List (Nat × List Nat × W32) :=
  ((chunks 32 xs).zip (chunks 32 us)).map fun p => mxBlock fa rnd p.1 p.2

/-- R106 VCVTMX: the scale codes go to sc, block 0 in bits [7:0]. -/
def execVcvtmx (t : Nat) (f : Fields) (s : State) : Res :=
  let n := fmtLanes f.fa
  let kb := groupRegs f.fb n
  .next (s.vecIssue t f (ceilDiv n 8) [f.cn]
    (rForm { d := true, a := true, c := true, fa := true, fb := true, rnd := true } f &&
      fmtNarrow f.fa && fmtWide f.fb && rndOk f.fa f.rnd && groupOk f.an kb)
    fun x =>
      let (us, y) := x.roundBits (s.seedOf x) f.rnd n
      let bl := mxBlocks f.fa f.rnd ((x.groupLanes f.fb f.an n).map (decodeNum f.fb)) us
      ((y.putLanes f.fa f.dn (bl.map (·.2.1)).flatten).ws f.cn
        (BitVec.ofNat 64 (packCodes 8 (bl.map (·.1))))).orFlags (orAll (bl.map (·.2.2))))

/-- R106 VCVTW: X = 1 applies the scale codes in sb by R73; X = 0 applies none. -/
def execVcvtw (t : Nat) (f : Fields) (s : State) : Res :=
  let n := fmtLanes f.fb
  let ka := groupRegs f.fa n
  .next (s.vecIssue t f ka [f.bn]
    (rForm { d := true, a := true, b := true, fa := true, fb := true, rnd := true, x := true } f &&
      fmtNarrow f.fb && fmtWide f.fa && rndOk f.fa f.rnd && groupOk f.dn ka)
    fun x =>
      x.putRes f.fa f.dn (((x.groupLanes f.fb f.an n).zipIdx).map fun p =>
        if f.x then
          roundRes f.fa f.rnd 0
            (scaledNum f.fb p.1 (bits (x.rs f.bn).toNat (8 * (p.2 / 32) + 7) (8 * (p.2 / 32))))
        else encodeNum f.fa f.rnd 0 (decodeNum f.fb p.1)))

/-- R106: FA is a lane format and IMM16 is below its lane count. -/
def laneIdxOk (f : Fields) : Bool := laneFmt f.fa && decide (f.imm16 < fmtLanes f.fa)

/-- R106 VMOVS: floats as raw bits, integers sign-extended. -/
def execVmovs (t : Nat) (f : Fields) (s : State) : Res :=
  .next (s.vecIssue t f 1 [f.dn]
    (rForm { d := true, a := true, fa := true, imm16 := true } f && laneIdxOk f)
    fun x =>
      let c := nth 0 (x.lanes f.fa f.an) f.imm16
      x.ws f.dn (if fmtIsInt f.fa then BitVec.ofInt 64 (sext (fmtWidth f.fa) c) else BitVec.ofNat 64 c))

/-- R106 VINS: lane IMM16 of vd ← the low bits of sa; the other lanes are unchanged. -/
def execVins (t : Nat) (f : Fields) (s : State) : Res :=
  .next (s.vecIssue t f 1 [f.an]
    (rForm { d := true, a := true, fa := true, imm16 := true } f && laneIdxOk f)
    fun x => x.putLanes f.fa f.dn
      (updAt (x.lanes f.fa f.dn) f.imm16 fun _ => (x.rs f.an).toNat % 2 ^ fmtWidth f.fa))

/-- R107: the flags of an FX64 lane on the tile. -/
def fxFlags (r : Int × W32 × Bool) : W32 := r.2.1 ||| (if r.2.2 then fOVERFLOW else 0)

/-- R106, R107 VFX: FX64 of 32 FP32 lanes with e = sb[7:0]. -/
def execVfx (t : Nat) (f : Fields) (s : State) : Res :=
  .next (s.vecIssue t f 2 [f.bn] (rForm usesDAB f && groupOk f.dn 2)
    fun x =>
      let e := sext 8 (x.rs f.bn).toNat
      let rs := (x.lanes 0 f.an).map fun c => toFx64 e (decodeNum 0 c)
      let v := packCodes 64 (rs.map fun r => trunc 64 r.1)
      ((x.wv f.dn (BitVec.ofNat 1024 v)).wv (f.dn + 1) (BitVec.ofNat 1024 (v / 2 ^ 1024))).orFlags
        (orAll (rs.map fxFlags)))

end Sys2Proof.Machine
end

