-- ==== Sys2Proof/Machine/Waits.lean ====
section
/-! DEFINITION. Classes 0x7 and 0x8: waits, fences and energy (R117 to R121, R329, R330) and the
token sampler (R44 to R48, R122). -/

namespace Sys2Proof.Machine

/-- The tile waits at the instruction it has just issued (R117). -/
def Tile.waitOn (x : Tile) (w : Wait) : Tile := { x with pc := x.here, st := .waiting, wait := some w }

/-- The wait ends and issue goes on behind it. -/
def Tile.unwait (x : Tile) : Tile := { x with pc := x.pc + 8, st := .running, wait := none }

/-- R118: a counter of value v has reached target t. -/
def reached (v t : W32) : Bool := decide ((v - t).toNat ≤ 2147483647)

/-- The wait of a waiting tile whose clock runs. -/
def State.waitOf (s : State) (t : Nat) : Option Wait :=
  if (s.tile t).st == .waiting && !(s.rgn (tileRegion t)).stopped &&
      !(s.part (s.tile t).partition).standing then (s.tile t).wait
  else none

/-- R118 WAITC: stall until counter cd has reached sa[31:0]. -/
def execWaitc (t : Nat) (f : Fields) (s : State) : Res :=
  .next (s.issue t f none 1 [f.an] (rForm usesDA f && cOk f.dn)
    fun x =>
      let target : W32 := BitVec.ofNat 32 (x.rs f.an).toNat
      { tile := if reached (x.rc f.dn) target then x else x.waitOn (.counter f.dn target) })

/-- R118 WAITC_RELEASE. -/
def execWaitcRelease (t : Nat) (s : State) : Res :=
  .next (match s.waitOf t with
    | some (.counter c target) =>
      if reached ((s.tile t).rc c) target then s.updTile t Tile.unwait else s
    | _ => s)

/-- The job time a tile sees (R104, R285). -/
def State.tileJobTime (s : State) (t : Nat) (x : Tile) : W64 :=
  jobTime (s.part x.partition) (s.stnHt (tileStation t))

/-- R119 WAITJT: a passed target gives sd the lateness at issue. -/
def execWaitjt (t : Nat) (f : Fields) (s : State) : Res :=
  .next (s.issue t f none 1 [f.dn, f.an] (rForm usesDA f)
    fun x =>
      let target := x.rs f.an
      let jt := s.tileJobTime t x
      { tile :=
          if target.toNat ≤ jt.toNat then x.ws f.dn (jt - target)
          else x.waitOn (.jobTime target f.dn) })

/-- R119 WAITJT_RELEASE: sd receives 0. -/
def execWaitjtRelease (t : Nat) (s : State) : Res :=
  .next (match s.waitOf t with
    | some (.jobTime target sd) =>
      if target.toNat ≤ (s.tileJobTime t (s.tile t)).toNat then
        s.updTile t fun x => (x.ws sd 0).unwait
      else s
    | _ => s)

/-- R120: the descriptor kinds a FENCE waits for. -/
def fenceCovers (imm kind : Nat) : Bool :=
  match imm with
  | 0 => 2 ≤ kind && kind ≤ 5
  | 1 => kind == 0
  | _ => true

/-- R120 FENCE: stall until every outstanding descriptor of the kinds named has been counted. -/
def execFence (t : Nat) (f : Fields) (s : State) : Res :=
  .next (s.issue t f none 1 [] (rForm { imm16 := true } f && decide (f.imm16 ≤ 2))
    fun x =>
      let ids := (x.descs.filter fun d => fenceCovers f.imm16 d.kind).map (·.id)
      { tile := if ids.isEmpty then x else x.waitOn (.fence ids) })

/-- R120 FENCE_RELEASE. -/
def execFenceRelease (t : Nat) (s : State) : Res :=
  .next (match s.waitOf t with
    | some (.fence ids) =>
      if (s.tile t).descs.all fun d => !ids.contains d.id then s.updTile t Tile.unwait else s
    | _ => s)

/-! ## Energy tokens (R121, R329, R330) -/

/-- The regime of the tile's partition is adaptive. -/
def State.adaptiveTile (s : State) (t : Nat) : Bool := (s.part (s.tile t).partition).adaptive

/-- The balance of a tile's cluster. -/
def State.balanceOf (s : State) (t : Nat) : Nat :=
  mget 0 (s.rgn (tileRegion t)).balance (s.physCluster t)

/-- R329, R330: a cost above the cluster's cap of 8 grants counts as the cap. -/
def Region.costOf (r : Region) (cost : Nat) : Nat := Nat.min cost (8 * r.grant)

/-- Take a cost from a tile's cluster. -/
def State.spend (s : State) (t cost : Nat) : State :=
  s.updRgn (tileRegion t) fun r =>
    { r with balance := mupd 0 r.balance (s.physCluster t) (· - r.costOf cost) }

/-- The tiles of a tile's physical cluster that wait for tokens: tile, cost, since. -/
def State.tokenWaiters (s : State) (region cluster : Nat) : List (Nat × Nat × Nat) :=
  (regionTiles region).filterMap fun t =>
    match (s.tile t).st, (s.tile t).wait with
    | .waiting, some (.tokens cost since) => if s.physCluster t = cluster then some (t, cost, since) else none
    | _, _ => none

/-- R121: how far a slot's site stands, in the rotation over its cluster's 16 sites, behind the site that
goes first in a cycle; the rotation advances one place each cycle from a start that R121 does not fix. -/
def Region.rotated (r : Region) (cycle slot : Nat) : Nat :=
  (r.siteOf slot % 16 + 16 - (Config.tokenTurn + cycle) % 16) % 16

/-- The instruction at a tile is one that `issue` lets run now. -/
def State.runsNow (s : State) (t : Nat) (f : Fields) (legal : Bool) : Bool :=
  s.issuing t && (s.tile t).fetchOk && legal && (s.tile t).ready none [] && !f.regParity

/-- A request for tokens. -/
def isTokenReq : Instr → Bool
  | .eblk .. => true
  | .ewait .. => true
  | _ => false

/-- R121: a request for tokens that its tile issues now: the tile, the cost, and whether it waits. -/
def State.tokenReq (s : State) : Instr → Option (Nat × Nat × Bool)
  | .eblk t f => if s.runsNow t f (iForm {} f) then some (t, bits f.low.toNat 15 0, false) else none
  | .ewait t f => if s.runsNow t f (rForm { imm16 := true } f) then some (t, f.imm16, true) else none
  | _ => none

/-- R121: the requests of other tiles of a tile's cluster in the same cycle: those that stand next in the queue
with no other command between, the first of each tile. -/
def State.sameCycle (s : State) (t : Nat) : List (Nat × Nat × Bool) :=
  (((s.pending.takeWhile isTokenReq).filterMap s.tokenReq).filter fun q =>
    q.1 != t && tileRegion q.1 == tileRegion t && s.physCluster q.1 == s.physCluster t && s.adaptiveTile q.1).foldl
      (fun l q => if l.any (·.1 == q.1) then l else l ++ [q]) []

/-- R121: one more request decided over what is left of the balance; none once an EWAIT among them waits. -/
def Region.decided (r : Region) (left : Option Nat) (q : Nat × Nat × Bool) : Option Nat :=
  left.bind fun n =>
    if q.2.1 == 0 then some n
    else if r.grant != 0 && decide (r.costOf q.2.1 ≤ n) then some (n - r.costOf q.2.1)
    else if q.2.2 then none
    else some n

/-- R121: the balance that a tile's request sees: what the requests of its cycle leave that the rotation puts
before it. -/
def State.leftFor (s : State) (t : Nat) : Option Nat :=
  let r := s.rgn (tileRegion t)
  let same := s.sameCycle t
  if same.isEmpty then some (s.balanceOf t)
  else
    let place := fun u => r.rotated r.cycles (tileSlot u)
    ((List.range (place t)).filterMap fun i => same.find? fun q => place q.1 == i).foldl r.decided
      (some (s.balanceOf t))

/-- R121, R330: the cluster grants a cost now: no wait stands ahead, the grant is not 0, and the
balance covers the cost. A cost of 0 always succeeds. -/
def State.affords (s : State) (t cost : Nat) : Bool :=
  let r := s.rgn (tileRegion t)
  cost == 0 ||
    ((s.tokenWaiters (tileRegion t) (s.physCluster t)).isEmpty && r.grant != 0 &&
      (s.leftFor t).any fun n => decide (r.costOf cost ≤ n))

/-- R121 EBLK: take the cost and fall through, else branch to the block of lower cost. -/
def execEblk (t : Nat) (f : Fields) (s : State) : Res :=
  let legal := iForm {} f
  let cost := bits f.low.toNat 15 0
  let off := 8 * sext 16 (bits f.low.toNat 31 16)
  let pass := !s.adaptiveTile t || s.affords t cost
  .next (
    let s' := s.issue t f none 1 [] legal
      fun x => { tile := if pass then x else x.jump (x.here + off) }
    if s.runsNow t f legal && s.adaptiveTile t && pass then s'.spend t cost else s')

/-- R121 EWAIT: stall until the balance covers IMM16 tokens, then take them. -/
def execEwait (t : Nat) (f : Fields) (s : State) : Res :=
  let legal := rForm { imm16 := true } f
  let pass := !s.adaptiveTile t || s.affords t f.imm16
  .next (
    let s' := s.issue t f none 1 [] legal
      fun x => { tile := if pass then x else x.waitOn (.tokens f.imm16 (s.rgn (tileRegion t)).cycles) }
    if s.runsNow t f legal && s.adaptiveTile t && pass then s'.spend t f.imm16 else s')

/-- R121: the oldest wait; waits of one cycle in the order of the rotation over the sites. -/
def State.oldestWaiter (s : State) : List (Nat × Nat × Nat) → Option (Nat × Nat × Nat)
  | [] => none
  | a :: as =>
    match s.oldestWaiter as with
    | none => some a
    | some b =>
      let place := fun w : Nat × Nat × Nat =>
        (s.rgn (tileRegion w.1)).rotated w.2.2 (tileSlot w.1)
      if b.2.2 < a.2.2 || (b.2.2 == a.2.2 && place b < place a) then some b else some a

/-- R121, R330 EWAIT_GRANT: the oldest waiting EWAIT of a cluster takes its tokens once the grant is
not 0 and the balance covers them. -/
def execEwaitGrant (cluster : Nat) (s : State) : Res :=
  .next (match s.oldestWaiter (s.tokenWaiters (cluster / 16) (cluster % 16)) with
    | none => s
    | some (t, cost, _) =>
      let r := s.rgn (cluster / 16)
      if r.grant != 0 && decide (r.costOf cost ≤ s.balanceOf t) && (s.waitOf t).isSome then
        (s.spend t cost).updTile t Tile.unwait
      else s)

/-! ## The token sampler (R44 to R48) -/

/-- R44: the parameter block. -/
structure SampPar where
  src : Nat
  count : Nat
  base : Nat
  invTemp : Nat
  topP : Nat
  topK : Nat
  fmt : Nat
  mode : Nat
  dst : Nat
  rsvd : Nat

def sampPar (b : List Byte) : SampPar :=
  let w := fun i n => leNat ((b.drop i).take n)
  { src := w 0 4, count := w 4 4, base := w 8 4, invTemp := w 12 4, topP := w 16 4, topK := w 20 2,
    fmt := w 22 1, mode := w 23 1, dst := w 24 4, rsvd := w 28 4 }

/-- R47, last row: the block is rejected. -/
def SampPar.rejected (p : SampPar) : Bool :=
  2 < p.fmt || 2 < p.mode || p.count == 0 || (if p.mode == 2 then 4096 else 65536) < p.count || p.rsvd != 0

/-- Bytes of input. -/
def SampPar.inBytes (p : SampPar) : Nat :=
  if p.mode = 2 then 8 * p.count else p.count * (fmtWidth p.fmt / 8)

/-- The number of an FP32 code is above 0 and finite. -/
def posFinite (c : Nat) : Bool :=
  match decodeNum 0 c with
  | .fin neg m _ => !neg && m != 0
  | _ => false

/-- The FP32 code of 1.0. -/
def one32 : Nat := 0x3F800000
/-- log2 e in FP32. -/
def log2e32 : Nat := 0x3FB8AA3B
def negInf32 : Nat := 0xFF800000
def maxFin32 : Nat := 0x7F7FFFFF

/-- R47: TOP_K, TOP_P and INV_TEMP as taken, with the flags. In mode 2 INV_TEMP is not looked at: R44 gives
the field to modes 0 and 1 only, and R47 names no mode (DEDUCED, log entry 80). -/
def SampPar.adjusted (p : SampPar) : Nat × Nat × Nat × W32 :=
  let kBad := p.topK == 0 || 256 < p.topK
  let pBad := !(posFinite p.topP && (decodeNum 0 p.topP).leq (decodeNum 0 one32))
  let tBad := p.mode ≠ 2 && !posFinite p.invTemp
  (if kBad then 256 else p.topK, if pBad then one32 else p.topP, if tBad then one32 else p.invTemp,
    if kBad || pBad || tBad then fINVALID else 0)

/-- R45.1: one logit scaled, with its replacements. A product that becomes +∞ is delivered as the largest finite
value, so that OVERFLOW is not set (R74). -/
def scaleLogit (fmt invTemp code : Nat) : Nat × W32 :=
  let (c, fl) := (encodeNum 0 0 0 (decodeNum fmt code))
  let (v, fl2) := mul32 c invTemp
  match decodeNum 0 v with
  | .nan => (negInf32, fl ||| fl2 ||| fINVALID)
  | .inf false => (maxFin32, (fl ||| fl2) &&& ~~~fOVERFLOW ||| fINVALID)
  | _ => (v, fl ||| fl2)

/-- A candidate: token index and FP32 code. -/
abbrev Cand := Nat × Nat

/-- R45.2: candidate a stands ahead of b: larger value, then lower token index. -/
def candBefore (a b : Cand) : Bool :=
  let c := (decodeNum 0 a.2).cmp (decodeNum 0 b.2)
  decide (0 < c) || (c == 0 && decide (a.1 < b.1))

/-- Insert a candidate behind those that stand ahead of it. -/
def insertCand (a : Cand) : List Cand → List Cand
  | [] => [a]
  | b :: l => if candBefore a b then a :: b :: l else b :: insertCand a l

/-- R45.2: the K largest, in descending order. -/
def topCands (k : Nat) (l : List Cand) : List Cand := l.foldl (fun acc a => (insertCand a acc).take k) []

/-- The FP32 quotient, rounded once. -/
def div32 (x y : Nat) : Nat × W32 :=
  match decodeNum 0 x, decodeNum 0 y with
  | .fin n1 m1 e1, .fin n2 m2 e2 =>
    if m2 = 0 then (0, fINVALID)
    else
      let q := m1 * 2 ^ 320 / m2
      let sticky := if m1 * 2 ^ 320 % m2 = 0 then 0 else 1
      encodeNum 0 0 0 (.fin (n1 != n2) (2 * q + sticky) (e1 - e2 - 321))
  | a, b => roundRes 0 0 0 (a.mul b)

/-- R45.4: the weight of a candidate. -/
def candWeight (top : Nat) (c : Cand) : Nat × W32 :=
  let (d, f1) := sub32 c.2 top
  let (e, f2) := mul32 d log2e32
  let (w, f3) := specialLane .exp2 0 0 e
  (w, f1 ||| f2 ||| f3)

/-- R45.4: partial sums in candidate order. -/
def partSums : Option Nat → List Nat → List (Nat × W32)
  | _, [] => []
  | none, w :: ws => (w, 0) :: partSums (some w) ws
  | some acc, w :: ws =>
    let r := add32 acc w
    r :: partSums (some r.1) ws

/-- a at or above b, and a below b, as FP32 values that are not NaN. -/
def geq32 (a b : Nat) : Bool :=
  let x := decodeNum 0 a
  let y := decodeNum 0 b
  !x.isNan && !y.isNan && decide (0 ≤ x.cmp y)

def lt32 (a b : Nat) : Bool :=
  let x := decodeNum 0 a
  let y := decodeNum 0 b
  !x.isNan && !y.isNan && decide (x.cmp y < 0)

/-- R45.4 to R45.8: the choice of a candidate from a kept list and a block of stream 0: token index,
probability code, flags. The sampler's FP32 steps set the flags that FP32 lanes set: R74 names the sampler for
INVALID alone (DEDUCED, log entry 81). -/
def drawCand (cands : List Cand) (topP block : Nat) : Nat × Nat × W32 :=
  let first := cands.headD (0, negInf32)
  if first.2 = negInf32 then (first.1, 0, fINVALID)
  else
    let ws := cands.map (candWeight first.2)
    let wc := ws.map (·.1)
    let cs := partSums none wc
    let cc := cs.map (·.1)
    let k := cands.length
    let (limit, f3) := mul32 topP (cc.getLastD 0)
    let m := ((List.range k).find? fun i => geq32 (nth 0 cc i) limit).getD (k - 1)
    let u := (encodeNum 0 0 0 (.fin false (bits block 31 8) (-24))).1
    let (uc, f4) := mul32 u (nth 0 cc m)
    let j := ((List.range (m + 1)).find? fun i => lt32 uc (nth 0 cc i)).getD m
    let (pr, f5) := div32 (nth 0 wc j) (nth 0 cc m)
    ((nth (0, 0) cands j).1, pr, orAll (ws.map (·.2)) ||| orAll (cs.map (·.2)) ||| f3 ||| f4 ||| f5)

/-- The candidates of the input, with their flags. -/
def SampPar.cands (p : SampPar) (invTemp : Nat) (bs : List Byte) : List (Cand × W32) :=
  if p.mode = 2 then
    (chunks 8 bs).map fun c =>
      let v := leNat (c.drop 4)
      ((leNat (c.take 4), if (decodeNum 0 v).isNan then Config.mergeNan v else v), 0)
  else
    ((chunks (fmtWidth p.fmt / 8) bs).zipIdx).map fun c =>
      let r := scaleLogit p.fmt invTemp (leNat c.1)
      (((p.base + c.2) % 2 ^ 32, r.1), r.2)

/-- The sampler's result written at DST_ADDR and in sd; the sampler is free. -/
def Tile.sampWrite (x : Tile) (sd dst : Nat) (bs : List Byte) (v : Nat) : TEff :=
  let e := x.store dst 8 bs
  if e.fault = .none then { tile := (e.tile.ws sd (BitVec.ofNat 64 v)) } else e

/-- R45 to R47: the sampler's work on a tile. -/
def Tile.sampled (x : Tile) (seed : W64) (r : SampRun) : TEff :=
  let p := sampPar r.block
  let x := { x with sampler := none }
  let pair := fun i v => leBytes 4 i ++ leBytes 4 v
  if p.rejected then (x.orFlags fINVALID).sampWrite r.sd p.dst (pair 0xFFFFFFFF 0) 0xFFFFFFFF
  else
    let (k, topP, invTemp, fl) := p.adjusted
    if p.src % 64 ≠ 0 then TEff.bad x .misaligned
    else if sramBytes < p.src + p.inBytes then TEff.bad x .range
    else match x.badWord p.src p.inBytes with
      | some w => TEff.uncorr x w
      | none =>
        let x := x.noteCorr p.src p.inBytes
        let cs := p.cands invTemp (x.rmem p.src p.inBytes)
        let kept := topCands k (cs.map (·.1))
        let x := x.orFlags (fl ||| orAll (cs.map (·.2)))
        if p.mode = 1 then
          x.sampWrite r.sd p.dst ((kept.map fun c => pair c.1 c.2).flatten) kept.length
        else
          let (tok, pr, f2) := drawCand kept topP ((x.peekBlocks seed 0 1).headD 0)
          ((x.orFlags f2).advance 0 1).sampWrite r.sd p.dst (pair tok pr) tok

/-- R122 SAMPLE: start the sampler on the parameter block at SRAM[a + imm]; a second SAMPLE stalls
until the first is done. -/
def execSample (t : Nat) (f : Fields) (s : State) : Res :=
  .next (
    let legal := iForm usesDA f
    if (s.tile t).sampler.isSome && s.issuing t && (s.tile t).fetchOk && legal then s
    else s.issue t f none 1 [f.dn, f.an] legal fun x =>
      x.load (effAddr f x) 32 32 fun x bs => { x with sampler := some { sd := f.dn, block := bs } })

/-- R57, R341: the tile's compute clock stands: it is FENCED or in retention, or its region's clock is
stopped. -/
def State.gated (s : State) (t : Nat) : Bool :=
  (s.tile t).st == .fenced || (s.tile t).st == .retention || (s.rgn (tileRegion t)).stopped

/-- R45, R122 SAMPLE_DONE: the sampler finishes, writes its result and releases sd; it stands with the
compute clock (R57). -/
def execSampleDone (t : Nat) (s : State) : Res :=
  .next (match (s.tile t).sampler with
    | none => s
    | some r =>
      if s.gated t then s
      else s.putEff t ((s.tile t).sampled (s.seedOf (s.tile t)) r))

end Sys2Proof.Machine
end

