-- ==== Sys2Proof/Machine/Dispatch.lean ====
section
/-! DEFINITION. One arm for each command: a direct call of its meaning, or a refusal by name. -/

namespace Sys2Proof.Machine

/-- The effect of a command on everything but the queue. -/
def exec (i : Instr) (s : State) : Host.Outcome State Fault Refusal :=
  match i with
  | .moduleReset => Sys2Proof.Machine.execModuleReset s
  | .regWrite w addr size v => Sys2Proof.Machine.execRegWrite w addr size v s
  | .regLoReadLatch w a => Sys2Proof.Machine.execRegLoReadLatch w a s
  | .regLoWriteStage w addr v => Sys2Proof.Machine.execRegLoWriteStage w addr v s
  | .regHiWriteApply w addr v => Sys2Proof.Machine.execRegHiWriteApply w addr v s
  | .ibufMissFill t addr parity => Sys2Proof.Machine.execIbufMissFill t addr parity s
  | .unitQueueStart t u => Sys2Proof.Machine.execUnitQueueStart t u s
  | .scrubLine t writtenMeanwhile => Sys2Proof.Machine.execScrubLine t writtenMeanwhile s
  | .scrubForced t writtenMeanwhile => Sys2Proof.Machine.execScrubForced t writtenMeanwhile s
  | .add t f => Sys2Proof.Machine.execAdd t f s
  | .sub t f => Sys2Proof.Machine.execSub t f s
  | .and t f => Sys2Proof.Machine.execAnd t f s
  | .or t f => Sys2Proof.Machine.execOr t f s
  | .xor t f => Sys2Proof.Machine.execXor t f s
  | .sll t f => Sys2Proof.Machine.execSll t f s
  | .srl t f => Sys2Proof.Machine.execSrl t f s
  | .sra t f => Sys2Proof.Machine.execSra t f s
  | .mul t f => Sys2Proof.Machine.execMul t f s
  | .mulh t f => Sys2Proof.Machine.execMulh t f s
  | .mulhu t f => Sys2Proof.Machine.execMulhu t f s
  | .slt t f => Sys2Proof.Machine.execSlt t f s
  | .sltu t f => Sys2Proof.Machine.execSltu t f s
  | .min t f => Sys2Proof.Machine.execMin t f s
  | .max t f => Sys2Proof.Machine.execMax t f s
  | .addi t f => Sys2Proof.Machine.execAddi t f s
  | .andi t f => Sys2Proof.Machine.execAndi t f s
  | .ori t f => Sys2Proof.Machine.execOri t f s
  | .xori t f => Sys2Proof.Machine.execXori t f s
  | .slli t f => Sys2Proof.Machine.execSlli t f s
  | .srli t f => Sys2Proof.Machine.execSrli t f s
  | .srai t f => Sys2Proof.Machine.execSrai t f s
  | .muli t f => Sys2Proof.Machine.execMuli t f s
  | .slti t f => Sys2Proof.Machine.execSlti t f s
  | .sltui t f => Sys2Proof.Machine.execSltui t f s
  | .li t f => Sys2Proof.Machine.execLi t f s
  | .lih t f => Sys2Proof.Machine.execLih t f s
  | .ldu1 t f => Sys2Proof.Machine.execLdu1 t f s
  | .ldu2 t f => Sys2Proof.Machine.execLdu2 t f s
  | .ldu4 t f => Sys2Proof.Machine.execLdu4 t f s
  | .ldu8 t f => Sys2Proof.Machine.execLdu8 t f s
  | .lds1 t f => Sys2Proof.Machine.execLds1 t f s
  | .lds2 t f => Sys2Proof.Machine.execLds2 t f s
  | .lds4 t f => Sys2Proof.Machine.execLds4 t f s
  | .st1 t f => Sys2Proof.Machine.execSt1 t f s
  | .st2 t f => Sys2Proof.Machine.execSt2 t f s
  | .st4 t f => Sys2Proof.Machine.execSt4 t f s
  | .st8 t f => Sys2Proof.Machine.execSt8 t f s
  | .beq t f => Sys2Proof.Machine.execBeq t f s
  | .bne t f => Sys2Proof.Machine.execBne t f s
  | .blt t f => Sys2Proof.Machine.execBlt t f s
  | .bge t f => Sys2Proof.Machine.execBge t f s
  | .bltu t f => Sys2Proof.Machine.execBltu t f s
  | .bgeu t f => Sys2Proof.Machine.execBgeu t f s
  | .jal t f => Sys2Proof.Machine.execJal t f s
  | .jalr t f => Sys2Proof.Machine.execJalr t f s
  | .rdsys t f => Sys2Proof.Machine.execRdsys t f s
  | .halt t f => Sys2Proof.Machine.execHalt t f s
  | .ibinv t f => Sys2Proof.Machine.execIbinv t f s
  | .nop t f => Sys2Proof.Machine.execNop t f s
  | .flclr t f => Sys2Proof.Machine.execFlclr t f s
  | .vadd t f => Sys2Proof.Machine.execVadd t f s
  | .vsub t f => Sys2Proof.Machine.execVsub t f s
  | .vmul t f => Sys2Proof.Machine.execVmul t f s
  | .vfma t f => Sys2Proof.Machine.execVfma t f s
  | .vmin t f => Sys2Proof.Machine.execVmin t f s
  | .vmax t f => Sys2Proof.Machine.execVmax t f s
  | .vceq t f => Sys2Proof.Machine.execVceq t f s
  | .vclt t f => Sys2Proof.Machine.execVclt t f s
  | .vcle t f => Sys2Proof.Machine.execVcle t f s
  | .vsel t f => Sys2Proof.Machine.execVsel t f s
  | .vand t f => Sys2Proof.Machine.execVand t f s
  | .vor t f => Sys2Proof.Machine.execVor t f s
  | .vxor t f => Sys2Proof.Machine.execVxor t f s
  | .vadds t f => Sys2Proof.Machine.execVadds t f s
  | .vmuls t f => Sys2Proof.Machine.execVmuls t f s
  | .vbcast t f => Sys2Proof.Machine.execVbcast t f s
  | .vredsum t f => Sys2Proof.Machine.execVredsum t f s
  | .vredmax t f => Sys2Proof.Machine.execVredmax t f s
  | .vredmin t f => Sys2Proof.Machine.execVredmin t f s
  | .vld t f => Sys2Proof.Machine.execVld t f s
  | .vst t f => Sys2Proof.Machine.execVst t f s
  | .vcvt t f => Sys2Proof.Machine.execVcvt t f s
  | .vcvtmx t f => Sys2Proof.Machine.execVcvtmx t f s
  | .vcvtw t f => Sys2Proof.Machine.execVcvtw t f s
  | .vmovs t f => Sys2Proof.Machine.execVmovs t f s
  | .vins t f => Sys2Proof.Machine.execVins t f s
  | .vfx t f => Sys2Proof.Machine.execVfx t f s
  | .mop t f => Sys2Proof.Machine.execMop t f s
  | .mmv t f => Sys2Proof.Machine.execMmv t f s
  | .mfold t f => Sys2Proof.Machine.execMfold t f s
  | .mclr t f => Sys2Proof.Machine.execMclr t f s
  | .mscl t f => Sys2Proof.Machine.execMscl t f s
  | .mrd t f => Sys2Proof.Machine.execMrd t f s
  | .mwr t f => Sys2Proof.Machine.execMwr t f s
  | .fexp2 t f => Sys2Proof.Machine.execFexp2 t f s
  | .flog2 t f => Sys2Proof.Machine.execFlog2 t f s
  | .frcp t f => Sys2Proof.Machine.execFrcp t f s
  | .frsq t f => Sys2Proof.Machine.execFrsq t f s
  | .ftanh t f => Sys2Proof.Machine.execFtanh t f s
  | .randv t f => Sys2Proof.Machine.execRandv t f s
  | .rands t f => Sys2Proof.Machine.execRands t f s
  | .dma t f => Sys2Proof.Machine.execDma t f s
  | .dmaj t f => Sys2Proof.Machine.execDmaj t f s
  | .cset t f => Sys2Proof.Machine.execCset t f s
  | .crd t f => Sys2Proof.Machine.execCrd t f s
  | .waitc t f => Sys2Proof.Machine.execWaitc t f s
  | .waitcRelease t => Sys2Proof.Machine.execWaitcRelease t s
  | .waitjt t f => Sys2Proof.Machine.execWaitjt t f s
  | .waitjtRelease t => Sys2Proof.Machine.execWaitjtRelease t s
  | .fence t f => Sys2Proof.Machine.execFence t f s
  | .fenceRelease t => Sys2Proof.Machine.execFenceRelease t s
  | .eblk t f => Sys2Proof.Machine.execEblk t f s
  | .ewait t f => Sys2Proof.Machine.execEwait t f s
  | .ewaitGrant cluster => Sys2Proof.Machine.execEwaitGrant cluster s
  | .sample t f => Sys2Proof.Machine.execSample t f s
  | .sampleDone t => Sys2Proof.Machine.execSampleDone t s
  | .localCopyLine t id => Sys2Proof.Machine.execLocalCopyLine t id s
  | .agentEntryGrant region => Sys2Proof.Machine.execAgentEntryGrant region s
  | .timedRelease t id => Sys2Proof.Machine.execTimedRelease t id s
  | .dmaInject t vc => Sys2Proof.Machine.execDmaInject t vc s
  | .descComplete t id => Sys2Proof.Machine.execDescComplete t id s
  | .routerForward r port vc => Sys2Proof.Machine.execRouterForward r port vc s
  | .routerFault r => Sys2Proof.Machine.execRouterFault r s
  | .fenceReq w t v => Sys2Proof.Machine.execFenceReq w t v s
  | .tileFenceComplete t => Sys2Proof.Machine.execTileFenceComplete t s
  | .eccClr w t v => Sys2Proof.Machine.execEccClr w t v s
  | .launchStart p => Sys2Proof.Machine.execLaunchStart p s
  | .circuitFeed station k row => Sys2Proof.Machine.execCircuitFeed station k row s
  | .crossbarSet => Sys2Proof.Machine.execCrossbarSet s
  | .circuitBurstSend => Sys2Proof.Machine.execCircuitBurstSend s
  | .circuitRowDecode station k row light errs => Sys2Proof.Machine.execCircuitRowDecode station k row light errs s
  | .stationPktReceive h => Sys2Proof.Machine.execStationPktReceive h s
  | .pktRxLossOfLock station channel => Sys2Proof.Machine.execPktRxLossOfLock station channel s
  | .pktRxLockRegain station channel => Sys2Proof.Machine.execPktRxLockRegain station channel s
  | .maintInjectStop => Sys2Proof.Machine.execMaintInjectStop s
  | .maintQuietStart => Sys2Proof.Machine.execMaintQuietStart s
  | .frameBoundary => Sys2Proof.Machine.execFrameBoundary s
  | .ringSubstitute => Sys2Proof.Machine.execRingSubstitute s
  | .optStnCntClr w station v => Sys2Proof.Machine.execOptStnCntClr w station v s
  | .gearChoice => Sys2Proof.Machine.execGearChoice s
  | .frameWordWrite p => Sys2Proof.Machine.execFrameWordWrite p s
  | .hallTimedRelease port => Sys2Proof.Machine.execHallTimedRelease port s
  | .twillActivate p => Sys2Proof.Machine.execTwillActivate p s
  | .twillStopTime p => Sys2Proof.Machine.execTwillStopTime p s
  | .twlCntClr w v => Sys2Proof.Machine.execTwlCntClr w v s
  | .twlRingRpWrite w p v => Sys2Proof.Machine.execTwlRingRpWrite w p v s
  | .stationInject station => Sys2Proof.Machine.execStationInject station s
  | .msgSpanTimeout t id => Sys2Proof.Machine.execMsgSpanTimeout t id s
  | .msgPacketArrive station => Sys2Proof.Machine.execMsgPacketArrive station s
  | .msgEntryExpire station => Sys2Proof.Machine.execMsgEntryExpire station s
  | .loadApply station => Sys2Proof.Machine.execLoadApply station s
  | .storeAccept station => Sys2Proof.Machine.execStoreAccept station s
  | .combineEntryWrite station => Sys2Proof.Machine.execCombineEntryWrite station s
  | .atomicApply station => Sys2Proof.Machine.execAtomicApply station s
  | .mireEntryExpire station => Sys2Proof.Machine.execMireEntryExpire station s
  | .loadRspArrive station => Sys2Proof.Machine.execLoadRspArrive station s
  | .storeAckArrive station => Sys2Proof.Machine.execStoreAckArrive station s
  | .atomicRspArrive station => Sys2Proof.Machine.execAtomicRspArrive station s
  | .msgAckArrive station => Sys2Proof.Machine.execMsgAckArrive station s
  | .itemTimeout t id => Sys2Proof.Machine.execItemTimeout t id s
  | .chipletStampExpire site => Sys2Proof.Machine.execChipletStampExpire site s
  | .hallCodewordReceive port cw pkts => Sys2Proof.Machine.execHallCodewordReceive port cw pkts s
  | .hallPortExit port cause => Sys2Proof.Machine.execHallPortExit port cause s
  | .hallPortEnter port signal aligned => Sys2Proof.Machine.execHallPortEnter port signal aligned s
  | .hallPortCfgApply port => Sys2Proof.Machine.execHallPortCfgApply port s
  | .gngSample => Sys2Proof.Machine.execGngSample s
  | .gngRowReceive station src => Sys2Proof.Machine.execGngRowReceive station src s
  | .gngRowStale station src => Sys2Proof.Machine.execGngRowStale station src s
  | .gngReset w v => Sys2Proof.Machine.execGngReset w v s
  | .pktCntClr w v => Sys2Proof.Machine.execPktCntClr w v s
  | .channelRetire w v => Sys2Proof.Machine.execChannelRetire w v s
  | .retireCopyDone => Sys2Proof.Machine.execRetireCopyDone s
  | .retireSwitch => Sys2Proof.Machine.execRetireSwitch s
  | .mireWindowWrite w v => Sys2Proof.Machine.execMireWindowWrite w v s
  | .memCntClr w v => Sys2Proof.Machine.execMemCntClr w v s
  | .hbmScrub channel line => Sys2Proof.Machine.execHbmScrub channel line s
  | .gatherContrib station => Sys2Proof.Machine.execGatherContrib station s
  | .groupResend station entry => Sys2Proof.Machine.execGroupResend station entry s
  | .acceptReceive station => Sys2Proof.Machine.execAcceptReceive station s
  | .gatherTimeoutAdvance station entry => Sys2Proof.Machine.execGatherTimeoutAdvance station entry s
  | .rootGroupChunk station => Sys2Proof.Machine.execRootGroupChunk station s
  | .rootDeadline station entry => Sys2Proof.Machine.execRootDeadline station entry s
  | .collDataReceive station => Sys2Proof.Machine.execCollDataReceive station s
  | .endDeliver station => Sys2Proof.Machine.execEndDeliver station s
  | .ckptSave w p v => Sys2Proof.Machine.execCkptSave w p v s
  | .ckptRestore w p v => Sys2Proof.Machine.execCkptRestore w p v s
  | .saveCleanTest p => Sys2Proof.Machine.execSaveCleanTest p s
  | .saveStart p => Sys2Proof.Machine.execSaveStart p s
  | .saveDone p host => Sys2Proof.Machine.execSaveDone p host s
  | .restoreResume p => Sys2Proof.Machine.execRestoreResume p s
  | .colCntClr w v => Sys2Proof.Machine.execColCntClr w v s
  | .refPllLock => Sys2Proof.Machine.execRefPllLock s
  | .timeWordReceive word timely => Sys2Proof.Machine.execTimeWordReceive word timely s
  | .syncPulse intervalPs arrivalPs => Sys2Proof.Machine.execSyncPulse intervalPs arrivalPs s
  | .holdoverEnter => Sys2Proof.Machine.execHoldoverEnter s
  | .sourceReturn => Sys2Proof.Machine.execSourceReturn s
  | .reacquire w v => Sys2Proof.Machine.execReacquire w v s
  | .timCntClr w v => Sys2Proof.Machine.execTimCntClr w v s
  | .timeModeWrite w v => Sys2Proof.Machine.execTimeModeWrite w v s
  | .timeRequestSend n => Sys2Proof.Machine.execTimeRequestSend n s
  | .timeReplyReceive port p t4 t4frac => Sys2Proof.Machine.execTimeReplyReceive port p t4 t4frac s
  | .timePortInvalid n => Sys2Proof.Machine.execTimePortInvalid n s
  | .timeEstimateCombine => Sys2Proof.Machine.execTimeEstimateCombine s
  | .timeRequestServe port p => Sys2Proof.Machine.execTimeRequestServe port p s
  | .timePortCfgApply n => Sys2Proof.Machine.execTimePortCfgApply n s
  | .stationTimeWord station checkOk w => Sys2Proof.Machine.execStationTimeWord station checkOk w s
  | .tickMissing station => Sys2Proof.Machine.execTickMissing station s
  | .stationTimeRestore station => Sys2Proof.Machine.execStationTimeRestore station s
  | .stationDelayMeasure station roundTripPs => Sys2Proof.Machine.execStationDelayMeasure station roundTripPs s
  | .clockStepStop => Sys2Proof.Machine.execClockStepStop s
  | .clockStepFail region backLocked => Sys2Proof.Machine.execClockStepFail region backLocked s
  | .clockRestart region => Sys2Proof.Machine.execClockRestart region s
  | .clockMonitorWindow place ps dutyMin dutyMax => Sys2Proof.Machine.execClockMonitorWindow place ps dutyMin dutyMax s
  | .fallbackSwitch region shortPeriod => Sys2Proof.Machine.execFallbackSwitch region shortPeriod s
  | .launchDecision p => Sys2Proof.Machine.execLaunchDecision p s
  | .launchEnd p => Sys2Proof.Machine.execLaunchEnd p s
  | .gearHoldEnd => Sys2Proof.Machine.execGearHoldEnd s
  | .tokenGrant => Sys2Proof.Machine.execTokenGrant s
  | .powerCorrection region measured => Sys2Proof.Machine.execPowerCorrection region measured s
  | .adcSample die channel reading => Sys2Proof.Machine.execAdcSample die channel reading s
  | .predictorUpdate region current => Sys2Proof.Machine.execPredictorUpdate region current s
  | .conservativeEnd region => Sys2Proof.Machine.execConservativeEnd region s
  | .compatChange => Sys2Proof.Machine.execCompatChange s
  | .baseDiodeRead station reading => Sys2Proof.Machine.execBaseDiodeRead station reading s
  | .thermalShutdown place comparator => Sys2Proof.Machine.execThermalShutdown place comparator s
  | .sdClr w region v => Sys2Proof.Machine.execSdClr w region v s
  | .inputLimit watts => Sys2Proof.Machine.execInputLimit watts s
  | .park w p v => Sys2Proof.Machine.execPark w p v s
  | .parkEnter p => Sys2Proof.Machine.execParkEnter p s
  | .unpark w p v => Sys2Proof.Machine.execUnpark w p v s
  | .wakeRegionUp region => Sys2Proof.Machine.execWakeRegionUp region s
  | .wakeRestart p => Sys2Proof.Machine.execWakeRestart p s
  | .heaterUpdate station errs => Sys2Proof.Machine.execHeaterUpdate station errs s
  | .splitterCheck station k diff => Sys2Proof.Machine.execSplitterCheck station k diff s
  | .ringFail ring cause => Sys2Proof.Machine.execRingFail ring cause s
  | .channelSweep reads => Sys2Proof.Machine.execChannelSweep reads s
  | .deepCalRequest w v => Sys2Proof.Machine.execDeepCalRequest w v s
  | .deepCalStart => Sys2Proof.Machine.execDeepCalStart s
  | .deepCalApply rings => Sys2Proof.Machine.execDeepCalApply rings s
  | .deepCalEnd flights delays => Sys2Proof.Machine.execDeepCalEnd flights delays s
  | .fadeUpdate laser power => Sys2Proof.Machine.execFadeUpdate laser power s
  | .spareLock laser => Sys2Proof.Machine.execSpareLock laser s
  | .laserSwitchover k => Sys2Proof.Machine.execLaserSwitchover k s
  | .switchRequest w v => Sys2Proof.Machine.execSwitchRequest w v s
  | .aprReduce port => Sys2Proof.Machine.execAprReduce port s
  | .aprProbe port signal => Sys2Proof.Machine.execAprProbe port signal s
  | .laneCheck region upErr dnErr => Sys2Proof.Machine.execLaneCheck region upErr dnErr s
  | .laneFail region dir lane => Sys2Proof.Machine.execLaneFail region dir lane s
  | .bpMapChange region hash => Sys2Proof.Machine.execBpMapChange region hash s
  | .linkTraining l r => Sys2Proof.Machine.execLinkTraining l r s
  | .trainingRetry l => Sys2Proof.Machine.execTrainingRetry l s
  | .hbmRetrain channel badLane => Sys2Proof.Machine.execHbmRetrain channel badLane s
  | .hbmTempRead stack temp => Sys2Proof.Machine.execHbmTempRead stack temp s
  | .hbmCattrip stack => Sys2Proof.Machine.execHbmCattrip stack s
  | .chipletDeclaration station decl => Sys2Proof.Machine.execChipletDeclaration station decl s
  | .chipletTimeWord station => Sys2Proof.Machine.execChipletTimeWord station s
  | .siteLinkDown station => Sys2Proof.Machine.execSiteLinkDown station s
  | .dlkCntClr w v => Sys2Proof.Machine.execDlkCntClr w v s
  | .load w v => Sys2Proof.Machine.execLoad w v s
  | .unload w v => Sys2Proof.Machine.execUnload w v s
  | .region w v => Sys2Proof.Machine.execRegion w v s
  | .holdHbm w v => Sys2Proof.Machine.execHoldHbm w v s
  | .loaderStart img => Sys2Proof.Machine.execLoaderStart img s
  | .quiesceBegin => Sys2Proof.Machine.execQuiesceBegin s
  | .quiesceStop p => Sys2Proof.Machine.execQuiesceStop p s
  | .applyStart reread => Sys2Proof.Machine.execApplyStart reread s
  | .applyDone => Sys2Proof.Machine.execApplyDone s
  | .scopeResume => Sys2Proof.Machine.execScopeResume s
  | .presence => Sys2Proof.Machine.execPresence s
  | .presenceWrite w n v => Sys2Proof.Machine.execPresenceWrite w n v s
  | .fwStandbyReady => Sys2Proof.Machine.execFwStandbyReady s
  | .fwTakeover => Sys2Proof.Machine.execFwTakeover s
  | .fwCheckPass => Sys2Proof.Machine.execFwCheckPass s
  | .fwFlashDone => Sys2Proof.Machine.execFwFlashDone s
  | .fwAbandon => Sys2Proof.Machine.execFwAbandon s
  | .recoveryGo w v img => Sys2Proof.Machine.execRecoveryGo w v img s
  | .powerOn => Sys2Proof.Machine.execPowerOn s
  | .firmwareCheckDone ok => Sys2Proof.Machine.execFirmwareCheckDone ok s
  | .fieldPowerUp field => Sys2Proof.Machine.execFieldPowerUp field s
  | .fieldBistDone field ok => Sys2Proof.Machine.execFieldBistDone field ok s
  | .hbmTrainDone station failedChannels stackFail => Sys2Proof.Machine.execHbmTrainDone station failedChannels stackFail s
  | .hbmZeroFillDone station => Sys2Proof.Machine.execHbmZeroFillDone station s
  | .laserStart laser => Sys2Proof.Machine.execLaserStart laser s
  | .laserLock laser locked => Sys2Proof.Machine.execLaserLock laser locked s
  | .bootWinWrite w p hi v => Sys2Proof.Machine.execBootWinWrite w p hi v s
  | .regionEnableStart region => Sys2Proof.Machine.execRegionEnableStart region s
  | .clusterUngate region cluster => Sys2Proof.Machine.execClusterUngate region cluster s
  | .regionClockStart region => Sys2Proof.Machine.execRegionClockStart region s
  | .regionEnableDone region badSites badRouters => Sys2Proof.Machine.execRegionEnableDone region badSites badRouters s
  | .pcieLinkDown port cause => Sys2Proof.Machine.execPcieLinkDown port cause s
  | .pcieLinkUp port => Sys2Proof.Machine.execPcieLinkUp port s
  | .pciePortReset port => Sys2Proof.Machine.execPciePortReset port s
  | .bar2Write port addr data poisoned => Sys2Proof.Machine.execBar2Write port addr data poisoned s
  | .bar2Read port addr len => Sys2Proof.Machine.execBar2Read port addr len s
  | .bar2ReadComplete port => Sys2Proof.Machine.execBar2ReadComplete port s
  | .hostFlushRead port => Sys2Proof.Machine.execHostFlushRead port s
  | .pcieCompletion port tag o => Sys2Proof.Machine.execPcieCompletion port tag o s
  | .renew w p => Sys2Proof.Machine.execRenew w p s
  | .claim w p => Sys2Proof.Machine.execClaim w p s
  | .release w p => Sys2Proof.Machine.execRelease w p s
  | .leaseExpire p => Sys2Proof.Machine.execLeaseExpire p s
  | .launchRecordWrite w offset data => Sys2Proof.Machine.execLaunchRecordWrite w offset data s
  | .cqRpWrite w p v => Sys2Proof.Machine.execCqRpWrite w p v s
  | .mctpControl m => Sys2Proof.Machine.execMctpControl m s
  | .getState => Sys2Proof.Machine.execGetState s
  | .getTemps die => Sys2Proof.Machine.execGetTemps die s
  | .readReg offset => Sys2Proof.Machine.execReadReg offset s
  | .readPeat seq => Sys2Proof.Machine.execReadPeat seq s
  | .getVersion via => Sys2Proof.Machine.execGetVersion via s
  | .getCapabilities via => Sys2Proof.Machine.execGetCapabilities via s
  | .negotiateAlgorithms via offer => Sys2Proof.Machine.execNegotiateAlgorithms via offer s
  | .getDigests via => Sys2Proof.Machine.execGetDigests via s
  | .getCertificate via slot offset length => Sys2Proof.Machine.execGetCertificate via slot offset length s
  | .challenge via slot nonce => Sys2Proof.Machine.execChallenge via slot nonce s
  | .getMeasurements via nonce => Sys2Proof.Machine.execGetMeasurements via nonce s
  | .spdmUnsupported via code => Sys2Proof.Machine.execSpdmUnsupported via code s
  | .bypass => Sys2Proof.Machine.execBypass s
  | .idcode => Sys2Proof.Machine.execIdcode s
  | .samplePreload => Sys2Proof.Machine.execSamplePreload s
  | .extest => Sys2Proof.Machine.execExtest s
  | .extestPulse => Sys2Proof.Machine.execExtestPulse s
  | .extestTrain => Sys2Proof.Machine.execExtestTrain s
  | .clamp => Sys2Proof.Machine.execClamp s
  | .highz => Sys2Proof.Machine.execHighz s
  | .inputVoltageFault => Sys2Proof.Machine.execInputVoltageFault s
  | .coolantFlowLoss => Sys2Proof.Machine.execCoolantFlowLoss s
  | .leakDetect => Sys2Proof.Machine.execLeakDetect s
  | .mgmtCoreDisagree o => Sys2Proof.Machine.execMgmtCoreDisagree o s
  | .safeExit w v inputsOk => Sys2Proof.Machine.execSafeExit w v inputsOk s
  | .safeExitDone => Sys2Proof.Machine.execSafeExitDone s
  | .peatRecord => Sys2Proof.Machine.execPeatRecord s
  | .peatStageSend die => Sys2Proof.Machine.execPeatStageSend die s
  | .peatRateWindow => Sys2Proof.Machine.execPeatRateWindow s
  | .clear w v => Sys2Proof.Machine.execClear w v s
  | .flush w v => Sys2Proof.Machine.execFlush w v s
  | .flushDone written => Sys2Proof.Machine.execFlushDone written s
  | .flashClear w v => Sys2Proof.Machine.execFlashClear w v s
  | .flashEraseDone => Sys2Proof.Machine.execFlashEraseDone s
  | .powerFailFlush => Sys2Proof.Machine.execPowerFailFlush s
  | .peatReadLatch w v => Sys2Proof.Machine.execPeatReadLatch w v s
  | .tstKeyWrite w v => Sys2Proof.Machine.execTstKeyWrite w v s
  | .tstLock w v => Sys2Proof.Machine.execTstLock w v s
  | .tstSettingWrite w addr v => Sys2Proof.Machine.execTstSettingWrite w addr v s
  | .tstSeedWrite w v => Sys2Proof.Machine.execTstSeedWrite w v s
  | .inputDisconnect => Sys2Proof.Machine.execInputDisconnect s
  | .powerOffResetExit => Sys2Proof.Machine.execPowerOffResetExit s
  | .modReset => Sys2Proof.Machine.execModReset s
  | .mateBreak => Sys2Proof.Machine.execMateBreak s
  | .modResetRelease => Sys2Proof.Machine.execModResetRelease s
  | .htRefLockLoss => Sys2Proof.Machine.execHtRefLockLoss s
  | .atomicStaleInWait station => Sys2Proof.Machine.execAtomicStaleInWait station s
  | .doeDiscovery port index => Sys2Proof.Machine.execDoeDiscovery port index s
  | .pcieConfigWrite port bme msix => Sys2Proof.Machine.execPcieConfigWrite port bme msix s
  | .recoveryFlashDone => Sys2Proof.Machine.execRecoveryFlashDone s

end Sys2Proof.Machine
end

