-- ==== Sys2Proof/Machine/Tick.lean ====
section
/-! DEFINITION. What the passing of one nanosecond of hall time does with no command waiting (log entry 1):
hall time with its slewing (R286, R287), the module's own count, the cycles of the region clocks
(R104, R121, R306, R307), and the words that a sequencer cannot issue (R100, R101). -/

namespace Sys2Proof.Machine

/-- R287: the correction in one nanosecond of HT, in units of 2^-32 ns: at most 10 ns per ms. -/
def slewStep (slew : Int) : Int := clampAbs 42949 slew

/-- R286: one nanosecond of HT, which wraps at 2^64; what is slewed out in it is no longer due. HT goes
through every value, so that every frame and slot happens once (R287): a correction shows in how much of the
oscillator's time the nanosecond takes. -/
def TimeDom.tick (t : TimeDom) : TimeDom :=
  { t with ht := (t.ht + 1) % 2 ^ 64, slew := t.slew - slewStep t.slew }

/-- R287, R288: the oscillator's time, in units of 2^-32 ns, in one nanosecond of HT at the corrected rate and
the slew in force. -/
def TimeDom.oscUnits (t : TimeDom) : Nat := (2 ^ 64 / (2 ^ 32 + t.rate + slewStep t.slew)).toNat

/-- The module's own count over one nanosecond of HT. -/
def Boot.tick (b : Boot) (units : Nat) : Boot :=
  { b with osc := b.osc + (b.oscFrac + units) / 2 ^ 32, oscFrac := (b.oscFrac + units) % 2 ^ 32 }

/-- Tenths of a GHz of an operating point (R306). -/
def opTenths : Nat → Nat
  | 0 => 15 | 1 => 12 | 2 => 9 | _ => 6

/-- R307: the depth of the down-spread triangle at an HT, 0 to 16,000. -/
def spreadDepth (ht : Nat) : Nat :=
  let p := ht % 32000
  if p < 16000 then p else 32000 - p

/-- Cycles of a region's clock in the nanosecond from `ht`, in units of 1 / 64,000,000. -/
def Region.cyclesIn (r : Region) (ht : Nat) : Nat :=
  if r.stopped then 0
  else if r.fallback then 6 * 6400000
  else opTenths r.op * (6400000 - spreadDepth ht - spreadDepth (ht + 1))

/-- A region's clock counts its cycles (R121). -/
def Region.count (r : Region) (units : Nat) : Region :=
  let v := r.cycFrac + units
  { r with cycles := r.cycles + v / 64000000, cycFrac := v % 64000000 }

/-- R104: an enabled tile counts the cycles of its region's clock, except in retention; not in a save, where
its clock is stopped (`State.tickCounts`). -/
def Tile.count (x : Tile) (units : Nat) : Tile :=
  if x.enabled && x.st != .retention then
    let v := x.cycFrac + units
    { x with cycles := x.cycles + v / 64000000, cycFrac := v % 64000000 }
  else x

/-- R23: the word at a tile's program counter, from its instruction buffer or else from SRAM. -/
def Tile.nextWord (x : Tile) : W64 :=
  let line := mget {} x.ibuf (x.pc / 64 % 256)
  if (x.ibuf.any fun e => e.1 == x.pc / 64 % 256) && line.line == x.pc / 64 then
    BitVec.ofNat 64 (line.data.toNat / 2 ^ (8 * (x.pc % 64)))
  else BitVec.ofNat 64 (leNat (x.rmem x.pc 8))

/-- R100, R101, R103: the sequencer of an issuing tile meets a fetch outside its range, or a word of a
reserved CLASS or an OP that is not listed. Every other word issues by the command that it spells. -/
def State.seqFault (s : State) (t : Nat) : State :=
  let x := s.tile t
  if !s.issuing t then s
  else if !x.fetchOk then s.tileFault t .range
  else if (decodeTile t x.nextWord).isNone then s.tileFault t .illegal
  else s

/-- One nanosecond passes on the counts of the module. -/
def State.tickCounts (s : State) : State :=
  { s with
    boot := s.boot.tick s.time.oscUnits
    time := s.time.tick
    regions := s.regions.map fun p => (p.1, p.2.count (p.2.cyclesIn s.time.ht))
    tiles := s.tiles.map fun p => (p.1,
      if (s.part p.2.partition).ckStands then p.2 else p.2.count ((s.rgn (tileRegion p.1)).cyclesIn s.time.ht)) }

/-- One nanosecond passes. -/
def State.tick (s : State) : State := (s.tiles.map (·.1)).foldl State.seqFault s.tickCounts

end Sys2Proof.Machine
end

