-- ==== Sys2Proof/Safety.lean ====
section
/-! DEFINITION. The terms in which claims are made: canonical memory, the signer fuses of a sound module, when
a tile can issue and what retiring an instruction does to it. -/

namespace Sys2Proof.Machine

/-- The canonical form of a memory: addresses strictly rise and no listed byte is 0. -/
abbrev Memory.wf (m : List Host.Cell) : Prop := mwf (0 : Byte) m = true

/-- Every memory of the module is in its canonical form. -/
def State.memOk (s : State) : Prop := Memory.wf s.mem.hbm ∧ ∀ t, Memory.wf (s.tile t).sram

/-- R403: a revoked slot was enrolled, and while any slot is enrolled one enrolled slot is not revoked. -/
def State.signersOk (s : State) : Prop :=
  (∀ n, (s.key n).revoked = true → (s.key n).enrolled = true) ∧
  ((∃ n, (s.key n).enrolled = true) → ∃ n, (s.key n).live = true)

/-- R25, R103, R122, R512: the tile issues, its fetch is in range, no register the instruction names is
awaited from the sampler or answers with a parity error, and its unit has room. -/
abbrev State.canIssue (s : State) (t : Nat) (f : Fields) (unit : Option ExecUnit) (sregs : List Nat) : Prop :=
  s.issuing t = true ∧ (s.tile t).fetchOk = true ∧ (s.tile t).ready unit sregs = true ∧ f.regParity = false

/-- The tile has executed an instruction of a unit: the program counter has passed it, the unit holds it for
its occupancy, `g` is its effect on the tile, and nothing else of the module changes. -/
def State.ran (s : State) (t : Nat) (unit : Option ExecUnit) (occ : Nat) (g : Tile → Tile) : State :=
  s.setTile t (g ((s.tile t).issued unit occ))

/-- R9: the low half that a requester has staged for the pair whose LO word lies at an address. -/
def State.staged (s : State) (w : Who) (lo : Nat) : Option W32 :=
  (s.stage.find? fun e => e.1 == w.slot * 2 ^ 32 + lo).map (·.2)

end Sys2Proof.Machine
end

