-- ==== Sys2Proof/Certificates/Slice0/Obligations.lean ====
section
/-! DEFINITION. The statements for the provers. Each names what it states; each docstring says which rules of spec/
it formalises. A statement about a free value or about a choice of the model says so. -/

open Sys2Proof Sys2Proof.Machine

/-- The queue is first in, first out: a step takes the command at the front and has its effect on the state with
the rest of the queue. -/
def Obligations.StepRunsTheFrontCommand : Prop :=
  ∀ (c : Instr) (cs : List Instr) (s : State),
    step { s with pending := c :: cs } = exec c { s with pending := cs }

/-- With no command waiting a nanosecond of hall time passes (log entry 1, the model's choice). R286, R287: the count
goes on by one, modulo 2^64; what is still to be slewed shrinks towards 0 by at most 42,949 units of 2^-32 ns (10 ns in a
millisecond), and the module's own count goes on by the oscillator's time of that nanosecond. R100, R101: the sequencer
of an issuing tile that meets a word of a reserved CLASS or of an OP not listed faults with ILLEGAL; a tile that does not
issue changes only in its count of cycles (R104). Nothing else of the module changes. -/
def Obligations.IdleStepPassesOneNanosecond : Prop :=
  ∀ s : State, s.pending = [] → ∃ t, step s = .next t ∧ t.pending = [] ∧
    t.time = { s.time with ht := (s.time.ht + 1) % 2 ^ 64, slew := t.time.slew } ∧
    (s.time.slew - t.time.slew).natAbs ≤ 42949 ∧ t.time.slew.natAbs ≤ s.time.slew.natAbs ∧
    (s.time.slew.natAbs ≤ 42949 → t.time.slew = 0) ∧
    t.boot = { s.boot with osc := t.boot.osc, oscFrac := t.boot.oscFrac } ∧
    t.boot.osc * 2 ^ 32 + t.boot.oscFrac = s.boot.osc * 2 ^ 32 + s.boot.oscFrac + s.time.oscUnits ∧
    (∀ k, s.issuing k = false → t.tile k =
      { s.tile k with cycles := (t.tile k).cycles, cycFrac := (t.tile k).cycFrac }) ∧
    (∀ k, k ∈ s.tiles.map (·.1) → s.issuing k = true → (s.tile k).fetchOk = true →
      decodeTile k (s.tile k).nextWord = none → (t.tile k).st = .faulted ∧ (t.tile k).cause = .illegal) ∧
    { t with time := s.time, boot := s.boot, tiles := s.tiles, regions := s.regions } = s

/-- No command stops the module: every command of the table has a next state, and none touches the queue, the fused
values or the module's own count. -/
def Obligations.EveryCommandHasANextState : Prop :=
  ∀ (c : Instr) (s : State), ∃ t, exec c s = .next t ∧
    t.pending = s.pending ∧ t.fused = s.fused ∧ t.boot.osc = s.boot.osc

/-- R403 (last paragraph): fuses are never cleared. An enrolled slot stays enrolled with its hash, and a revoked slot
stays revoked, over every step from every state. -/
def Obligations.SignerFusesAreNeverCleared : Prop :=
  ∀ s t : State, step s = .next t → ∀ n : Nat,
    ((s.key n).enrolled = true → (t.key n).enrolled = true ∧ (t.key n).hash = (s.key n).hash) ∧
    ((s.key n).revoked = true → (t.key n).revoked = true)

/-- R403: no step revokes a slot that was not enrolled, nor the last enrolled slot that is not revoked. -/
def Obligations.TheLastSignerStays : Prop :=
  ∀ s t : State, s.signersOk → step s = .next t → t.signersOk

/-- The invariants hold after reset. -/
def Obligations.ResetMeetsTheInvariants : Prop :=
  State.reset.signersOk ∧ State.reset.memOk ∧ State.reset.pending = []

/-- R8: a read of LO latches HI for its requester; a read of HI by that requester then returns the latched value
whatever the register has become, other requesters' latches stand, and without a latch HI reads live. -/
def Obligations.ReadOfLoLatchesHi : Prop :=
  ∀ (s : State) (w : Who) (a : Nat), a % 4 = 0 → a + 4 < 2 ^ 32 → s.mapped a = true → s.isLo a = true →
    (∃ t, exec (.regLoReadLatch w ⟨a, 4⟩) s = .next t ∧
      t.out = s.out ++ [.regRead w a (s.regValue w a)] ∧
      (∀ u : State, u.latch = t.latch → u.mapped (a + 4) = true → u.isLo a = true →
        u.regValue w (a + 4) = BitVec.ofNat 32 (s.live w (a + 4))) ∧
      (∀ (w' : Who) (b : Nat) (d : W32), w'.slot ≠ w.slot → b < 2 ^ 32 →
        mget d t.latch (w'.slot * 2 ^ 32 + b) = mget d s.latch (w'.slot * 2 ^ 32 + b)) ∧
      { t with latch := s.latch, out := s.out } = s) ∧
    ((s.latch.find? fun e => e.1 == w.slot * 2 ^ 32 + a) = none → s.mapped (a + 4) = true →
      s.regValue w (a + 4) = BitVec.ofNat 32 (s.live w (a + 4)))

/-- R9 on the pair PKT_GNG_ADDR (0x500018, 0x50001C): LO is staged for its requester and changes no value; HI applies
the staged half and consumes it, or keeps the current low word where none is staged. -/
def Obligations.PairIsWrittenByHi : Prop :=
  ∀ (s : State) (w : Who) (v : W32), w ≠ .sideband → s.boot.mode = .up →
    (∃ t, exec (.regLoWriteStage w 0x500018 v) s = .next t ∧ t.staged w 0x500018 = some v ∧
      (∀ (w' : Who) (lo : Nat), lo < 2 ^ 32 → (w'.slot ≠ w.slot ∨ lo ≠ 0x500018) → t.staged w' lo = s.staged w' lo) ∧
      { t with stage := s.stage } = s) ∧
    (∀ l : W32, s.staged w 0x500018 = some l → ∃ t, exec (.regHiWriteApply w 0x50001C v) s = .next t ∧
      t.fabric = { s.fabric with gngAddr := v ++ l } ∧ t.staged w 0x500018 = none ∧
      { t with stage := s.stage, fabric := s.fabric } = s) ∧
    (s.staged w 0x500018 = none → exec (.regHiWriteApply w 0x50001C v) s =
      .next { s with fabric := { s.fabric with gngAddr := v ++ s.fabric.gngAddr.setWidth 32 } })

/-- R6, R7, R442, R449 on one register of each access type: a write of another size or alignment is discarded and counted
for its port, a read of such is completed with UR, and a poisoned write of a port changes no register (the bits of AER are
the model's choice, log entry 88); RW takes the value; RO and an address without a register ignore it; of W1C each 1 clears
that bit. -/
def Obligations.RegisterWriteByAccessType : Prop :=
  ∀ (s : State) (v : W32), s.boot.mode = .up →
    (∀ a size, size ≠ 4 ∨ a % 4 ≠ 0 →
      exec (.regWrite .port1 a ⟨size, false⟩ v) s = .next (s.setPort 1 { s.port 1 with err := satInc 65535 (s.port 1).err }) ∧
      exec (.regLoReadLatch .port1 ⟨a, size⟩) s = .next ((s.emit (.regUr .port1 a)).aer 1 Aer.unsupported)) ∧
    (∀ a size, exec (.regWrite .port1 a ⟨size, true⟩ v) s = .next (s.aer 1 Aer.poisoned)) ∧
    (∀ w : Who, w ≠ .sideband →
      exec (.regWrite w 0x200010 {} v) s = .next { s with power := { s.power with coolant := v.toNat % 1024 } } ∧
      exec (.regWrite w 0x000000 {} v) s = .next s ∧
      exec (.regWrite w 0x000F00 {} v) s = .next s ∧
      (∀ d r k, d < s.dies → r < 16 → k < 256 →
        exec (.regWrite w (0x1000000 + d * 0x200000 + r * 0x10000 + k * 0x100 + 8) {} v) s =
          .next (s.setTile (tileKey d r k)
            { s.tile (tileKey d r k) with flags := (s.tile (tileKey d r k)).flags &&& ~~~v })))

/-- R5, R424: module reset sets every register to its reset value and restarts the module at P0; fuses, the queue of
commands, the board's pins, the signer fuses, the flash region's record sets, what has left the module, and the model's own
note of what its saves have written (log entry 6) stay. -/
def Obligations.ModuleResetResets : Prop :=
  ∀ s : State, ∃ t, exec .moduleReset s = .next t ∧
    t.time = State.reset.time ∧ t.tiles = [] ∧ t.stations = State.reset.stations ∧ t.parts = [] ∧ t.fabric = State.reset.fabric ∧
    t.bursts = [] ∧ t.ports = [] ∧ t.safe = State.reset.safe ∧ t.tst = State.reset.tst ∧ t.latch = [] ∧ t.stage = [] ∧
    t.saves = s.saves ∧ t.mem.hbm = [] ∧ t.power.budget = (if s.fused.m6416 then 9650 else 11500) ∧
    t.boot.mode = .boot ∧ t.boot.ready = false ∧ t.boot.steps = 0 ∧
    t.pending = s.pending ∧ t.fused = s.fused ∧ t.board = s.board ∧ t.cfg.keys = s.cfg.keys ∧
    t.evt.sets = s.evt.sets ∧ t.out = s.out

/-- R22: s0 reads 0 and a write to it is discarded; a write to another scalar register changes that one alone. What an
instruction that retires leaves alone: every other tile, and everything of the module but its tile. -/
def Obligations.RegistersOfATile : Prop :=
  (∀ (x : Tile) (r k : Nat) (v : W64), (x.ws r v).rs 0 = 0 ∧ (x.ws 0 v) = x ∧
    (r ≠ 0 → (x.ws r v).rs r = v) ∧ (k ≠ r → (x.ws r v).rs k = x.rs k) ∧ { x.ws r v with s := x.s } = x) ∧
  (∀ (s : State) (t u : Nat) (unit : Option ExecUnit) (occ : Nat) (g : Tile → Tile),
    (s.ran t unit occ g).tile t = g ((s.tile t).issued unit occ) ∧
    ((s.tile t).issued unit occ).pc = (s.tile t).pc + 8 ∧
    (u ≠ t → (s.ran t unit occ g).tile u = s.tile u) ∧ { s.ran t unit occ g with tiles := s.tiles } = s)

/-- R102, three-register forms: d takes the value of the table from the values that a and b have before; the program
counter passes the instruction and nothing else changes (a write to s0 is discarded). -/
def Obligations.ScalarArithmeticResults : Prop :=
  ∀ (s : State) (t : Nat) (f : Fields), s.canIssue t f none [f.dn, f.an, f.bn] → rForm usesDAB f = true →
    let a := (s.tile t).rs f.an
    let b := (s.tile t).rs f.bn
    exec (.add t f) s = .next (s.ran t none 1 (·.ws f.dn (a + b))) ∧
    exec (.sub t f) s = .next (s.ran t none 1 (·.ws f.dn (a - b))) ∧
    exec (.and t f) s = .next (s.ran t none 1 (·.ws f.dn (a &&& b))) ∧
    exec (.or t f) s = .next (s.ran t none 1 (·.ws f.dn (a ||| b))) ∧
    exec (.xor t f) s = .next (s.ran t none 1 (·.ws f.dn (a ^^^ b))) ∧
    exec (.sll t f) s = .next (s.ran t none 1 (·.ws f.dn (a <<< (b.toNat % 64)))) ∧
    exec (.srl t f) s = .next (s.ran t none 1 (·.ws f.dn (a >>> (b.toNat % 64)))) ∧
    exec (.sra t f) s = .next (s.ran t none 1 (·.ws f.dn (a.sshiftRight (b.toNat % 64)))) ∧
    exec (.mul t f) s = .next (s.ran t none 1 (·.ws f.dn (a * b))) ∧
    exec (.mulh t f) s = .next (s.ran t none 1 (·.ws f.dn (BitVec.ofInt 64 (a.toInt * b.toInt / 2 ^ 64)))) ∧
    exec (.mulhu t f) s = .next (s.ran t none 1 (·.ws f.dn (BitVec.ofNat 64 (a.toNat * b.toNat / 2 ^ 64)))) ∧
    exec (.slt t f) s = .next (s.ran t none 1 (·.ws f.dn (if a.toInt < b.toInt then 1 else 0))) ∧
    exec (.sltu t f) s = .next (s.ran t none 1 (·.ws f.dn (if a.toNat < b.toNat then 1 else 0))) ∧
    exec (.min t f) s = .next (s.ran t none 1 (·.ws f.dn (if a.toInt ≤ b.toInt then a else b))) ∧
    exec (.max t f) s = .next (s.ran t none 1 (·.ws f.dn (if a.toInt ≤ b.toInt then b else a)))

/-- R99, R102, immediate forms: IMM32 is sign-extended; a shift by an immediate needs imm[31:6] = 0. -/
def Obligations.ScalarImmediateResults : Prop :=
  ∀ (s : State) (t : Nat) (f : Fields),
    (s.canIssue t f none [f.dn, f.an] → iForm usesDA f = true →
      let a := (s.tile t).rs f.an
      let i : W64 := f.low.signExtend 64
      exec (.addi t f) s = .next (s.ran t none 1 (·.ws f.dn (a + i))) ∧
      exec (.andi t f) s = .next (s.ran t none 1 (·.ws f.dn (a &&& i))) ∧
      exec (.ori t f) s = .next (s.ran t none 1 (·.ws f.dn (a ||| i))) ∧
      exec (.xori t f) s = .next (s.ran t none 1 (·.ws f.dn (a ^^^ i))) ∧
      exec (.muli t f) s = .next (s.ran t none 1 (·.ws f.dn (a * i))) ∧
      exec (.slti t f) s = .next (s.ran t none 1 (·.ws f.dn (if a.toInt < i.toInt then 1 else 0))) ∧
      exec (.sltui t f) s = .next (s.ran t none 1 (·.ws f.dn (if a.toNat < i.toNat then 1 else 0))) ∧
      exec (.lih t f) s = .next (s.ran t none 1 (·.ws f.dn ((i <<< (32 : Nat)) ||| (a &&& 0xFFFFFFFF)))) ∧
      (f.low.toNat < 64 →
        exec (.slli t f) s = .next (s.ran t none 1 (·.ws f.dn (a <<< f.low.toNat))) ∧
        exec (.srli t f) s = .next (s.ran t none 1 (·.ws f.dn (a >>> f.low.toNat))) ∧
        exec (.srai t f) s = .next (s.ran t none 1 (·.ws f.dn (a.sshiftRight f.low.toNat))))) ∧
    (s.canIssue t f none [f.dn] → iForm usesD f = true →
      exec (.li t f) s = .next (s.ran t none 1 (·.ws f.dn (f.low.signExtend 64))))

/-- R28, R32, R103, scalar loads: an aligned access in range without an uncorrectable word loads the little-endian
bytes, zero- or sign-extended; single-bit errors met are counted. -/
def Obligations.ScalarLoadResults : Prop :=
  ∀ (s : State) (t : Nat) (f : Fields), s.canIssue t f none [f.dn, f.an] → iForm usesDA f = true →
    let x := s.tile t
    let a := effAddr f x
    let fits := fun n => a % n = 0 ∧ a + n ≤ 262144 ∧ x.badWord a n = none
    let u := fun (n : Nat) (y : Tile) => (y.noteCorr a n).ws f.dn (BitVec.ofNat 64 (leNat (x.rmem a n)))
    let e := fun (n : Nat) (y : Tile) =>
      (y.noteCorr a n).ws f.dn ((BitVec.ofNat (8 * n) (leNat (x.rmem a n))).signExtend 64)
    (fits 1 → exec (.ldu1 t f) s = .next (s.ran t none 1 (u 1))) ∧
    (fits 2 → exec (.ldu2 t f) s = .next (s.ran t none 1 (u 2))) ∧
    (fits 4 → exec (.ldu4 t f) s = .next (s.ran t none 1 (u 4))) ∧
    (fits 8 → exec (.ldu8 t f) s = .next (s.ran t none 1 (u 8))) ∧
    (fits 1 → exec (.lds1 t f) s = .next (s.ran t none 1 (e 1))) ∧
    (fits 2 → exec (.lds2 t f) s = .next (s.ran t none 1 (e 2))) ∧
    (fits 4 → exec (.lds4 t f) s = .next (s.ran t none 1 (e 4)))

/-- R28, R31, R32, R103, scalar stores: the low bytes of b are stored little-endian at a + imm, the address that
`effAddr` computes; every byte outside them reads as before, no register changes, and the flags are those that the
reading of the words stored only in part leaves (ECC_CORR where one of them holds a single-bit error). -/
def Obligations.ScalarStoresAndTheirFrame : Prop :=
  ∀ (s : State) (t : Nat) (f : Fields), s.canIssue t f none [f.an, f.bn] → iForm { a := true, b := true } f = true →
    let x := s.tile t
    let a := effAddr f x
    let stores := fun (c : Instr) (n : Nat) => a % n = 0 → a + n ≤ 262144 → x.badPartial a n = none →
      ∃ u, exec c s = .next u ∧ u = s.ran t none 1 (·.wmem a (leBytes n (x.rs f.bn).toNat)) ∧
        (u.tile t).rmem a n = leBytes n (x.rs f.bn).toNat ∧
        (∀ b, b < a ∨ a + n ≤ b → mget 0 (u.tile t).sram b = mget 0 x.sram b) ∧
        (∀ r, (u.tile t).rs r = x.rs r) ∧ (∀ r, (u.tile t).rv r = x.rv r) ∧
        (u.tile t).flags = (x.notePart a n).flags
    stores (.st1 t f) 1 ∧ stores (.st2 t f) 2 ∧ stores (.st4 t f) 4 ∧ stores (.st8 t f) 8

/-- R103, branches and jumps: a taken branch goes to the instruction's own address plus imm, modulo 2^64; JAL and
JALR leave the address of the next instruction in d. -/
def Obligations.BranchesAndJumps : Prop :=
  ∀ (s : State) (t : Nat) (f : Fields),
    let x := s.tile t
    let a := x.rs f.an
    let b := x.rs f.bn
    let to_ := ((x.pc : Int) + f.imm) % 2 ^ 64
    (s.canIssue t f none [f.an, f.bn] → iForm { a := true, b := true } f = true → f.low.toNat % 8 = 0 →
      exec (.beq t f) s = .next (s.ran t none 1 fun y => if a = b then { y with pc := to_.toNat } else y) ∧
      exec (.bne t f) s = .next (s.ran t none 1 fun y => if a ≠ b then { y with pc := to_.toNat } else y) ∧
      exec (.blt t f) s = .next (s.ran t none 1 fun y => if a.toInt < b.toInt then { y with pc := to_.toNat } else y) ∧
      exec (.bge t f) s = .next (s.ran t none 1 fun y => if b.toInt ≤ a.toInt then { y with pc := to_.toNat } else y) ∧
      exec (.bltu t f) s = .next (s.ran t none 1 fun y => if a.toNat < b.toNat then { y with pc := to_.toNat } else y) ∧
      exec (.bgeu t f) s = .next (s.ran t none 1 fun y => if b.toNat ≤ a.toNat then { y with pc := to_.toNat } else y)) ∧
    (s.canIssue t f none [f.dn] → iForm usesD f = true → f.low.toNat % 8 = 0 →
      exec (.jal t f) s = .next (s.ran t none 1 fun y =>
        { y.ws f.dn (BitVec.ofNat 64 (x.pc + 8)) with pc := to_.toNat })) ∧
    (s.canIssue t f none [f.dn, f.an] → iForm usesDA f = true → effAddr f x % 8 = 0 →
      exec (.jalr t f) s = .next (s.ran t none 1 fun y =>
        { y.ws f.dn (BitVec.ofNat 64 (x.pc + 8)) with pc := effAddr f x }))

/-- R98, R103, R104, system instructions: RDSYS reads the seven values; HALT makes the tile IDLE with its code; IBINV
empties the instruction buffer; NOP only passes; FLCLR clears the flags that IMM16 names, in [31:16] with X. -/
def Obligations.SystemInstructions : Prop :=
  ∀ (s : State) (t : Nat) (f : Fields),
    let x := s.tile t
    (s.canIssue t f none [f.dn] → iForm usesD f = true →
      let reads := fun (n : Nat) (v : W64) => f.low.toNat = n →
        exec (.rdsys t f) s = .next (s.ran t none 1 (·.ws f.dn v))
      reads 0 (BitVec.ofNat 64 x.logical) ∧ reads 1 (BitVec.ofNat 64 x.partition) ∧
      reads 2 ((s.tileCoord t).setWidth 64) ∧
      reads 3 (BitVec.ofNat 64 (s.stnHt (tileStation t)) - (s.part x.partition).joff) ∧
      reads 4 (BitVec.ofNat 64 x.cycles) ∧ reads 5 (BitVec.ofNat 64 (s.tokensOf t)) ∧ reads 6 (x.flags.setWidth 64)) ∧
    (s.canIssue t f none [] →
      (rForm { imm16 := true } f = true → exec (.halt t f) s = .next (s.ran t none 1 fun y =>
        { y with st := .idle, haltCode := some f.imm16 })) ∧
      (rForm {} f = true → exec (.ibinv t f) s = .next (s.ran t none 4 fun y => { y with ibuf := [] })) ∧
      (rForm {} f = true → exec (.nop t f) s = .next (s.ran t none 1 id)) ∧
      (rForm { x := true, imm16 := true } f = true → exec (.flclr t f) s = .next (s.ran t none 1 fun y =>
        { y with flags := y.flags &&& ~~~(BitVec.ofNat 32 f.imm16 <<< (if f.x then 16 else 0)) })))

/-- R25, R28, R57, R100, R103, where a tile faults: a fetch outside its range, a word whose unused fields are not 0,
a register-file parity error, an access that is misaligned or out of range, an uncorrectable word. The tile stops with its cause, the program counter
at the instruction, its registers as before. -/
def Obligations.TileFaults : Prop :=
  ∀ (s : State) (t : Nat) (f : Fields), s.issuing t = true →
    let x := s.tile t
    let faults := fun (c : Instr) (k : Cause) => ∃ u, exec c s = .next u ∧
      (u.tile t).st = .faulted ∧ (u.tile t).cause = k ∧ (u.tile t).pc = x.pc ∧ (u.tile t).s = x.s ∧ (u.tile t).v = x.v
    (x.fetchOk = false → faults (.nop t f) .range) ∧
    (x.fetchOk = true → rForm {} f = false → faults (.nop t f) .illegal) ∧
    (x.fetchOk = true → rForm {} f = true → x.ready none [] = true → f.regParity = true → faults (.nop t f) .regParity) ∧
    (s.canIssue t f none [f.dn, f.an] → iForm usesDA f = true →
      (effAddr f x % 4 ≠ 0 → faults (.ldu4 t f) .misaligned) ∧
      (effAddr f x % 4 = 0 → 262144 < effAddr f x + 4 → faults (.ldu4 t f) .range) ∧
      (∀ w, effAddr f x % 4 = 0 → effAddr f x + 4 ≤ 262144 → x.badWord (effAddr f x) 4 = some w →
        faults (.ldu4 t f) .sramUncorr))

/-- R70: the elements written to a register are the elements read from it, and the bits beyond them are zero; other
vector registers, the scalar registers and the SRAM are unchanged. -/
def Obligations.VectorRegisterPacking : Prop :=
  ∀ (x : Tile) (fmt r : Nat) (cs : List Nat), fmt ≤ 10 → cs.length = fmtLanes fmt → (∀ c ∈ cs, c < 2 ^ fmtWidth fmt) →
    (x.putLanes fmt r cs).lanes fmt r = cs ∧
    ((x.putLanes fmt r cs).rv r).toNat < 2 ^ (fmtWidth fmt * fmtLanes fmt) ∧
    (∀ k, k ≠ r → (x.putLanes fmt r cs).rv k = x.rv k) ∧ { x.putLanes fmt r cs with v := x.v } = x

/-- R42, R71, R78, R80, R105, lane arithmetic: each lane of d is the operation of the lanes of a and b (of sb in every
lane for VADDS and VMULS), floats rounded once in the mode of RND with bits of stream 1 in mode SR, integers wrapped
or, with SAT, clamped; the flags of the lanes are set. VFMA rounds once, after the addition. -/
def Obligations.VectorArithmeticResults : Prop :=
  ∀ (s : State) (t : Nat) (f : Fields),
    let w := fmtWidth f.fa
    let lane := fun (fop : Nat → Nat → Nat → Nat → Nat → Nat × W32) (iop : Int → Int → Int) (a b u : Nat) =>
      if fmtIsFloat f.fa then fop f.fa f.rnd u a b else intRes w f.sat (iop (sext w a) (sext w b))
    let results := fun (fop : Nat → Nat → Nat → Nat → Nat → Nat × W32) (iop : Int → Int → Int) (bs : Tile → List Nat)
        (y : Tile) =>
      let (us, z) := y.roundBits (s.part y.partition).seed f.rnd (fmtLanes f.fa)
      z.putRes f.fa f.dn ((((y.lanes f.fa f.an).zip (bs y)).zip us).map fun p => lane fop iop p.1.1 p.1.2 p.2)
    let vec := fun (y : Tile) => y.lanes f.fa f.bn
    let scal := fun (y : Tile) => List.replicate (fmtLanes f.fa) ((y.rs f.bn).toNat % 2 ^ w)
    (s.canIssue t f (some .vector) [] → (rForm usesLane f && laneOk f) = true →
      exec (.vadd t f) s = .next (s.ran t (some .vector) 1 (results addCode (· + ·) vec)) ∧
      exec (.vsub t f) s = .next (s.ran t (some .vector) 1 (results subCode (· - ·) vec)) ∧
      exec (.vmul t f) s = .next (s.ran t (some .vector) 1 (results mulCode (· * ·) vec))) ∧
    (s.canIssue t f (some .vector) [f.bn] → (rForm usesLane f && laneOk f) = true →
      exec (.vadds t f) s = .next (s.ran t (some .vector) 1 (results addCode (· + ·) scal)) ∧
      exec (.vmuls t f) s = .next (s.ran t (some .vector) 1 (results mulCode (· * ·) scal))) ∧
    (s.canIssue t f (some .vector) [] → (rForm { usesLane with c := true } f && laneOk f && fmtIsFloat f.fa) = true →
      exec (.vfma t f) s = .next (s.ran t (some .vector) 1 fun y =>
        let (us, z) := y.roundBits (s.part y.partition).seed f.rnd (fmtLanes f.fa)
        z.putRes f.fa f.dn (((((y.lanes f.fa f.an).zip (y.lanes f.fa f.bn)).zip (y.lanes f.fa f.cn)).zip us).map fun p =>
          fmaCode f.fa f.rnd p.2 p.1.1.1 p.1.1.2 p.1.2)))

/-- R27, R80, R105, comparisons, selections, bitwise operations, broadcast and reductions: none of them rounds but
VREDSUM, each add of whose pairwise tree rounds. -/
def Obligations.VectorSelectionsAndReductions : Prop :=
  ∀ (s : State) (t : Nat) (f : Fields),
    let x := s.tile t
    let ran := fun (occ : Nat) (g : Tile → Tile) => Host.Outcome.next (s.ran t (some .vector) occ g)
    let each := fun (op : Nat → Nat → Nat) => ran 1 fun y => y.putLanes f.fa f.dn
      (((x.lanes f.fa f.an).zip (x.lanes f.fa f.bn)).map fun p => op p.1 p.2)
    let float := fmtIsFloat f.fa
    let i := sext (fmtWidth f.fa)
    let cmp := fun (test : Int → Bool) (a b : Nat) =>
      if !(decodeNum f.fa a).isNan && !(decodeNum f.fa b).isNan && test ((decodeNum f.fa a).cmp (decodeNum f.fa b)) then
        2 ^ fmtWidth f.fa - 1 else 0
    (s.canIssue t f (some .vector) [] → (rForm usesPick f && laneOk f) = true →
      exec (.vmin t f) s = each (fun a b => if float then minCode f.fa a b else if i a ≤ i b then a else b) ∧
      exec (.vmax t f) s = each (fun a b => if float then maxCode f.fa a b else if i a ≤ i b then b else a) ∧
      exec (.vceq t f) s = each (cmp (· == 0)) ∧
      exec (.vclt t f) s = each (cmp fun c => decide (c < 0)) ∧
      exec (.vcle t f) s = each (cmp fun c => decide (c ≤ 0))) ∧
    (s.canIssue t f (some .vector) [] → (rForm { usesPick with c := true } f && laneOk f) = true →
      exec (.vsel t f) s = ran 1 fun y => y.putLanes f.fa f.dn
        ((((x.lanes f.fa f.an).zip (x.lanes f.fa f.bn)).zip (x.lanes f.fa f.cn)).map fun p =>
          if p.2 ≠ 0 then p.1.1 else p.1.2)) ∧
    (s.canIssue t f (some .vector) [] → rForm usesDAB f = true →
      exec (.vand t f) s = ran 1 (·.wv f.dn (x.rv f.an &&& x.rv f.bn)) ∧
      exec (.vor t f) s = ran 1 (·.wv f.dn (x.rv f.an ||| x.rv f.bn)) ∧
      exec (.vxor t f) s = ran 1 (·.wv f.dn (x.rv f.an ^^^ x.rv f.bn))) ∧
    (s.canIssue t f (some .vector) [f.an] → (rForm { usesPick with b := false } f && laneOk f) = true →
      exec (.vbcast t f) s = ran 1 (·.putLanes f.fa f.dn
        (List.replicate (fmtLanes f.fa) ((x.rs f.an).toNat % 2 ^ fmtWidth f.fa)))) ∧
    (let reduced := fun (op : Nat → Nat → Nat × W32) => ran 2 fun y =>
        let r := treeReduce op (Nat.log2 (fmtLanes f.fa)) (x.lanes f.fa f.an)
        (y.ws f.dn (if f.fa = 10 then BitVec.ofInt 64 (sext 32 r.1) else BitVec.ofNat 64 r.1)).orFlags r.2
     s.canIssue t f (some .vector) [f.dn] →
     ((rForm { usesLane with b := false } f && laneOk f && redFmt f.fa) = true →
        exec (.vredsum t f) s = reduced (fun a b =>
          if float then addCode f.fa f.rnd 0 a b else intRes (fmtWidth f.fa) f.sat (i a + i b))) ∧
     ((rForm { usesPick with b := false } f && laneOk f && redFmt f.fa) = true →
        exec (.vredmax t f) s = reduced (fun a b =>
          (if float then maxCode f.fa a b else if i a ≤ i b then b else a, 0)) ∧
        exec (.vredmin t f) s = reduced (fun a b =>
          (if float then minCode f.fa a b else if i a ≤ i b then a else b, 0))))

/-- R28, R75 to R79, R106, R107, vector memory and conversion. A vector access is 64-byte aligned and moves 128 bytes;
VST leaves every other byte of the SRAM as it was. -/
def Obligations.VectorMemoryAndConversion : Prop :=
  ∀ (s : State) (t : Nat) (f : Fields),
    let x := s.tile t
    let ran := fun (occ : Nat) (g : Tile → Tile) => Host.Outcome.next (s.ran t (some .vector) occ g)
    let a := effAddr f x
    (s.canIssue t f (some .vector) [f.an] → iForm usesDA f = true → a % 64 = 0 → a + 128 ≤ 262144 →
      x.badWord a 128 = none →
      exec (.vld t f) s = ran 1 fun y => (y.noteCorr a 128).wv f.dn (BitVec.ofNat 1024 (leNat (x.rmem a 128)))) ∧
    (s.canIssue t f (some .vector) [f.an] → iForm { a := true, b := true } f = true → a % 64 = 0 → a + 128 ≤ 262144 →
      x.badPartial a 128 = none →
      exec (.vst t f) s = (ran 1 fun y => y.wmem a (leBytes 128 (x.rv f.bn).toNat)) ∧
      ∀ (y : Tile) (b : Nat), b < a ∨ a + 128 ≤ b →
        mget 0 (y.wmem a (leBytes 128 (x.rv f.bn).toNat)).sram b = mget 0 y.sram b) ∧
    (let n := Nat.max (fmtLanes f.fa) (fmtLanes f.fb)
     let ka := ceilDiv n (fmtLanes f.fa)
     let kb := ceilDiv n (fmtLanes f.fb)
     s.canIssue t f (some .vector) [] → (rForm { d := true, a := true, fa := true, fb := true, rnd := true } f &&
        convFmt f.fa && convFmt f.fb && rndOk f.fa f.rnd && groupOk f.dn ka && groupOk f.an kb) = true →
      exec (.vcvt t f) s = ran (Nat.max ka kb) fun y =>
        let (us, z) := y.roundBits (s.part y.partition).seed f.rnd n
        z.putRes f.fa f.dn (((y.groupLanes f.fb f.an n).zip us).map fun p =>
          encodeNum f.fa f.rnd p.2 (decodeNum f.fb p.1))) ∧
    (let n := fmtLanes f.fa
     let kb := ceilDiv n (fmtLanes f.fb)
     s.canIssue t f (some .vector) [f.cn] → (rForm { d := true, a := true, c := true, fa := true, fb := true, rnd := true } f &&
        fmtNarrow f.fa && fmtWide f.fb && rndOk f.fa f.rnd && groupOk f.an kb) = true →
      exec (.vcvtmx t f) s = ran (ceilDiv n 8) fun y =>
        let (us, z) := y.roundBits (s.part y.partition).seed f.rnd n
        let bl := ((chunks 32 ((y.groupLanes f.fb f.an n).map (decodeNum f.fb))).zip (chunks 32 us)).map fun p =>
          mxBlock f.fa f.rnd p.1 p.2
        ((z.putLanes f.fa f.dn (bl.map (·.2.1)).flatten).ws f.cn
          (BitVec.ofNat 64 (packCodes 8 (bl.map (·.1))))).orFlags (orAll (bl.map (·.2.2)))) ∧
    (let n := fmtLanes f.fb
     let ka := ceilDiv n (fmtLanes f.fa)
     s.canIssue t f (some .vector) [f.bn] →
      (rForm { d := true, a := true, b := true, fa := true, fb := true, rnd := true, x := true } f && fmtNarrow f.fb && fmtWide f.fa && rndOk f.fa f.rnd && groupOk f.dn ka) = true →
      exec (.vcvtw t f) s = ran ka fun y =>
        y.putRes f.fa f.dn (((y.groupLanes f.fb f.an n).zipIdx).map fun p =>
          if f.x then roundRes f.fa f.rnd 0
            (scaledNum f.fb p.1 (bits (y.rs f.bn).toNat (8 * (p.2 / 32) + 7) (8 * (p.2 / 32))))
          else encodeNum f.fa f.rnd 0 (decodeNum f.fb p.1))) ∧
    ((rForm { d := true, a := true, fa := true, imm16 := true } f && laneFmt f.fa &&
        decide (f.imm16 < fmtLanes f.fa)) = true →
      (s.canIssue t f (some .vector) [f.dn] → exec (.vmovs t f) s = ran 1 fun y =>
        let c := nth 0 (x.lanes f.fa f.an) f.imm16
        y.ws f.dn (if fmtIsInt f.fa then BitVec.ofInt 64 (sext (fmtWidth f.fa) c) else BitVec.ofNat 64 c)) ∧
      (s.canIssue t f (some .vector) [f.an] → exec (.vins t f) s = ran 1 fun y => y.putLanes f.fa f.dn
        (updAt (x.lanes f.fa f.dn) f.imm16 fun _ => (x.rs f.an).toNat % 2 ^ fmtWidth f.fa))) ∧
    (s.canIssue t f (some .vector) [f.bn] → (rForm usesDAB f && groupOk f.dn 2) = true →
      exec (.vfx t f) s = ran 2 fun y =>
        let rs := (x.lanes 0 f.an).map fun c => toFx64 (sext 8 (x.rs f.bn).toNat) (decodeNum 0 c)
        let v := packCodes 64 (rs.map fun r => trunc 64 r.1)
        ((y.wv f.dn (BitVec.ofNat 1024 v)).wv (f.dn + 1) (BitVec.ofNat 1024 (v / 2 ^ 1024))).orFlags
          (orAll (rs.map fun r => r.2.1 ||| (if r.2.2 then 2 else 0))))

/-- R81 to R86, R108 to R111, the matrix unit: what each instruction does to the accumulator and where it delivers. -/
def Obligations.MatrixResults : Prop :=
  ∀ (s : State) (t : Nat) (f : Fields),
    let x := s.tile t
    let ran := fun (occ : Nat) (g : Tile → Tile) => Host.Outcome.next (s.ran t (some .matrix) occ g)
    let put := fun (r : Acc × W32) (y : Tile) => (y.wm f.dn r.1).orFlags r.2
    (s.canIssue t f (some .matrix) [] →
      ((rForm { usesDAB with fa := true, fb := true } f && mOk f.dn && matPair f.fa f.fb &&
          (fmtIsInt f.fa == (x.rm f.dn).integer)) = true →
        exec (.mop t f) s = ran 8 (put ((x.rm f.dn).mop f.fa f.fb (x.lanes f.fa f.an) (x.lanes f.fb f.bn)))) ∧
      ((rForm usesD f && mOk f.dn) = true → exec (.mfold t f) s = ran 1 (put (x.rm f.dn).fold)) ∧
      ((rForm { usesD with fa := true } f && mOk f.dn && (f.fa == 0 || f.fa == 10)) = true →
        exec (.mclr t f) s = ran 1 (·.wm f.dn { integer := f.fa == 10 })) ∧
      ((rForm usesDA f && mOk f.dn) = true →
        exec (.mscl t f) s = ran 1 (·.wm f.dn { x.rm f.dn with
          xa := scaleTable ((vregBytes (x.rv f.an)).take 16),
          xb := scaleTable (((vregBytes (x.rv f.an)).drop 16).take 16) })) ∧
      ((rForm { usesDAB with fa := true, rnd := true, imm16 := true } f && mrdOk f (x.rm f.an).integer) = true →
        exec (.mrd t f) s = ran 8 fun y => (y.putRes f.fa f.dn ((List.range 256).map fun k =>
          deliver f.fa f.rnd (x.rm f.an).integer (mget 0 (x.rm f.an).fold.1.elem k) (mrdScale f x k))).orFlags
            (x.rm f.an).fold.2) ∧
      ((rForm { usesDA with fa := true } f && mOk f.dn && (f.fa == 0 || f.fa == 10) && groupOk f.an 8) = true →
        exec (.mwr t f) s = ran 8 (·.wm f.dn { (x.rm f.dn) with
          ksteps := 0, sums := [], classes := [], integer := f.fa == 10,
          elem := ((x.groupLanes 0 f.an 256).zipIdx).foldl (fun m p => mset 0 m p.2 (BitVec.ofNat 32 p.1)) [] }))) ∧
    (s.canIssue t f (some .matrix) [f.an, f.cn] →
      (rForm { usesDAB with c := true, fa := true, fb := true, imm16 := true } f && mOk f.dn && matPair f.fa f.fb &&
        decide (1 ≤ f.imm16 ∧ f.imm16 ≤ 256) && (fmtIsInt f.fa == (x.rm f.dn).integer)) = true →
      let n := mmvBytes f.fa f.imm16
      let a := (x.rs f.an).toNat
      let sc := (x.rs f.cn).toNat
      a + n ≤ 262144 → x.badWord a n = none →
      exec (.mmv t f) s = ran (ceilDiv n 128) fun y =>
        let r := mmvRows (x.rm f.dn).fold.1 f.fa f.fb f.imm16 (x.rmem a n)
          (((x.lanes f.fb f.bn).drop (32 * (bits sc 10 8 % mmvBlocks f.fb))).take 32) (sc % 256)
        ((y.noteCorr a n).wm f.dn r.1).orFlags ((x.rm f.dn).fold.2 ||| r.2))

/-- R42, R43, R87 to R89, R112, special functions and random bits: 4 cycles in FP32 and 8 in the 16-bit formats; RANDV
takes 8 blocks of stream 2 and RANDS one, and the draw counter of stream 2 advances by as many, of no other stream. -/
def Obligations.SpecialFunctionsAndRandomBits : Prop :=
  ∀ (s : State) (t : Nat) (f : Fields),
    let x := s.tile t
    let ran := fun (occ : Nat) (g : Tile → Tile) => Host.Outcome.next (s.ran t (some .special) occ g)
    let seed := (s.part x.partition).seed
    let block := fun i => philox seed (x.draw2 + BitVec.ofNat 64 i) 2 x.logical
    (s.canIssue t f (some .special) [] →
      ((rForm { d := true, a := true, fa := true, rnd := true } f && fmtWide f.fa && decide (f.rnd ≤ 1)) = true →
        let lanes := fun (fn : SpecFn) => ran (if f.fa = 0 then 4 else 8) fun y =>
          y.putRes f.fa f.dn ((x.lanes f.fa f.an).map (specialLane fn f.fa f.rnd))
        exec (.fexp2 t f) s = lanes .exp2 ∧ exec (.flog2 t f) s = lanes .log2 ∧ exec (.frcp t f) s = lanes .rcp ∧
        exec (.frsq t f) s = lanes .rsq ∧ exec (.ftanh t f) s = lanes .tanh) ∧
      (rForm usesD f = true → exec (.randv t f) s = ran 2 fun y =>
        { y.wv f.dn (BitVec.ofNat 1024 (packCodes 128 ((List.range 8).map block))) with draw2 := x.draw2 + 8 })) ∧
    (s.canIssue t f (some .special) [f.dn] → rForm usesD f = true →
      exec (.rands t f) s = ran 1 fun y =>
        { y.ws f.dn (BitVec.ofNat 64 (philox seed x.draw2 2 x.logical)) with draw2 := x.draw2 + 1 })

/-- R118 to R120, waits on a counter, on job time and on descriptors: WAITC passes once the counter has reached its
target (modulo 2^32, half the range ahead), WAITJT gives the lateness of a passed target and 0 after a wait, FENCE passes
once no descriptor of the kinds named is outstanding. A tile that waits stands at the instruction; its release lets it
pass. Nothing else changes. -/
def Obligations.WaitsOnCountersJobTimeAndFences : Prop :=
  ∀ (s : State) (t : Nat) (f : Fields),
    let x := s.tile t
    let ran := fun (g : Tile → Tile) => Host.Outcome.next (s.ran t none 1 g)
    let waits := fun (w : Wait) (y : Tile) => { y with pc := x.pc, st := .waiting, wait := some w }
    let passes := fun (y : Tile) => { y with pc := y.pc + 8, st := .running, wait := none }
    let target := x.rs f.an
    let jt := jobTime (s.part x.partition) (s.stnHt (tileStation t))
    let covered := fun (k : Nat) => if f.imm16 = 0 then 2 ≤ k ∧ k ≤ 5 else if f.imm16 = 1 then k = 0 else True
    (s.canIssue t f none [f.an] → (rForm usesDA f && decide (f.dn < 16)) = true →
      exec (.waitc t f) s = ran (if (x.rc f.dn - target.setWidth 32).toNat < 2 ^ 31 then id
        else waits (.counter f.dn (target.setWidth 32)))) ∧
    (s.canIssue t f none [f.dn, f.an] → rForm usesDA f = true →
      exec (.waitjt t f) s = ran (if target.toNat ≤ jt.toNat then (·.ws f.dn (jt - target))
        else waits (.jobTime target f.dn))) ∧
    (s.canIssue t f none [] → (rForm { imm16 := true } f && decide (f.imm16 ≤ 2)) = true →
      ((∀ d ∈ x.descs, ¬ covered d.kind) → exec (.fence t f) s = ran id) ∧
      (∀ d ∈ x.descs, covered d.kind → ∃ ids, d.id ∈ ids ∧ exec (.fence t f) s = ran (waits (.fence ids)))) ∧
    (x.st = .waiting → (s.rgn (tileRegion t)).stopped = false → (s.part x.partition).standing = false →
      (∀ c v, x.wait = some (.counter c v) → (x.rc c - v).toNat < 2 ^ 31 →
        exec (.waitcRelease t) s = .next (s.updTile t passes)) ∧
      (∀ v d, x.wait = some (.jobTime v d) → v.toNat ≤ jt.toNat →
        exec (.waitjtRelease t) s = .next (s.updTile t fun y => passes (y.ws d 0))) ∧
      (∀ ids, x.wait = some (.fence ids) → (∀ d ∈ x.descs, d.id ∉ ids) →
        exec (.fenceRelease t) s = .next (s.updTile t passes)))

/-- R121, R329, R330, energy tokens: in the classic regime EBLK and EWAIT pass; in the adaptive regime an EBLK or EWAIT
that its cluster can pay takes its cost, EBLK else branches and EWAIT else waits; the oldest waiting EWAIT of a cluster
is granted its tokens. A cost above eight grants counts as eight grants. -/
def Obligations.EnergyBlocksAndTokens : Prop :=
  ∀ (s : State) (t : Nat) (f : Fields),
    let x := s.tile t
    let ran := s.ran t none 1
    let adaptive := (s.part x.partition).adaptive
    let paid := fun (cost : Nat) (u : State) => u.updRgn (tileRegion t) fun r =>
      { r with balance := mupd 0 r.balance (s.physCluster t) (· - Nat.min cost (8 * r.grant)) }
    let cost := f.low.toNat % 65536
    let off := 8 * sext 16 (f.low.toNat / 65536)
    (s.canIssue t f none [] → iForm {} f = true →
      (adaptive = false → exec (.eblk t f) s = .next (ran id)) ∧
      (adaptive = true → s.affords t cost = true → exec (.eblk t f) s = .next (paid cost (ran id))) ∧
      (adaptive = true → s.affords t cost = false →
        exec (.eblk t f) s = .next (ran fun y => { y with pc := ((x.pc + off) % 2 ^ 64).toNat }))) ∧
    (s.canIssue t f none [] → rForm { imm16 := true } f = true →
      (adaptive = false → exec (.ewait t f) s = .next (ran id)) ∧
      (adaptive = true → s.affords t f.imm16 = true → exec (.ewait t f) s = .next (paid f.imm16 (ran id))) ∧
      (adaptive = true → s.affords t f.imm16 = false → exec (.ewait t f) s = .next (ran fun y =>
        { y with pc := x.pc, st := .waiting, wait := some (.tokens f.imm16 (s.rgn (tileRegion t)).cycles) }))) ∧
    (∀ k need since, s.oldestWaiter (s.tokenWaiters (k / 16) (k % 16)) = some (t, need, since) →
      (s.rgn (k / 16)).grant ≠ 0 → Nat.min need (8 * (s.rgn (k / 16)).grant) ≤ s.balanceOf t → (s.waitOf t).isSome →
      exec (.ewaitGrant k) s = .next ((paid need s).updTile t fun y =>
        { y with pc := y.pc + 8, st := .running, wait := none }))

/-- R35 to R38, R114, R115: DMA and DMAJ copy the descriptor's four words at issue; one that is timed for later is held,
a local copy begins, another asks for an agent entry; one that may not be sent ends at once as NOT_PERMITTED and is
counted. A bad descriptor faults the tile. CSET and CRD write and read a counter. -/
def Obligations.DescriptorIssueAndCounters : Prop :=
  ∀ (s : State) (t : Nat) (f : Fields),
    let x := s.tile t
    let a := effAddr f x
    let w := fun i => BitVec.ofNat 64 (leNat (x.rmem (a + 8 * i) 8))
    let now := s.stnHt (tileStation t)
    let own := decide (x.ownAgents < 8) && !x.entryWaited
    let joff : W32 := BitVec.ofNat 32 (s.part x.partition).joff.toNat
    let issued := fun (c : Instr) (job : Bool) =>
      let d0 : Desc := { id := x.nextId, addr := a, w0 := w 0, w1 := w 1, w2 := w 2, w3 := w 3 }
      let d := { d0 with jobRelease := if job && d0.timed then some d0.releaseHt else none }
      let release := if job then d.releaseHt + joff else d.releaseHt
      (descOk d = true → s.descRefused x t d = false → ∃ u, exec c s = .next u ∧
        (u.tile t).descs = x.descs ++ [{ d with
          stage := if d.timed && older (ht32 now) release then .held release
            else if d.kind = 0 then .copying 0 else if own then .ready now else .waitEntry now
          agent := !(d.timed && older (ht32 now) release) && d.kind != 0 && own }] ∧
        (u.tile t).pc = x.pc + 8 ∧ (u.tile t).sram = x.sram ∧ (u.tile t).s = x.s) ∧
      (descOk d = true → s.descRefused x t d = true → ∃ u, exec c s = .next u ∧
        (u.tile t).rc d.counter = x.rc d.counter + 1 ∧ (u.tile t).failCnt = satInc 65535 x.failCnt ∧
        (u.tile t).rmem (a + 31) 1 = [St.notPermitted]) ∧
      (descOk d = false → ∃ u, exec c s = .next u ∧ (u.tile t).st = .faulted ∧ (u.tile t).cause = .badDescriptor ∧
        (u.tile t).pc = x.pc)
    (s.canIssue t f none [f.an] → iForm { a := true } f = true → x.descs.length < 256 → a % 32 = 0 → a + 32 ≤ 262144 →
      x.badWord a 32 = none → issued (.dma t f) false ∧ issued (.dmaj t f) true) ∧
    (s.canIssue t f none [f.an] → (rForm usesDA f && decide (f.dn < 16)) = true →
      exec (.cset t f) s = .next (s.ran t none 1 (·.wc f.dn ((x.rs f.an).setWidth 32)))) ∧
    (s.canIssue t f none [f.dn] → (rForm usesDA f && decide (f.an < 16)) = true →
      exec (.crd t f) s = .next (s.ran t none 1 (·.ws f.dn ((x.rc f.an).setWidth 64))))

/-- R44 to R47, R122, the token sampler: SAMPLE takes the parameter block; a second SAMPLE stalls; a block that R47
rejects gives token 0xFFFFFFFF and probability 0 with INVALID; mode 1 stores the K largest candidates and their number. -/
def Obligations.TokenSampler : Prop :=
  ∀ (s : State) (t : Nat) (f : Fields),
    let x := s.tile t
    let a := effAddr f x
    (s.issuing t = true → (x.fetchOk = true) → iForm usesDA f = true → x.sampler.isSome = true →
      exec (.sample t f) s = .next s) ∧
    (s.canIssue t f none [f.dn, f.an] → iForm usesDA f = true → x.sampler = none → a % 32 = 0 → a + 32 ≤ 262144 →
      x.badWord a 32 = none → exec (.sample t f) s = .next (s.ran t none 1 fun y =>
        { y.noteCorr a 32 with sampler := some { sd := f.dn, block := x.rmem a 32 } })) ∧
    (∀ r, x.sampler = some r → s.gated t = false →
      let p := sampPar r.block
      let pair := fun (i v : Nat) => leBytes 4 i ++ leBytes 4 v
      (p.rejected = true → p.dst % 8 = 0 → p.dst + 8 ≤ 262144 → x.badPartial p.dst 8 = none →
        ∃ u, exec (.sampleDone t) s = .next u ∧ (u.tile t).rmem p.dst 8 = pair 0xFFFFFFFF 0 ∧
          (u.tile t).flags = ((x.orFlags fINVALID).notePart p.dst 8).flags ∧ (u.tile t).sampler = none ∧
          (r.sd ≠ 0 → (u.tile t).rs r.sd = 0xFFFFFFFF)) ∧
      (p.rejected = false → p.mode = 1 → p.src % 64 = 0 → p.src + p.inBytes ≤ 262144 → x.badWord p.src p.inBytes = none →
        let best := topCands p.adjusted.1 ((p.cands p.adjusted.2.2.1 (x.rmem p.src p.inBytes)).map (·.1))
        p.dst % 8 = 0 → p.dst + 8 * best.length ≤ 262144 → x.badPartial p.dst (8 * best.length) = none →
        ∃ u, exec (.sampleDone t) s = .next u ∧
          (u.tile t).rmem p.dst (8 * best.length) = (best.map fun c => pair c.1 c.2).flatten ∧
          (r.sd ≠ 0 → (u.tile t).rs r.sd = BitVec.ofNat 64 best.length)))

/-- R38, R39, R40, R308, R310, R513, the DMA engine: a local copy moves one destination line at a time and ends with DONE; a held
descriptor is released at its instant; neither goes on while the region's clock is stopped for a step; of those that wait in a region the first for which an entry is free takes it, one
of its tile's own eight or else a shared one; an ended one writes STATUS and DONE, is counted once and leaves the table. -/
def Obligations.DescriptorProgress : Prop :=
  ∀ (s : State) (t : Nat) (d : Desc),
    let x := s.tile t
    let now := s.stnHt (tileStation t)
    let staged := fun (g : DStage) (agent : Bool) => x.setDesc { d with stage := g, agent := agent, shared := false }
    ((s.rgn (tileRegion t)).stands = true → x.desc d.id = some d → (∃ r, d.stage = .held r) ∨ (∃ n, d.stage = .copying n) →
      exec (.timedRelease t d.id) s = .next s ∧ exec (.localCopyLine t d.id) s = .next s) ∧
    ((s.rgn (tileRegion t)).stands = false → x.desc d.id = some d →
      (∀ n, d.stage = .copying n →
        let o := copyStart d n
        let k := copyEnd d n - o
        x.badWord (d.local_ + o) k = none → x.badPartial (d.remote + o) k = none →
        ∃ u, exec (.localCopyLine t d.id) s = .next u ∧
          (u.tile t).rmem (d.remote + o) k = x.rmem (d.local_ + o) k ∧
          (∀ b, b < d.remote + o ∨ d.remote + o + k ≤ b → mget 0 (u.tile t).sram b = mget 0 x.sram b) ∧
          (u.tile t).descs = (x.setDesc { d with
            stage := if copyLines d ≤ n + 1 then .ended St.done else .copying (n + 1) }).descs) ∧
      (∀ r, d.stage = .held r → older (ht32 now) r = false → (s.part x.partition).standing = false →
        (d.kind = 0 → exec (.timedRelease t d.id) s = .next (s.setTile t (x.setDesc { d with stage := .copying 0 }))) ∧
        (d.kind ≠ 0 → x.ownAgents < 8 → x.entryWaited = false →
          exec (.timedRelease t d.id) s = .next (s.setTile t (staged (.ready now) true)))) ∧
      (∀ st, d.stage = .ended st → ∃ u, exec (.descComplete t d.id) s = .next u ∧
        (u.tile t).rc d.counter = x.rc d.counter + 1 ∧ (u.tile t).rmem (d.addr + 31) 1 = [st] ∧
        (u.tile t).descs = x.descs.filter (·.id != d.id) ∧ (statusOk st = true → (u.tile t).flags = (x.notePart (d.addr + 24) 8).flags) ∧
        (∀ b, b < d.addr + 24 ∨ d.addr + 32 ≤ b → mget 0 (u.tile t).sram b = mget 0 x.sram b))) ∧
    (∀ r since, s.firstWaiting ((s.waiting r).filter fun w => s.entryFree r w.1) = some (t, d, since) →
      exec (.agentEntryGrant r) s = .next (s.setTile t (x.setDesc
        { d with stage := .ready now, agent := true, shared := decide (8 ≤ x.ownAgents) })))

/-- R32, R184, R191, R204, R240, R243, R270, items: one packet of the first ready item of a VC enters the router's local
input when it has room, where no response of the tile waits or the item has PRI; an item whose response does not come ends with TIMEOUT, a resendable atomic is sent once more and
then ends with OUTCOME_UNKNOWN; a message that has overrun its span ends with TIMEOUT. -/
def Obligations.ItemInjectionAndTimeouts : Prop :=
  ∀ (s : State) (t : Nat) (d : Desc),
    let x := s.tile t
    (∀ vc, (s.rgn (tileRegion t)).stands = false → s.nextItem t vc = some d → (s.tileRsp t vc = none ∨ d.pri = true) →
      d.kind = 2 → d.op ≠ 0x48 →
      s.hasRoom (s.tileRouter t) 0 vc (ceilDiv (40 + d.len) 64) = true → d.sentPkts = 0 → d.retry = false →
      x.badWord d.local_ d.len = none →
      ∃ u, exec (.dmaInject t vc) s = .next u ∧ u.fabric = (s.putPkt (.router (s.tileRouter t) 0)
          (s.descPacket t x { d with txid := x.txid } 0 (ht32 (s.stnHt (tileStation t))) (x.rmem d.local_ d.len) false)).fabric ∧
        (u.tile t).txid = x.txid + 1 ∧ (u.tile t).sram = x.sram) ∧
    (x.desc d.id = some d → x.awaitsRsp d = true → d.lastHt + d.tmo ≤ s.ht →
      let resend := d.kind = 4 ∧ d.resend = true ∧ d.retry = false ∧ x.st ≠ .fenced
      (resend → exec (.itemTimeout t d.id) s =
        .next (s.setTile t (x.setDesc { d with retry := true, sentPkts := 0, stage := .ready s.ht }))) ∧
      (¬ resend → exec (.itemTimeout t d.id) s =
        .next (s.setTile t (x.endDesc d.id (if d.retry then St.outcomeUnknown else St.timeout))))) ∧
    (∀ r, x.desc d.id = some d → d.stage = .ready r → d.kind = 3 → 0 < d.sentPkts →
      d.firstHt + 1000 * s.fabric.msgSpan < s.ht →
      exec (.msgSpanTimeout t d.id) s = .next (s.setTile t (x.endDesc d.id St.timeout)))

/-- R23, R24, R33, R56, R57, R64, R512, housekeeping of a tile: a line fill, the next instruction of a unit's queue, the
scrubber's pass over a line (forced or not), a fencing request and its end, the clearing of the error counters. -/
def Obligations.TileHousekeeping : Prop :=
  ∀ (s : State) (t : Nat),
    let x := s.tile t
    (∀ a parity, s.issuing t = true → x.fetchLo ≤ a → a < x.fetchHi → x.badWord (a / 64 * 64) 64 = none →
      ∃ u, exec (.ibufMissFill t a parity) s = .next u ∧
        mget {} (u.tile t).ibuf (a / 64 % 256) = { line := a / 64, data := BitVec.ofNat 512 (leNat (x.rmem (a / 64 * 64) 64)) } ∧
        (parity = true → (u.tile t).flags &&& fIBUF_PAR = fIBUF_PAR) ∧ (u.tile t).pc = x.pc) ∧
    (∀ v, exec (.unitQueueStart t v) s = .next (s.updTile t fun y => y.setUnit v (y.unit v).startNext)) ∧
    (∀ c stale, (c = .scrubLine t stale ∨ c = .scrubForced t stale) → x.st ≠ .retention →
      (s.rgn (tileRegion t)).stopped = false → x.badWord (x.scrub * 64) 64 = none →
      ∃ u, exec c s = .next u ∧ (u.tile t).scrub = (x.scrub + 1) % 4096 ∧ (u.tile t).sram = x.sram ∧
        (u.tile t).soft = if stale then x.soft else x.soft.filter fun w => w / 8 != x.scrub) ∧
    (∀ w v, v.getLsbD 0 = true → s.fenceAllowed t = true → x.st = .running →
      ∃ u, exec (.fenceReq w t v) s = .next u ∧ (u.tile t).st = .fencing ∧ (u.tile t).draining = true ∧
        (u.tile t).fenceReq = true) ∧
    (x.draining = true → x.descs = [] → (x.st = .fencing ∨ x.st = .faulted) →
      ∃ u, exec (.tileFenceComplete t) s = .next u ∧ (u.tile t).st = .fenced ∧ (u.tile t).cause = x.cause) ∧
    (∀ w v, v.getLsbD 2 = true → exec (.eccClr w t v) s = .next (s.updTile t fun y =>
      { y with corrCnt := 0, uncorrCnt := 0, eccAddr := none }))

/-- R226, R231, R254, loads, stores and atomics at their target station: a request that a check refuses is counted and
answered with that status; a load that passes is answered with the bytes of its range, of a tile or of module memory; a
store that passes opens a combining entry at the present instant for the line it covers. -/
def Obligations.RequestsAtTheirTargetStation : Prop :=
  ∀ (s : State) (n : Nat) (f : Flight),
    let p := f.pkt
    let taken := fun (k : Nat) => s.takeDest n (fun q => q.kind == k) = some f
    let gone := s.dropPkt f.seq
    (∀ st code, s.checkReq n p = .refuse st code →
      let refused := Host.Outcome.next (if st = St.destFenced then (gone.countRefusal n p st code).replyAt n p st []
        else (gone.countRefusal n p st code).answer n p st [])
      (taken kLOAD → exec (.loadApply n) s = refused) ∧ (taken kSTORE → exec (.storeAccept n) s = refused) ∧
      ((s.stn n).atomicWait = [] → taken kATOMIC → exec (.atomicApply n) s = refused)) ∧
    (∀ w, s.checkReq n p = .pass w →
      let a := winAddr w p.va
      let t := destTile p.dst
      let x := s.tile t
      (taken kLOAD → wKind w = 1 → x.combine = [] → x.poison = [] → exec (.loadApply n) s =
        .next ((gone.setTile t (x.noteCorr a (Packet.span p))).replyAt n p St.done (x.rmem a (Packet.span p)))) ∧
      (taken kLOAD → wKind w = 0 → (s.stn n).combine = [] → s.mem.hbmPoison = [] →
        s.retraining (s.mem.channelOf a) = false → exec (.loadApply n) s =
        .next ((gone.hbmCorr a (Packet.span p)).answer n p St.done (s.mem.read a (Packet.span p)))) ∧
      (∀ l bs, taken kSTORE → wKind w = 1 → cKind p.dst = 0 → x.combine = [] → s.behindAtomic n p w (·.before f) = false →
        linePieces a p.payload = [(l, bs)] → ∃ u, exec (.storeAccept n) s = .next u ∧
        (u.tile t).combine = [{ line := l, opened := s.ht, stores := [(p, St.done, bs)] }] ∧
        (u.tile t).sram = x.sram ∧ u.fabric = gone.fabric))

/-- R233, R234, R385: the oldest entry whose 32 ns have passed leaves its table and is written. An entry of a tile, each of
whose stores gives bytes that lie side by side: where the tile holds no uncorrectable word every byte of the tile's SRAM is the last that the entry's stores give it, and keeps
its value where they give none; no byte outside that line, and no other tile, changes; a store that had no other line is
answered DONE. An entry of module memory: no tile changes. Where no entry is due nothing changes. -/
def Obligations.CombiningEntryIsWritten : Prop :=
  ∀ (s : State) (n : Nat),
    let due := oldestDue s.ht ((s.stn n).combine.filter fun c => !s.retraining (s.mem.channelOf (c.line * 64)))
    (∀ (t : Nat) (c : Combine), due = none → s.dueTileEntry n = some (t, c) →
      (∀ st ∈ c.stores, cKind st.1.dst = 0 ∧ destTile st.1.dst = t ∧ (∃ a, st.2.2.map (·.1) = List.range' a st.2.2.length) ∧ ∀ b ∈ st.2.2, b.1 < 64) →
      (s.stn n).msgs = [] →
      ∃ u, exec (.combineEntryWrite n) s = .next u ∧ (∀ e ∈ (u.tile t).combine, e.line ≠ c.line) ∧
        ((s.tile t).poison = [] → ∀ b, mget 0 (u.tile t).sram b = (overlay [c] b).getD (mget 0 (s.tile t).sram b)) ∧
        (∀ p bs, (s.tile t).poison = [] → c.stores = [(p, St.done, bs)] → p.kind = kSTORE →
          (∀ e ∈ (s.tile t).combine, e.line ≠ c.line → ∀ x ∈ e.stores, sameReq x.1 p = false) →
          u.fabric = (s.replyAt n p St.done []).fabric) ∧
        (∀ b, b / 64 ≠ c.line → mget 0 (u.tile t).sram b = mget 0 (s.tile t).sram b) ∧
        (∀ k, k ≠ t → u.tile k = s.tile k)) ∧
    (∀ c : Combine, due = some c → (∀ t d, s.dueTileEntry n = some (t, d) → c.opened ≤ d.opened) →
      (∀ st ∈ c.stores, cKind st.1.dst ≠ 0) → (s.stn n).msgs = [] →
      ∃ u, exec (.combineEntryWrite n) s = .next u ∧ (∀ e ∈ (u.stn n).combine, e.line ≠ c.line) ∧
        (∀ k, u.tile k = s.tile k)) ∧
    (due = none → s.dueTileEntry n = none → exec (.combineEntryWrite n) s = .next s)

/-- R235 to R237, R242 to R247, atomics: the operation is applied once, its prior value answered where it returns one and
an entry kept until ISSUE_HT + W; a second arrival is answered REPLAYED from the entry and changes nothing; entries leave
at their end, a waiting atomic that has become stale is discarded or, as a retry, answered OUTCOME_UNKNOWN. -/
def Obligations.AtomicsAreAppliedOnce : Prop :=
  ∀ (s : State) (n : Nat) (f : Flight) (w : BitVec 256),
    let p := f.pkt
    let gone := s.dropPkt f.seq
    let known := (s.stn n).mire.find? fun e => e.src == p.src && e.txid == p.txid
    let a := winAddr w p.va
    let t := destTile p.dst
    let x := s.tile t
    let k := Packet.width p
    let prior := x.rmem a k
    let back := if p.op = 1 ∨ p.op = 10 ∨ p.op = 11 then [] else prior
    ((s.stn n).atomicWait = [] → s.takeDest n (fun q => q.kind == kATOMIC) = some f → s.checkReq n p = .pass w →
      s.lineOpen n p w = false →
      (∀ e, known = some e → exec (.atomicApply n) s = .next ((gone.updStn n fun y =>
        { y with replay := (y.replay + 1) % 2 ^ 32 }).answer n p St.replayed e.result)) ∧
      (known = none → s.atomicStale n p = false → (s.stn n).mire.length < 65536 → wKind w = 1 → x.badWord a k = none →
        let y := if k = 4 then x else x.noteCorr a k
        let r := atomicNew p prior
        exec (.atomicApply n) s = .next (((gone.setTile t ((y.wmem a r.1).orFlags r.2)).mireInsert n p back).replyAt n p
          St.done back))) ∧
    (∀ old v : Nat, atomicLaneOp 2 8 old v = ((old + v) % 2 ^ 64, 0) ∧ atomicLaneOp 5 8 old v = (v, 0) ∧
      atomicLaneOp 7 8 old v = (old &&& v, 0) ∧ atomicLaneOp 8 8 old v = (old ||| v, 0) ∧
      atomicLaneOp 9 8 old v = (old ^^^ v, 0)) ∧
    (p.op = 6 → p.payload.take k = prior → atomicNew p prior = (p.payload.drop k, 0)) ∧
    (p.op = 6 → p.payload.take k ≠ prior → atomicNew p prior = (prior, 0)) ∧
    (exec (.mireEntryExpire n) s = .next (s.updStn n fun y =>
      { y with mire := y.mire.filter fun e => s.stnHt n < e.expires })) ∧
    (∀ e, (s.stn n).atomicWait.find? (fun e => s.atomicStale n e.1) = some e →
      let rest := s.updStn n fun y => { y with atomicWait := y.atomicWait.filter (· != e) }
      exec (.atomicStaleInWait n) s = .next (if e.1.retry then
        (rest.updStn n fun y => { y with unknown := satInc 65535 y.unknown }).answer n e.1 St.outcomeUnknown []
      else rest.updStn n fun y => { y with staleAtomic := satInc 65535 y.staleAtomic })) ∧
    (∃ u, exec (.chipletStampExpire n) s = .next u ∧
      ∀ e, e ∈ u.fabric.stamps ↔ e ∈ s.fabric.stamps ∧ (e.1 = n → s.ht < e.2.expires))

/-- R40, R210, R231, R232, R235, R514, responses at a tile's station: the item ends with the status that came; a load or
an atomic that is DONE has its data written at LOCAL_ADDR first; an answer of the wrong length ends with INTERNAL; a
response whose item is gone is counted as late and changes nothing else. -/
def Obligations.ResponsesEndTheirItem : Prop :=
  ∀ (s : State) (n : Nat) (f : Flight),
    let p := f.pkt
    let t := destTile p.dst
    let gone := s.dropPkt f.seq
    let x := s.tile t
    let taken := fun (k : Nat) => s.takeDest n (fun q => q.kind == k) = some f
    let late := Host.Outcome.next (gone.updStn n fun y => { y with lateRsp := satInc 65535 y.lateRsp })
    let ends := fun (d : Desc) (y : Tile) (st : Byte) => Host.Outcome.next (gone.setTile t (y.endDesc d.id st))
    cKind p.dst = 0 →
    (∀ d, x.st ≠ .fenced →
      (taken kLOAD_RSP → x.itemOf 1 p.txid = some d →
        (statusIn p.op ≠ St.done → exec (.loadRspArrive n) s = ends d x (statusIn p.op)) ∧
        (statusIn p.op = St.done → p.payload.length ≠ d.len → exec (.loadRspArrive n) s = ends d x St.internal) ∧
        (statusIn p.op = St.done → p.payload.length = d.len → x.badPartial d.local_ d.len = none →
          exec (.loadRspArrive n) s = ends d (x.wmem d.local_ p.payload) St.done)) ∧
      (taken kSTORE_ACK → x.itemOf 2 p.txid = some d → exec (.storeAckArrive n) s = ends d x (statusIn p.op)) ∧
      (taken kATOMIC_RSP → x.itemOf 4 p.txid = some d →
        (statusOk (statusIn p.op) = false → exec (.atomicRspArrive n) s = ends d x (statusIn p.op)) ∧
        (statusOk (statusIn p.op) = true → atomicReturns d.op = true → p.payload.length = d.len →
          x.badPartial d.local_ d.len = none →
          exec (.atomicRspArrive n) s = ends d (x.wmem d.local_ p.payload) (statusIn p.op))) ∧
      (taken kMSG_ACK → x.itemOf 3 p.txid = some d → exec (.msgAckArrive n) s = ends d x (statusIn p.op))) ∧
    (x.st = .fenced → (taken kLOAD_RSP → exec (.loadRspArrive n) s = late) ∧
      (taken kSTORE_ACK → exec (.storeAckArrive n) s = late) ∧ (taken kATOMIC_RSP → exec (.atomicRspArrive n) s = late) ∧
      (taken kMSG_ACK → exec (.msgAckArrive n) s = late))

/-- R49, R50, R54, R143, R184, R190, R194, R195, R200, R208, R308, R389, packets on their way. A packet of VC 2, while VC 2 has link time left in
the window: at a router's output it moves to the input or bond port where the output leads; across a pair's link it
reaches its last station and holds the credit of the place that it was received at, and a packet whose link time had begun
when injection stopped still does; a plane that is closed or quiet carries nothing. Across a bond port it reaches its station, or going down its region's router. A packet for
another station of the module starts on the link; one for its own station goes down its region's bond port or is ready at
the station. A packet that comes across a bond port with a wrong CRC is discarded and counted; one from the I/O die, or one that
the stream of a chiplet ends, is stamped and enters at its station. A faulty region router is marked and loses what it holds; a faulty tile router stops
its running tile, with cause ROUTER. -/
def Obligations.PacketsMoveAndAreChecked : Prop :=
  ∀ (s : State) (f : Flight),
    let p := f.pkt
    let movedVia := fun (u : State) (pl : Place) (via : Option Nat) =>
      u.fabric.pkts = s.fabric.pkts.filter (·.seq != f.seq) ++ [{ seq := s.fabric.seq, place := pl, pkt := p, via := via }]
    let share := fun (k bytes : Nat) =>
      (if (s.arb k).window = s.ht / 1000 then (s.arb k).vc2Bytes else 0) * 8 < bytes
    let sound := crcOk p = true ∧ malformed p = false
    (∀ r port, r ≠ .station26 → s.routerBad r = false → (s.rgn (routerRegion r)).boot ≠ .off → (s.rgn (routerRegion r)).stands = false →
      s.candidate r port 2 = some f → cKind p.dst ≠ 2 → s.placeBad (portLeads r port) = false → sound →
      share (routerKey r * 32 + port) (s.outBytes r port) →
      ∃ u, exec (.routerForward r port 2) s = .next u ∧ movedVia u (portLeads r port) f.via ∧ u.tiles = s.tiles) ∧
    (∀ n, s.pickPkt (fun g => decide (g.place = .entry n) && s.delayOver n g.pkt &&
        (s.planeOpen || s.staysHere n g.pkt)) = some f →
      cModule p.dst = s.cfg.module → cKind p.dst = 0 → cKind p.src ≠ 5 → p.vc = 2 → s.endpointOk p.dst = true → f.via = none →
      (s.stn n).tstVc = [] →
      (cStation p.dst = n → ∃ u, exec (.stationInject n) s = .next u ∧
        movedVia u (if s.goesDown p then .bondDn (s.downPort p) else .dest n) none) ∧
      (cStation p.dst ≠ n → ∃ u, exec (.stationInject n) s = .next u ∧
        movedVia u (.link n (cStation p.dst) (cStation p.dst)) none)) ∧
    (∀ src dst, f.place = .link src dst dst → cModule p.dst = s.cfg.module → cKind p.dst = 0 →
      s.fabric.planeOpen = true → s.fabric.quiet = false → s.pairOpen src dst ≠ [] →
      (∀ c ∈ s.pairOpen src dst, (s.stn dst).unlocked.contains c = false) → sound →
      (s.fabric.injectStop = false ∧ s.linkHead src dst 2 = some f ∧
          share (linkKey src dst) (6250 * (s.pairOpen src dst).length) ∨
        s.fabric.injectStop = true ∧ s.pickPkt (fun g => s.fabric.begun.contains g.seq && (match g.place with
          | .link a b _ => a == src && b == dst
          | _ => false)) = some f) →
      ∃ u, exec (.stationPktReceive (.plane src dst [])) s = .next u ∧
        let new : Flight := { seq := s.fabric.seq, pkt := p, place := if s.goesDown p then .bondDn (s.downPort p) else .dest dst }
        u.fabric.pkts = (s.fabric.pkts.filter (fun g : Flight => g.seq != f.seq) ++ [new]).map fun g => match g.place with
          | .entry _ => g
          | _ => if s.fabric.seq ≤ g.seq then { g with credit := linkKey src dst } else g) ∧
    (∀ src dst errs, s.fabric.planeOpen = false ∨ s.fabric.quiet = true →
      exec (.stationPktReceive (.plane src dst errs)) s = .next s) ∧
    (∀ r, s.bondUp r = true → (s.bondBuffer r 2).head? = some f →
      share (2 ^ 29 + r) (bondBytes (s.rgn r).bond.widthUp) →
      (∀ errs, crcOk (damaged p errs) = false → ∃ u, exec (.stationPktReceive (.bondPort r errs)) s = .next u ∧
        u.fabric.pkts = s.fabric.pkts.filter (·.seq != f.seq) ∧
        (u.stn (regionStation r)).pktCrc = satInc 65535 (s.stn (regionStation r)).pktCrc) ∧
      (sound → ∃ u, exec (.stationPktReceive (.bondPort r [])) s = .next u ∧ movedVia u (.entry (regionStation r)) none)) ∧
    (∀ r, s.bondDn r = true → (s.rgn r).stands = false → s.downHead r 2 = some f → (s.rgn r).badRegionRouter = false → sound →
      share (2 ^ 29 + 2 ^ 10 + r) (bondBytes (s.rgn r).bond.widthDn) →
      ∃ u, exec (.stationPktReceive (.bondDown r [])) s = .next u ∧ movedVia u (.router (.region r) 16) f.via) ∧
    (sound → cModule p.src = s.cfg.module → cStation p.src = 26 →
      exec (.stationPktReceive (.ioDie p)) s = .next (s.putPkt (.entry 26) (setIssue p (ht32 (s.stnHt 26))))) ∧
    (∀ n data rest, (s.site n).st = 3 → unpack (s.site n).rx data = ([p], rest) → sound → cModule p.src = s.cfg.module → cStation p.src = n → p.job ∈ (s.site n).jobs →
      kindIsRsp p.kind = false → p.kind ≠ kATOMIC →
      exec (.stationPktReceive (.ucie n data)) s =
        .next ((s.setSite n { s.site n with rx := rest }).putPkt (.entry n) (setIssue p (ht32 (s.stnHt n))))) ∧
    (∀ rk, ∃ u, exec (.routerFault (.region rk)) s = .next u ∧ (u.rgn rk).badRegionRouter = true ∧
      ∀ g, g ∈ u.fabric.pkts ↔ g ∈ s.fabric.pkts ∧ ∀ i, g.place ≠ .router (.region rk) i) ∧
    (∀ rk site t, s.tileAtSite rk site = some t → (s.tile t).st = .running →
      ∃ u, exec (.routerFault (.tile rk site)) s = .next u ∧ (u.tile t).st = .faulted ∧ (u.tile t).cause = .router ∧
        (u.tile t).s = (s.tile t).s)

/-- R136, R143, R172, R204 to R207, R358: a receiver's loss of lock is counted once, unless the
maintenance interval runs, and ends with its lock; from 63,000 ns no
new packet starts and from 63,040 ns the links are quiet; a held packet leaves on its hall port at its instant; a packet
of a message that is accepted is counted in its entry; an entry that has outlived its span is freed and counted, and
counts an event of its tile as failed. -/
def Obligations.MaintenanceTimedPacketsAndMessages : Prop :=
  ∀ (s : State) (n : Nat),
    (∀ c, (s.stn n).unlocked.contains c = false → exec (.pktRxLossOfLock n c) s = .next (s.updStn n fun x =>
      { x with
        unlocked := addSorted c x.unlocked
        losPkt := if s.time.st ≠ .free ∧ inMaint s.ht = true then x.losPkt else satInc 65535 x.losPkt })) ∧
    (∀ c, (s.stn n).unlocked.contains c = true → ∃ u, exec (.pktRxLossOfLock n c) s = .next u ∧ u.stn n = s.stn n) ∧
    (∀ c, ∃ u, exec (.pktRxLockRegain n c) s = .next u ∧ c ∉ (u.stn n).unlocked ∧
      ∀ k, k ≠ c → (k ∈ (u.stn n).unlocked ↔ k ∈ (s.stn n).unlocked)) ∧
    (63000 ≤ s.ht % 64000 → ∃ u, exec .maintInjectStop s = .next u ∧ u.fabric.injectStop = true ∧
      u.fabric.quiet = s.fabric.quiet) ∧
    (63040 ≤ s.ht % 64000 → ∃ u, exec .maintQuietStart s = .next u ∧ u.fabric.quiet = true ∧ u.fabric.injectStop = true) ∧
    (∀ port f, firstFlight (s.fabric.pkts.filter fun g => (match g.place with
          | .hallHeld h _ => decide (h ≤ s.ht)
          | _ => false) && s.hallPortOf g.pkt == some port) = some f → (s.stn 26).tstVc = [] →
      ∃ u, exec (.hallTimedRelease port) s = .next u ∧ u.out = s.out ++ [.hallTx port f.pkt] ∧
        u.fabric.pkts = s.fabric.pkts.filter (·.seq != f.seq)) ∧
    (∀ f e w s', s.takeDest n (fun q => q.kind == kMSG || q.kind == kGNG_PUSH) = some f → f.pkt.kind = kMSG →
      cKind f.pkt.dst = 0 → s.checkMsg n f.pkt = .pass w → wKind w = 1 → f.pkt.last = false →
      s.behindAtomic n f.pkt w (·.before f) = false → (s.dropPkt f.seq).accept n f.pkt w = some s' → (s'.stn n).msgs = [e] →
      (s.stn n).msgs = [e] → e.src = f.pkt.src → e.txid = f.pkt.txid →
      e.got + 1 < e.count → e.held = none →
      ∃ u, exec (.msgPacketArrive n) s = .next u ∧ (u.stn n).msgs = [{ e with
          got := e.got + 1
          minHt := if older f.pkt.issueHt e.minHt then f.pkt.issueHt else e.minHt
          status := worseStatus e.status St.done }]) ∧
    (∀ e, (s.stn n).msgs.find? (fun e => e.got < e.count && decide ((s.fabric.msgSpan + s.fabric.ageMax) * 1000 <
        pktAge (ht32 (s.stnHt n)) e.minHt)) = some e →
      ∃ u, exec (.msgEntryExpire n) s = .next u ∧ (u.stn n).msgExp = satInc 65535 (s.stn n).msgExp ∧
        (∀ g, g ∈ (u.stn n).msgs ↔ g ∈ (s.stn n).msgs ∧ ¬ (g.src = e.src ∧ g.txid = e.txid)) ∧
        (e.notify = true → cKind e.dst = 0 → (s.tile (destTile e.dst)).st ≠ .fenced →
          (u.tile (destTile e.dst)).rc e.ctr = (s.tile (destTile e.dst)).rc e.ctr + 1 ∧
          (u.tile (destTile e.dst)).failCnt = satInc 65535 (s.tile (destTile e.dst)).failCnt))

/-- R211 to R216, R219, R369, hall ports and the Gingham map: codewords and the packets that end in them, leaving and entering service,
changes of a port's configuration and of its power; the map's sample, a row received, a stale row, the restart of the map
and of the packet counters. -/
def Obligations.HallPortsAndGinghamMap : Prop :=
  ∀ (s : State) (n : Nat),
    let h := s.hall n
    (∀ data pkts rest, h.enNow = true → unpack h.rx data = (pkts, rest) →
      ∃ u, exec (.hallCodewordReceive n .uncorrectable data) s = .next u ∧
      (u.hall n).rsUncorr = satInc 65535 h.rsUncorr ∧ (u.hall n).rx = none ∧
      (u.hall n).disc = satAdd 65535 h.disc (pkts.length + if rest = none ∨ rest = some [] then 0 else 1) ∧
      u.fabric.pkts = s.fabric.pkts) ∧
    (∀ data p rest, h.enNow = true → h.up = true → unpack h.rx data = ([p], rest) → crcOk p = true → malformed p = false →
      p.kind ≠ kTIME → exec (.hallCodewordReceive n .corrected data) s =
        .next ((s.setHall n { h with rx := rest, rsCorr := satInc 4294967295 h.rsCorr }).putPkt (.entry 26) p)) ∧
    (h.enNow = true → h.up = true →
      ∃ u, exec (.hallPortExit n 1) s = .next u ∧ (u.hall n).up = false ∧ (u.hall n).los = true ∧
        (u.hall n).down = satInc 65535 h.down) ∧
    (h.enNow = true → h.up = false → h.apr = false → s.safe.shared = false →
      (h.los = false → h.aligned = true → s.enterDue h = true → ∃ u, exec (.hallPortEnter n true true) s = .next u ∧
        (u.hall n).up = true ∧ (u.hall n).los = false ∧ (u.hall n).aligned = true) ∧
      (h.los = true → s.time.st ≠ .free → exec (.hallPortEnter n true true) s =
        .next (s.setHall n { h with los := false, aligned := true, readyHt := s.ht }))) ∧
    (s.nextInterval h.cfgHt = true → (∀ f ∈ s.fabric.pkts, ∀ m g b, f.place ≠ .hall m ∧ f.place ≠ .hallHeld g b) → exec (.hallPortCfgApply n) s = .next (s.setHall n
      (if h.en = false then { h with enNow := false, planeNow := h.plane, up := false, listed := false, apr := false }
       else if h.enNow = true ∨ s.safe.shared = true then { h with enNow := true, planeNow := h.plane }
       else { h with
         enNow := true, planeNow := h.plane, up := true, listed := true, los := false, aligned := true, uncorrHt := []
         readyHt := s.ht }))) ∧
    (h.enNow = true → h.los = true → exec (.aprReduce n) s = .next (s.setHall n { h with apr := true })) ∧
    (h.enNow = true → h.apr = true → s.safe.shared = false →
      exec (.aprProbe n true) s = .next (s.setHall n { h with
        apr := false, los := false
        readyHt := if h.aligned = true ∧ h.los = true then s.ht else h.readyHt })) ∧
    (s.ht % 10000 = 0 → s.time.st ≠ .free → s.fabric.planeOpen = true → s.fabric.gngPush = 0 → ∃ u, exec .gngSample s = .next u ∧
      u.fabric.samples = s.fabric.samples + 1) ∧
    (∀ d, n < 31 → d < 31 → d ≠ n → mget 0 ((s.sampleRow n).stn n).gng (31 * n + d) =
      (7 * mget 0 (s.stn n).gng (31 * n + d) + s.occupancy n d + 4) / 8) ∧
    (∀ src f j, s.takeDest n (fun p => p.kind == kGNG_ROW && cStation p.src == src) = some f → j < 31 →
      ∃ u, exec (.gngRowReceive n src) s = .next u ∧ mget 0 (u.stn n).gng (31 * src + j) = (nth 0 f.pkt.payload j).toNat ∧
        src ∉ (u.stn n).gngStale ∧ mget 0 (u.stn n).gngRowHt src = s.ht) ∧
    (∀ src, src ≠ n → mget 0 (s.stn n).gngRowHt src + 30000 ≤ s.ht → exec (.gngRowStale n src) s =
      .next (s.updStn n fun x => { x with gngStale := addSorted src x.gngStale })) ∧
    (∀ w v, v.getLsbD 1 = true → n < 31 → ∃ u, exec (.gngReset w v) s = .next u ∧ u.fabric.samples = 0 ∧ (u.stn n).gng = []) ∧
    (∀ w v, v.getLsbD 0 = true → n < 31 → ∃ u, exec (.pktCntClr w v) s = .next u ∧
      (u.stn n).discAge = 0 ∧ (u.stn n).discFmt = 0 ∧ (u.stn n).discNoent = 0 ∧ (u.stn n).msgExp = 0 ∧
      (u.stn n).lateRsp = 0 ∧ (u.stn n).adapt = 0 ∧ (u.stn n).pktCrc = (s.stn n).pktCrc ∧ (u.hall n).disc = 0 ∧
      (u.hall n).down = 0 ∧ (u.hall n).rsCorr = 0 ∧ (u.hall n).rsUncorr = 0)

/-- R132, R134, R135, R160, R162, R164 to R166, R380, circuits: a row that may be fed enters its burst; the crossbar is set
at the end of a slot; at a slot's start each live circuit has its burst, which starts where the crossbar is set for the
slot; the first row without light counts one loss; a row that has light is decoded and gives its burst each block
whose codeword decodes, at a seal against the mark and elsewhere unless it is marked empty; a codeword comes back as its block, and with any one bit wrong as its
block corrected; an item's status at its receiver by rows 1 to 4 and 6 of R164, and at a tile by row 5; a block lands in
its target tile, as its region's bond port carried it, unless that is fenced or a block of the item is poisoned. -/
def Obligations.CircuitsAreFedSentAndReceived : Prop :=
  ∀ (s : State) (n k row : Nat), s.time.st ≠ .free →
    (∀ h stream damage, row ≤ 44 →
      [s.ht / 250 * 250, s.ht / 250 * 250 + 250, s.ht / 250 * 250 + 500].find? (fun h => (s.feedable n k row h).isSome) = some h →
      ∃ u, exec (.circuitFeed n k ⟨row, stream, damage⟩) s = .next u ∧ ∃ b ∈ u.bursts, b.sameBurst n k h = true ∧ row ∈ b.rows) ∧
    (247 ≤ s.ht % 250 → framePos (s.ht / 250 * 250 + 250) < 63000 → s.deepNow = false → exec .crossbarSet s =
      .next { s with opt := { s.opt with crossbarFor := some (s.ht / 250 * 250 + 250) } }) ∧
    (s.ht % 250 = 0 → framePos s.ht < 63000 → (∀ b ∈ s.bursts, s.ht < b.slotHt + 500 ∧ (b.launched = true → b.slotHt ≠ s.ht)) →
      ∃ u, exec .circuitBurstSend s = .next u ∧ u.tiles = s.tiles ∧
        ∀ m j ge, m < 31 → j ∈ circuitIndices → s.liveTx m s.ht j = some ge →
          ∃ b ∈ u.bursts, b.sameBurst m j s.ht = true ∧ b.launched = (s.opt.crossbarFor == some s.ht)) ∧
    (∀ h ge errs damage, row ≤ 44 → s.rxSlot n k row = some (h, ge) → (s.findRx n k h).dark = false →
      ∃ u, exec (.circuitRowDecode n k row false ⟨errs, damage⟩) s = .next u ∧
        (u.stn n).losCkt = satInc 65535 (s.stn n).losCkt ∧ row ∈ (u.findRx n k h).rows ∧ (u.findRx n k h).dark = true) ∧
    (∀ h ge b errs damage, row ≤ 44 → s.rxSlot n k row = some (h, ge) → s.burstAt n k h = some b →
      (s.findRx n k h).dark = false →
      let r0 := s.settle b
      let seals := fun i => (r0.1.rxItems n ge.2).any fun x => x.seal == i
      let w := fun i => r0.2.codeword (r0.1.txItems r0.2.src r0.2.entry) i ^^^ errorMask errs i
      ∃ u, exec (.circuitRowDecode n k row true ⟨errs, damage⟩) s = .next u ∧ row ∈ (u.findRx n k h).rows ∧
        (u.findRx n k h).dark = false ∧
        ∀ i v c, i / 16 = row → (seals i = true ∨ isMarked (w i) = false) →
          decodeWord (if seals i = true then w i ^^^ emptyMark else w i) = .block v c →
          blockAt (u.findRx n k h).got i = some v) ∧
    (∀ v : BitVec 256, decodeWord (codewordOf v) = .block v false ∧
      ∀ i < 266, decodeWord (codewordOf v ^^^ oneBit i) = .block v true) ∧
    (∀ (b : Burst) (r : RxBurst) (lost : Bool) (body : Nat) (x : CItem),
      let st := itemStatus b r lost body x
      let poisoned := ∃ i ∈ r.poisoned, x.first ≤ i ∧ i < x.seal
      (lost = true ∨ r.dark = true → st = (St.linkLost, false)) ∧
      (lost = false → r.dark = false →
        (poisoned → st = (St.poisoned, false)) ∧
        (¬ poisoned →
          (blockAt r.got x.seal = none → st = (St.poisoned, true)) ∧
          (∀ w, blockAt r.got x.seal = some w →
            (sealFields w ≠ body → st = (St.poisoned, true)) ∧
            (sealFields w = body → sealVoid w = true →
              ∀ v, b.voids.find? (·.1 == x.num) = some v → st = (BitVec.ofNat 8 v.2, false)) ∧
            (sealFields w = body → sealVoid w = false → st = (St.done, false)))))) ∧
    (∀ (bad : List Nat) (t : Nat), targetStatus St.done bad t = if tileRegion t % 16 ∈ bad then St.poisoned else St.done) ∧
    (∀ (r : RxBurst) (x : CItem) (i : Nat) (v : BitVec 256), x.first ≤ i → i < x.seal → r.got = [(i, v)] → ieKind x.entry = 0 →
      let t := x.tile n
      let u := s.landBlock n r [x] i
      ((s.tile t).st = .fenced ∨ (∃ j ∈ r.poisoned, x.first ≤ j ∧ j < x.seal) → u = s) ∧
      ((s.tile t).st ≠ .fenced → (∀ j ∈ r.poisoned, ¬ (x.first ≤ j ∧ j < x.seal)) →
        (u.tile t).rmem (x.addr + 32 * (i - x.first)) 32 = leBytes 32 (r.atRegion (tileRegion t % 16) (i, v)).toNat ∧
        ∀ t', t' ≠ t → u.tile t' = s.tile t'))

/-- R143, R144, R147, R161, R169, R171, R173, R175, R177, R178, R308, R325, R358, the schedule and its upkeep: what a frame's
boundary makes of a partition, the choice of gears, activation, the frame word, loss of time, the substitution of a
circuit's ring at its source and the counters. -/
def Obligations.SchedulesAndTheirUpkeep : Prop :=
  ∀ (s : State) (p : Nat), p < 64 →
    let x := s.part p
    (s.time.st ≠ .free → framePos s.ht = 0 → ∃ u, exec .frameBoundary s = .next u ∧
      (u.part p).gear = x.gearNext ∧ (u.part p).live = (if x.arms then some x.gearNext else none) ∧
      (u.part p).twl = (if x.twl = .stopping then .loaded else x.twl) ∧ u.fabric.injectStop = false ∧ u.fabric.quiet = false) ∧
    (s.time.st ≠ .free → framePos s.ht = 63000 →
      let s1 := allRegions.foldl State.chooseRegion s
      let c0 := s1.scheduledActive.foldl s1.takeZero { avail := (List.range s1.dies).map fun d => (d, s1.dieAvail d) }
      let c := s1.raisePasses (((List.range 64).map fun q => (frameOf s.ht + q) % 64).filter fun q =>
        s1.scheduledActive.contains q) 4 c0
      ∃ u, exec .gearChoice s = .next u ∧
        (p ∈ s1.scheduledActive → (u.part p).gearNext = mget 0 c.gears p) ∧
        (p ∉ s1.scheduledActive → (u.part p).gearNext = x.gearNext) ∧
        (u.power.overCommit = true ↔ ∃ d < s1.dies, c0.left d < 0)) ∧
    (s.time.st ≠ .free → s.ht % 64000 = 0 → x.twl = .loaded → x.st = .loaded → s.opt.flightValid = true →
      (x.strict = true → s.time.uncertain = false) →
      ∃ u, exec (.twillActivate p) s = .next u ∧ (u.part p).twl = .active ∧
        (u.part p).actFrame = BitVec.ofNat 64 (frameOf s.ht) ∧
        (x.launch.isSome = true → x.standing = false → x.stopFrame = none → (u.part p).live = some x.gear)) ∧
    (∀ f, x.stopFrame = some f → f < frameOf s.ht → x.isLoaded = true → x.st ≠ .safeState →
      ∃ u, exec (.twillStopTime p) s = .next u ∧ (u.part p).st = .safeState ∧ (u.part p).twl = .stoppedTime ∧
        (u.part p).live = none ∧ (u.part p).stopFrame = none) ∧
    (s.time.st ≠ .free → x.fwEn = true → x.isLoaded = true → 63500 ≤ framePos s.ht → framePos s.ht ≤ 63900 →
      ∃ u, exec (.frameWordWrite p) s = .next u ∧
        ∀ t ∈ x.tiles, (s.tile t).enabled = true → (s.tile t).st ≠ .fenced → s.wordDue t = true →
          (u.tile t).rmem x.fwAddr 16 = s.frameWord p) ∧
    (∀ station wg line, s.swapTime = true → s.nextInterval (s.ring (ringKey station 0 wg line)).failedAt = true → station < 31 → 4 ≤ wg → wg < 32 → line < 16 →
      s.opt.pendingSub = [ringKey station 0 wg line] → s.spareUsed station 0 wg = false →
      ∃ u, exec .ringSubstitute s = .next u ∧ (u.stn station).spareTx = (s.stn station).spareTx ||| BitVec.ofNat 32 (2 ^ wg) ∧
        mget 0 (u.stn station).spareLine wg = line + 1 ∧ u.opt.pendingSub = []) ∧
    (∀ w station v, v.getLsbD 0 = true → exec (.optStnCntClr w station v) s = .next (s.updStn station fun y =>
      { y with bchCorr := 0, bchUncorr := 0, pktCrc := 0, losPkt := 0, losCkt := 0 })) ∧
    (∀ w v station, v.getLsbD 0 = true → station < 31 → ∃ u, exec (.twlCntClr w v) s = .next u ∧
      u.stn station = { s.stn station with twlTx := 0, twlRx := 0, sealFail := 0, voided := 0 }) ∧
    (∀ w v, exec (.twlRingRpWrite w p v) s =
      .next (if older x.ringWp v then s else s.updPart p fun y => { y with ringRp := v }))

/-- R227, R230, R248, R250 to R253, module memory: a channel is retired when the spares suffice and no retirement runs;
before initialisation only the table changes; the copy of its slots ends, then they are switched in a held interval; the
Mire window is clamped and never shortened under a loaded partition; a scrub mends what can be corrected; the counters
clear. -/
def Obligations.RetirementMireWindowAndScrub : Prop :=
  ∀ (s : State) (w : Who) (v : W32),
    let c := v.toNat % 256
    let moves := (s.mem.slotsOf c).zip (s.sparesFor c)
    let fits := (s.mem.slotsOf c).length ≤ (s.sparesFor c).length
    (v.getLsbD 8 = true → s.mem.initDone = true → s.mem.retSt ≠ 1 → s.mem.retSt ≠ 2 → c ≤ 191 → (s.chan c).st ≠ 2 → fits →
      ∃ u, exec (.channelRetire w v) s = .next u ∧ u.mem.retSt = 1 ∧ u.mem.retCh = c ∧ u.mem.moves = moves ∧
        (u.chan c).st = 1 ∧ (∀ k, k ≠ c → u.chan k = s.chan k) ∧ u.mem.hbm = s.mem.hbm) ∧
    (v.getLsbD 8 = true → s.mem.initDone = false → c ≤ 191 → (s.chan c).st ≠ 2 → fits →
      ∃ u, exec (.channelRetire w v) s = .next u ∧ u.mem.retSt = 3 ∧ u.mem.retCh = c ∧ (u.chan c).st = 2 ∧
        (∀ k, k ≠ c → u.chan k = s.chan k) ∧ c ∈ u.mem.flashRetired ∧ u.mem.hbm = s.mem.hbm) ∧
    (v.getLsbD 8 = true →
      (s.mem.initDone = true ∧ (s.mem.retSt = 1 ∨ s.mem.retSt = 2)) ∨ 191 < c ∨ (s.chan c).st = 2 ∨ ¬ fits →
      exec (.channelRetire w v) s = .next { s with mem := { s.mem with retRefused := true } }) ∧
    (s.mem.retSt = 1 → ∃ u, exec .retireCopyDone s = .next u ∧ u.mem.retSt = 2 ∧ u.mem.retDone = s.mem.moves.length ∧
      u.mem.slotMap = s.mem.slotMap ∧ (s.mem.hbmPoison = [] → u.mem.retPoison = 0 ∧ u.mem.hbmPoison = [])) ∧
    (∀ run slot new, s.mem.retSt = 2 → s.cfg.run = some run → run.req.op = 3 → run.phase = .applying → s.inInterval = true →
      s.mem.moves = [(slot, new)] → ∃ u, exec .retireSwitch s = .next u ∧ u.mem.retSt = 3 ∧ u.mem.moves = [] ∧
        u.mem.slotPlace slot = new ∧ (∀ k, k ≠ slot → u.mem.slotPlace k = s.mem.slotPlace k) ∧
        (u.chan s.mem.retCh).st = 2 ∧ s.mem.retCh ∈ u.mem.flashRetired) ∧
    (s.loadedParts = [] → ∃ u, exec (.mireWindowWrite w v) s = .next u ∧
      u.mem.mireW = Nat.max 10 (Nat.min 1000 (v.toNat % 2048))) ∧
    (Nat.max 10 (Nat.min 1000 (v.toNat % 2048)) < s.mem.mireW → s.loadedParts ≠ [] →
      ∃ u, exec (.mireWindowWrite w v) s = .next u ∧ u.mem = s.mem) ∧
    (∀ n k, v.getLsbD 0 = true → n < 31 → k < 192 → ∃ u, exec (.memCntClr w v) s = .next u ∧
      u.stn n = { s.stn n with miss := 0, perm := 0, replay := 0, unknown := 0, staleAtomic := 0, merge := 0, mireWait := 0 } ∧
      u.chan k = { s.chan k with uncorr := 0, corr := 0 }) ∧
    (∀ channel line, channel ≤ 191 → line < 9437184 → s.mem.selfRefresh = false → s.retraining channel = false →
      (∀ j < 8, (channel * channelBytes + line * 256) / 32 + j ∉ s.mem.hbmPoison) →
      let words := (List.range 8).map fun j => (channel * channelBytes + line * 256) / 32 + j
      ∃ u, exec (.hbmScrub channel line) s = .next u ∧
        (u.chan channel).corr = Nat.min 4294967295 ((s.chan channel).corr + (words.filter (· ∈ s.mem.hbmSoft)).length) ∧
        (∀ k, k ∈ u.mem.hbmSoft ↔ k ∈ s.mem.hbmSoft ∧ k ∉ words) ∧ u.mem.hbm = s.mem.hbm)

/-- R256, R265, R266, R268, R269, R283, R515, R516, collectives: a gather counts a chunk that fits and discards one of
another round; it sends its group again once and advances at its timeout; a root takes a group's chunk once, ends a
round at its deadline and goes on to the next round; chunks and END reach the tiles of a group. -/
def Obligations.CollectiveEngines : Prop :=
  ∀ (s : State) (n : Nat),
    (∀ f, s.takeDest n (fun p => p.kind == kCONTRIB && !s.toRoot n p) = some f → cKind f.pkt.dst = 2 →
      let i := cLow f.pkt.dst
      let e := s.coll n i
      let q := chunkOf f.pkt
      (ccValid e.cfg = true → q.round = e.round → e.any = true → ccOrdered e.cfg = false → chunkUnfit e.cfg q = false →
        mget 0 e.cnt q.chunk + q.count < ccMembers e.cfg → q.chunk < ccChunks e.cfg →
        ∃ u, exec (.gatherContrib n) s = .next u ∧
          mget 0 (u.coll n i).cnt q.chunk = mget 0 e.cnt q.chunk + q.count ∧ (u.coll n i).round = e.round ∧
          (u.coll n i).sent = e.sent ∧ (u.coll n i).acc = (e.combine (mget 0 e.cnt q.chunk == 0) q).acc) ∧
      (ccValid e.cfg = true → q.round ≠ e.round → q.round ≠ (e.round + 1) % 256 →
        exec (.gatherContrib n) s = .next ((s.dropPkt f.seq).updStn n fun x => { x with collStale := satInc 65535 x.collStale }))) ∧
    (∀ i, let e := s.coll n i
      ccValid e.cfg = true → ccRoot e.cfg = false →
      (e.sent = true → e.accepted = false → e.resent = false → e.sentAt + ccTime e.cfg ≤ s.ht →
        ∃ u, exec (.groupResend n i) s = .next u ∧ (u.coll n i) = { e with resent := true } ∧
          (u.stn n).collResend = satInc 65535 (s.stn n).collResend ∧
          u.fabric.pkts.length = s.fabric.pkts.length + ccChunks e.cfg) ∧
      (e.any = true → (if e.sent then e.sentAt else e.oldestHt) + s.tmoOf (ccRootCoord e.cfg) ≤ s.ht →
        ∃ u, exec (.gatherTimeoutAdvance n i) s = .next u ∧ (u.coll n i).round = (e.round + 1) % 256 ∧
          (u.coll n i).any = false ∧ (u.coll n i).cnt = [] ∧ (u.coll n i).acc = [])) ∧
    (∀ f, s.takeDest n (fun p => p.kind == kCOLL_CTRL && p.op == 2) = some f → cKind f.pkt.dst = 2 →
      let e := s.coll n (cLow f.pkt.dst)
      ccValid e.cfg = true → ccRoot e.cfg = false → ctrlField f.pkt 1 1 = e.round → ctrlField f.pkt 2 2 = ccGroup e.cfg →
      f.pkt.job = ccJob e.cfg →
      exec (.acceptReceive n) s = .next ((s.dropPkt f.seq).setColl n (cLow f.pkt.dst) { e with accepted := true })) ∧
    (∀ f, s.takeDest n (fun p => p.kind == kCONTRIB && s.toRoot n p) = some f →
      let i := cLow f.pkt.dst
      let e := s.coll n i
      let q := chunkOf f.pkt
      (e.st = .opened → q.round = e.round → chunkUnfit e.cfg q = false → q.group * 4096 + q.chunk ∉ e.seen →
        ccOrdered e.cfg = false → (∃ k < ccChunks e.cfg, k ≠ q.chunk ∧ q.group * 4096 + k ∉ e.seen) →
        ∃ u, exec (.rootGroupChunk n) s = .next u ∧ q.group * 4096 + q.chunk ∈ (u.coll n i).seen ∧
          (u.coll n i).round = e.round ∧ (u.coll n i).groupsIn = e.groupsIn) ∧
      (e.st = .opened → q.round = e.round → chunkUnfit e.cfg q = false → q.group * 4096 + q.chunk ∈ e.seen →
        exec (.rootGroupChunk n) s =
          .next ((s.dropPkt f.seq).updStn n fun x => { x with collDup := satInc 65535 x.collDup }))) ∧
    (∀ i, let e := s.coll n i
      ccValid e.cfg = true → ccRoot e.cfg = true → e.st = .opened → e.any = true → ccStatusAddr e.cfg = 0 →
      ccTime e.cfg ≤ pktAge (ht32 (s.stnHt n)) e.oldest →
      (pktAge (ht32 (s.stnHt n)) e.oldest = ccTime e.cfg → s.chunkWaits n i = false) →
      ∃ u, exec (.rootDeadline n i) s = .next u ∧ (u.coll n i).round = (e.round + 1) % 256 ∧
        (u.coll n i).lastStatus = St.partialCollective ∧ (u.coll n i).missing = e.missingGroups ∧
        (u.coll n i).any = false ∧ (u.stn n).collPartial = satInc 65535 (s.stn n).collPartial ∧
        u.fabric.pkts.length = s.fabric.pkts.length + 2) ∧
    (∀ f wt t, s.takeDest n (fun p => p.kind == kCOLL_DATA) = some f → cKind f.pkt.dst = 7 →
      (s.stn n).endOf (cLow f.pkt.dst) f.pkt.src (caRound f.pkt.addr) f.pkt.job = some wt → wt.passed = false →
      s.mcTilesOf n (cLow f.pkt.dst) = [t] →
      let a := mcSram (mget 0 (s.stn n).mcast (cLow f.pkt.dst)) + 16 * caChunk f.pkt.addr * (if f.pkt.op == 1 then 8 else 4)
      (s.tile t).st ≠ .fenced → a + f.pkt.payload.length ≤ sramBytes → (s.tile t).badPartial a f.pkt.payload.length = none →
      ∃ u, exec (.collDataReceive n) s = .next u ∧ u.tile t = (s.tile t).wmem a f.pkt.payload ∧
        ∃ wt' ∈ (u.stn n).endWaits, wt'.group = wt.group ∧ wt'.root = wt.root ∧ caChunk f.pkt.addr ∈ wt'.got) ∧
    (∀ wt st, s.takeDest n (fun p => p.kind == kCOLL_CTRL && p.op == 1) = none →
      (s.stn n).endWaits = [wt] → wt.end_ = some (st, 0, s.ht) → wt.passed = false →
      ccValid (s.coll n (mcGather (mget 0 (s.stn n).mcast wt.group))).cfg = false →
      ∃ u, exec (.endDeliver n) s = .next u ∧ (u.stn n).endWaits = [{ wt with passed := true }] ∧
        ∀ t, mcValid (mget 0 (s.stn n).mcast wt.group) = true → mcCountEn (mget 0 (s.stn n).mcast wt.group) = true →
          s.mcTilesOf n wt.group = [t] → (s.tile t).descs = [] → (s.tile t).st ≠ .fenced →
          (u.tile t).rc (mcCounter (mget 0 (s.stn n).mcast wt.group)) =
            (s.tile t).rc (mcCounter (mget 0 (s.stn n).mcast wt.group)) + 1) ∧
    (∀ w v, v.getLsbD 0 = true → n < 31 → ∃ u, exec (.colCntClr w v) s = .next u ∧
      u.stn n = { s.stn n with collMerge := 0, collDup := 0, collStale := 0, collResend := 0, collPartial := 0 })

/-- R278 to R281, R285, saving and restoring a partition: the two GOs, the test and the start at B, where the area's
bytes go and the end of their writes, and the resumption with the saved registers and memory and the re-based job
offset. -/
def Obligations.CheckpointAndResume : Prop :=
  ∀ (s : State) (w : Who) (p : Nat) (v : W32),
    let x := s.part p
    (v.getLsbD 0 = true → bits v.toNat 31 30 = 1 → s.entitled w p = true → x.ck ≠ .saving → x.ck ≠ .restoring →
      (x.ckFrame.toNat * 64000 ≤ s.ht → ∃ u, exec (.ckptSave w p v) s = .next u ∧ (u.part p).ck = .refusedBusy) ∧
      (s.ht < x.ckFrame.toNat * 64000 → ∃ u, exec (.ckptSave w p v) s = .next u ∧ (u.part p).ck = .armed ∧
        (u.part p).ckCont = v.getLsbD 29)) ∧
    (v.getLsbD 0 = true → bits v.toNat 31 30 = 2 → s.entitled w p = true → x.ck ≠ .saving → x.ck ≠ .restoring →
      s.ht < x.ckFrame.toNat * 64000 → ∃ u, exec (.ckptRestore w p v) s = .next u ∧
        (u.part p).ck = (match s.areaPlace p, (s.areaRead p 128 []).2 with
          | some (.hbm _), .inl bs => if s.fits p (headerOf bs) then .restoring else .refusedImage
          | some (.host _), _ => if x.isLoaded then .restoring else .refusedImage
          | _, _ => .refusedImage)) ∧
    (x.ck = .armed → x.ckFrame.toNat * 64000 ≤ s.ht →
      (s.isClean p = false → exec (.saveCleanTest p) s = .next (s.updPart p fun y => { y with ck := .refusedBusy })) ∧
      (s.isClean p = true → exec (.saveCleanTest p) s = .next s ∧
        ∃ u, exec (.saveStart p) s = .next u ∧ (u.part p).ck = .saving ∧ (u.part p).live = none ∧ (u.part p).ckHeld = true)) ∧
    (∀ host, x.ck = .saving → x.ckResume = none →
      let r := s.writeArea p host
      (statusOk r.2 = false → exec (.saveDone p host) s = .next (r.1.updPart p fun y => { y with ck := .failed, ckStatus := r.2 })) ∧
      (statusOk r.2 = true → x.ckCont = false → ∃ u, exec (.saveDone p host) s = .next u ∧ (u.part p).ck = .paused ∧
        u.saves = s.area p :: s.saves ∧ u.mem = r.1.mem)) ∧
    (∀ win host, s.areaPlace p = some (.hbm win) → s.safe.shared = false → wPermW win = true → s.mem.hbmPoison = [] →
      s.writeArea p host = ({ s with mem := ((chunks 256 (s.area p).bytes).zipIdx).foldl (fun m c =>
        m.write (wTarget win + (x.areaVa + 256 * c.2 - wBase win)) c.1) s.mem }, St.done)) ∧
    (∀ host, x.ck = .restoring → x.ckFrame.toNat * 64000 ≤ s.ht →
      let r := s.areaRead p (s.areaBytes p) host
      (∀ st, r.2 = .inr st → exec (.restoreResume ⟨p, host⟩) s = .next (r.1.updPart p fun y => { y with
        ck := .failed, ckStatus := st, ckUnread := false })) ∧
      (∀ bs, r.2 = .inl bs →
        let a := r.1.areaOf p bs
        (r.1.fits p a = false → exec (.restoreResume ⟨p, host⟩) s =
          .next (r.1.updPart p fun y => { y with ck := .refusedImage, ckUnread := false })) ∧
        (∀ t r', r.1.fits p a = true → x.tiles = [t] → a.recs = [r'] → x.fwEn = false →
          ∃ u, exec (.restoreResume ⟨p, host⟩) s = .next u ∧ (u.part p).ck = .idle ∧
            (u.part p).joff = BitVec.ofInt 64 (64000 * ((x.ckFrame.toNat : Int) - a.jframe)) ∧
            (u.tile t).s = r'.s ∧ (u.tile t).v = r'.v ∧ (u.tile t).m = r'.m ∧ (u.tile t).c = r'.c ∧
            (u.tile t).flags = r'.flags ∧ (u.tile t).pc = r'.pc ∧ (u.tile t).sram = r'.sram ∧
            (u.tile t).st = (if (s.tile t).st.isOut then (s.tile t).st else if r'.st.isOut then .idle else r'.st) ∧
            (∀ t', t' ≠ t → u.tile t' = s.tile t')))) ∧
    (∀ f (host : List Byte), x.ck = .saving → x.ckResume = some f → f * 64000 ≤ s.ht → ∃ u, exec (.restoreResume ⟨p, host⟩) s = .next u ∧
      (u.part p).ck = .idle ∧ (u.part p).joff = x.joff ∧ u.tiles = s.tiles)

/-- R287, R289 to R294, R316, the reference mode: lock and its loss, time words, pulses (the first one sets the count,
later ones only the slew), holdover, the return of the source, REACQUIRE, the counters and a change of mode. -/
def Obligations.HallTimeFromTheReference : Prop :=
  ∀ (s : State) (w : Who) (v : W32),
    let t := s.time
    (t.mode = 0 → t.pllLocked = false → s.timeBegun = true → ∃ u, exec .refPllLock s = .next u ∧ u.time.pllLocked = true ∧ u.time.word = none ∧
      u.board.htPresent = true ∧ u.time.ht = t.ht) ∧
    (t.pllLocked = true → ∃ u, exec .htRefLockLoss s = .next u ∧ u.time.pllLocked = false ∧ u.time.word = none ∧
      u.time.prevWord = none ∧ u.time.ht = t.ht) ∧
    (t.mode = 0 → t.pllLocked = true →
      (∀ word, wordOk word = false → ∃ u, exec (.timeWordReceive word true) s = .next u ∧
        u.time.badWord = satInc 65535 t.badWord ∧ u.time.word = none) ∧
      (∀ word, wordOk word = true → t.epochOk (wordEpoch word) = true → ∃ u, exec (.timeWordReceive word true) s = .next u ∧
        u.time.word = some (wordNext word, wordQuality word, wordEpoch word) ∧ u.time.badWord = t.badWord ∧
        (wordQuality word = 1 → u.time.uncertain = true))) ∧
    (∀ wd pw arrival, s.timeBegun = true → t.mode = 0 → t.pllLocked = true → t.word = some wd → t.prevWord = some pw → t.pulseInRun = false →
      wd.1 = pw.1 + 100000 →
      let o := t.pulseOffset wd.1 arrival
      (t.st = .free → ∃ u, exec (.syncPulse 100000000 arrival) s = .next u ∧ u.time.st = .acquiring ∧
        u.time.ht = ((t.units + o) / 65536).toNat % 2 ^ 64 ∧ u.time.uncertain = true ∧ u.time.epoch = BitVec.ofNat 16 wd.2.2 ∧
        u.power.gearHold = true) ∧
      (t.st = .locked ∨ t.st = .acquiring → t.reacqPending = false → t.remeasure = false → t.epoch.toNat = wd.2.2 →
        ∃ u, exec (.syncPulse 100000000 arrival) s = .next u ∧ u.time.ht = t.ht ∧ u.time.frac = t.frac ∧ u.time.slew = o * 65536 ∧
          u.time.lastValid = some t.ht ∧ (16 ≤ t.good025 + 1 → o.natAbs ≤ 16384 → u.time.st = .locked)) ∧
      (t.st ≠ .free → t.reacqPending = true → t.epoch.toNat = wd.2.2 → ∃ u, exec (.syncPulse 100000000 arrival) s = .next u ∧
        u.time.st = .acquiring ∧ u.time.ht = ((t.units + o) / 65536).toNat % 2 ^ 64 ∧ u.time.reacqPending = false)) ∧
    (∀ p last, t.st = .locked ∨ t.st = .acquiring → t.lastValid = some last → last + 1000000 ≤ t.ht → p < 64 →
      ∃ u, exec .holdoverEnter s = .next u ∧ u.time.st = .holdover ∧ u.time.uncertain = true ∧ u.time.slew = 0 ∧
        u.time.loss = satInc 65535 t.loss ∧ u.time.lossHt = t.ht ∧ u.time.ht = t.ht ∧
        ((s.part p).isLoaded = true → (s.part p).strict = true → (s.part p).adaptive = false → (s.part p).st ≠ .safeState →
          (s.part p).stopFrame = none → (u.part p).stopFrame = some (frameOf s.ht))) ∧
    (∀ o, t.source = some (t.epoch, o) → t.st = .holdover → t.returned = false → t.disagree = false →
      ((psOf o).natAbs ≤ 100000000 → ∃ u, exec .sourceReturn s = .next u ∧ u.time.st = .locked ∧ u.time.slew = o * 65536 ∧
        u.time.ht = t.ht ∧ u.time.disagree = false) ∧
      (100000000 < (psOf o).natAbs → ∃ u, exec .sourceReturn s = .next u ∧ u.time.st = .holdover ∧
        u.time.disagree = true ∧ u.time.ht = t.ht)) ∧
    (v.getLsbD 0 = true → s.loadedParts = [] → t.source.isSome = true → exec (.reacquire w v) s =
      .next { s with time := { t with reacqPending := true } }) ∧
    (v.getLsbD 0 = true → s.loadedParts ≠ [] → ∃ u, exec (.reacquire w v) s = .next u ∧ u.time = t) ∧
    (∀ n, v.getLsbD 1 = true → n < 31 → ∃ u, exec (.timCntClr w v) s = .next u ∧ u.time = { t with badWord := 0, loss := 0 } ∧
      u.stn n = { s.stn n with mismatch := 0 }) ∧
    (v.toNat % 2 ≠ t.mode → ∃ u, exec (.timeModeWrite w v) s = .next u ∧ u.time.mode = v.toNat % 2 ∧ u.time.ht = t.ht ∧
      u.time.st = t.st ∧ u.time.remeasure = (t.st != .free))

/-- R296 to R301, R317, time over the hall: requests, replies and what they make of a port, the combined estimate,
requests served and a port's configuration. -/
def Obligations.HallTimeFromTheFabric : Prop :=
  ∀ (s : State) (n : Nat),
    let t := s.time
    let x := s.tport n
    (t.mode = 1 → s.tpEnabled n = true → s.ht % 10000 = 1000 * n % 10000 → (t.st ≠ .free → inMaint s.ht = false ∧ s.planeMask (cModule x.srcNow) ≠ 0) →
      (s.hall (tpPort x.cfgNow)).up = true → ∃ u, exec (.timeRequestSend n) s = .next u ∧
        u.fabric.txid = s.fabric.txid + 1 ∧ u.out = s.out ++ [.hallTx (tpPort x.cfgNow) (mkPkt
          { kind := kTIME, vc := 2, txid := s.fabric.txid, dst := x.srcNow, src := s.stnCoord 26, issue := ht32 (s.stnHt 26),
            payload := [0, 0, 0, 0] ++ stampBytes t.units ++ List.replicate 24 0 })]) ∧
    (∀ port p (t4 : Nat) (f4 : BitVec 16), t.mode = 1 → s.timePktOk port p = true → nth 0 p.payload 0 = 1 → nth 0 p.payload 1 = 0 →
      timePorts.find? (fun m => s.tpEnabled m && tpPort (s.tport m).cfgNow == port) = some n → x.history = [] →
      t.epochOk (BitVec.ofNat 16 (leNat ((p.payload.drop 2).take 2))).toNat = true →
      let t1 := stampOf p.payload 4
      let t2 := stampOf p.payload 16
      let t3 := stampOf p.payload 28
      let u4 := (t4 : Int) * 65536 + f4.toNat
      mkRat ((u4 - t1) - (t3 - t2)) 65536 ≤ (t.rttMax : Rat) →
      ∃ u, exec (.timeReplyReceive port p t4 f4) s = .next u ∧ (u.tport n).valid = true ∧ (u.tport n).acceptedAt = s.ht ∧
        (u.tport n).ofs = mkRat ((t2 - t1) + (t3 - u4)) 131072) ∧
    (x.valid = true → x.acceptedAt + 1000000 < s.ht → exec (.timePortInvalid n) s = .next (s.setTport n { x with valid := false })) ∧
    (t.mode = 1 → s.ht % 10000 = 0 → timePorts.filter (fun m => s.tpEnabled m && (s.tport m).valid) = [n] → t.st = .free →
      (∀ m, (s.tport m).foreign = none) → ∃ u, exec .timeEstimateCombine s = .next u ∧ u.time.st = .free ∧ u.time.present = none) ∧
    (∀ m, t.mode = 1 → s.ht % 10000 = 0 → timePorts.filter (fun m => s.tpEnabled m && (s.tport m).valid) = [n, m] → t.st = .free →
      s.timeBegun = true →      apart x.ofs (s.tport m).ofs = false → ∃ u, exec .timeEstimateCombine s = .next u ∧ u.time.st = .acquiring ∧
        u.time.epoch = x.epoch ∧ u.time.ht = ((t.units + ((x.ofs + (s.tport m).ofs) / 2 * 65536).floor) / 65536).toNat % 2 ^ 64) ∧
    (∀ port p, t.serve = true → t.mode = 0 → s.timePktOk port p = true → p.dst = s.stnCoord 26 → nth 0 p.payload 0 = 0 →
      exec (.timeRequestServe port p) s = .next (s.sendTime port p.src p.txid
        ([1, if t.st = .locked ∧ t.uncertain = false then 0 else 1] ++ leBytes 2 t.epoch.toNat ++ (p.payload.drop 4).take 12 ++
          stampBytes t.units ++ stampBytes t.units))) ∧
    (s.inInterval = true → (x.cfg == x.cfgNow && x.src == x.srcNow) = false → exec (.timePortCfgApply n) s = .next (s.setTport n
      { x with cfgNow := x.cfg, srcNow := x.src, history := [], valid := false, foreign := none }))

/-- R303 to R312, the stations' copies of hall time and the region clocks: a good and a wrong time word, the 17th
missing tick, the return of a station's time, its delay; a clock's step, its failure, its restart, its monitor, the tick
receiver's, and the fallback clock. -/
def Obligations.StationTimeAndRegionClocks : Prop :=
  ∀ (s : State) (n : Nat),
    let x := s.stn n
    let r := s.rgn n
    (∀ wd : StnWord,
      let due : Int := (s.ht / 1000 + 1) * 1000
      (x.resync = false → (wd.nextHt : Int) * 65536 ≠ due * 65536 + x.dev →
        ∃ u, exec (.stationTimeWord n true wd) s = .next u ∧ (u.stn n).resync = true ∧ (u.stn n).mismatch = satInc 255 x.mismatch ∧
          (u.stn n).badWordAt = some s.ht) ∧
      (x.resync = false → (wd.nextHt : Int) * 65536 = due * 65536 + x.dev → exec (.stationTimeWord n true wd) s =
        .next (s.setStn n { x with wordUncertain := wd.uncertain, wordSt := wd.st })) ∧
      (x.resync = true → exec (.stationTimeWord n true wd) s = .next (s.setStn n
        { x with wordUncertain := wd.uncertain, wordSt := wd.st, dev := (wd.nextHt - due) * 65536, resync := false }))) ∧
    (x.missTicks = 16 → x.timeBad = false → s.ht / 8 = x.missAt / 8 + 1 → ∃ u, exec (.tickMissing n) s = .next u ∧
      (u.stn n).timeBad = true) ∧
    (x.missTicks < 16 → x.timeBad = false → s.ht / 8 = x.missAt / 8 + 1 → exec (.tickMissing n) s =
      .next (s.setStn n { x with missTicks := x.missTicks + 1, missAt := s.ht })) ∧
    (x.timeBad = true → x.resync = false → x.missAt + 8000 ≤ s.ht → (∀ h, x.badWordAt = some h → h + 8000 ≤ s.ht) →
      ∃ u, exec (.stationTimeRestore n) s = .next u ∧ u.stn n = { x with timeBad := false, missTicks := 0 }) ∧
    (∀ rt, s.opt.flightValid = false → exec (.stationDelayMeasure n rt) s = .next (s.updStn n fun y =>
      { y with delay := s.delayOf n rt, delayTgt := s.delayOf n rt, delayValid := true })) ∧
    (n < 320 → s.time.st ≠ .free → framePos s.ht = 63040 → r.steppable = true → r.stepDown = false → r.opNext ≠ r.op →
      ∃ u, exec .clockStepStop s = .next u ∧
        u.rgn n = { r with stopped := true, locked := false, stepTo := some r.opNext, stepFrame := some (frameOf s.ht) }) ∧
    (∀ to_, r.stopped = true → r.stepTo = some to_ → 63640 ≤ framePos s.ht → ∃ u, exec (.clockStepFail n true) s = .next u ∧
      (u.rgn n).stepTo = some r.op ∧ (u.rgn n).stepFailed = false ∧ (u.rgn n).locked = true ∧ (u.rgn n).evt = r.evt ||| 0b100000) ∧
    (∀ to_, r.stepTo = some to_ → s.time.st ≠ .free → 63680 + 10 * (n % 16) ≤ framePos s.ht → r.retained = false →
      r.sdLatch = false → r.stepFailed = false → exec (.clockRestart n) s = .next (s.setRgn n
        { r with op := to_, stopped := false, stepTo := none, stepFailed := false, locked := true, fallback := false })) ∧
    (∀ jit, s.ht % 1000 = 0 → r.boot = .enabled → r.stopped = false → r.jitRun = 15 → s.time.jitFault < jit →
      ∃ u, exec (.clockMonitorWindow (.region n) jit 200 200) s = .next u ∧ (u.rgn n).jitRun = 0 ∧
        (u.rgn n).stepDown = true ∧ (u.rgn n).jitPP = Nat.min 255 jit ∧ (u.rgn n).evt.getLsbD 1 = true) ∧
    (∀ ps, s.ht % 1000 = 0 → exec (.clockMonitorWindow (.tick n) ps 200 200) s = .next (if 20 < ps then
      s.recStn 0x100A none n [BitVec.ofNat 8 (Nat.min 255 ps), 200, 200] else s)) ∧
    (∀ short, r.boot = .enabled → r.stopped = false → r.fallback = false → ∃ u, exec (.fallbackSwitch n short) s = .next u ∧
      (u.rgn n).fallback = true ∧ (u.rgn n).locked = false ∧
      (u.rgn n).evt = r.evt ||| (if short then 0b010000 else 0b001000))

/-- R97, R98, R313, R314, R326, R419, R449, R450, R453 to R457, R465, launches: the STATE of a FREE record written, and a write by a
port that does not own the partition denied, a poisoned write reported and not applied, and in recovery mode a write
staged (R419, R449); the decision, which takes the first due record; the start of the partition's
tiles, each idle one at the record's entry with s1 the argument and s2 the job time; the end, DONE with the largest HALT
code where every tile halted and INTERNAL with the number of the others where some did not, and its ring record; the end
of the gear hold; the host's read pointer. -/
def Obligations.LaunchesRunAndEnd : Prop :=
  ∀ (s : State) (w : Who) (p : Nat),
    let x := s.part p
    (∀ i bs, s.cfg.recMode = false → p < 64 → i < 256 → s.entitled w p = true → (mget {} x.table i).st = .free →
      x.autoWake = false → bs.length = 4 →
      ∃ u, exec (.launchRecordWrite w (p * 0x4000 + i * 64 + 32) ⟨bs, false⟩) s = .next u ∧
        mget {} (u.part p).table i = (if (bs.headD 0).toNat = 1 then { mget {} x.table i with st := .pending } else mget {} x.table i)) ∧
    (∀ offset bs, exec (.launchRecordWrite w offset ⟨bs, true⟩) s = .next (s.aerOf w Aer.poisoned) ∧
      (s.cfg.recMode = true → exec (.launchRecordWrite w offset ⟨bs, false⟩) s = .next (s.stageBytes offset bs)) ∧
      (s.cfg.recMode = false → offset < 0x100000 → s.entitled w (offset / 0x4000) = false →
        exec (.launchRecordWrite w offset ⟨bs, false⟩) s = .next (s.deny w))) ∧
    (∀ r, (s.ht + 1000) % 2000 = 0 → s.time.st ≠ .free → x.st = .loaded → x.launch = none → x.twl ≠ .stoppedTime →
      x.noSample = false → x.standing = false → (x.ck = .armed → s.ht + 1000 ≠ x.ckFrame.toNat * 64000) → x.parkSt = 0 →
      firstDue (x.dueRecs (s.ht + 1000)) = some r →
      (∀ t ∈ x.tiles, (s.tile t).st ≠ .fencing ∧ (s.tile t).st ≠ .fenced ∧ (s.tile t).st ≠ .faulted) →
      ∃ u, exec (.launchDecision p) s = .next u ∧ (u.part p).launch = some { index := r.2, phase := s.ht + 1000 } ∧
        mget {} (u.part p).table r.2 =
          { mget {} x.table r.2 with st := .running, startHt := BitVec.ofNat 64 (s.ht + 1000) }) ∧
    (∀ l, x.launch = some l → l.started = false → l.stopStatus = none → l.phase ≤ s.ht →
      (∀ t ∈ x.tiles, (s.tile t).st = .idle ∨ (s.tile t).st = .faulted ∨ (s.tile t).st = .fencing ∨ (s.tile t).st = .fenced) →
      let r := mget {} x.table l.index
      ∃ u, exec (.launchStart p) s = .next u ∧ (u.part p).launch = some { l with started := true } ∧
        ∀ t ∈ x.tiles, ((s.tile t).st = .idle → (u.tile t).st = .running ∧
            (u.tile t).pc = nth 0 (s.tile t).entries (r.entry.toNat % 8) ∧ (u.tile t).rs 1 = r.arg ∧
            (u.tile t).rs 2 = jobTime x l.phase) ∧
          ((s.tile t).st ≠ .idle → (u.tile t).st = (s.tile t).st ∧ (u.tile t).pc = (s.tile t).pc ∧ (u.tile t).s = (s.tile t).s)) ∧
    (∀ l, x.launch = some l → l.started = true → l.stopStatus = none →
      (∀ t ∈ x.tiles, (s.tile t).st = .idle ∧ (s.tile t).haltCode.isSome = true) →
      x.cqEn = false → ∃ u, exec (.launchEnd p) s = .next u ∧ (u.part p).launch = none ∧
        (mget {} (u.part p).table l.index).st = .done ∧ (mget {} (u.part p).table l.index).status = St.done ∧
        (mget {} (u.part p).table l.index).haltCode = maxHalt (s.partTiles p) % 65536 ∧
        (mget {} (u.part p).table l.index).faulted = 0 ∧
        (u.part p).launches = (x.launches + 1) % 2 ^ 32 ∧ u.out = s.out) ∧
    (∀ l, x.launch = some l → l.started = true → l.stopStatus = none →
      (∀ t ∈ x.tiles, ((s.tile t).st = .idle ∧ (s.tile t).haltCode.isSome = true) ∨ (s.tile t).st = .faulted ∨
        (s.tile t).st = .fencing ∨ (s.tile t).st = .fenced) →
      (∃ t ∈ x.tiles, (s.tile t).st ≠ .idle) → x.cqEn = true → x.owner = 1 → x.cqWp = x.cqRp →
      ∃ u, exec (.launchEnd p) s = .next u ∧ (u.part p).launch = none ∧ (u.part p).cqWp = x.cqWp + 1 ∧
        (mget {} (u.part p).table l.index).status = St.internal ∧
        (mget {} (u.part p).table l.index).faulted = ((s.partTiles p).filter fun y => y.st != .idle).length ∧
        ∃ data, .pcieWrite 0 (x.cqBase.toNat + x.cqWp.toNat % 2 ^ x.cqSize * 32) data ∈ u.out) ∧
    (∀ m, (∃ y ∈ s.partTiles p, y.haltCode = some m) → m ≤ maxHalt (s.partTiles p) ∧
      (maxHalt (s.partTiles p) = 0 ∨ ∃ y ∈ s.partTiles p, y.haltCode = some (maxHalt (s.partTiles p)))) ∧
    (∀ t, s.time.firstAcq = some t → t + 100000000 ≤ s.ht → exec .gearHoldEnd s =
      .next { s with power := { s.power with gearHold := false } }) ∧
    (∀ v, s.entitled w p = true → exec (.cqRpWrite w p v) s =
      .next (if older x.cqWp v then s else s.updPart p fun y => { y with cqRp := v }))

/-- R417, R450 to R452, ownership: a claim of a partition that nobody holds, or whose lease has run out, is accepted; of a
partition held by the other port it is denied and counted, but that port 0 is taken of two claims of one cycle (one
nanosecond here: the model's choice, log entry 88); renewal, release and expiry; in a hand-off of the management core all
of these are held (R417). -/
def Obligations.OwnershipOfPartitions : Prop :=
  ∀ (s : State) (p : Nat),
    let x := s.part p
    (∀ w, s.handOff = false → w = Who.port0 ∨ w = Who.port1 →
      (x.owner = 0 ∨ x.expired = true → x.owner ≠ Who.owner w → ∃ u, exec (.claim w p) s = .next u ∧
        (u.part p).owner = Who.owner w ∧ (u.part p).expired = false ∧ (u.part p).leaseAt = s.boot.osc ∧ (u.part p).cqEn = false) ∧
      (x.owner ≠ 0 → x.expired = false → x.owner ≠ Who.owner w → s.claimTie w p = false →
        exec (.claim w p) s = .next (s.deny w)) ∧
      (s.claimTie w p = true → ∃ u, exec (.claim w p) s = .next u ∧ (u.part p).owner = 1 ∧ (u.part p).leaseAt = s.boot.osc) ∧
      (x.owner = Who.owner w → exec (.claim w p) s = .next (s.renewLease p) ∧ exec (.renew w p) s =
          .next (s.updPart p fun y => { y with expired := false, leaseAt := s.boot.osc }) ∧
        ∃ u, exec (.release w p) s = .next u ∧ (u.part p).owner = 0 ∧ (u.part p).cqEn = false) ∧
      (x.owner ≠ Who.owner w → exec (.renew w p) s = .next (s.deny w) ∧ exec (.release w p) s = .next (s.deny w))) ∧
    (∀ w, s.handOff = true → exec (.claim w p) s = .next (s.holdReq (.own w 2 p)) ∧
      exec (.renew w p) s = .next (s.holdReq (.own w 1 p)) ∧ exec (.release w p) s = .next (s.holdReq (.own w 3 p)) ∧
      exec (.leaseExpire p) s = .next s) ∧
    (s.handOff = false → x.owner ≠ 0 → x.expired = false → (s.boot.osc < x.leaseAt + s.leaseMs * 1000000 → exec (.leaseExpire p) s = .next s) ∧
      (x.leaseAt + s.leaseMs * 1000000 ≤ s.boot.osc → exec (.leaseExpire p) s =
        .next (s.updPart p fun y => { y with expired := true })))

/-- R329, R331, R333 to R338, R340 to R342, R488, power and heat: token grants, and a balance capped at eight grants;
corrections of an adaptive region, while another region only keeps its measured power; readings of a region's diode, the
first one seeding the predictor and one outside 10 °C to 150 °C taken as 110 °C, of another channel, and of a base diode;
the predictor by the region's own power, or in the compatibility model by a sixteenth of the die's; the end of its
conservative gains; the change of the model; a region's shut-down and its clearing; the input limit. A grant, correction,
sample or update at another instant changes nothing. -/
def Obligations.PowerAndHeat : Prop :=
  ∀ (s : State) (k : Nat),
    let r := s.rgn k
    (s.time.st ≠ .free → s.ht % 1000 = 0 → exec .tokenGrant s =
      .next { s with regions := s.regions.map fun q => (q.1, q.2.granted (s.grantOf q.1) (s.isAdaptive q.1)) }) ∧
    (s.time.st = .free ∨ s.ht % 1000 ≠ 0 → exec .tokenGrant s = .next s) ∧
    (∀ g c, c < 16 → mget 0 (r.granted g true).balance c = Nat.min (8 * g) (mget 0 r.balance c + g)) ∧
    (∀ m, (s.ht % 10000 ≠ 0 → exec (.powerCorrection k m) s = .next s) ∧
      (s.ht % 10000 = 0 → s.isAdaptive k = false → exec (.powerCorrection k m) s = .next (s.setRgn k { r with power := m })) ∧
      (s.ht % 10000 = 0 → s.isAdaptive k = true → ∃ u, exec (.powerCorrection k m) s = .next u ∧
        (u.rgn k).power = m ∧ (u.rgn k).scale = (if r.allot * (1 - r.x) * (21 / 20) < m
          then ratMax (1 / 2) (r.scale * r.allot / m) else ratMin 1 (r.scale + 1 / 64)) ∧
        (∀ j, j ≠ k → u.rgn j = s.rgn j) ∧ (∀ t, u.tile t = s.tile t))) ∧
    (∀ die ch t, s.ht % 250000 ≠ 8000 * ch → exec (.adcSample die ch t) s = .next s) ∧
    (∀ die ch t, ch < 16 → die < s.dies → k = die * 16 + ch → s.ht % 250000 = 8000 * ch → r.tstT.getLsbD 31 = false →
      ∃ u, exec (.adcSample die ch t) s = .next u ∧ (u.rgn k).tMeas = (if t < 10 ∨ 150 < t then 110 else t) ∧
        (r.firstRead = none → r.boot ≠ .off → r.boot ≠ .enabling → (u.rgn k).a = 0 ∧ (u.rgn k).b = 0 ∧
          (u.rgn k).cOff = (u.rgn k).tMeas - s.tCool ∧ (u.rgn k).tPred = (u.rgn k).tMeas ∧ (u.rgn k).conservative = true) ∧
        (r.firstRead ≠ none → (u.rgn k).a = r.a ∧ (u.rgn k).b = r.b ∧
          (u.rgn k).cOff = r.cOff + (if r.conservative then 1 else s.power.diodeGain) * ((u.rgn k).tMeas - r.tPred)) ∧
        (t < 10 ∨ 150 < t → (u.rgn k).sensorFault = true ∧ (u.rgn k).x = 1)) ∧
    (∀ die ch v, 16 ≤ ch → ch < 26 → die < s.dies → s.ht % 250000 = 8000 * ch → ∃ u, exec (.adcSample die ch v) s = .next u ∧
      (∀ j, mget 0 (u.die die).rails j = if j = ch then v else mget 0 (s.die die).rails j) ∧
      ((u.die die).meas = if ch = 23 then (u.die die).power else (s.die die).meas)) ∧
    (∀ die v, die < s.dies → s.ht % 250000 = 216000 → exec (.adcSample die 27 v) s =
      .next (s.setDie die { s.die die with lastRails := (s.die die).rails })) ∧
    (∀ amps, (s.ht % 1000 ≠ 0 ∨ r.firstRead = none → exec (.predictorUpdate k amps) s = .next s) ∧
      (s.ht % 1000 = 0 → r.firstRead ≠ none →
        let volts := mget 0 (s.die (k / 16)).lastRails (16 + quadrantOf k)
        let f : Rat := if r.conservative then 3 / 2 else 1
        let q := if s.power.compatNow then (s.die (k / 16)).meas / 16 else amps * volts
        ∃ u, exec (.predictorUpdate k amps) s = .next u ∧ (u.rgn k).a = r.a + (r.r1 * f * q - r.a) / r.tau1 ∧
          (u.rgn k).b = r.b + (r.r2 * f * q - r.b) / r.tau2 ∧
          (u.rgn k).tPred = s.tCool + r.cOff + (u.rgn k).a + (u.rgn k).b ∧
          (u.rgn k).tEff = ratMax (ratMax r.tMeas (u.rgn k).tPred) (s.stn (k / 16)).baseTemp ∧
          (u.rgn k).x = ratMin 1 (ratMax 0 (((u.rgn k).tEff - 100) / 10)) ∧
          (u.rgn k).frameEnergy = r.frameEnergy + amps * volts)) ∧
    (∀ at0, r.firstRead = some at0 → exec (.conservativeEnd k) s =
      .next (if at0 + 10000000 ≤ s.ht then s.setRgn k { r with conservative := false } else s)) ∧
    (s.power.compat ≠ s.power.compatNow → s.ht % 250000 = 0 → ∃ u, exec .compatChange s = .next u ∧
      u.power = { s.power with compatNow := s.power.compat }) ∧
    (∀ n t, s.ht % 10000 = 0 → (s.stn n).tstBaseT.getLsbD 31 = false → ∃ u, exec (.baseDiodeRead n t) s = .next u ∧
      (u.stn n).baseTemp = (if t < 10 ∨ 150 < t then 110 else t)) ∧
    (∀ cmp, r.sdLatch = false → cmp = true ∨ 115 ≤ r.tMeas → exec (.thermalShutdown (.region k) cmp) s =
      .next (((s.setRgn k { r with
        sdLatch := true, stopped := true, stepTo := none, retained := true, fallback := true, locked := false }).recDie 0x2003 none (k / 16) (shutData r.tMeas cmp (k % 16))).trigger (s.partsInRegion k) 1)) ∧
    (∀ cmp, r.sdLatch = true ∨ (cmp = false ∧ r.tMeas < 115) → exec (.thermalShutdown (.region k) cmp) s = .next s) ∧
    (∀ w v, v.getLsbD 31 = true → r.sdLatch = true →
      (r.tMeas < 80 → exec (.sdClr w k v) s = .next (s.setRgn k { r with
        sdLatch := false, rising := !s.allRetained k, n := 0, x := 0 })) ∧
      (80 ≤ r.tMeas → ∃ u, exec (.sdClr w k v) s = .next u ∧ u.rgn k = r)) ∧
    (∀ watts volts, 13000 < watts → ∃ u, exec (.inputLimit ⟨watts, volts⟩) s = .next u ∧ u.power.inputLimit = true ∧
      u.power.inputW = watts ∧ u.power.inputV = volts) ∧
    (∀ watts volts at0, watts < 12500 → s.power.inputLimit = true → s.power.belowSince = some at0 → at0 + 10000000 ≤ s.ht →
      ∃ u, exec (.inputLimit ⟨watts, volts⟩) s = .next u ∧ u.power.inputLimit = false)

/-- R344, parking and waking: a write of PARK accepted when nothing of the partition is under way and else refused; the
idle tiles of a parking partition put into retention in the next interval; a write of 0; the next retained region of the
waking partitions at full rail, at least 4 µs after the one before; the restart of the partition's retained tiles at a
boundary. -/
def Obligations.ParkingAndWaking : Prop :=
  ∀ (s : State) (w : Who) (p : Nat) (v : W32),
    let x := s.part p
    (v.getLsbD 0 = true → s.entitled w p = true →
      (x.parkSt = 0 ∨ x.parkSt = 3 → s.parkable p = true → exec (.park w p v) s =
        .next (s.updPart p fun y => { y with autoWake := v.getLsbD 1, park := true, parkSt := 1, parkHt := s.ht })) ∧
      (x.parkSt = 0 ∨ x.parkSt = 3 → s.parkable p = false → ∃ u, exec (.park w p v) s = .next u ∧ u.part p = x) ∧
      (x.parkSt = 1 ∨ x.parkSt = 2 → exec (.park w p v) s = .next (s.updPart p fun y => { y with autoWake := v.getLsbD 1 }))) ∧
    (s.entitled w p = false → v.getLsbD 0 = true → exec (.park w p v) s = .next (s.deny w)) ∧
    (x.parkSt = 1 → s.time.st ≠ .free → 63040 ≤ framePos s.ht → s.nextInterval x.parkHt = true →
      ∃ u, exec (.parkEnter p) s = .next u ∧ (u.part p).parkSt = 2 ∧
        ∀ t ∈ x.tiles, u.tile t = if (s.tile t).st = .idle then { s.tile t with st := .retention } else s.tile t) ∧
    (v.getLsbD 0 = false → s.entitled w p = true → exec (.unpark w p v) s = .next (s.updPart p fun y =>
      if x.park then { y with
        autoWake := v.getLsbD 1, park := false, parkSt := if y.parkSt = 1 then 0 else if y.parkSt = 2 then 3 else y.parkSt }
      else { y with autoWake := v.getLsbD 1 })) ∧
    (∀ r, s.wakingRegions.head? = some r → s.ht % 1000 = 0 → (∀ t, s.power.lastWake = some t → t + 4000 ≤ s.ht) →
      ∃ u, exec (.wakeRegionUp r) s = .next u ∧ (u.rgn r).retained = false ∧ u.power.lastWake = some s.ht) ∧
    (∀ r, s.wakingRegions.head? = some r → (∀ t, s.power.lastWake = some t → s.ht < t + 4000) → s.power.lastWake ≠ none →
      exec (.wakeRegionUp r) s = .next s) ∧
    (x.parkSt = 3 → framePos s.ht = 0 → (∀ r ∈ x.regions, (s.rgn r).retained = false ∧ (s.rgn r).stopped = false) →
      ∃ u, exec (.wakeRestart p) s = .next u ∧ (u.part p).parkSt = 0 ∧
        ∀ t ∈ x.tiles, u.tile t = if (s.tile t).st = .retention then { s.tile t with st := .idle } else s.tile t)

/-- R351, R354 to R359, R362, R431, rings: a heater moves towards its code by at most its limit, and a pilot by one
code; a splitter difference within 1 dB is forgotten, and one above it for 10 ms is marked as told; a ring that meets a
cause of failure is declared failed, once; a sweep gives the targets of the channel's rings and advances; deep
calibration is requested while no partition is loaded, starts at a boundary with the packet plane closed, gives its
values to a ring without held coefficients, and ends with the plane open, where light has reached every station. -/
def Obligations.RingsSweepsAndDeepCalibration : Prop :=
  ∀ (s : State) (w : Who) (v : W32),
    (∀ n key errs, n < 31 → n * 1088 ≤ key → key < (n + 1) * 1088 → s.loopCount % 10000 = 0 →
      ∃ u, exec (.heaterUpdate n errs) s = .next u ∧ ((u.ring key).heater : Int) =
          Int.toNat (((s.ring key).heater : Int) + keepIn (-(4000 / (s.ring key).eta)) (4000 / (s.ring key).eta)
            (keepIn 0 16383 ((s.ring key).feedForward (s.stn n).fieldTemp + (s.ring key).off + (s.ring key).pt) -
              (s.ring key).heater)) ∧
        (s.pilotPaused key = false → (u.ring key).pt = (if 250 < mget 0 errs key then keepIn (-512) 511 ((s.ring key).pt + 1)
          else if mget 0 errs key < -250 then keepIn (-512) 511 ((s.ring key).pt - 1) else (s.ring key).pt))) ∧
    (∀ n k diff, diff.natAbs ≤ 100 → ∃ u, exec (.splitterCheck n k diff) s = .next u ∧ mget 0 u.opt.splitSince (n * 32 + k) = 0 ∧
      u.evt = s.evt) ∧
    (∀ n k (diff : Int) since, 100 < diff.natAbs → mget 0 s.opt.splitSince (n * 32 + k) = since → 0 < since → since ≠ 2 ^ 80 →
      since + 10000000 ≤ s.boot.osc + 1 → ∃ u, exec (.splitterCheck n k diff) s = .next u ∧
        mget 0 u.opt.splitSince (n * 32 + k) = 2 ^ 80 ∧ u.opt.rings = s.opt.rings) ∧
    (∀ ring cause, ring < 33728 → (s.ring ring).failed = false → s.ringCause (s.ring ring) cause = true →
      ∃ u, exec (.ringFail ring cause) s = .next u ∧ u.ring ring = { s.ring ring with failed := true, failedAt := s.ht } ∧
        u.opt.pendingSub = s.opt.pendingSub ++ [ring]) ∧
    (∀ ring cause, (s.ring ring).failed = true → exec (.ringFail ring cause) s = .next s) ∧
    (∀ reads l, s.recalNow = true → s.opt.deep = .idle → s.time.st ≠ .free → 63800 ≤ framePos s.ht →
      s.opt.sweptFrame ≠ some (frameOf s.ht) → s.opt.switchNow.contains (s.opt.recalNext % 32) = false →
      s.opt.subNow.contains s.opt.recalNext = false → s.opt.dark.getLsbD (s.opt.recalNext % 32) = false → l < 17 →
      ∃ u, exec (.channelSweep reads) s = .next u ∧ u.opt.recalNext = (s.opt.recalNext + 1) % 1984 ∧
        u.opt.sweptFrame = some (frameOf s.ht) ∧ ((s.ring (s.opt.recalNext * 17 + l)).failed = false →
          u.ring (s.opt.recalNext * 17 + l) =
            (s.ring (s.opt.recalNext * 17 + l)).sweep (s.opt.recalNext / 32 % 2) (nth {} reads l))) ∧
    (v.getLsbD 0 = true → s.loadedParts = [] → s.time.st ≠ .free → s.opt.deep = .idle → exec (.deepCalRequest w v) s =
      .next { s with opt := { s.opt with deep := .requested } }) ∧
    (v.getLsbD 0 = true → s.loadedParts ≠ [] → ∃ u, exec (.deepCalRequest w v) s = .next u ∧ u.opt = s.opt) ∧
    (s.time.st ≠ .free → framePos s.ht = 0 → s.opt.deep = .requested → ∃ u, exec .deepCalStart s = .next u ∧
      u.opt.deep = .running s.ht ∧ u.fabric.planeOpen = false) ∧
    (∀ b key x, s.opt.deep = .running b → b + 38000000 ≤ s.ht → key < 33728 → (s.ring key).hold = 0 → (s.ring key).holdTable = 0 →
      (s.ring key).failed = false → x.found = true → ∃ u, exec (.deepCalApply [(key, x)]) s = .next u ∧ u.opt.deep = .applied b ∧
        (u.ring key).table = (List.range 8).map (nth 0 x.table) ∧ (u.ring key).off = 0 ∧ (u.ring key).pt = 0 ∧
        ((u.ring key).heater : Int) = keepIn 0 16383 ((u.ring key).feedForward (s.stn (key / 1088)).fieldTemp) ∧
        (key / 544 % 2 = 0 → (u.ring key).swing = x.swing) ∧
        (key / 544 % 2 = 1 → (u.ring key).gain = x.gain ∧ (u.ring key).rxOff = x.offset)) ∧
    (∀ b flights delays, s.opt.deep = .applied b → b + 40000000 ≤ s.ht → framePos s.ht = 0 → ∃ u,
      exec (.deepCalEnd flights delays) s = .next u ∧ u.opt.deep = .idle ∧ u.fabric.planeOpen = (s.opt.deepStartup && !s.safe.exiting || s.opt.flightValid) ∧
        (s.opt.deepStartup = true → s.safe.exiting = false → u.opt.flightValid = true))

/-- R363, R364, R366, R430, R488, lasers: an update of an active laser's fade, each millisecond the mean of its readings
less a simulated fade, sets its bias to rise or to rise no more, and makes a switchover due at −2.5 dB with a spare; a
spare locks 40 ms after its start, when a due switchover waits for the next interval, or, before the plane opens, takes a
failed laser's index; a switchover in the interval gives the index to the spare and fails the laser; a switchover asked
for is due with a locked spare, and changes nothing of the optics without one. -/
def Obligations.LasersAndSpares : Prop :=
  ∀ (s : State) (w : Who) (v : W32),
    (∀ l power, (s.laser l).lit = true → (s.laser l).readDue s.boot.osc = true → (s.laser l).st = .active →
      let db := dbRatio power (100 * (s.laser l).p0) - mget 0 s.tst.fades l
      let y := (s.laser l).read power db s.boot.osc
      (-150 < y.meanDb → (s.laser l).bias < (s.laser l).limit → (s.laser l).spare = none →
        ∃ u, exec (.fadeUpdate l power) s = .next u ∧ (u.laser l).readings = ((power, db) :: (s.laser l).readings).take 10 ∧
          (u.laser l).readAt = some s.boot.osc ∧ (u.laser l).fade = y.meanDb ∧
          (y.meanDb ≤ -50 → (u.laser l).raising = true) ∧ (-25 ≤ y.meanDb → (u.laser l).raising = false) ∧
          (-50 < y.meanDb → y.meanDb < -25 → (u.laser l).raising = (s.laser l).raising)) ∧
      (∀ sp, y.meanDb ≤ -250 → (s.laser l).spare = some sp → ∃ u, exec (.fadeUpdate l power) s = .next u ∧
        (u.laser l).switchDue = some ((s.laser l).switchDue.getD s.ht) ∧ (u.laser l).fade = y.meanDb ∧
        (y.meanDb ≤ -400 → (s.laser l).index ∈ u.opt.waiting))) ∧
    (∀ l power, (s.laser l).lit = false ∨ (s.laser l).readDue s.boot.osc = false → exec (.fadeUpdate l power) s = .next s) ∧
    (∀ sp, (s.laser sp).st = .warming → (s.laser sp).since + 40000000 ≤ s.boot.osc →
      ((∀ l, (s.laser l).spare ≠ some sp) → exec (.spareLock sp) s =
        .next (s.setLaser sp { s.laser sp with st := .locked, lit := true })) ∧
      (∀ l, s.spareOwner sp = some l → l ≠ sp →
        (s.beforePlane = false → exec (.spareLock sp) s =
          .next ((s.setLaser sp { s.laser sp with st := .locked, lit := true }).setLaser l
            { s.laser l with switchDue := (s.laser l).switchDue.map fun _ => s.ht })) ∧
        (s.beforePlane = true → (s.laser l).st = .failed → ∃ u, exec (.spareLock sp) s = .next u ∧
          (u.laser sp).st = .active ∧ (u.laser sp).index = (s.laser l).index ∧ (u.laser sp).lit = true ∧
          (u.laser l).spare = none))) ∧
    (∀ sp, (s.laser sp).st = .warming → s.boot.osc < (s.laser sp).since + 40000000 → exec (.spareLock sp) s = .next s) ∧
    (∀ k l sp, s.switchDue k = some l → s.maySwitch = true → (s.laser l).spare = some sp → sp ≠ l → (s.laser l).index = k →
      ∃ u, exec (.laserSwitchover k) s = .next u ∧ (u.laser sp).st = .active ∧
        (u.laser sp).index = k ∧ (u.laser sp).lit = true ∧ (u.laser l).st = .failed ∧ (u.laser l).lit = false ∧
        k ∉ u.opt.waiting ∧ (s.time.st ≠ .free → k ∈ u.opt.switchNow)) ∧
    (v.getLsbD 1 = true → bits v.toNat 13 8 < 40 → (s.laser (bits v.toNat 13 8)).st = .active →
      (s.spareLocked (bits v.toNat 13 8) = true → exec (.switchRequest w v) s = .next (s.setLaser (bits v.toNat 13 8)
        { s.laser (bits v.toNat 13 8) with switchDue := some ((s.laser (bits v.toNat 13 8)).switchDue.getD s.ht) })) ∧
      (s.spareLocked (bits v.toNat 13 8) = false → ∃ u, exec (.switchRequest w v) s = .next u ∧ u.opt = s.opt))

/-- R374 to R376, R381, R382, R385 to R387, R390, R391, R393 to R395, die links: a lane with errors in two checks
running is declared failed, once; failed lanes leave the maps; a training that agrees sets a bond port's maps and a
site's link, and the third mismatch of the hashes puts a port DOWN (which bytes are hashed is the model's choice, log
entry 87); retries; a declaration admitted or refused; the time word of a
chiplet; a site that loses its link; HBM3E retraining in turn and its repairs, temperatures, and the shut-down of a
stack's station; the clearing of the counters. -/
def Obligations.DieLinks : Prop :=
  ∀ (s : State) (n : Nat),
    let b := s.bond n
    let x := s.site n
    (∀ up dn lane, s.time.st ≠ .free → 63100 ≤ framePos s.ht → framePos s.ht ≤ 63700 →
      b.checkFrame ≠ some (frameOf s.ht) → lane < 528 → ∃ u, exec (.laneCheck n up dn) s = .next u ∧
        (u.bond n).upErr = up ∧ (u.bond n).dnErr = dn ∧
        (u.bond n).upFail.getLsbD lane = (b.upFail.getLsbD lane || up.getLsbD lane && b.upErr.getLsbD lane) ∧
        (u.bond n).dnFail.getLsbD lane = (b.dnFail.getLsbD lane || dn.getLsbD lane && b.dnErr.getLsbD lane)) ∧
    (∀ lane, lane < 528 → b.upFail.getLsbD lane = false → ∃ u, exec (.laneFail n 0 lane) s = .next u ∧
      (u.bond n).upFail = b.upFail ||| BitVec.ofNat 528 (2 ^ lane) ∧ (u.bond n).laneFails = satInc 65535 b.laneFails) ∧
    (∀ lane, lane < 528 → b.dnFail.getLsbD lane = false → ∃ u, exec (.laneFail n 1 lane) s = .next u ∧
      (u.bond n).dnFail = b.dnFail ||| BitVec.ofNat 528 (2 ^ lane) ∧ (u.bond n).laneFails = satInc 65535 b.laneFails) ∧
    (∀ lane, b.upFail.getLsbD lane = true → exec (.laneFail n 0 lane) s = .next s) ∧
    (b.st = 2 → s.time.st = .free ∨ 63900 ≤ framePos s.ht → b.lateFrame ≠ some (frameOf s.ht) →
      let up := b.upMap &&& ~~~b.upFail
      let dn := b.dnMap &&& ~~~b.dnFail
      up ≠ b.upMap ∨ dn ≠ b.dnMap →
      (∃ u, exec (.bpMapChange n (s.bondHash n up dn)) s = .next u ∧ (u.bond n).upMap = up ∧ (u.bond n).dnMap = dn ∧
        (u.bond n).widthUp = widthCode up ∧ (u.bond n).widthDn = widthCode dn) ∧
      (∀ hash, hash ≠ s.bondHash n up dn → b.mismatches < 2 → ∃ u, exec (.bpMapChange n hash) s = .next u ∧
        (u.bond n).st = 1 ∧ (u.bond n).upMap = b.upMap ∧ (u.bond n).trainings = satInc 65535 b.trainings)) ∧
    (∀ t : TrainResult, b.st = 1 → b.retryAt = none → (s.rgn n).boot = .clocked ∨ (s.rgn n).boot = .enabled →
      let keep := fun (old new : BitVec 528) => if b.ends.mismatch then new else old &&& new
      let up := keep b.upMap (t.upTx &&& t.upRx &&& ~~~b.upFail)
      let dn := keep b.dnMap (t.dnTx &&& t.dnRx &&& ~~~b.dnFail)
      (t.hash = s.bondHash n up dn → ∃ u, exec (.linkTraining (.bondPort n) t) s = .next u ∧ (u.bond n).ends = b.ends.agree ∧
        (u.bond n).upMap = up ∧ (u.bond n).dnMap = dn) ∧
      (t.hash ≠ s.bondHash n up dn → b.mismatches = 2 → ∃ u, exec (.linkTraining (.bondPort n) t) s = .next u ∧
        (u.bond n).st = 0 ∧ (u.bond n).retryAt = some (s.boot.osc + 1000000))) ∧
    (∀ t : TrainResult, 27 ≤ n → n ≤ 30 → x.st = 1 → x.retryAt = none →
      let y := x.trains t.peerEpoch
      let e := { y.ends with far := t.peerEpoch, farSaw := t.peerSaw }
      let keep := fun (old new : BitVec 528) => siteLanes &&& if e.mismatch then new else old &&& new
      let up := keep x.upMap (t.upTx &&& t.upRx)
      let dn := keep x.dnMap (t.dnTx &&& t.dnRx)
      (t.hash = linkHash e.base e.far up dn → ∃ u, exec (.linkTraining (.site n) t) s = .next u ∧ (u.site n).st = 2 ∧
        (u.site n).cause = 0 ∧ (u.site n).ends = e.agree ∧ (u.site n).upMap = up ∧ (u.site n).dnMap = dn ∧
        (u.site n).width = siteWidth up dn) ∧
      (t.hash ≠ linkHash e.base e.far up dn → y.mismatches < 2 → ∃ u, exec (.linkTraining (.site n) t) s = .next u ∧
        (u.site n).st = 1 ∧ (u.site n).mismatches = y.mismatches + 1 ∧ (u.site n).ends = e)) ∧
    (∀ at0, b.retryAt = some at0 → at0 ≤ s.boot.osc → ∃ u, exec (.trainingRetry (.bondPort n)) s = .next u ∧
      (u.bond n).st = 1 ∧ (u.bond n).retryAt = none ∧ (u.bond n).trainings = satInc 65535 b.trainings) ∧
    (∀ at0, x.retryAt = some at0 → at0 ≤ s.boot.osc → exec (.trainingRetry (.site n)) s = .next (s.setSite n
      { x with st := 1, cause := 0, retryAt := none, trainings := satInc 65535 x.trainings })) ∧
    (∀ decl, x.st = 2 → s.declCause n decl = 0 → ∃ u, exec (.chipletDeclaration n decl) s = .next u ∧ (u.site n).st = 3 ∧
      (u.site n).decl = decl) ∧
    (∀ decl, x.st = 2 → s.declCause n decl ≠ 0 → ∃ u, exec (.chipletDeclaration n decl) s = .next u ∧ (u.site n).st = 4 ∧
      (u.site n).cause = s.declCause n decl ∧ (u.site n).refusals = satInc 65535 x.refusals) ∧
    (x.st = 3 → 1 ≤ declField x.decl 7 1 → s.stnHt n % 1000 = 0 → exec (.chipletTimeWord n) s =
      .next (s.emit (.chipletTime n ⟨s.stnHt n, (s.stn n).wordUncertain, (s.stn n).wordSt⟩))) ∧
    (27 ≤ n → n ≤ 30 → x.st ≠ 0 → x.st ≠ 5 → ∃ u, exec (.siteLinkDown n) s = .next u ∧ (u.site n).st = 5 ∧
      (u.site n).retryAt = some (s.boot.osc + 10000000)) ∧
    (∀ bad, s.time.st ≠ .free → 63100 ≤ framePos s.ht → framePos s.ht ≤ 63700 → s.links.retrainNext = n →
      s.links.retrainFrame ≠ some (frameOf s.ht) → ∃ u, exec (.hbmRetrain n bad) s = .next u ∧
        u.links.retrainNext = (n + 1) % 192 ∧ u.links.retrainFrame = some (frameOf s.ht) ∧
        (u.chan n).repaired = (if bad = true ∧ (s.chan n).repaired < Config.redundantLanes n
          then (s.chan n).repaired + 1 else (s.chan n).repaired) ∧
        (bad = false → u = { s with links := u.links })) ∧
    (∀ k temp, ∃ u, exec (.hbmTempRead k temp) s = .next u ∧ (u.stack k).temp = temp ∧
      (u.stack k).refresh2x = decide (85 < temp)) ∧
    (∀ k, (s.stack k).cattrip = false → ∃ u, exec (.hbmCattrip k) s = .next u ∧ (u.stack k).cattrip = true ∧
      (u.stn (20 + k / 2)).baseSd = true ∧ u.safe.trig.getLsbD 3 = true) ∧
    (∀ w v, v.getLsbD 0 = true → ∃ u, exec (.dlkCntClr w v) s = .next u ∧ (u.bond n).trainings = 0 ∧
      (u.bond n).laneFails = 0 ∧ (u.site n).trainings = 0 ∧ (u.site n).refusals = 0 ∧ (u.bond n).upMap = b.upMap)

/-- R404, R406 to R408, R411, R417, R421, the loader: a GO queues a request, and none while one of the requester is
unfinished, and is held in a hand-off (R417); the loader takes an UNLOAD that passes its first checks, and refuses one of an empty partition, one that is
not entitled, and a LOAD whose source is not aligned or empty; the partitions of the scope begin to quiesce; each stops
at its instant, its tiles idle where it stops rather than holds; the apply step of an UNLOAD releases the partition; an
UNLOAD ends, and another request's apply step is followed by the resume; a REGION's partition resumes. -/
def Obligations.LoaderRequests : Prop :=
  ∀ (s : State) (w : Who) (v : W32),
    (∀ c op, (c, op) ∈ [(Instr.load w v, 0), (.unload w v, 1), (.region w v, 2), (.holdHbm w v, 3)] → v.getLsbD 31 = true →
      bits v.toNat 30 28 = op →
      (s.handOff = false → (s.reqr (Who.num w)).st.busy = false →
        ∃ u q, exec c s = .next u ∧ u.cfg.queue = s.cfg.queue ++ [q] ∧ q.op = op ∧ q.who = Who.num w ∧
          q.partition = bits v.toNat 27 22 ∧ q.station = bits v.toNat 21 17 ∧ q.region = bits v.toNat 16 13 ∧
          (u.reqr (Who.num w)).st = .queued) ∧
      (s.handOff = true → exec c s = .next (s.holdReq (.ctrl (Who.num w) v)))) ∧
    (∀ c, c ∈ [Instr.load w v, .unload w v, .region w v, .holdHbm w v] → (s.reqr (Who.num w)).st.busy = true →
      ∃ u, exec c s = .next u ∧ u.cfg.queue = s.cfg.queue) ∧
    (∀ img q, s.cfg.run = none → s.cfg.paused = false → s.nextReq = some q → q.op = 1 →
      ((s.part q.partition).isLoaded = true → s.mayLoad q.who q.partition = true → ∃ u, exec (.loaderStart img) s = .next u ∧
        u.cfg.run = some { req := q, phase := .checking } ∧ u.cfg.queue = s.cfg.queue.filter (fun r => r.who != q.who) ∧
        (u.reqr q.who).st = .checking) ∧
      ((s.part q.partition).isLoaded = false → ∃ u, exec (.loaderStart img) s = .next u ∧ u.cfg.run = none ∧
        (u.reqr q.who).st = .refused ∧ (u.reqr q.who).result = LR.badRequest) ∧
      ((s.part q.partition).isLoaded = true → s.mayLoad q.who q.partition = false → ∃ u, exec (.loaderStart img) s = .next u ∧
        u.cfg.run = none ∧ (u.reqr q.who).st = .refused ∧ (u.reqr q.who).result = LR.notEntitled)) ∧
    (∀ img q, s.cfg.run = none → s.cfg.paused = false → s.nextReq = some q → q.op = 0 → q.src.toNat % 4096 ≠ 0 ∨ q.len = 0 →
      ∃ u, exec (.loaderStart img) s = .next u ∧ u.cfg.run = none ∧ (u.reqr q.who).st = .refused ∧
        (u.reqr q.who).result = LR.badRequest) ∧
    (∀ l p, s.cfg.run = some l → l.phase = .checking → l.isLoad 2 = false → l.isLoad 3 = false → (∀ p ∈ s.scopeOf l, (s.part p).ck ≠ .saving) → p ∈ s.scopeOf l →
      ∃ u l', exec .quiesceBegin s = .next u ∧ u.cfg.run = some l' ∧ l'.phase = .quiescing ∧ l'.scope = s.scopeOf l ∧
        l'.req = l.req ∧ (u.part p).st = .quiescing ∧ (u.part p).noSample = true ∧
        (u.part p).twl = if (s.part p).twl = .active then .stopping else (s.part p).twl) ∧
    (∀ l p at0, s.cfg.run = some l → l.stopAt.find? (·.1 == p) = some (p, at0) → l.phase = .quiescing → p ∉ l.stopped →
      p ∉ l.lost → at0 ≤ s.ht →
      ∃ u l', exec (.quiesceStop p) s = .next u ∧ u.cfg.run = some l' ∧ l'.stopped = l.stopped ++ [p] ∧
        (u.part p).live = none ∧ (∀ t ∈ (s.part p).tiles, (u.tile t).st =
          if p ∈ l.stops ∧ ((s.tile t).st = .running ∨ (s.tile t).st = .waiting) then .idle else (s.tile t).st) ∧
        ((∀ t ∈ (s.part p).tiles, (s.tile t).descs = []) → l'.deadline = Nat.max l.deadline (s.ht + 200000))) ∧
    (∀ l reread, s.cfg.run = some l → l.phase = .quiescing → s.drained l = true → l.req.op = 1 → l.lost = [] → l.img = none →
      ∃ u l', exec (.applyStart reread) s = .next u ∧ u.cfg.run = some l' ∧ l'.phase = .applying ∧
        (u.part l.req.partition).isLoaded = false ∧ (u.part l.req.partition).tiles = [] ∧
        (u.part l.req.partition).owner = (s.part l.req.partition).owner) ∧
    (∀ l, s.cfg.run = some l → l.phase = .applying → l.req.op = 1 → l.lost = [] → ∃ u, exec .applyDone s = .next u ∧
      u.cfg.run = none ∧ (u.reqr l.req.who).st = .done ∧ (u.reqr l.req.who).result = LR.done) ∧
    (∀ l, s.cfg.run = some l → l.phase = .applying → l.req.op ≠ 1 → l.isLoad 2 = false → l.late = false →
      (l.req.op = 3 → s.inInterval = true) → ∃ u l', exec .applyDone s = .next u ∧
      u.cfg.run = some l' ∧ l'.phase = .resuming ∧ l'.applyEnd = some s.ht) ∧
    (∀ l e p, s.cfg.run = some l → l.phase = .resuming → l.applyEnd = some e → resumeBoundary e ≤ s.ht → l.req.op = 2 →
      l.lost = [] → l.scope = [p] → (s.part p).st ≠ .safeState → (s.part p).isLoaded = true → (s.part p).holdFrom = none →
      (∀ t ∈ (s.part p).tiles, (s.tile t).unplaced = false) → ∃ u, exec .scopeResume s = .next u ∧ u.cfg.run = none ∧
        (u.part p).st = .loaded ∧ (u.part p).noSample = false ∧ (u.part p).joff = (s.part p).joff)

/-- R415 to R420, an applied PRESENCE packet or a firmware write sets masks absolutely and never at the module's own
place, a bad packet is discarded and counted, and during a hand-off packets and writes are held; the firmware update passes from the
ready standby through the takeover at a boundary and the check to the flash, or is abandoned before the takeover, or
after it by a second hand-off to the old firmware; recovery takes an image only when it passes the checks, and restarts the module once it is in flash. -/
def Obligations.PresenceFirmwareAndRecovery : Prop :=
  ∀ (s : State) (w : Who) (v : W32),
    (s.handOff = true → exec .presence s = .next s) ∧
    (∀ f i, s.handOff = false → s.takeDest 26 (fun p => p.kind == kPRESENCE) = some f → s.presenceOk f.pkt = true →
      let m := presenceFields f.pkt
      i < m.2.2.length → ∃ u, exec .presence s = .next u ∧ u.cfg.presSeq = BitVec.ofNat 64 m.1 ∧
        (m.2.1 + i ≠ s.cfg.module → mget 0 u.cfg.presence (m.2.1 + i) = nth 0 m.2.2 i % 16) ∧
        mget 0 u.cfg.presence s.cfg.module = mget 0 s.cfg.presence s.cfg.module) ∧
    (∀ f, s.handOff = false → s.takeDest 26 (fun p => p.kind == kPRESENCE) = some f → s.presenceOk f.pkt = false →
      ∃ u, exec .presence s = .next u ∧ u.cfg = s.cfg ∧ (u.stn 26).discFmt = satInc 65535 (s.stn 26).discFmt) ∧
    (∀ n i, n < 512 → i < 8 → 8 * n + i ≠ s.cfg.module → Who.isFw w = true → s.handOff = false → ∃ u, exec (.presenceWrite w n v) s = .next u ∧
      mget 0 u.cfg.presence (8 * n + i) = bits v.toNat (4 * i + 3) (4 * i)) ∧
    (∀ n, (Who.isFw w = false → exec (.presenceWrite w n v) s = .next s) ∧
      (Who.isFw w = true → s.handOff = true → exec (.presenceWrite w n v) s = .next (s.holdReq (.pres n v)))) ∧
    (s.cfg.fw = .standbyPrep → exec .fwStandbyReady s =
      .next { s with cfg := { s.cfg with fw := .takeover, paused := true, fwReadyHt := s.ht } }) ∧
    (∀ id digest who, s.cfg.fw = .takeover → s.cfg.staged = some (id, digest, who) → s.cfg.paused = true →
      s.time.st = .free ∨ (s.ht % 64000 = 0 ∧ resumeBoundary s.cfg.fwReadyHt ≤ s.ht) →
      (s.cfg.reverting = false → ∃ u, exec .fwTakeover s = .next u ∧ u.cfg.activeCore = 1 - s.cfg.activeCore ∧
        u.cfg.version = id.toNat % 65536 ∧ u.cfg.fwDigest = digest ∧ u.cfg.paused = false ∧
        u.cfg.oldFw = (s.cfg.version, s.cfg.fwDigest)) ∧
      (s.cfg.reverting = true → ∃ u, exec .fwTakeover s = .next u ∧ u.cfg.activeCore = 1 - s.cfg.activeCore ∧
        u.cfg.version = s.cfg.oldFw.1 ∧ u.cfg.fwDigest = s.cfg.oldFw.2 ∧ u.cfg.fw = .abandoned ∧ u.cfg.paused = false)) ∧
    (s.cfg.fw = .takeover → s.cfg.paused = false → exec .fwCheckPass s =
      .next { s with cfg := { s.cfg with fw := .flashing, shadow := true } }) ∧
    (s.cfg.fw = .flashing → ∃ u, exec .fwFlashDone s = .next u ∧ u.cfg.fw = .done ∧ u.cfg.staged = none ∧
      u.cfg.flashFw = (s.cfg.version, s.cfg.fwDigest)) ∧
    (s.cfg.fw = .takeover → s.cfg.paused = false → exec .fwAbandon s =
      .next { s with cfg := { s.cfg with reverting := true, paused := true, fwReadyHt := s.ht } }) ∧
    (s.cfg.fw = .standbyPrep ∨ (s.cfg.fw = .takeover ∧ s.cfg.paused = true) → ∃ u, exec .fwAbandon s = .next u ∧ u.cfg.fw = .abandoned ∧ u.cfg.version = s.cfg.version ∧
      u.cfg.fwDigest = s.cfg.fwDigest ∧ u.cfg.activeCore = s.cfg.activeCore) ∧
    (∀ img, s.cfg.recMode = true → (v.getLsbD 30 = false → exec (.recoveryGo w v img) s = .next (s.stageBytes 0 img)) ∧
      (v.getLsbD 30 = true → s.cfg.recState ≠ 2 →
        let x := s.stageBytes 0 img
        let y := { x with cfg := { x.cfg with recLen := Nat.min 16777216 (bits v.toNat 24 0) } }
        ∃ u, exec (.recoveryGo w v img) s = .next u ∧ u.cfg.recLen = y.cfg.recLen ∧
          u.cfg.recState = (if y.recoveryImageOk (imageIn x.cfg.bar4).image then 2 else 4))) ∧
    (∀ id digest who, s.cfg.recMode = true → s.cfg.recState = 2 → s.cfg.staged = some (id, digest, who) →
      ∃ u, exec .recoveryFlashDone s = .next u ∧ u.boot.mode = .boot ∧ u.cfg.flashFw = (id.toNat % 65536, digest) ∧
        u.cfg.recMode = false)

/-- R343, R381, R424, R426 to R428, R430, R432, R435, start-up: power; the firmware check, whose end also sets the security
block's identity (the model's choice, log entry 30); fields in their order, and the fields whose failure ends start-up;
the training and zero-fill of HBM3E; a laser's start and lock; the boot windows; the enable of a region, its clusters,
its clock and its end. -/
def Obligations.StartUpSteps : Prop :=
  ∀ (s : State) (n : Nat),
    let r := s.rgn n
    (s.boot.mode = .powerOff → s.boot.failOff = false → ∃ u, exec .powerOn s = .next u ∧ u.boot.mode = .boot ∧
      u.boot.p1 = none ∧ u.time.st = .free ∧ u.boot.steps = 0 ∧ u.board.mate = true) ∧
    (s.booting = true → s.boot.p1 = none → ∃ u, exec (.firmwareCheckDone false) s = .next u ∧ u.boot.mode = .recovery ∧
      u.cfg.recMode = true) ∧
    (s.booting = true → s.boot.p1 = none → s.cfg.flashFw.2 ≠ s.cfg.fwDigest → ∃ u, exec (.firmwareCheckDone true) s = .next u ∧
      u.boot.p1 = some s.boot.osc ∧ u.cfg.version = s.cfg.flashFw.1 ∧ u.cfg.fwDigest = s.cfg.flashFw.2) ∧
    (s.booting = true → s.boot.p1 = none → s.boot.steps = 0 → s.cfg.flashFw.2 = s.cfg.fwDigest → exec (.firmwareCheckDone true) s = .next { s with
      boot := { s.boot with p1 := some s.boot.osc, steps := 1 }
      cfg := { s.cfg with shadow := true, version := s.cfg.flashFw.1, fwDigest := s.cfg.flashFw.2 }
      sec := { s.sec with identity := true } }) ∧
    (∀ p, s.boot.p1 = some p → s.booting = true → n ≤ 31 → s.field n = .off → p + 2000000 * n ≤ s.boot.osc →
      (∀ f < n, s.field f ≠ .off) → exec (.fieldPowerUp n) s = .next ((s.setField n .testing).heatField n)) ∧
    (s.booting = true → n ≤ 31 → s.field n = .testing →
      (∃ u, exec (.fieldBistDone n true) s = .next u ∧ u.field n = .passed ∧ (n < s.dies → (u.stn n).present = true)) ∧
      (n < 20 → ∃ u, exec (.fieldBistDone n false) s = .next u ∧ u.field n = .failed ∧ (u.die n).populated = false ∧
        u.boot.mode ≠ .failed) ∧
      (20 ≤ n → n ≤ 26 ∨ n = 31 → ∃ u, exec (.fieldBistDone n false) s = .next u ∧ u.boot.mode = .failed ∧
        u.boot.failStep = 2 ∧ u.boot.failDetail = n)) ∧
    (s.booting = true → 20 ≤ n → n ≤ 25 → s.field n = .passed → n ∉ s.boot.hbmTrained →
      (∀ bad, ∃ u, exec (.hbmTrainDone n bad none) s = .next u ∧ n ∈ u.boot.hbmTrained) ∧
      (∀ bad k, ∃ u, exec (.hbmTrainDone n bad (some k)) s = .next u ∧ u.boot.mode = .failed ∧ u.boot.failStep = 3)) ∧
    (∀ key, s.booting = true → n ∈ s.boot.hbmTrained → n ∉ s.boot.hbmFilled → 20 + key / channelBytes / 32 = n →
      (s.chan (key / channelBytes)).st ≠ 2 → ∃ u, exec (.hbmZeroFillDone n) s = .next u ∧ n ∈ u.boot.hbmFilled ∧
        mget 0 u.mem.hbm key = 0 ∧ ∀ k ∈ u.mem.hbmPoison, k * 32 ≠ key) ∧
    (s.mayStart n = true → ∃ u, exec (.laserStart n) s = .next u ∧ u.opt.lastStart = some s.boot.osc ∧
      u.laser n = { s.laser n with started := true, since := s.boot.osc, readings := [], readAt := none }) ∧
    ((s.laser n).started = true → (s.laser n).lit = false → (s.laser n).st = .active →
      ∃ u, exec (.laserLock n true) s = .next u ∧ u.laser n = { s.laser n with st := .active, wasActive := false, lit := true }) ∧
    (s.cfg.moduleLoaded = false → ∀ v, exec (.bootWinWrite .port0 0 false v) s = .next (s.stageLo .port0 0x110 v) ∧
      exec (.bootWinWrite .port1 0 false v) s = .next s ∧
      (s.stage = [] → ∃ u, exec (.bootWinWrite .port0 0 true v) s = .next u ∧
        u.boot.bootWin0 = BitVec.ofNat 64 (v.toNat * 2 ^ 32 + s.boot.bootWin0.toNat % 2 ^ 32))) ∧
    (s.booting = true → n ∈ s.bootRegions → r.boot = .off → s.enableReached n 0 = true →
      (∀ k ∈ s.bootRegions, k < n → (s.rgn k).boot ≠ .off) →
      exec (.regionEnableStart n) s = .next (s.setRgn n { r.takeMap with
        boot := .enabling, ungated := [], op := 3, opNext := 3, locked := false, stopped := true
        bond := { r.bond with ends := { r.bond.ends with far := r.bond.ends.far + 1, farSaw := none } } })) ∧
    (r.boot = .enabling → r.ungated.length < 16 → s.enableReached n (250 * r.ungated.length) = true →
      exec (.clusterUngate n r.ungated.length) s = .next (s.setRgn n { r with ungated := r.ungated ++ [r.ungated.length] })) ∧
    (r.boot = .enabling → r.ungated.length = 16 → s.enableReached n 4000 = true → ∃ u, exec (.regionClockStart n) s = .next u ∧
      u.rgn n = { r with boot := .clocked, stopped := false, locked := true } ∧
      ∀ t ∈ u.tiles, tileRegion t.1 = n → t.2.sram = [] ∧ t.2.poison = []) ∧
    (∀ sites routers, s.booting = true → r.boot = .clocked → ∃ u, exec (.regionEnableDone n sites routers) s = .next u ∧ (u.rgn n).boot = .enabled ∧
      n ∈ u.boot.regionsDone)

/-- R469, R471 to R473, R482, R496, R497, R502, R503, the board and the safe state: the inputs of triggers 4, 5 and 6 put
every loaded partition and the module into the safe state, with lasers dark, clocks stopped and memory in self-refresh
where it was not in it or was leaving it, and trigger 8 of the shared outputs puts the module there while the standby
shadows; firmware alone begins the exit, only with no partition loaded, the inputs good and no latch, and its end clears
the trigger bits; a power failure begins a flush, or switches off at once where nothing is left to write; the disconnect
and the exit from power-off reset; the reset pin and its release; the connector's break, which in a running module acts
as a power failure. -/
def Obligations.SafeStateAndBoardEvents : Prop :=
  ∀ (s : State) (w : Who) (v : W32) (p : Nat),
    (∀ c n, (c, n) ∈ [(Instr.inputVoltageFault, 4), (.coolantFlowLoss, 5), (.leakDetect, 6)] → ∃ u, exec c s = .next u ∧
      u.safe.shared = true ∧ u.safe.exiting = false ∧ u.safe.trig.getLsbD n = true ∧
      (s.safe.shared = false ∨ s.safe.exiting = true → u.mem.selfRefresh = true ∧
        (∀ l, l < 40 → (u.laser l).lit = false) ∧ ∀ k ∈ u.regions, k.2.stopped = true) ∧
      (p < 64 → (s.part p).isLoaded = true → (u.part p).st = .safeState)) ∧
    (s.cfg.shadow = true → ∃ u, exec (.mgmtCoreDisagree .shared) s = .next u ∧ u.safe.shared = true ∧
      u.safe.trig.getLsbD 8 = true) ∧
    (s.cfg.shadow = false → ∀ o, exec (.mgmtCoreDisagree o) s = .next s) ∧
    (v.getLsbD 0 = true → Who.isFw w = true → s.safe.shared = true → s.safe.exiting = false →
      (s.loadedParts = [] → s.anyLatch = false → ∃ u, exec (.safeExit w v true) s = .next u ∧ u.safe.exiting = true ∧
        u.mem.selfRefresh = false) ∧
      (s.loadedParts ≠ [] ∨ s.anyLatch = true → ∃ u, exec (.safeExit w v true) s = .next u ∧ u.safe = s.safe) ∧
      ∃ u, exec (.safeExit w v false) s = .next u ∧ u.safe = s.safe) ∧
    (Who.isFw w = false → exec (.safeExit w v true) s = .next s) ∧
    (s.safe.shared = true → s.safe.exiting = true → s.safe.relit = true → ∃ u, exec .safeExitDone s = .next u ∧
      u.safe.shared = false ∧ u.safe.exiting = false ∧ u.safe.trig = 0) ∧
    (s.boot.mode ≠ .powerOff → s.evt.flush = none → s.evt.erasing = false → s.evt.sets.length < 16 →
      (s.evt.unwritten s.evt.next ≠ [] → ∃ u, exec .powerFailFlush s = .next u ∧ (∃ f, u.evt.flush = some f ∧ f.cause = 2) ∧
        u.evt.after = 2 ∧ u.boot.mode = s.boot.mode ∧ ((s.safe.trig.getLsbD 4 = false) → ∀ k ∈ u.regions, k.2.stopped = true)) ∧
      (s.evt.unwritten s.evt.next = [] → ∃ u, exec .powerFailFlush s = .next u ∧ u.boot.mode = .powerOff ∧ u.boot.failOff = true)) ∧
    (s.boot.mode ≠ .powerOff → s.evt.flush = none → ∃ u, exec .inputDisconnect s = .next u ∧ u.boot.mode = .powerOff ∧
      u.boot.failOff = true ∧ u.fused = s.fused) ∧
    (s.boot.mode = .powerOff → ∃ u, exec .powerOffResetExit s = .next u ∧ u.boot.mode = .boot ∧ u.board.mate = true) ∧
    (s.boot.mode ≠ .powerOff → s.boot.mode ≠ .held → s.evt.flush = none → s.evt.erasing = false → s.evt.buf = [] →
      ∃ u, exec .modReset s = .next u ∧ u.boot.mode = .held ∧ u.board.resetLow = true) ∧
    (∃ u, exec .mateBreak s = .next u ∧ u.board = { s.board with mate := false } ∧
      (s.boot.mode = .powerOff → u.boot = s.boot) ∧
      (s.boot.mode ≠ .powerOff → s.evt.flush = none → s.evt.unwritten s.evt.next = [] →
        u.boot.mode = .powerOff ∧ u.boot.failOff = true) ∧
      (s.boot.mode ≠ .powerOff → s.evt.flush = none → s.evt.erasing = false → s.evt.sets.length < 16 →
        s.evt.unwritten s.evt.next ≠ [] → (∃ f, u.evt.flush = some f ∧ f.cause = 2) ∧ u.evt.after = 2 ∧
          u.boot.mode = s.boot.mode)) ∧
    (s.boot.mode = .held → s.evt.flush = none → ∃ u, exec .modResetRelease s = .next u ∧ u.boot.mode = .boot ∧
      u.board.resetLow = false) ∧
    (s.boot.mode ≠ .held → exec .modResetRelease s = .next { s with board := { s.board with resetLow := false } })

/-- R424, R440, R443 to R448, R462, R465, the PCIe ports: a link down counts, and a link up; a port's reset and its
configuration; a host access of job-0 memory within one 256-byte block becomes a STORE or LOAD packet, a poisoned write
fails and a read during deep calibration ends with CA, and a port that is down answers nothing; a read whose part ended
DONE completes with its data, and with TRANSLATION_MISS as UR; the flush read, at an address that is a free value (log
entry 19), covers the writes not yet acknowledged; a completion ends its request, and that of a later flush ends the
writes of the earlier one too; DOE Discovery, whose codes are the
model's choice (log entry 29). -/
def Obligations.PciePortsAndHostMemory : Prop :=
  ∀ (s : State) (n : Nat),
    let q := s.port n
    (∀ cause, ∃ u, exec (.pcieLinkDown n cause) s = .next u ∧ (u.port n).up = false ∧
      (u.port n).retrains = satInc 65535 q.retrains ∧
      (u.port n).downs = if q.up then satInc 65535 q.downs else q.downs) ∧
    (s.boot.mode ≠ .powerOff → s.boot.mode ≠ .held → ∃ u, exec (.pcieLinkUp n) s = .next u ∧ (u.port n).up = true ∧
      (u.port n).width = 8 ∧ (u.port n).rate = 6) ∧
    (∃ u, exec (.pciePortReset n) s = .next u ∧ (u.port n).bme = false ∧ (u.port n).msixEn = false ∧
      (u.port n).msixTable = [] ∧ (u.port n).aer = 0 ∧ (∀ e ∈ u.latch, e.1 / 2 ^ 32 ≠ n) ∧ u.stage = s.stage) ∧
    (∀ bme en, exec (.pcieConfigWrite n bme ⟨en, none⟩) s =
      .next (s.updPort n fun p => { p with bme := bme, msixEn := en })) ∧
    (∀ bme en v a d, exec (.pcieConfigWrite n bme ⟨en, some (v, a, d)⟩) s = .next (s.updPort n fun p =>
      { p with bme := bme, msixEn := en, msixTable := mset {} p.msixTable v { addr := a, data := d } })) ∧
    (∀ addr data, q.up = true → addr + data.length ≤ 2 ^ s.fused.bar2Log2 → s.opt.deepRuns = false → 0 < data.length →
      addr % 256 + data.length ≤ 256 → ∃ u, exec (.bar2Write n addr data false) s = .next u ∧
        (u.port n).writes = q.writes ++ [{ txid := q.txid, va := addr, len := data.length }] ∧
        ∃ f ∈ u.fabric.pkts, f.pkt.kind = kSTORE ∧ f.pkt.payload = data ∧ f.pkt.dst = s.memCoord ∧ f.pkt.src = s.hostCoord n) ∧
    (∀ addr data, q.up = true → addr + data.length ≤ 2 ^ s.fused.bar2Log2 → s.opt.deepRuns = false → 0 < data.length →
      addr % 256 + data.length ≤ 256 → ∃ u, exec (.bar2Write n addr data true) s = .next u ∧
        u.fabric = s.fabric ∧ (u.port n).wfail = satInc 65535 q.wfail ∧ (u.port n).aer.getLsbD 12 = true) ∧
    (∀ addr data, q.up = true → 512 < data.length → ∃ u, exec (.bar2Write n addr data false) s = .next u ∧
      u.fabric = s.fabric ∧ (u.port n).wfail = q.wfail ∧ (u.port n).aer.getLsbD 18 = true) ∧
    (∀ addr len, q.up = true → addr + len ≤ 2 ^ s.fused.bar2Log2 → s.opt.deepRuns = false → 0 < len → addr % 256 + len ≤ 256 →
      q.reads = [] → q.writes = [] → ∃ u, exec (.bar2Read n addr len) s = .next u ∧
        (u.port n).reads.map (fun r => (r.addr, r.len, r.entered)) = [(addr, len, true)] ∧
        ∃ f ∈ u.fabric.pkts, f.pkt.kind = kLOAD ∧ f.pkt.dst = s.memCoord ∧ f.pkt.src = s.hostCoord n) ∧
    (∀ addr len, q.up = true → len ≤ 4096 → addr + len ≤ 2 ^ s.fused.bar2Log2 → s.opt.deepRuns = true →
      ∃ u, exec (.bar2Read n addr len) s = .next u ∧ u.out = s.out ++ [.bar2Done n addr 2 [], .aer n 15]) ∧
    (∀ addr len, q.up = true → 4096 < len → ∃ u, exec (.bar2Read n addr len) s = .next u ∧
      u.out = s.out ++ [.bar2Done n addr 1 [], .aer n 20]) ∧
    (∀ addr len, q.up = false → exec (.bar2Read n addr len) s = .next s ∧ exec (.bar2Write n addr [] false) s = .next s) ∧
    (∀ addr len (part : Bar2Part) bs, q.writes = [] →
      q.reads = [{ addr := addr, len := len, entered := true, parts := [{ part with status := some St.done, data := bs }] }] →
      ∃ u, exec (.bar2ReadComplete n) s = .next u ∧ (u.port n).reads = [] ∧ u.out = s.out ++ [.bar2Done n addr 0 ((bs.drop (part.va % 4)).take part.len)]) ∧
    (∀ addr len (part : Bar2Part), q.writes = [] →
      q.reads = [{ addr := addr, len := len, entered := true, parts := [{ part with status := some St.translationMiss }] }] →
      ∃ u, exec (.bar2ReadComplete n) s = .next u ∧ u.out = s.out ++ [.bar2Done n addr 1 [], .aer n 20]) ∧
    (q.unacked = true → q.refusal = none → q.reqsFull = false → ∃ u, exec (.hostFlushRead n) s = .next u ∧ (u.port n).unflushed = [] ∧
      (u.port n).reqs = q.reqs ++ [{ tag := q.freeTag, covers := q.unflushed }] ∧
      u.out = s.out ++ [.pcieRead n (Config.flushAddr q.freeTag) 4 q.freeTag]) ∧
    (∀ tag pkt data, q.reqs = [{ tag := tag, pkt := some pkt }] → ∃ u, exec (.pcieCompletion n tag (.success data)) s = .next u ∧
      (u.port n).reqs = [] ∧
      u = ((s.setPort n { q with reqs := [] }).countAnswer 26 St.done).answer 26 pkt St.done data) ∧
    (∀ t₁ t₂ c₁ c₂ data, t₁ ≠ t₂ → q.reqs = [{ tag := t₁, covers := c₁ }, { tag := t₂, covers := c₂ }] →
      exec (.pcieCompletion n t₂ (.success data)) s = .next (((c₁ ++ c₂).foldl (fun s p => s.hostWriteOver p St.done)
        (s.setPort n { q with reqs := [{ tag := t₁ }] })).msgSweep 26)) ∧
    (q.up = true → exec (.doeDiscovery n 0) s = .next (s.emit (.doe n 1 0 1)) ∧
      exec (.doeDiscovery n 1) s = .next (s.emit (.doe n 1 1 0)))

/-- R458 to R460, R462, R463, R466, the side-band, SPDM and JTAG: the answers of the side-band, and none before MCTP runs;
the SPDM requests, each where the connection stands as it needs, with the two refusals out of order stated for
capabilities, measurements and challenge and an offer that lacks what the responder needs; what the chain holds, and a
signature of a message, are free values (log entries 11 and 28); a signed answer is counted, over the transcripts so far;
the JTAG instructions, of which the last five act only while the board holds the module in reset, and the capture of
the cells. The codes
of the messages are the model's choice (log entry 29). -/
def Obligations.SidebandSpdmAndJtag : Prop :=
  ∀ (s : State) (via : SpdmVia),
    let c := s.conn via
    (s.mctpRuns = true →
      (∀ m, m.vendor = false → m.command = 1 → m.eid ≠ 0 → m.eid ≠ 0xFF → ∃ u, exec (.mctpControl m) s = .next u ∧ u.sec.eid = m.eid) ∧
      (∀ m, m.vendor = true → exec (.mctpControl m) s = .next (s.emit (.mctp s.mctpAddr (mctpPackets [1])))) ∧
      (exec .getState s = .next (s.emit (.mctp s.mctpAddr (mctpPackets ([0] ++ leBytes 4 s.bootStatus ++
        leBytes 4 s.timeStatus ++ leBytes 4 s.powerStatus ++ leBytes 4 s.powerInput))))) ∧
      (∀ die, die ≤ 19 → ∃ a, exec (.getTemps die) s = .next (s.emit (.mctp s.mctpAddr (mctpPackets ([0] ++ leBytes 2 a ++
        leBytes 2 (quarter (s.stn die).baseTemp))))) ∧ ∀ r ∈ dieRegions die, quarter (s.rgn r).tEff ≤ a) ∧
      (∀ o, o % 4 = 0 → o < 0x4000000 → ∃ u, exec (.readReg o) s = .next u ∧
        u.out = s.out ++ [.mctp s.mctpAddr (mctpPackets ([0] ++ leBytes 4 (s.regValue .sideband o).toNat))]) ∧
      (∀ r, s.evt.buf.find? (fun e => e.seq == r.seq) = some r → ∃ u, exec (.readPeat r.seq) s = .next u ∧
        u.out = s.out ++ [.mctp s.mctpAddr (mctpPackets ([0] ++ r.bytes))] ∧ r.seq ∉ u.evt.unread ∧ u.evt.buf = s.evt.buf)) ∧
    (s.mctpRuns = false → exec .getState s = .next s ∧ (∀ die, exec (.getTemps die) s = .next s) ∧
      (∀ seq, exec (.readPeat seq) s = .next s) ∧ ∀ m, exec (.mctpControl m) s = .next s) ∧
    (s.spdmUp via = true →
      (∃ u, exec (.getVersion via) s = .next u ∧ (u.conn via).version = true ∧ (u.conn via).caps = false ∧
        (u.conn via).m1 = []) ∧
      (c.version = true → ∃ u, exec (.getCapabilities via) s = .next u ∧ (u.conn via).caps = true ∧
        c.vca <+: (u.conn via).vca ∧ u.out = (s.spdmSend via (spdmMsg 0x61 0 0 (leBytes 4 0x16))).out) ∧
      (c.version = false → exec (.getCapabilities via) s = .next (s.spdmError via 4 0)) ∧
      (c.caps = true → ∃ u, exec (.negotiateAlgorithms via {}) s = .next u ∧ (u.conn via).algs = true ∧
        u.out = (s.spdmSend via (spdmMsg 0x63 0 0 (AlgOffer.bytes {}))).out) ∧
      (∀ o : AlgOffer, o.dmtf = false ∨ o.sha3 = false ∨ o.mldsa = false →
        exec (.negotiateAlgorithms via o) s = .next (s.spdmError via 1 0)) ∧
      (c.algs = true → (∃ u, exec (.getDigests via) s = .next u ∧ (u.conn via).vca = c.vca ∧
          u.out = (s.spdmSend via (spdmMsg 0x01 0 1 s.chainDigest)).out) ∧
        (∀ o l, ∃ u, exec (.getCertificate via 0 o l) s = .next u ∧
          u.out = (s.spdmSend via (spdmMsg 0x02 0 0 ((s.certChain.drop o).take l))).out) ∧
        (∀ nonce, let req := spdmMsg 0x83 0 0 (leBytes 32 nonce.toNat); let rsp := spdmMsg 0x03 0 1 s.chainDigest
          ∃ u, exec (.challenge via 0 nonce) s = .next u ∧ u.sec.signs = satInc 65535 s.sec.signs ∧ (u.conn via).m1 = [] ∧
            u.out = (s.spdmSend via (rsp ++ Config.sign (c.vca ++ c.m1 ++ req ++ rsp))).out) ∧
        (∀ nonce, let req := spdmMsg 0xE0 1 0xFF (leBytes 32 nonce.toNat); let rsp := spdmMsg 0x60 0 0 s.measurements
          ∃ u, exec (.getMeasurements via nonce) s = .next u ∧ u.sec.signs = satInc 65535 s.sec.signs ∧
            u.out = (s.spdmSend via (rsp ++ Config.sign (c.vca ++ c.l1 ++ req ++ rsp))).out)) ∧
      (c.algs = false → ∀ nonce, exec (.getMeasurements via nonce) s = .next (s.spdmError via 4 0) ∧
        exec (.challenge via 0 nonce) s = .next (s.spdmError via 4 0)) ∧
      (∀ code, exec (.spdmUnsupported via code) s = .next (s.spdmError via 7 code))) ∧
    (exec .bypass s = .next { s with jtag := .bypass }) ∧
    (∃ u, exec .idcode s = .next u ∧ u.jtag = .idcode ∧ u.out = s.out ++ [.idcode s.idcode]) ∧
    (∃ u, exec .samplePreload s = .next u ∧ u.jtag = .samplePreload ∧ u.board = { s.board with scan := s.cells }) ∧
    (∀ i ir, (i, ir) ∈ [(Instr.extest, JtagIr.extest), (.extestPulse, .extestPulse), (.extestTrain, .extestTrain)] →
      (s.board.resetLow = true → ∃ u, exec i s = .next u ∧ u.jtag = ir ∧ u.board = { s.board with scan := s.cells }) ∧
      (s.board.resetLow = false → exec i s = .next { s with jtag := .bypass })) ∧
    (∀ i ir, (i, ir) ∈ [(Instr.clamp, JtagIr.clamp), (.highz, .highz)] →
      exec i s = .next { s with jtag := if s.board.resetLow then ir else .bypass })

/-- R476 to R481, R483, R488 to R490, R492, Peat and the test block: a record enters a buffer that has room and is lost in
a full one, whose last places are for block 0xE; a die's staged record is sent; a window without suppressed records ends;
a clear, a flush and its end, an erase by firmware alone and its end; the read latch; the test block unlocks by two keys
within 1 ms and never while a production partition is loaded, a lock clears its settings, and a station's hall-time
offset and the seed are taken only while it is unlocked. -/
def Obligations.PeatAndTheTestBlock : Prop :=
  ∀ (s : State) (w : Who) (v : W32),
    (∀ r rs, s.evt.offered = r :: rs → ∃ u, exec .peatRecord s = .next u ∧ u.evt.offered = rs ∧
      (s.evt.buf.length < 32512 ∨ (s.evt.buf.length < 32768 ∧ r.code / 4096 = 14) →
        u.evt.buf = s.evt.buf ++ [{ r with seq := s.evt.next }] ∧ u.evt.next = s.evt.next + 1) ∧
      (32768 ≤ s.evt.buf.length ∨ (32512 ≤ s.evt.buf.length ∧ r.code / 4096 ≠ 14) →
        u.evt.buf = s.evt.buf ∧ u.evt.lostFull = satInc 65535 s.evt.lostFull)) ∧
    (∀ die r rs, mget [] s.evt.stages die = r :: rs → mget 0 s.evt.stageLost die = 0 → ∃ u, exec (.peatStageSend die) s = .next u ∧
      mget [] u.evt.stages die = rs ∧ u.evt.offered = s.evt.offered ++ [r]) ∧
    (s.windowCount % 10000000 = 0 → s.evt.supp = [] → exec .peatRateWindow s =
      .next { s with evt := { s.evt with counts := [], supp := [] } }) ∧
    (v.getLsbD 0 = true → s.evt.flush = none → ∃ u r, exec (.clear w v) s = .next u ∧ u.evt.buf = [r] ∧ r.code = 0xEF02 ∧
      r.seq = s.evt.next ∧ u.evt.lostDie = 0 ∧ u.evt.lostFull = 0) ∧
    (v.getLsbD 1 = true → s.evt.flush = none → s.evt.erasing = false → s.evt.sets.length < 16 →
      s.evt.unwritten s.evt.next ≠ [] → ∃ u, exec (.flush w v) s = .next u ∧
        u.evt.flush = some { cause := 0, upTo := s.evt.next } ∧ u.evt.buf = s.evt.buf) ∧
    (∀ f n, s.evt.flush = some f → f.cause = 0 → f.clearAfter = false → f.eraseAfter = false → s.evt.after = 0 →
      ∃ u, exec (.flushDone n) s = .next u ∧ u.evt.flush = none ∧
        u.evt.sets = s.evt.sets ++ [{ cause := 0, isPartial := false, recs := s.evt.unwritten f.upTo }] ∧ u.evt.buf = s.evt.buf) ∧
    (v.getLsbD 2 = true → Who.isFw w = true → s.evt.flush = none → s.evt.erasing = false →
      ∃ u, exec (.flashClear w v) s = .next u ∧ u.evt.erasing = true ∧ u.evt.sets = [] ∧ u.evt.buf = s.evt.buf) ∧
    (Who.isFw w = false → exec (.flashClear w v) s = .next s) ∧
    (s.evt.erasing = true → s.evt.flushWait = none → ∃ u, exec .flashEraseDone s = .next u ∧ u.evt.erasing = false) ∧
    (s.stage = [] → ∃ u, exec (.peatReadLatch w v) s = .next u ∧
      u.evt.rdSeq = BitVec.ofNat 64 (v.toNat * 2 ^ 32 + s.evt.rdSeq.toNat % 2 ^ 32) ∧
      mget {} u.evt.latched w.slot = s.evt.find s.evt.rdSrc u.evt.rdSeq.toNat) ∧
    (v.toNat % 65536 = 0x3C1F → exec (.tstKeyWrite w v) s =
      .next { s with tst := { s.tst with key1 := some (w, s.boot.osc) } }) ∧
    (∀ at0, v.toNat % 65536 = 0xC3E0 → s.tst.key1 = some (w, at0) → s.tst.unlocked = false →
      (s.boot.osc ≤ at0 + 1000000 → s.prodLock = false → ∃ u, exec (.tstKeyWrite w v) s = .next u ∧ u.tst.unlocked = true) ∧
      (s.boot.osc ≤ at0 + 1000000 → s.prodLock = true → ∃ u, exec (.tstKeyWrite w v) s = .next u ∧ u.tst.unlocked = false) ∧
      (at0 + 1000000 < s.boot.osc → ∃ u, exec (.tstKeyWrite w v) s = .next u ∧ u.tst.unlocked = false)) ∧
    (∀ n, v.getLsbD 0 = true → s.tst.unlocked = true → ∃ u, exec (.tstLock w v) s = .next u ∧ u.tst.unlocked = false ∧
      u.tst.seed = 0 ∧ u.tst.fades = [] ∧ (u.stn n).tstVc = [] ∧ (u.stn n).tstHt = 0 ∧ (u.rgn n).tstT = 0) ∧
    (s.tst.unlocked = true → ∃ u, exec (.tstSeedWrite w v) s = .next u ∧ u.tst.seed = v ∧ u.tst.draws = 0) ∧
    (∀ n, n < 31 → s.tst.unlocked = true → ∃ u, exec (.tstSettingWrite w (0xC01000 + 0x40 * n + 0x10) v) s = .next u ∧
      (u.stn n).tstHt = BitVec.ofNat 16 v.toNat) ∧
    (s.tst.unlocked = false → ∀ a, ∃ u, exec (.tstSettingWrite w a v) s = .next u ∧ u.stations = s.stations ∧
      u.regions = s.regions ∧ u.tst.fades = s.tst.fades)
end

