-- ==== Sys2Proof/Laws/Codeword.lean ====
section
/-! SUPPORT. The words of one bit time, and the remainder and parity of the code of R134, which are linear. -/

namespace Sys2Proof.Machine

theorem oneBit_getLsbD (i j : Nat) (hj : j < 266) : (oneBit i).getLsbD j = decide (i = j) := by
  unfold oneBit
  rw [BitVec.getLsbD_shiftLeft, BitVec.getLsbD_one]
  by_cases h : i = j
  · subst h; simp [hj]
  · by_cases h2 : j < i
    · simp [h2, h]
    · have : j - i ≠ 0 := by omega
      simp [h, this]

theorem xor_swap {n : Nat} (x y z w : BitVec n) : (x ^^^ y) ^^^ (z ^^^ w) = (x ^^^ z) ^^^ (y ^^^ w) := by
  rw [BitVec.xor_assoc, BitVec.xor_assoc, ← BitVec.xor_assoc y, BitVec.xor_comm y z, BitVec.xor_assoc]

theorem bchTimesX_xor : ∀ a b : BitVec 9, bchTimesX (a ^^^ b) = bchTimesX a ^^^ bchTimesX b := by
  intro a b
  unfold bchTimesX
  rw [BitVec.getLsbD_xor, BitVec.shiftLeft_xor_distrib]
  rw [xor_swap]
  congr 1
  cases a.getLsbD 8 <;> cases b.getLsbD 8 <;> rfl

theorem bchRem_xor (n : Nat) (v w : BitVec 266) : bchRem n (v ^^^ w) = bchRem n v ^^^ bchRem n w := by
  unfold bchRem
  suffices h : ∀ (l : List Nat) (a b : BitVec 9),
      l.foldl (fun r i => bchTimesX r ^^^ (if (v ^^^ w).getLsbD i then 1 else 0)) (a ^^^ b) =
        l.foldl (fun r i => bchTimesX r ^^^ (if v.getLsbD i then 1 else 0)) a ^^^
          l.foldl (fun r i => bchTimesX r ^^^ (if w.getLsbD i then 1 else 0)) b from by
    simpa using h (List.range n) 0 0
  intro l
  induction l with
  | nil => exact fun _ _ => rfl
  | cons i l ih =>
    intro a b
    simp only [List.foldl_cons]
    rw [← ih, bchTimesX_xor]
    rw [BitVec.getLsbD_xor]
    rw [← xor_swap]
    cases v.getLsbD i <;> cases w.getLsbD i <;> rfl

/-- Only the first n bits count. -/
theorem bchRem_congr {n : Nat} {v w : BitVec 266} (h : ∀ i < n, v.getLsbD i = w.getLsbD i) : bchRem n v = bchRem n w := by
  unfold bchRem
  suffices k : ∀ (l : List Nat) (r : BitVec 9), (∀ i ∈ l, i < n) →
      l.foldl (fun r i => bchTimesX r ^^^ (if v.getLsbD i then 1 else 0)) r =
        l.foldl (fun r i => bchTimesX r ^^^ (if w.getLsbD i then 1 else 0)) r from k _ _ fun i hi => List.mem_range.1 hi
  intro l
  induction l with
  | nil => exact fun _ _ => rfl
  | cons i l ih =>
    intro r hl
    simp only [List.foldl_cons]
    rw [h i (hl i (List.mem_cons_self ..))]
    exact ih _ fun j hj => hl j (List.mem_cons_of_mem _ hj)

theorem bitParity_xor (n : Nat) (v w : BitVec 266) : bitParity n (v ^^^ w) = xor (bitParity n v) (bitParity n w) := by
  unfold bitParity
  suffices h : ∀ (l : List Nat) (a b : Bool), l.foldl (fun p i => xor p ((v ^^^ w).getLsbD i)) (xor a b) =
      xor (l.foldl (fun p i => xor p (v.getLsbD i)) a) (l.foldl (fun p i => xor p (w.getLsbD i)) b) from
    h (List.range n) false false
  intro l
  induction l with
  | nil => exact fun _ _ => rfl
  | cons i l ih =>
    intro a b
    simp only [List.foldl_cons]
    rw [← ih, BitVec.getLsbD_xor]
    congr 1
    cases a <;> cases b <;> cases v.getLsbD i <;> cases w.getLsbD i <;> rfl

end Sys2Proof.Machine
end

