-- ==== Sys2Proof/Laws/Table.lean ====
section
/-! SUPPORT. Sparse tables and bytes: reading after writing, and the canonical form. -/

namespace Sys2Proof.Machine

variable {α : Type}

theorem mget_minsert (d : α) (m : SMap α) (k k' : Nat) (v : α) :
    mget d (minsert m k v) k' = if k' = k then v else mget d m k' := by
  induction m with
  | nil => simp only [minsert, mget, eq_comm]
  | cons p m ih =>
    obtain ⟨a, x⟩ := p
    simp only [minsert]
    by_cases h1 : k < a
    · simp only [h1, if_true, mget, eq_comm]
    · by_cases h2 : k = a
      · subst h2
        simp only [h1, if_false, if_true, mget]
        by_cases h3 : k' = k
        · simp [h3]
        · simp [h3, Ne.symm h3]
      · simp only [h1, h2, if_false, mget]
        by_cases h3 : a = k'
        · subst h3
          simp [Ne.symm h2]
        · simp [h3, ih]

theorem mget_merase (d : α) (m : SMap α) (k k' : Nat) :
    mget d (merase m k) k' = if k' = k then d else mget d m k' := by
  induction m with
  | nil => simp [merase, mget]
  | cons p m ih =>
    obtain ⟨a, x⟩ := p
    simp only [merase] at ih ⊢
    by_cases h : a = k
    · subst h
      by_cases h' : k' = a
      · simp_all
      · simp_all [mget, eq_comm]
    · by_cases h' : a = k'
      · subst h'
        simp_all [mget]
      · simp_all [mget]

theorem mget_mset [DecidableEq α] (d : α) (m : SMap α) (k k' : Nat) (v : α) :
    mget d (mset d m k v) k' = if k' = k then v else mget d m k' := by
  unfold mset
  split
  · simp only [mget_merase, *]
  · exact mget_minsert d m k k' v

@[simp] theorem mget_mset_same [DecidableEq α] (d : α) (m : SMap α) (k : Nat) (v : α) :
    mget d (mset d m k v) k = v := by simp [mget_mset]

theorem mget_mset_ne [DecidableEq α] (d : α) (m : SMap α) {k k' : Nat} (v : α) (h : k' ≠ k) :
    mget d (mset d m k v) k' = mget d m k' := by simp [mget_mset, h]

/-! ## The canonical form -/

theorem msorted_cons {p : Nat × α} {m : SMap α} :
    msorted (p :: m) = true ↔ msorted m = true ∧ ∀ q ∈ m.head?, p.1 < q.1 := by
  cases m with
  | nil => simp [msorted]
  | cons q m => simp [msorted, and_comm]

theorem msorted_all {p : Nat × α} {m : SMap α} (h : msorted (p :: m) = true) : ∀ q ∈ m, p.1 < q.1 := by
  induction m generalizing p with
  | nil => simp
  | cons q m ih =>
    rw [msorted_cons] at h
    have hpq : p.1 < q.1 := by simpa using h.2
    intro r hr
    rcases List.mem_cons.1 hr with rfl | hr
    · exact hpq
    · exact lt_trans hpq (ih h.1 r hr)

theorem msorted_of_all {p : Nat × α} {m : SMap α} (hm : msorted m = true) (h : ∀ q ∈ m, p.1 < q.1) :
    msorted (p :: m) = true := by
  rw [msorted_cons]
  refine ⟨hm, fun q hq => h q ?_⟩
  cases m <;> simp_all

theorem msorted_filter {m : SMap α} (f : Nat × α → Bool) (h : msorted m = true) : msorted (m.filter f) = true := by
  induction m with
  | nil => simp [msorted]
  | cons p m ih =>
    have hm := (msorted_cons.1 h).1
    simp only [List.filter_cons]
    split
    · exact msorted_of_all (ih hm) fun q hq => msorted_all h q (List.mem_of_mem_filter hq)
    · exact ih hm

theorem mem_minsert {m : SMap α} {k : Nat} {v : α} {q : Nat × α} (h : q ∈ minsert m k v) : q = (k, v) ∨ q ∈ m := by
  induction m with
  | nil => simpa [minsert] using h
  | cons p m ih =>
    obtain ⟨a, x⟩ := p
    simp only [minsert] at h
    split at h
    · simpa using h
    · split at h
      · rcases List.mem_cons.1 h with h | h
        · exact .inl h
        · exact .inr (List.mem_cons_of_mem _ h)
      · rcases List.mem_cons.1 h with h | h
        · exact .inr (by simp [h])
        · rcases ih h with h | h
          · exact .inl h
          · exact .inr (List.mem_cons_of_mem _ h)

theorem msorted_minsert {m : SMap α} (k : Nat) (v : α) (h : msorted m = true) : msorted (minsert m k v) = true := by
  induction m with
  | nil => simp [minsert, msorted]
  | cons p m ih =>
    obtain ⟨a, x⟩ := p
    have hm := (msorted_cons.1 h).1
    simp only [minsert]
    split
    · rename_i hk
      exact msorted_of_all h fun q hq => by
        rcases List.mem_cons.1 hq with rfl | hq
        · exact hk
        · exact lt_trans hk (msorted_all h q hq)
    · split
      · rename_i hk
        subst hk
        exact msorted_of_all hm fun q hq => msorted_all h q hq
      · rename_i hk hk'
        refine msorted_of_all (ih hm) fun q hq => ?_
        rcases mem_minsert hq with rfl | hq
        · simp only; omega
        · exact msorted_all h q hq

variable [DecidableEq α]

theorem mwf_iff {d : α} {m : SMap α} : mwf d m = true ↔ msorted m = true ∧ ∀ p ∈ m, p.2 ≠ d := by
  simp [mwf]

/-- The canonical form of a part of a table. -/
theorem mwf_filter {d : α} {m : SMap α} (f : Nat × α → Bool) (h : mwf d m = true) : mwf d (m.filter f) = true := by
  rw [mwf_iff] at *
  exact ⟨msorted_filter f h.1, fun p hp => h.2 p (List.mem_of_mem_filter hp)⟩

/-- Setting an entry keeps the canonical form. -/
theorem mwf_mset {d : α} {m : SMap α} (k : Nat) (v : α) (h : mwf d m = true) : mwf d (mset d m k v) = true := by
  unfold mset
  split
  · exact mwf_filter _ h
  · rename_i hv
    rw [mwf_iff] at *
    refine ⟨msorted_minsert k v h.1, fun p hp => ?_⟩
    rcases mem_minsert hp with rfl | hp
    · exact hv
    · exact h.2 p hp

/-! ## Bytes -/

/-- Writing bytes keeps the canonical form of a memory. -/
theorem mwf_writeBytes {m : SMap Byte} (a : Nat) (bs : List Byte) (h : mwf 0 m = true) :
    mwf 0 (writeBytes m a bs) = true := by
  induction bs generalizing m a with
  | nil => exact h
  | cons b bs ih => exact ih (a + 1) (mwf_mset a b h)

/-- A byte outside the written range keeps its value. -/
theorem mget_writeBytes_out (m : SMap Byte) (a : Nat) (bs : List Byte) (x : Nat)
    (h : x < a ∨ a + bs.length ≤ x) : mget 0 (writeBytes m a bs) x = mget 0 m x := by
  induction bs generalizing m a with
  | nil => rfl
  | cons b bs ih =>
    simp only [List.length_cons] at h
    rw [writeBytes, ih _ _ (by omega), mget_mset_ne _ _ _ (by omega)]

/-- A byte of the written range takes its value. -/
theorem mget_writeBytes_in (m : SMap Byte) (a : Nat) (bs : List Byte) (i : Nat) (h : i < bs.length) :
    mget 0 (writeBytes m a bs) (a + i) = bs[i] := by
  induction bs generalizing m a i with
  | nil => simp at h
  | cons b bs ih =>
    cases i with
    | zero => rw [writeBytes, Nat.add_zero, mget_writeBytes_out _ _ _ _ (by omega)]; simp
    | succ i =>
      rw [writeBytes, show a + (i + 1) = (a + 1) + i by omega, ih]
      · simp
      · simpa using h

/-- Bytes written are the bytes read. -/
theorem readBytes_writeBytes (m : SMap Byte) (a : Nat) (bs : List Byte) :
    readBytes (writeBytes m a bs) a bs.length = bs := by
  apply List.ext_getElem
  · simp [readBytes]
  · intro i h1 h2
    have h := mget_writeBytes_in m a bs i h2
    simpa [readBytes] using h

end Sys2Proof.Machine
end

