-- ==== Sys2Proof/Laws/State.lean ====
section
/-! SUPPORT. What each update of the state leaves alone, field by field, and what an accessor reads after it. -/

namespace Sys2Proof.Machine

/-! ## setTile -/

@[simp] theorem State.setTile_pending (s : State) (t : Nat) (x : Tile) : (s.setTile t x).pending = s.pending := rfl
@[simp] theorem State.setTile_fused (s : State) (t : Nat) (x : Tile) : (s.setTile t x).fused = s.fused := rfl
@[simp] theorem State.setTile_boot (s : State) (t : Nat) (x : Tile) : (s.setTile t x).boot = s.boot := rfl
@[simp] theorem State.setTile_board (s : State) (t : Nat) (x : Tile) : (s.setTile t x).board = s.board := rfl
@[simp] theorem State.setTile_time (s : State) (t : Nat) (x : Tile) : (s.setTile t x).time = s.time := rfl
@[simp] theorem State.setTile_regions (s : State) (t : Nat) (x : Tile) : (s.setTile t x).regions = s.regions := rfl
@[simp] theorem State.setTile_stations (s : State) (t : Nat) (x : Tile) : (s.setTile t x).stations = s.stations := rfl
@[simp] theorem State.setTile_parts (s : State) (t : Nat) (x : Tile) : (s.setTile t x).parts = s.parts := rfl
@[simp] theorem State.setTile_fabric (s : State) (t : Nat) (x : Tile) : (s.setTile t x).fabric = s.fabric := rfl
@[simp] theorem State.setTile_mem (s : State) (t : Nat) (x : Tile) : (s.setTile t x).mem = s.mem := rfl
@[simp] theorem State.setTile_bursts (s : State) (t : Nat) (x : Tile) : (s.setTile t x).bursts = s.bursts := rfl
@[simp] theorem State.setTile_rxs (s : State) (t : Nat) (x : Tile) : (s.setTile t x).rxs = s.rxs := rfl
@[simp] theorem State.setTile_twlSel (s : State) (t : Nat) (x : Tile) : (s.setTile t x).twlSel = s.twlSel := rfl
@[simp] theorem State.setTile_colSel (s : State) (t : Nat) (x : Tile) : (s.setTile t x).colSel = s.colSel := rfl
@[simp] theorem State.setTile_power (s : State) (t : Nat) (x : Tile) : (s.setTile t x).power = s.power := rfl
@[simp] theorem State.setTile_opt (s : State) (t : Nat) (x : Tile) : (s.setTile t x).opt = s.opt := rfl
@[simp] theorem State.setTile_links (s : State) (t : Nat) (x : Tile) : (s.setTile t x).links = s.links := rfl
@[simp] theorem State.setTile_cfg (s : State) (t : Nat) (x : Tile) : (s.setTile t x).cfg = s.cfg := rfl
@[simp] theorem State.setTile_ports (s : State) (t : Nat) (x : Tile) : (s.setTile t x).ports = s.ports := rfl
@[simp] theorem State.setTile_leaseMs (s : State) (t : Nat) (x : Tile) : (s.setTile t x).leaseMs = s.leaseMs := rfl
@[simp] theorem State.setTile_safe (s : State) (t : Nat) (x : Tile) : (s.setTile t x).safe = s.safe := rfl
@[simp] theorem State.setTile_evt (s : State) (t : Nat) (x : Tile) : (s.setTile t x).evt = s.evt := rfl
@[simp] theorem State.setTile_tst (s : State) (t : Nat) (x : Tile) : (s.setTile t x).tst = s.tst := rfl
@[simp] theorem State.setTile_sec (s : State) (t : Nat) (x : Tile) : (s.setTile t x).sec = s.sec := rfl
@[simp] theorem State.setTile_jtag (s : State) (t : Nat) (x : Tile) : (s.setTile t x).jtag = s.jtag := rfl
@[simp] theorem State.setTile_latch (s : State) (t : Nat) (x : Tile) : (s.setTile t x).latch = s.latch := rfl
@[simp] theorem State.setTile_stage (s : State) (t : Nat) (x : Tile) : (s.setTile t x).stage = s.stage := rfl
@[simp] theorem State.setTile_saves (s : State) (t : Nat) (x : Tile) : (s.setTile t x).saves = s.saves := rfl
@[simp] theorem State.setTile_out (s : State) (t : Nat) (x : Tile) : (s.setTile t x).out = s.out := rfl
@[simp] theorem State.setTile_free (s : State) (t : Nat) (x : Tile) : (s.setTile t x).free = s.free := rfl

/-! ## setRgn -/

@[simp] theorem State.setRgn_pending (s : State) (r : Nat) (x : Region) : (s.setRgn r x).pending = s.pending := rfl
@[simp] theorem State.setRgn_fused (s : State) (r : Nat) (x : Region) : (s.setRgn r x).fused = s.fused := rfl
@[simp] theorem State.setRgn_boot (s : State) (r : Nat) (x : Region) : (s.setRgn r x).boot = s.boot := rfl
@[simp] theorem State.setRgn_board (s : State) (r : Nat) (x : Region) : (s.setRgn r x).board = s.board := rfl
@[simp] theorem State.setRgn_time (s : State) (r : Nat) (x : Region) : (s.setRgn r x).time = s.time := rfl
@[simp] theorem State.setRgn_tiles (s : State) (r : Nat) (x : Region) : (s.setRgn r x).tiles = s.tiles := rfl
@[simp] theorem State.setRgn_stations (s : State) (r : Nat) (x : Region) : (s.setRgn r x).stations = s.stations := rfl
@[simp] theorem State.setRgn_parts (s : State) (r : Nat) (x : Region) : (s.setRgn r x).parts = s.parts := rfl
@[simp] theorem State.setRgn_fabric (s : State) (r : Nat) (x : Region) : (s.setRgn r x).fabric = s.fabric := rfl
@[simp] theorem State.setRgn_mem (s : State) (r : Nat) (x : Region) : (s.setRgn r x).mem = s.mem := rfl
@[simp] theorem State.setRgn_bursts (s : State) (r : Nat) (x : Region) : (s.setRgn r x).bursts = s.bursts := rfl
@[simp] theorem State.setRgn_rxs (s : State) (r : Nat) (x : Region) : (s.setRgn r x).rxs = s.rxs := rfl
@[simp] theorem State.setRgn_twlSel (s : State) (r : Nat) (x : Region) : (s.setRgn r x).twlSel = s.twlSel := rfl
@[simp] theorem State.setRgn_colSel (s : State) (r : Nat) (x : Region) : (s.setRgn r x).colSel = s.colSel := rfl
@[simp] theorem State.setRgn_power (s : State) (r : Nat) (x : Region) : (s.setRgn r x).power = s.power := rfl
@[simp] theorem State.setRgn_opt (s : State) (r : Nat) (x : Region) : (s.setRgn r x).opt = s.opt := rfl
@[simp] theorem State.setRgn_links (s : State) (r : Nat) (x : Region) : (s.setRgn r x).links = s.links := rfl
@[simp] theorem State.setRgn_cfg (s : State) (r : Nat) (x : Region) : (s.setRgn r x).cfg = s.cfg := rfl
@[simp] theorem State.setRgn_ports (s : State) (r : Nat) (x : Region) : (s.setRgn r x).ports = s.ports := rfl
@[simp] theorem State.setRgn_leaseMs (s : State) (r : Nat) (x : Region) : (s.setRgn r x).leaseMs = s.leaseMs := rfl
@[simp] theorem State.setRgn_safe (s : State) (r : Nat) (x : Region) : (s.setRgn r x).safe = s.safe := rfl
@[simp] theorem State.setRgn_evt (s : State) (r : Nat) (x : Region) : (s.setRgn r x).evt = s.evt := rfl
@[simp] theorem State.setRgn_tst (s : State) (r : Nat) (x : Region) : (s.setRgn r x).tst = s.tst := rfl
@[simp] theorem State.setRgn_sec (s : State) (r : Nat) (x : Region) : (s.setRgn r x).sec = s.sec := rfl
@[simp] theorem State.setRgn_jtag (s : State) (r : Nat) (x : Region) : (s.setRgn r x).jtag = s.jtag := rfl
@[simp] theorem State.setRgn_latch (s : State) (r : Nat) (x : Region) : (s.setRgn r x).latch = s.latch := rfl
@[simp] theorem State.setRgn_stage (s : State) (r : Nat) (x : Region) : (s.setRgn r x).stage = s.stage := rfl
@[simp] theorem State.setRgn_saves (s : State) (r : Nat) (x : Region) : (s.setRgn r x).saves = s.saves := rfl
@[simp] theorem State.setRgn_out (s : State) (r : Nat) (x : Region) : (s.setRgn r x).out = s.out := rfl
@[simp] theorem State.setRgn_free (s : State) (r : Nat) (x : Region) : (s.setRgn r x).free = s.free := rfl

/-! ## setStn -/

@[simp] theorem State.setStn_pending (s : State) (n : Nat) (x : Station) : (s.setStn n x).pending = s.pending := rfl
@[simp] theorem State.setStn_fused (s : State) (n : Nat) (x : Station) : (s.setStn n x).fused = s.fused := rfl
@[simp] theorem State.setStn_boot (s : State) (n : Nat) (x : Station) : (s.setStn n x).boot = s.boot := rfl
@[simp] theorem State.setStn_board (s : State) (n : Nat) (x : Station) : (s.setStn n x).board = s.board := rfl
@[simp] theorem State.setStn_time (s : State) (n : Nat) (x : Station) : (s.setStn n x).time = s.time := rfl
@[simp] theorem State.setStn_tiles (s : State) (n : Nat) (x : Station) : (s.setStn n x).tiles = s.tiles := rfl
@[simp] theorem State.setStn_regions (s : State) (n : Nat) (x : Station) : (s.setStn n x).regions = s.regions := rfl
@[simp] theorem State.setStn_parts (s : State) (n : Nat) (x : Station) : (s.setStn n x).parts = s.parts := rfl
@[simp] theorem State.setStn_fabric (s : State) (n : Nat) (x : Station) : (s.setStn n x).fabric = s.fabric := rfl
@[simp] theorem State.setStn_mem (s : State) (n : Nat) (x : Station) : (s.setStn n x).mem = s.mem := rfl
@[simp] theorem State.setStn_bursts (s : State) (n : Nat) (x : Station) : (s.setStn n x).bursts = s.bursts := rfl
@[simp] theorem State.setStn_rxs (s : State) (n : Nat) (x : Station) : (s.setStn n x).rxs = s.rxs := rfl
@[simp] theorem State.setStn_twlSel (s : State) (n : Nat) (x : Station) : (s.setStn n x).twlSel = s.twlSel := rfl
@[simp] theorem State.setStn_colSel (s : State) (n : Nat) (x : Station) : (s.setStn n x).colSel = s.colSel := rfl
@[simp] theorem State.setStn_power (s : State) (n : Nat) (x : Station) : (s.setStn n x).power = s.power := rfl
@[simp] theorem State.setStn_opt (s : State) (n : Nat) (x : Station) : (s.setStn n x).opt = s.opt := rfl
@[simp] theorem State.setStn_links (s : State) (n : Nat) (x : Station) : (s.setStn n x).links = s.links := rfl
@[simp] theorem State.setStn_cfg (s : State) (n : Nat) (x : Station) : (s.setStn n x).cfg = s.cfg := rfl
@[simp] theorem State.setStn_ports (s : State) (n : Nat) (x : Station) : (s.setStn n x).ports = s.ports := rfl
@[simp] theorem State.setStn_leaseMs (s : State) (n : Nat) (x : Station) : (s.setStn n x).leaseMs = s.leaseMs := rfl
@[simp] theorem State.setStn_safe (s : State) (n : Nat) (x : Station) : (s.setStn n x).safe = s.safe := rfl
@[simp] theorem State.setStn_evt (s : State) (n : Nat) (x : Station) : (s.setStn n x).evt = s.evt := rfl
@[simp] theorem State.setStn_tst (s : State) (n : Nat) (x : Station) : (s.setStn n x).tst = s.tst := rfl
@[simp] theorem State.setStn_sec (s : State) (n : Nat) (x : Station) : (s.setStn n x).sec = s.sec := rfl
@[simp] theorem State.setStn_jtag (s : State) (n : Nat) (x : Station) : (s.setStn n x).jtag = s.jtag := rfl
@[simp] theorem State.setStn_latch (s : State) (n : Nat) (x : Station) : (s.setStn n x).latch = s.latch := rfl
@[simp] theorem State.setStn_stage (s : State) (n : Nat) (x : Station) : (s.setStn n x).stage = s.stage := rfl
@[simp] theorem State.setStn_saves (s : State) (n : Nat) (x : Station) : (s.setStn n x).saves = s.saves := rfl
@[simp] theorem State.setStn_out (s : State) (n : Nat) (x : Station) : (s.setStn n x).out = s.out := rfl
@[simp] theorem State.setStn_free (s : State) (n : Nat) (x : Station) : (s.setStn n x).free = s.free := rfl

/-! ## setPart -/

@[simp] theorem State.setPart_pending (s : State) (p : Nat) (x : Partition) : (s.setPart p x).pending = s.pending := rfl
@[simp] theorem State.setPart_fused (s : State) (p : Nat) (x : Partition) : (s.setPart p x).fused = s.fused := rfl
@[simp] theorem State.setPart_boot (s : State) (p : Nat) (x : Partition) : (s.setPart p x).boot = s.boot := rfl
@[simp] theorem State.setPart_board (s : State) (p : Nat) (x : Partition) : (s.setPart p x).board = s.board := rfl
@[simp] theorem State.setPart_time (s : State) (p : Nat) (x : Partition) : (s.setPart p x).time = s.time := rfl
@[simp] theorem State.setPart_tiles (s : State) (p : Nat) (x : Partition) : (s.setPart p x).tiles = s.tiles := rfl
@[simp] theorem State.setPart_regions (s : State) (p : Nat) (x : Partition) : (s.setPart p x).regions = s.regions := rfl
@[simp] theorem State.setPart_stations (s : State) (p : Nat) (x : Partition) : (s.setPart p x).stations = s.stations := rfl
@[simp] theorem State.setPart_fabric (s : State) (p : Nat) (x : Partition) : (s.setPart p x).fabric = s.fabric := rfl
@[simp] theorem State.setPart_mem (s : State) (p : Nat) (x : Partition) : (s.setPart p x).mem = s.mem := rfl
@[simp] theorem State.setPart_bursts (s : State) (p : Nat) (x : Partition) : (s.setPart p x).bursts = s.bursts := rfl
@[simp] theorem State.setPart_rxs (s : State) (p : Nat) (x : Partition) : (s.setPart p x).rxs = s.rxs := rfl
@[simp] theorem State.setPart_twlSel (s : State) (p : Nat) (x : Partition) : (s.setPart p x).twlSel = s.twlSel := rfl
@[simp] theorem State.setPart_colSel (s : State) (p : Nat) (x : Partition) : (s.setPart p x).colSel = s.colSel := rfl
@[simp] theorem State.setPart_power (s : State) (p : Nat) (x : Partition) : (s.setPart p x).power = s.power := rfl
@[simp] theorem State.setPart_opt (s : State) (p : Nat) (x : Partition) : (s.setPart p x).opt = s.opt := rfl
@[simp] theorem State.setPart_links (s : State) (p : Nat) (x : Partition) : (s.setPart p x).links = s.links := rfl
@[simp] theorem State.setPart_cfg (s : State) (p : Nat) (x : Partition) : (s.setPart p x).cfg = s.cfg := rfl
@[simp] theorem State.setPart_ports (s : State) (p : Nat) (x : Partition) : (s.setPart p x).ports = s.ports := rfl
@[simp] theorem State.setPart_leaseMs (s : State) (p : Nat) (x : Partition) : (s.setPart p x).leaseMs = s.leaseMs := rfl
@[simp] theorem State.setPart_safe (s : State) (p : Nat) (x : Partition) : (s.setPart p x).safe = s.safe := rfl
@[simp] theorem State.setPart_evt (s : State) (p : Nat) (x : Partition) : (s.setPart p x).evt = s.evt := rfl
@[simp] theorem State.setPart_tst (s : State) (p : Nat) (x : Partition) : (s.setPart p x).tst = s.tst := rfl
@[simp] theorem State.setPart_sec (s : State) (p : Nat) (x : Partition) : (s.setPart p x).sec = s.sec := rfl
@[simp] theorem State.setPart_jtag (s : State) (p : Nat) (x : Partition) : (s.setPart p x).jtag = s.jtag := rfl
@[simp] theorem State.setPart_latch (s : State) (p : Nat) (x : Partition) : (s.setPart p x).latch = s.latch := rfl
@[simp] theorem State.setPart_stage (s : State) (p : Nat) (x : Partition) : (s.setPart p x).stage = s.stage := rfl
@[simp] theorem State.setPart_saves (s : State) (p : Nat) (x : Partition) : (s.setPart p x).saves = s.saves := rfl
@[simp] theorem State.setPart_out (s : State) (p : Nat) (x : Partition) : (s.setPart p x).out = s.out := rfl
@[simp] theorem State.setPart_free (s : State) (p : Nat) (x : Partition) : (s.setPart p x).free = s.free := rfl

/-! ## setPort -/

@[simp] theorem State.setPort_pending (s : State) (p : Nat) (x : Port) : (s.setPort p x).pending = s.pending := rfl
@[simp] theorem State.setPort_fused (s : State) (p : Nat) (x : Port) : (s.setPort p x).fused = s.fused := rfl
@[simp] theorem State.setPort_boot (s : State) (p : Nat) (x : Port) : (s.setPort p x).boot = s.boot := rfl
@[simp] theorem State.setPort_board (s : State) (p : Nat) (x : Port) : (s.setPort p x).board = s.board := rfl
@[simp] theorem State.setPort_time (s : State) (p : Nat) (x : Port) : (s.setPort p x).time = s.time := rfl
@[simp] theorem State.setPort_tiles (s : State) (p : Nat) (x : Port) : (s.setPort p x).tiles = s.tiles := rfl
@[simp] theorem State.setPort_regions (s : State) (p : Nat) (x : Port) : (s.setPort p x).regions = s.regions := rfl
@[simp] theorem State.setPort_stations (s : State) (p : Nat) (x : Port) : (s.setPort p x).stations = s.stations := rfl
@[simp] theorem State.setPort_parts (s : State) (p : Nat) (x : Port) : (s.setPort p x).parts = s.parts := rfl
@[simp] theorem State.setPort_fabric (s : State) (p : Nat) (x : Port) : (s.setPort p x).fabric = s.fabric := rfl
@[simp] theorem State.setPort_mem (s : State) (p : Nat) (x : Port) : (s.setPort p x).mem = s.mem := rfl
@[simp] theorem State.setPort_bursts (s : State) (p : Nat) (x : Port) : (s.setPort p x).bursts = s.bursts := rfl
@[simp] theorem State.setPort_rxs (s : State) (p : Nat) (x : Port) : (s.setPort p x).rxs = s.rxs := rfl
@[simp] theorem State.setPort_twlSel (s : State) (p : Nat) (x : Port) : (s.setPort p x).twlSel = s.twlSel := rfl
@[simp] theorem State.setPort_colSel (s : State) (p : Nat) (x : Port) : (s.setPort p x).colSel = s.colSel := rfl
@[simp] theorem State.setPort_power (s : State) (p : Nat) (x : Port) : (s.setPort p x).power = s.power := rfl
@[simp] theorem State.setPort_opt (s : State) (p : Nat) (x : Port) : (s.setPort p x).opt = s.opt := rfl
@[simp] theorem State.setPort_links (s : State) (p : Nat) (x : Port) : (s.setPort p x).links = s.links := rfl
@[simp] theorem State.setPort_cfg (s : State) (p : Nat) (x : Port) : (s.setPort p x).cfg = s.cfg := rfl
@[simp] theorem State.setPort_leaseMs (s : State) (p : Nat) (x : Port) : (s.setPort p x).leaseMs = s.leaseMs := rfl
@[simp] theorem State.setPort_safe (s : State) (p : Nat) (x : Port) : (s.setPort p x).safe = s.safe := rfl
@[simp] theorem State.setPort_evt (s : State) (p : Nat) (x : Port) : (s.setPort p x).evt = s.evt := rfl
@[simp] theorem State.setPort_tst (s : State) (p : Nat) (x : Port) : (s.setPort p x).tst = s.tst := rfl
@[simp] theorem State.setPort_sec (s : State) (p : Nat) (x : Port) : (s.setPort p x).sec = s.sec := rfl
@[simp] theorem State.setPort_jtag (s : State) (p : Nat) (x : Port) : (s.setPort p x).jtag = s.jtag := rfl
@[simp] theorem State.setPort_latch (s : State) (p : Nat) (x : Port) : (s.setPort p x).latch = s.latch := rfl
@[simp] theorem State.setPort_stage (s : State) (p : Nat) (x : Port) : (s.setPort p x).stage = s.stage := rfl
@[simp] theorem State.setPort_saves (s : State) (p : Nat) (x : Port) : (s.setPort p x).saves = s.saves := rfl
@[simp] theorem State.setPort_out (s : State) (p : Nat) (x : Port) : (s.setPort p x).out = s.out := rfl
@[simp] theorem State.setPort_free (s : State) (p : Nat) (x : Port) : (s.setPort p x).free = s.free := rfl

/-! ## setHall -/

@[simp] theorem State.setHall_pending (s : State) (p : Nat) (x : HallPort) : (s.setHall p x).pending = s.pending := rfl
@[simp] theorem State.setHall_fused (s : State) (p : Nat) (x : HallPort) : (s.setHall p x).fused = s.fused := rfl
@[simp] theorem State.setHall_boot (s : State) (p : Nat) (x : HallPort) : (s.setHall p x).boot = s.boot := rfl
@[simp] theorem State.setHall_board (s : State) (p : Nat) (x : HallPort) : (s.setHall p x).board = s.board := rfl
@[simp] theorem State.setHall_time (s : State) (p : Nat) (x : HallPort) : (s.setHall p x).time = s.time := rfl
@[simp] theorem State.setHall_tiles (s : State) (p : Nat) (x : HallPort) : (s.setHall p x).tiles = s.tiles := rfl
@[simp] theorem State.setHall_regions (s : State) (p : Nat) (x : HallPort) : (s.setHall p x).regions = s.regions := rfl
@[simp] theorem State.setHall_stations (s : State) (p : Nat) (x : HallPort) : (s.setHall p x).stations = s.stations := rfl
@[simp] theorem State.setHall_parts (s : State) (p : Nat) (x : HallPort) : (s.setHall p x).parts = s.parts := rfl
@[simp] theorem State.setHall_mem (s : State) (p : Nat) (x : HallPort) : (s.setHall p x).mem = s.mem := rfl
@[simp] theorem State.setHall_bursts (s : State) (p : Nat) (x : HallPort) : (s.setHall p x).bursts = s.bursts := rfl
@[simp] theorem State.setHall_rxs (s : State) (p : Nat) (x : HallPort) : (s.setHall p x).rxs = s.rxs := rfl
@[simp] theorem State.setHall_twlSel (s : State) (p : Nat) (x : HallPort) : (s.setHall p x).twlSel = s.twlSel := rfl
@[simp] theorem State.setHall_colSel (s : State) (p : Nat) (x : HallPort) : (s.setHall p x).colSel = s.colSel := rfl
@[simp] theorem State.setHall_power (s : State) (p : Nat) (x : HallPort) : (s.setHall p x).power = s.power := rfl
@[simp] theorem State.setHall_opt (s : State) (p : Nat) (x : HallPort) : (s.setHall p x).opt = s.opt := rfl
@[simp] theorem State.setHall_links (s : State) (p : Nat) (x : HallPort) : (s.setHall p x).links = s.links := rfl
@[simp] theorem State.setHall_cfg (s : State) (p : Nat) (x : HallPort) : (s.setHall p x).cfg = s.cfg := rfl
@[simp] theorem State.setHall_ports (s : State) (p : Nat) (x : HallPort) : (s.setHall p x).ports = s.ports := rfl
@[simp] theorem State.setHall_leaseMs (s : State) (p : Nat) (x : HallPort) : (s.setHall p x).leaseMs = s.leaseMs := rfl
@[simp] theorem State.setHall_safe (s : State) (p : Nat) (x : HallPort) : (s.setHall p x).safe = s.safe := rfl
@[simp] theorem State.setHall_evt (s : State) (p : Nat) (x : HallPort) : (s.setHall p x).evt = s.evt := rfl
@[simp] theorem State.setHall_tst (s : State) (p : Nat) (x : HallPort) : (s.setHall p x).tst = s.tst := rfl
@[simp] theorem State.setHall_sec (s : State) (p : Nat) (x : HallPort) : (s.setHall p x).sec = s.sec := rfl
@[simp] theorem State.setHall_jtag (s : State) (p : Nat) (x : HallPort) : (s.setHall p x).jtag = s.jtag := rfl
@[simp] theorem State.setHall_latch (s : State) (p : Nat) (x : HallPort) : (s.setHall p x).latch = s.latch := rfl
@[simp] theorem State.setHall_stage (s : State) (p : Nat) (x : HallPort) : (s.setHall p x).stage = s.stage := rfl
@[simp] theorem State.setHall_saves (s : State) (p : Nat) (x : HallPort) : (s.setHall p x).saves = s.saves := rfl
@[simp] theorem State.setHall_out (s : State) (p : Nat) (x : HallPort) : (s.setHall p x).out = s.out := rfl
@[simp] theorem State.setHall_free (s : State) (p : Nat) (x : HallPort) : (s.setHall p x).free = s.free := rfl

/-! ## setSite -/

@[simp] theorem State.setSite_pending (s : State) (n : Nat) (x : Site) : (s.setSite n x).pending = s.pending := rfl
@[simp] theorem State.setSite_fused (s : State) (n : Nat) (x : Site) : (s.setSite n x).fused = s.fused := rfl
@[simp] theorem State.setSite_boot (s : State) (n : Nat) (x : Site) : (s.setSite n x).boot = s.boot := rfl
@[simp] theorem State.setSite_board (s : State) (n : Nat) (x : Site) : (s.setSite n x).board = s.board := rfl
@[simp] theorem State.setSite_time (s : State) (n : Nat) (x : Site) : (s.setSite n x).time = s.time := rfl
@[simp] theorem State.setSite_tiles (s : State) (n : Nat) (x : Site) : (s.setSite n x).tiles = s.tiles := rfl
@[simp] theorem State.setSite_regions (s : State) (n : Nat) (x : Site) : (s.setSite n x).regions = s.regions := rfl
@[simp] theorem State.setSite_stations (s : State) (n : Nat) (x : Site) : (s.setSite n x).stations = s.stations := rfl
@[simp] theorem State.setSite_parts (s : State) (n : Nat) (x : Site) : (s.setSite n x).parts = s.parts := rfl
@[simp] theorem State.setSite_fabric (s : State) (n : Nat) (x : Site) : (s.setSite n x).fabric = s.fabric := rfl
@[simp] theorem State.setSite_mem (s : State) (n : Nat) (x : Site) : (s.setSite n x).mem = s.mem := rfl
@[simp] theorem State.setSite_bursts (s : State) (n : Nat) (x : Site) : (s.setSite n x).bursts = s.bursts := rfl
@[simp] theorem State.setSite_rxs (s : State) (n : Nat) (x : Site) : (s.setSite n x).rxs = s.rxs := rfl
@[simp] theorem State.setSite_twlSel (s : State) (n : Nat) (x : Site) : (s.setSite n x).twlSel = s.twlSel := rfl
@[simp] theorem State.setSite_colSel (s : State) (n : Nat) (x : Site) : (s.setSite n x).colSel = s.colSel := rfl
@[simp] theorem State.setSite_power (s : State) (n : Nat) (x : Site) : (s.setSite n x).power = s.power := rfl
@[simp] theorem State.setSite_opt (s : State) (n : Nat) (x : Site) : (s.setSite n x).opt = s.opt := rfl
@[simp] theorem State.setSite_cfg (s : State) (n : Nat) (x : Site) : (s.setSite n x).cfg = s.cfg := rfl
@[simp] theorem State.setSite_ports (s : State) (n : Nat) (x : Site) : (s.setSite n x).ports = s.ports := rfl
@[simp] theorem State.setSite_leaseMs (s : State) (n : Nat) (x : Site) : (s.setSite n x).leaseMs = s.leaseMs := rfl
@[simp] theorem State.setSite_safe (s : State) (n : Nat) (x : Site) : (s.setSite n x).safe = s.safe := rfl
@[simp] theorem State.setSite_evt (s : State) (n : Nat) (x : Site) : (s.setSite n x).evt = s.evt := rfl
@[simp] theorem State.setSite_tst (s : State) (n : Nat) (x : Site) : (s.setSite n x).tst = s.tst := rfl
@[simp] theorem State.setSite_sec (s : State) (n : Nat) (x : Site) : (s.setSite n x).sec = s.sec := rfl
@[simp] theorem State.setSite_jtag (s : State) (n : Nat) (x : Site) : (s.setSite n x).jtag = s.jtag := rfl
@[simp] theorem State.setSite_latch (s : State) (n : Nat) (x : Site) : (s.setSite n x).latch = s.latch := rfl
@[simp] theorem State.setSite_stage (s : State) (n : Nat) (x : Site) : (s.setSite n x).stage = s.stage := rfl
@[simp] theorem State.setSite_saves (s : State) (n : Nat) (x : Site) : (s.setSite n x).saves = s.saves := rfl
@[simp] theorem State.setSite_out (s : State) (n : Nat) (x : Site) : (s.setSite n x).out = s.out := rfl
@[simp] theorem State.setSite_free (s : State) (n : Nat) (x : Site) : (s.setSite n x).free = s.free := rfl

/-! ## setStack -/

@[simp] theorem State.setStack_pending (s : State) (n : Nat) (x : Stack) : (s.setStack n x).pending = s.pending := rfl
@[simp] theorem State.setStack_fused (s : State) (n : Nat) (x : Stack) : (s.setStack n x).fused = s.fused := rfl
@[simp] theorem State.setStack_boot (s : State) (n : Nat) (x : Stack) : (s.setStack n x).boot = s.boot := rfl
@[simp] theorem State.setStack_board (s : State) (n : Nat) (x : Stack) : (s.setStack n x).board = s.board := rfl
@[simp] theorem State.setStack_time (s : State) (n : Nat) (x : Stack) : (s.setStack n x).time = s.time := rfl
@[simp] theorem State.setStack_tiles (s : State) (n : Nat) (x : Stack) : (s.setStack n x).tiles = s.tiles := rfl
@[simp] theorem State.setStack_regions (s : State) (n : Nat) (x : Stack) : (s.setStack n x).regions = s.regions := rfl
@[simp] theorem State.setStack_stations (s : State) (n : Nat) (x : Stack) : (s.setStack n x).stations = s.stations := rfl
@[simp] theorem State.setStack_parts (s : State) (n : Nat) (x : Stack) : (s.setStack n x).parts = s.parts := rfl
@[simp] theorem State.setStack_fabric (s : State) (n : Nat) (x : Stack) : (s.setStack n x).fabric = s.fabric := rfl
@[simp] theorem State.setStack_mem (s : State) (n : Nat) (x : Stack) : (s.setStack n x).mem = s.mem := rfl
@[simp] theorem State.setStack_bursts (s : State) (n : Nat) (x : Stack) : (s.setStack n x).bursts = s.bursts := rfl
@[simp] theorem State.setStack_rxs (s : State) (n : Nat) (x : Stack) : (s.setStack n x).rxs = s.rxs := rfl
@[simp] theorem State.setStack_twlSel (s : State) (n : Nat) (x : Stack) : (s.setStack n x).twlSel = s.twlSel := rfl
@[simp] theorem State.setStack_colSel (s : State) (n : Nat) (x : Stack) : (s.setStack n x).colSel = s.colSel := rfl
@[simp] theorem State.setStack_power (s : State) (n : Nat) (x : Stack) : (s.setStack n x).power = s.power := rfl
@[simp] theorem State.setStack_opt (s : State) (n : Nat) (x : Stack) : (s.setStack n x).opt = s.opt := rfl
@[simp] theorem State.setStack_cfg (s : State) (n : Nat) (x : Stack) : (s.setStack n x).cfg = s.cfg := rfl
@[simp] theorem State.setStack_ports (s : State) (n : Nat) (x : Stack) : (s.setStack n x).ports = s.ports := rfl
@[simp] theorem State.setStack_leaseMs (s : State) (n : Nat) (x : Stack) : (s.setStack n x).leaseMs = s.leaseMs := rfl
@[simp] theorem State.setStack_safe (s : State) (n : Nat) (x : Stack) : (s.setStack n x).safe = s.safe := rfl
@[simp] theorem State.setStack_evt (s : State) (n : Nat) (x : Stack) : (s.setStack n x).evt = s.evt := rfl
@[simp] theorem State.setStack_tst (s : State) (n : Nat) (x : Stack) : (s.setStack n x).tst = s.tst := rfl
@[simp] theorem State.setStack_sec (s : State) (n : Nat) (x : Stack) : (s.setStack n x).sec = s.sec := rfl
@[simp] theorem State.setStack_jtag (s : State) (n : Nat) (x : Stack) : (s.setStack n x).jtag = s.jtag := rfl
@[simp] theorem State.setStack_latch (s : State) (n : Nat) (x : Stack) : (s.setStack n x).latch = s.latch := rfl
@[simp] theorem State.setStack_stage (s : State) (n : Nat) (x : Stack) : (s.setStack n x).stage = s.stage := rfl
@[simp] theorem State.setStack_saves (s : State) (n : Nat) (x : Stack) : (s.setStack n x).saves = s.saves := rfl
@[simp] theorem State.setStack_out (s : State) (n : Nat) (x : Stack) : (s.setStack n x).out = s.out := rfl
@[simp] theorem State.setStack_free (s : State) (n : Nat) (x : Stack) : (s.setStack n x).free = s.free := rfl

/-! ## setDie -/

@[simp] theorem State.setDie_pending (s : State) (d : Nat) (x : Die) : (s.setDie d x).pending = s.pending := rfl
@[simp] theorem State.setDie_fused (s : State) (d : Nat) (x : Die) : (s.setDie d x).fused = s.fused := rfl
@[simp] theorem State.setDie_boot (s : State) (d : Nat) (x : Die) : (s.setDie d x).boot = s.boot := rfl
@[simp] theorem State.setDie_board (s : State) (d : Nat) (x : Die) : (s.setDie d x).board = s.board := rfl
@[simp] theorem State.setDie_time (s : State) (d : Nat) (x : Die) : (s.setDie d x).time = s.time := rfl
@[simp] theorem State.setDie_tiles (s : State) (d : Nat) (x : Die) : (s.setDie d x).tiles = s.tiles := rfl
@[simp] theorem State.setDie_regions (s : State) (d : Nat) (x : Die) : (s.setDie d x).regions = s.regions := rfl
@[simp] theorem State.setDie_stations (s : State) (d : Nat) (x : Die) : (s.setDie d x).stations = s.stations := rfl
@[simp] theorem State.setDie_parts (s : State) (d : Nat) (x : Die) : (s.setDie d x).parts = s.parts := rfl
@[simp] theorem State.setDie_fabric (s : State) (d : Nat) (x : Die) : (s.setDie d x).fabric = s.fabric := rfl
@[simp] theorem State.setDie_mem (s : State) (d : Nat) (x : Die) : (s.setDie d x).mem = s.mem := rfl
@[simp] theorem State.setDie_bursts (s : State) (d : Nat) (x : Die) : (s.setDie d x).bursts = s.bursts := rfl
@[simp] theorem State.setDie_rxs (s : State) (d : Nat) (x : Die) : (s.setDie d x).rxs = s.rxs := rfl
@[simp] theorem State.setDie_twlSel (s : State) (d : Nat) (x : Die) : (s.setDie d x).twlSel = s.twlSel := rfl
@[simp] theorem State.setDie_colSel (s : State) (d : Nat) (x : Die) : (s.setDie d x).colSel = s.colSel := rfl
@[simp] theorem State.setDie_opt (s : State) (d : Nat) (x : Die) : (s.setDie d x).opt = s.opt := rfl
@[simp] theorem State.setDie_links (s : State) (d : Nat) (x : Die) : (s.setDie d x).links = s.links := rfl
@[simp] theorem State.setDie_cfg (s : State) (d : Nat) (x : Die) : (s.setDie d x).cfg = s.cfg := rfl
@[simp] theorem State.setDie_ports (s : State) (d : Nat) (x : Die) : (s.setDie d x).ports = s.ports := rfl
@[simp] theorem State.setDie_leaseMs (s : State) (d : Nat) (x : Die) : (s.setDie d x).leaseMs = s.leaseMs := rfl
@[simp] theorem State.setDie_safe (s : State) (d : Nat) (x : Die) : (s.setDie d x).safe = s.safe := rfl
@[simp] theorem State.setDie_evt (s : State) (d : Nat) (x : Die) : (s.setDie d x).evt = s.evt := rfl
@[simp] theorem State.setDie_tst (s : State) (d : Nat) (x : Die) : (s.setDie d x).tst = s.tst := rfl
@[simp] theorem State.setDie_sec (s : State) (d : Nat) (x : Die) : (s.setDie d x).sec = s.sec := rfl
@[simp] theorem State.setDie_jtag (s : State) (d : Nat) (x : Die) : (s.setDie d x).jtag = s.jtag := rfl
@[simp] theorem State.setDie_latch (s : State) (d : Nat) (x : Die) : (s.setDie d x).latch = s.latch := rfl
@[simp] theorem State.setDie_stage (s : State) (d : Nat) (x : Die) : (s.setDie d x).stage = s.stage := rfl
@[simp] theorem State.setDie_saves (s : State) (d : Nat) (x : Die) : (s.setDie d x).saves = s.saves := rfl
@[simp] theorem State.setDie_out (s : State) (d : Nat) (x : Die) : (s.setDie d x).out = s.out := rfl
@[simp] theorem State.setDie_free (s : State) (d : Nat) (x : Die) : (s.setDie d x).free = s.free := rfl

/-! ## setChan -/

@[simp] theorem State.setChan_pending (s : State) (c : Nat) (x : Channel) : (s.setChan c x).pending = s.pending := rfl
@[simp] theorem State.setChan_fused (s : State) (c : Nat) (x : Channel) : (s.setChan c x).fused = s.fused := rfl
@[simp] theorem State.setChan_boot (s : State) (c : Nat) (x : Channel) : (s.setChan c x).boot = s.boot := rfl
@[simp] theorem State.setChan_board (s : State) (c : Nat) (x : Channel) : (s.setChan c x).board = s.board := rfl
@[simp] theorem State.setChan_time (s : State) (c : Nat) (x : Channel) : (s.setChan c x).time = s.time := rfl
@[simp] theorem State.setChan_tiles (s : State) (c : Nat) (x : Channel) : (s.setChan c x).tiles = s.tiles := rfl
@[simp] theorem State.setChan_regions (s : State) (c : Nat) (x : Channel) : (s.setChan c x).regions = s.regions := rfl
@[simp] theorem State.setChan_stations (s : State) (c : Nat) (x : Channel) : (s.setChan c x).stations = s.stations := rfl
@[simp] theorem State.setChan_parts (s : State) (c : Nat) (x : Channel) : (s.setChan c x).parts = s.parts := rfl
@[simp] theorem State.setChan_fabric (s : State) (c : Nat) (x : Channel) : (s.setChan c x).fabric = s.fabric := rfl
@[simp] theorem State.setChan_bursts (s : State) (c : Nat) (x : Channel) : (s.setChan c x).bursts = s.bursts := rfl
@[simp] theorem State.setChan_rxs (s : State) (c : Nat) (x : Channel) : (s.setChan c x).rxs = s.rxs := rfl
@[simp] theorem State.setChan_twlSel (s : State) (c : Nat) (x : Channel) : (s.setChan c x).twlSel = s.twlSel := rfl
@[simp] theorem State.setChan_colSel (s : State) (c : Nat) (x : Channel) : (s.setChan c x).colSel = s.colSel := rfl
@[simp] theorem State.setChan_power (s : State) (c : Nat) (x : Channel) : (s.setChan c x).power = s.power := rfl
@[simp] theorem State.setChan_opt (s : State) (c : Nat) (x : Channel) : (s.setChan c x).opt = s.opt := rfl
@[simp] theorem State.setChan_links (s : State) (c : Nat) (x : Channel) : (s.setChan c x).links = s.links := rfl
@[simp] theorem State.setChan_cfg (s : State) (c : Nat) (x : Channel) : (s.setChan c x).cfg = s.cfg := rfl
@[simp] theorem State.setChan_ports (s : State) (c : Nat) (x : Channel) : (s.setChan c x).ports = s.ports := rfl
@[simp] theorem State.setChan_leaseMs (s : State) (c : Nat) (x : Channel) : (s.setChan c x).leaseMs = s.leaseMs := rfl
@[simp] theorem State.setChan_safe (s : State) (c : Nat) (x : Channel) : (s.setChan c x).safe = s.safe := rfl
@[simp] theorem State.setChan_evt (s : State) (c : Nat) (x : Channel) : (s.setChan c x).evt = s.evt := rfl
@[simp] theorem State.setChan_tst (s : State) (c : Nat) (x : Channel) : (s.setChan c x).tst = s.tst := rfl
@[simp] theorem State.setChan_sec (s : State) (c : Nat) (x : Channel) : (s.setChan c x).sec = s.sec := rfl
@[simp] theorem State.setChan_jtag (s : State) (c : Nat) (x : Channel) : (s.setChan c x).jtag = s.jtag := rfl
@[simp] theorem State.setChan_latch (s : State) (c : Nat) (x : Channel) : (s.setChan c x).latch = s.latch := rfl
@[simp] theorem State.setChan_stage (s : State) (c : Nat) (x : Channel) : (s.setChan c x).stage = s.stage := rfl
@[simp] theorem State.setChan_saves (s : State) (c : Nat) (x : Channel) : (s.setChan c x).saves = s.saves := rfl
@[simp] theorem State.setChan_out (s : State) (c : Nat) (x : Channel) : (s.setChan c x).out = s.out := rfl
@[simp] theorem State.setChan_free (s : State) (c : Nat) (x : Channel) : (s.setChan c x).free = s.free := rfl

/-! ## setReqr -/

@[simp] theorem State.setReqr_pending (s : State) (r : Nat) (x : Requester) : (s.setReqr r x).pending = s.pending := rfl
@[simp] theorem State.setReqr_fused (s : State) (r : Nat) (x : Requester) : (s.setReqr r x).fused = s.fused := rfl
@[simp] theorem State.setReqr_boot (s : State) (r : Nat) (x : Requester) : (s.setReqr r x).boot = s.boot := rfl
@[simp] theorem State.setReqr_board (s : State) (r : Nat) (x : Requester) : (s.setReqr r x).board = s.board := rfl
@[simp] theorem State.setReqr_time (s : State) (r : Nat) (x : Requester) : (s.setReqr r x).time = s.time := rfl
@[simp] theorem State.setReqr_tiles (s : State) (r : Nat) (x : Requester) : (s.setReqr r x).tiles = s.tiles := rfl
@[simp] theorem State.setReqr_regions (s : State) (r : Nat) (x : Requester) : (s.setReqr r x).regions = s.regions := rfl
@[simp] theorem State.setReqr_stations (s : State) (r : Nat) (x : Requester) : (s.setReqr r x).stations = s.stations := rfl
@[simp] theorem State.setReqr_parts (s : State) (r : Nat) (x : Requester) : (s.setReqr r x).parts = s.parts := rfl
@[simp] theorem State.setReqr_fabric (s : State) (r : Nat) (x : Requester) : (s.setReqr r x).fabric = s.fabric := rfl
@[simp] theorem State.setReqr_mem (s : State) (r : Nat) (x : Requester) : (s.setReqr r x).mem = s.mem := rfl
@[simp] theorem State.setReqr_bursts (s : State) (r : Nat) (x : Requester) : (s.setReqr r x).bursts = s.bursts := rfl
@[simp] theorem State.setReqr_rxs (s : State) (r : Nat) (x : Requester) : (s.setReqr r x).rxs = s.rxs := rfl
@[simp] theorem State.setReqr_twlSel (s : State) (r : Nat) (x : Requester) : (s.setReqr r x).twlSel = s.twlSel := rfl
@[simp] theorem State.setReqr_colSel (s : State) (r : Nat) (x : Requester) : (s.setReqr r x).colSel = s.colSel := rfl
@[simp] theorem State.setReqr_power (s : State) (r : Nat) (x : Requester) : (s.setReqr r x).power = s.power := rfl
@[simp] theorem State.setReqr_opt (s : State) (r : Nat) (x : Requester) : (s.setReqr r x).opt = s.opt := rfl
@[simp] theorem State.setReqr_links (s : State) (r : Nat) (x : Requester) : (s.setReqr r x).links = s.links := rfl
@[simp] theorem State.setReqr_ports (s : State) (r : Nat) (x : Requester) : (s.setReqr r x).ports = s.ports := rfl
@[simp] theorem State.setReqr_leaseMs (s : State) (r : Nat) (x : Requester) : (s.setReqr r x).leaseMs = s.leaseMs := rfl
@[simp] theorem State.setReqr_safe (s : State) (r : Nat) (x : Requester) : (s.setReqr r x).safe = s.safe := rfl
@[simp] theorem State.setReqr_evt (s : State) (r : Nat) (x : Requester) : (s.setReqr r x).evt = s.evt := rfl
@[simp] theorem State.setReqr_tst (s : State) (r : Nat) (x : Requester) : (s.setReqr r x).tst = s.tst := rfl
@[simp] theorem State.setReqr_sec (s : State) (r : Nat) (x : Requester) : (s.setReqr r x).sec = s.sec := rfl
@[simp] theorem State.setReqr_jtag (s : State) (r : Nat) (x : Requester) : (s.setReqr r x).jtag = s.jtag := rfl
@[simp] theorem State.setReqr_latch (s : State) (r : Nat) (x : Requester) : (s.setReqr r x).latch = s.latch := rfl
@[simp] theorem State.setReqr_stage (s : State) (r : Nat) (x : Requester) : (s.setReqr r x).stage = s.stage := rfl
@[simp] theorem State.setReqr_saves (s : State) (r : Nat) (x : Requester) : (s.setReqr r x).saves = s.saves := rfl
@[simp] theorem State.setReqr_out (s : State) (r : Nat) (x : Requester) : (s.setReqr r x).out = s.out := rfl
@[simp] theorem State.setReqr_free (s : State) (r : Nat) (x : Requester) : (s.setReqr r x).free = s.free := rfl

/-! ## setLaser -/

@[simp] theorem State.setLaser_pending (s : State) (l : Nat) (x : Laser) : (s.setLaser l x).pending = s.pending := rfl
@[simp] theorem State.setLaser_fused (s : State) (l : Nat) (x : Laser) : (s.setLaser l x).fused = s.fused := rfl
@[simp] theorem State.setLaser_boot (s : State) (l : Nat) (x : Laser) : (s.setLaser l x).boot = s.boot := rfl
@[simp] theorem State.setLaser_board (s : State) (l : Nat) (x : Laser) : (s.setLaser l x).board = s.board := rfl
@[simp] theorem State.setLaser_time (s : State) (l : Nat) (x : Laser) : (s.setLaser l x).time = s.time := rfl
@[simp] theorem State.setLaser_tiles (s : State) (l : Nat) (x : Laser) : (s.setLaser l x).tiles = s.tiles := rfl
@[simp] theorem State.setLaser_regions (s : State) (l : Nat) (x : Laser) : (s.setLaser l x).regions = s.regions := rfl
@[simp] theorem State.setLaser_stations (s : State) (l : Nat) (x : Laser) : (s.setLaser l x).stations = s.stations := rfl
@[simp] theorem State.setLaser_parts (s : State) (l : Nat) (x : Laser) : (s.setLaser l x).parts = s.parts := rfl
@[simp] theorem State.setLaser_fabric (s : State) (l : Nat) (x : Laser) : (s.setLaser l x).fabric = s.fabric := rfl
@[simp] theorem State.setLaser_mem (s : State) (l : Nat) (x : Laser) : (s.setLaser l x).mem = s.mem := rfl
@[simp] theorem State.setLaser_bursts (s : State) (l : Nat) (x : Laser) : (s.setLaser l x).bursts = s.bursts := rfl
@[simp] theorem State.setLaser_rxs (s : State) (l : Nat) (x : Laser) : (s.setLaser l x).rxs = s.rxs := rfl
@[simp] theorem State.setLaser_twlSel (s : State) (l : Nat) (x : Laser) : (s.setLaser l x).twlSel = s.twlSel := rfl
@[simp] theorem State.setLaser_colSel (s : State) (l : Nat) (x : Laser) : (s.setLaser l x).colSel = s.colSel := rfl
@[simp] theorem State.setLaser_power (s : State) (l : Nat) (x : Laser) : (s.setLaser l x).power = s.power := rfl
@[simp] theorem State.setLaser_links (s : State) (l : Nat) (x : Laser) : (s.setLaser l x).links = s.links := rfl
@[simp] theorem State.setLaser_cfg (s : State) (l : Nat) (x : Laser) : (s.setLaser l x).cfg = s.cfg := rfl
@[simp] theorem State.setLaser_ports (s : State) (l : Nat) (x : Laser) : (s.setLaser l x).ports = s.ports := rfl
@[simp] theorem State.setLaser_leaseMs (s : State) (l : Nat) (x : Laser) : (s.setLaser l x).leaseMs = s.leaseMs := rfl
@[simp] theorem State.setLaser_safe (s : State) (l : Nat) (x : Laser) : (s.setLaser l x).safe = s.safe := rfl
@[simp] theorem State.setLaser_evt (s : State) (l : Nat) (x : Laser) : (s.setLaser l x).evt = s.evt := rfl
@[simp] theorem State.setLaser_tst (s : State) (l : Nat) (x : Laser) : (s.setLaser l x).tst = s.tst := rfl
@[simp] theorem State.setLaser_sec (s : State) (l : Nat) (x : Laser) : (s.setLaser l x).sec = s.sec := rfl
@[simp] theorem State.setLaser_jtag (s : State) (l : Nat) (x : Laser) : (s.setLaser l x).jtag = s.jtag := rfl
@[simp] theorem State.setLaser_latch (s : State) (l : Nat) (x : Laser) : (s.setLaser l x).latch = s.latch := rfl
@[simp] theorem State.setLaser_stage (s : State) (l : Nat) (x : Laser) : (s.setLaser l x).stage = s.stage := rfl
@[simp] theorem State.setLaser_saves (s : State) (l : Nat) (x : Laser) : (s.setLaser l x).saves = s.saves := rfl
@[simp] theorem State.setLaser_out (s : State) (l : Nat) (x : Laser) : (s.setLaser l x).out = s.out := rfl
@[simp] theorem State.setLaser_free (s : State) (l : Nat) (x : Laser) : (s.setLaser l x).free = s.free := rfl

/-! ## setRing -/

@[simp] theorem State.setRing_pending (s : State) (k : Nat) (x : Ring) : (s.setRing k x).pending = s.pending := rfl
@[simp] theorem State.setRing_fused (s : State) (k : Nat) (x : Ring) : (s.setRing k x).fused = s.fused := rfl
@[simp] theorem State.setRing_boot (s : State) (k : Nat) (x : Ring) : (s.setRing k x).boot = s.boot := rfl
@[simp] theorem State.setRing_board (s : State) (k : Nat) (x : Ring) : (s.setRing k x).board = s.board := rfl
@[simp] theorem State.setRing_time (s : State) (k : Nat) (x : Ring) : (s.setRing k x).time = s.time := rfl
@[simp] theorem State.setRing_tiles (s : State) (k : Nat) (x : Ring) : (s.setRing k x).tiles = s.tiles := rfl
@[simp] theorem State.setRing_regions (s : State) (k : Nat) (x : Ring) : (s.setRing k x).regions = s.regions := rfl
@[simp] theorem State.setRing_stations (s : State) (k : Nat) (x : Ring) : (s.setRing k x).stations = s.stations := rfl
@[simp] theorem State.setRing_parts (s : State) (k : Nat) (x : Ring) : (s.setRing k x).parts = s.parts := rfl
@[simp] theorem State.setRing_fabric (s : State) (k : Nat) (x : Ring) : (s.setRing k x).fabric = s.fabric := rfl
@[simp] theorem State.setRing_mem (s : State) (k : Nat) (x : Ring) : (s.setRing k x).mem = s.mem := rfl
@[simp] theorem State.setRing_bursts (s : State) (k : Nat) (x : Ring) : (s.setRing k x).bursts = s.bursts := rfl
@[simp] theorem State.setRing_rxs (s : State) (k : Nat) (x : Ring) : (s.setRing k x).rxs = s.rxs := rfl
@[simp] theorem State.setRing_twlSel (s : State) (k : Nat) (x : Ring) : (s.setRing k x).twlSel = s.twlSel := rfl
@[simp] theorem State.setRing_colSel (s : State) (k : Nat) (x : Ring) : (s.setRing k x).colSel = s.colSel := rfl
@[simp] theorem State.setRing_power (s : State) (k : Nat) (x : Ring) : (s.setRing k x).power = s.power := rfl
@[simp] theorem State.setRing_links (s : State) (k : Nat) (x : Ring) : (s.setRing k x).links = s.links := rfl
@[simp] theorem State.setRing_cfg (s : State) (k : Nat) (x : Ring) : (s.setRing k x).cfg = s.cfg := rfl
@[simp] theorem State.setRing_ports (s : State) (k : Nat) (x : Ring) : (s.setRing k x).ports = s.ports := rfl
@[simp] theorem State.setRing_leaseMs (s : State) (k : Nat) (x : Ring) : (s.setRing k x).leaseMs = s.leaseMs := rfl
@[simp] theorem State.setRing_safe (s : State) (k : Nat) (x : Ring) : (s.setRing k x).safe = s.safe := rfl
@[simp] theorem State.setRing_evt (s : State) (k : Nat) (x : Ring) : (s.setRing k x).evt = s.evt := rfl
@[simp] theorem State.setRing_tst (s : State) (k : Nat) (x : Ring) : (s.setRing k x).tst = s.tst := rfl
@[simp] theorem State.setRing_sec (s : State) (k : Nat) (x : Ring) : (s.setRing k x).sec = s.sec := rfl
@[simp] theorem State.setRing_jtag (s : State) (k : Nat) (x : Ring) : (s.setRing k x).jtag = s.jtag := rfl
@[simp] theorem State.setRing_latch (s : State) (k : Nat) (x : Ring) : (s.setRing k x).latch = s.latch := rfl
@[simp] theorem State.setRing_stage (s : State) (k : Nat) (x : Ring) : (s.setRing k x).stage = s.stage := rfl
@[simp] theorem State.setRing_saves (s : State) (k : Nat) (x : Ring) : (s.setRing k x).saves = s.saves := rfl
@[simp] theorem State.setRing_out (s : State) (k : Nat) (x : Ring) : (s.setRing k x).out = s.out := rfl
@[simp] theorem State.setRing_free (s : State) (k : Nat) (x : Ring) : (s.setRing k x).free = s.free := rfl

/-! ## emit -/

@[simp] theorem State.emit_pending (s : State) (o : Out) : (s.emit o).pending = s.pending := rfl
@[simp] theorem State.emit_fused (s : State) (o : Out) : (s.emit o).fused = s.fused := rfl
@[simp] theorem State.emit_boot (s : State) (o : Out) : (s.emit o).boot = s.boot := rfl
@[simp] theorem State.emit_board (s : State) (o : Out) : (s.emit o).board = s.board := rfl
@[simp] theorem State.emit_time (s : State) (o : Out) : (s.emit o).time = s.time := rfl
@[simp] theorem State.emit_tiles (s : State) (o : Out) : (s.emit o).tiles = s.tiles := rfl
@[simp] theorem State.emit_regions (s : State) (o : Out) : (s.emit o).regions = s.regions := rfl
@[simp] theorem State.emit_stations (s : State) (o : Out) : (s.emit o).stations = s.stations := rfl
@[simp] theorem State.emit_parts (s : State) (o : Out) : (s.emit o).parts = s.parts := rfl
@[simp] theorem State.emit_fabric (s : State) (o : Out) : (s.emit o).fabric = s.fabric := rfl
@[simp] theorem State.emit_mem (s : State) (o : Out) : (s.emit o).mem = s.mem := rfl
@[simp] theorem State.emit_bursts (s : State) (o : Out) : (s.emit o).bursts = s.bursts := rfl
@[simp] theorem State.emit_rxs (s : State) (o : Out) : (s.emit o).rxs = s.rxs := rfl
@[simp] theorem State.emit_twlSel (s : State) (o : Out) : (s.emit o).twlSel = s.twlSel := rfl
@[simp] theorem State.emit_colSel (s : State) (o : Out) : (s.emit o).colSel = s.colSel := rfl
@[simp] theorem State.emit_power (s : State) (o : Out) : (s.emit o).power = s.power := rfl
@[simp] theorem State.emit_opt (s : State) (o : Out) : (s.emit o).opt = s.opt := rfl
@[simp] theorem State.emit_links (s : State) (o : Out) : (s.emit o).links = s.links := rfl
@[simp] theorem State.emit_cfg (s : State) (o : Out) : (s.emit o).cfg = s.cfg := rfl
@[simp] theorem State.emit_ports (s : State) (o : Out) : (s.emit o).ports = s.ports := rfl
@[simp] theorem State.emit_leaseMs (s : State) (o : Out) : (s.emit o).leaseMs = s.leaseMs := rfl
@[simp] theorem State.emit_safe (s : State) (o : Out) : (s.emit o).safe = s.safe := rfl
@[simp] theorem State.emit_evt (s : State) (o : Out) : (s.emit o).evt = s.evt := rfl
@[simp] theorem State.emit_tst (s : State) (o : Out) : (s.emit o).tst = s.tst := rfl
@[simp] theorem State.emit_sec (s : State) (o : Out) : (s.emit o).sec = s.sec := rfl
@[simp] theorem State.emit_jtag (s : State) (o : Out) : (s.emit o).jtag = s.jtag := rfl
@[simp] theorem State.emit_latch (s : State) (o : Out) : (s.emit o).latch = s.latch := rfl
@[simp] theorem State.emit_stage (s : State) (o : Out) : (s.emit o).stage = s.stage := rfl
@[simp] theorem State.emit_saves (s : State) (o : Out) : (s.emit o).saves = s.saves := rfl
@[simp] theorem State.emit_free (s : State) (o : Out) : (s.emit o).free = s.free := rfl

/-! ## record -/

@[simp] theorem State.record_pending (s : State) (point code : Nat) (p : Option Nat) (src : W32) (data : List Byte) : (s.record point code p src data).pending = s.pending := rfl
@[simp] theorem State.record_fused (s : State) (point code : Nat) (p : Option Nat) (src : W32) (data : List Byte) : (s.record point code p src data).fused = s.fused := rfl
@[simp] theorem State.record_boot (s : State) (point code : Nat) (p : Option Nat) (src : W32) (data : List Byte) : (s.record point code p src data).boot = s.boot := rfl
@[simp] theorem State.record_board (s : State) (point code : Nat) (p : Option Nat) (src : W32) (data : List Byte) : (s.record point code p src data).board = s.board := rfl
@[simp] theorem State.record_time (s : State) (point code : Nat) (p : Option Nat) (src : W32) (data : List Byte) : (s.record point code p src data).time = s.time := rfl
@[simp] theorem State.record_tiles (s : State) (point code : Nat) (p : Option Nat) (src : W32) (data : List Byte) : (s.record point code p src data).tiles = s.tiles := rfl
@[simp] theorem State.record_regions (s : State) (point code : Nat) (p : Option Nat) (src : W32) (data : List Byte) : (s.record point code p src data).regions = s.regions := rfl
@[simp] theorem State.record_stations (s : State) (point code : Nat) (p : Option Nat) (src : W32) (data : List Byte) : (s.record point code p src data).stations = s.stations := rfl
@[simp] theorem State.record_parts (s : State) (point code : Nat) (p : Option Nat) (src : W32) (data : List Byte) : (s.record point code p src data).parts = s.parts := rfl
@[simp] theorem State.record_fabric (s : State) (point code : Nat) (p : Option Nat) (src : W32) (data : List Byte) : (s.record point code p src data).fabric = s.fabric := rfl
@[simp] theorem State.record_mem (s : State) (point code : Nat) (p : Option Nat) (src : W32) (data : List Byte) : (s.record point code p src data).mem = s.mem := rfl
@[simp] theorem State.record_bursts (s : State) (point code : Nat) (p : Option Nat) (src : W32) (data : List Byte) : (s.record point code p src data).bursts = s.bursts := rfl
@[simp] theorem State.record_rxs (s : State) (point code : Nat) (p : Option Nat) (src : W32) (data : List Byte) : (s.record point code p src data).rxs = s.rxs := rfl
@[simp] theorem State.record_twlSel (s : State) (point code : Nat) (p : Option Nat) (src : W32) (data : List Byte) : (s.record point code p src data).twlSel = s.twlSel := rfl
@[simp] theorem State.record_colSel (s : State) (point code : Nat) (p : Option Nat) (src : W32) (data : List Byte) : (s.record point code p src data).colSel = s.colSel := rfl
@[simp] theorem State.record_power (s : State) (point code : Nat) (p : Option Nat) (src : W32) (data : List Byte) : (s.record point code p src data).power = s.power := rfl
@[simp] theorem State.record_opt (s : State) (point code : Nat) (p : Option Nat) (src : W32) (data : List Byte) : (s.record point code p src data).opt = s.opt := rfl
@[simp] theorem State.record_links (s : State) (point code : Nat) (p : Option Nat) (src : W32) (data : List Byte) : (s.record point code p src data).links = s.links := rfl
@[simp] theorem State.record_cfg (s : State) (point code : Nat) (p : Option Nat) (src : W32) (data : List Byte) : (s.record point code p src data).cfg = s.cfg := rfl
@[simp] theorem State.record_ports (s : State) (point code : Nat) (p : Option Nat) (src : W32) (data : List Byte) : (s.record point code p src data).ports = s.ports := rfl
@[simp] theorem State.record_leaseMs (s : State) (point code : Nat) (p : Option Nat) (src : W32) (data : List Byte) : (s.record point code p src data).leaseMs = s.leaseMs := rfl
@[simp] theorem State.record_safe (s : State) (point code : Nat) (p : Option Nat) (src : W32) (data : List Byte) : (s.record point code p src data).safe = s.safe := rfl
@[simp] theorem State.record_tst (s : State) (point code : Nat) (p : Option Nat) (src : W32) (data : List Byte) : (s.record point code p src data).tst = s.tst := rfl
@[simp] theorem State.record_sec (s : State) (point code : Nat) (p : Option Nat) (src : W32) (data : List Byte) : (s.record point code p src data).sec = s.sec := rfl
@[simp] theorem State.record_jtag (s : State) (point code : Nat) (p : Option Nat) (src : W32) (data : List Byte) : (s.record point code p src data).jtag = s.jtag := rfl
@[simp] theorem State.record_latch (s : State) (point code : Nat) (p : Option Nat) (src : W32) (data : List Byte) : (s.record point code p src data).latch = s.latch := rfl
@[simp] theorem State.record_stage (s : State) (point code : Nat) (p : Option Nat) (src : W32) (data : List Byte) : (s.record point code p src data).stage = s.stage := rfl
@[simp] theorem State.record_saves (s : State) (point code : Nat) (p : Option Nat) (src : W32) (data : List Byte) : (s.record point code p src data).saves = s.saves := rfl
@[simp] theorem State.record_out (s : State) (point code : Nat) (p : Option Nat) (src : W32) (data : List Byte) : (s.record point code p src data).out = s.out := rfl
@[simp] theorem State.record_free (s : State) (point code : Nat) (p : Option Nat) (src : W32) (data : List Byte) : (s.record point code p src data).free = s.free := rfl

/-! ## Accessors after an update -/

theorem State.tile_setTile (s : State) (k k' : Nat) (x : Tile) :
    (s.setTile k x).tile k' = if k' = k then x else s.tile k' := mget_mset _ _ _ _ _

@[simp] theorem State.tile_setTile_same (s : State) (k : Nat) (x : Tile) : (s.setTile k x).tile k = x := mget_mset_same _ _ _ _

@[simp] theorem State.tile_setTile_ne (s : State) {k k' : Nat} (x : Tile) (h : k' ≠ k) : (s.setTile k x).tile k' = s.tile k' :=
  mget_mset_ne _ _ _ h

theorem State.rgn_setRgn (s : State) (k k' : Nat) (x : Region) :
    (s.setRgn k x).rgn k' = if k' = k then x else s.rgn k' := mget_mset _ _ _ _ _

@[simp] theorem State.rgn_setRgn_same (s : State) (k : Nat) (x : Region) : (s.setRgn k x).rgn k = x := mget_mset_same _ _ _ _

@[simp] theorem State.rgn_setRgn_ne (s : State) {k k' : Nat} (x : Region) (h : k' ≠ k) : (s.setRgn k x).rgn k' = s.rgn k' :=
  mget_mset_ne _ _ _ h

theorem State.stn_setStn (s : State) (k k' : Nat) (x : Station) :
    (s.setStn k x).stn k' = if k' = k then x else s.stn k' := mget_mset _ _ _ _ _

@[simp] theorem State.stn_setStn_same (s : State) (k : Nat) (x : Station) : (s.setStn k x).stn k = x := mget_mset_same _ _ _ _

@[simp] theorem State.stn_setStn_ne (s : State) {k k' : Nat} (x : Station) (h : k' ≠ k) : (s.setStn k x).stn k' = s.stn k' :=
  mget_mset_ne _ _ _ h

theorem State.part_setPart (s : State) (k k' : Nat) (x : Partition) :
    (s.setPart k x).part k' = if k' = k then x else s.part k' := mget_mset _ _ _ _ _

@[simp] theorem State.part_setPart_same (s : State) (k : Nat) (x : Partition) : (s.setPart k x).part k = x := mget_mset_same _ _ _ _

@[simp] theorem State.part_setPart_ne (s : State) {k k' : Nat} (x : Partition) (h : k' ≠ k) : (s.setPart k x).part k' = s.part k' :=
  mget_mset_ne _ _ _ h

theorem State.port_setPort (s : State) (k k' : Nat) (x : Port) :
    (s.setPort k x).port k' = if k' = k then x else s.port k' := mget_mset _ _ _ _ _

@[simp] theorem State.port_setPort_same (s : State) (k : Nat) (x : Port) : (s.setPort k x).port k = x := mget_mset_same _ _ _ _

@[simp] theorem State.port_setPort_ne (s : State) {k k' : Nat} (x : Port) (h : k' ≠ k) : (s.setPort k x).port k' = s.port k' :=
  mget_mset_ne _ _ _ h

theorem State.hall_setHall (s : State) (k k' : Nat) (x : HallPort) :
    (s.setHall k x).hall k' = if k' = k then x else s.hall k' := mget_mset _ _ _ _ _

@[simp] theorem State.hall_setHall_same (s : State) (k : Nat) (x : HallPort) : (s.setHall k x).hall k = x := mget_mset_same _ _ _ _

@[simp] theorem State.hall_setHall_ne (s : State) {k k' : Nat} (x : HallPort) (h : k' ≠ k) : (s.setHall k x).hall k' = s.hall k' :=
  mget_mset_ne _ _ _ h

theorem State.site_setSite (s : State) (k k' : Nat) (x : Site) :
    (s.setSite k x).site k' = if k' = k then x else s.site k' := mget_mset _ _ _ _ _

@[simp] theorem State.site_setSite_same (s : State) (k : Nat) (x : Site) : (s.setSite k x).site k = x := mget_mset_same _ _ _ _

@[simp] theorem State.site_setSite_ne (s : State) {k k' : Nat} (x : Site) (h : k' ≠ k) : (s.setSite k x).site k' = s.site k' :=
  mget_mset_ne _ _ _ h

theorem State.stack_setStack (s : State) (k k' : Nat) (x : Stack) :
    (s.setStack k x).stack k' = if k' = k then x else s.stack k' := mget_mset _ _ _ _ _

@[simp] theorem State.stack_setStack_same (s : State) (k : Nat) (x : Stack) : (s.setStack k x).stack k = x := mget_mset_same _ _ _ _

@[simp] theorem State.stack_setStack_ne (s : State) {k k' : Nat} (x : Stack) (h : k' ≠ k) : (s.setStack k x).stack k' = s.stack k' :=
  mget_mset_ne _ _ _ h

theorem State.die_setDie (s : State) (k k' : Nat) (x : Die) :
    (s.setDie k x).die k' = if k' = k then x else s.die k' := mget_mset _ _ _ _ _

@[simp] theorem State.die_setDie_same (s : State) (k : Nat) (x : Die) : (s.setDie k x).die k = x := mget_mset_same _ _ _ _

@[simp] theorem State.die_setDie_ne (s : State) {k k' : Nat} (x : Die) (h : k' ≠ k) : (s.setDie k x).die k' = s.die k' :=
  mget_mset_ne _ _ _ h

theorem State.chan_setChan (s : State) (k k' : Nat) (x : Channel) :
    (s.setChan k x).chan k' = if k' = k then x else s.chan k' := mget_mset _ _ _ _ _

@[simp] theorem State.chan_setChan_same (s : State) (k : Nat) (x : Channel) : (s.setChan k x).chan k = x := mget_mset_same _ _ _ _

@[simp] theorem State.chan_setChan_ne (s : State) {k k' : Nat} (x : Channel) (h : k' ≠ k) : (s.setChan k x).chan k' = s.chan k' :=
  mget_mset_ne _ _ _ h

theorem State.reqr_setReqr (s : State) (k k' : Nat) (x : Requester) :
    (s.setReqr k x).reqr k' = if k' = k then x else s.reqr k' := mget_mset _ _ _ _ _

@[simp] theorem State.reqr_setReqr_same (s : State) (k : Nat) (x : Requester) : (s.setReqr k x).reqr k = x := mget_mset_same _ _ _ _

@[simp] theorem State.reqr_setReqr_ne (s : State) {k k' : Nat} (x : Requester) (h : k' ≠ k) : (s.setReqr k x).reqr k' = s.reqr k' :=
  mget_mset_ne _ _ _ h

theorem State.ring_setRing (s : State) (k k' : Nat) (x : Ring) :
    (s.setRing k x).ring k' = if k' = k then x else s.ring k' := mget_mset _ _ _ _ _

@[simp] theorem State.ring_setRing_same (s : State) (k : Nat) (x : Ring) : (s.setRing k x).ring k = x := mget_mset_same _ _ _ _

@[simp] theorem State.ring_setRing_ne (s : State) {k k' : Nat} (x : Ring) (h : k' ≠ k) : (s.setRing k x).ring k' = s.ring k' :=
  mget_mset_ne _ _ _ h

@[simp] theorem State.laser_setLaser_same (s : State) (k : Nat) (x : Laser) : (s.setLaser k x).laser k = x :=
  mget_mset_same _ _ _ _

/-! ## An accessor of one table after an update of another -/

@[simp] theorem State.tile_setRgn (s : State) (r : Nat) (x : Region) (j : Nat) : (s.setRgn r x).tile j = s.tile j := rfl
@[simp] theorem State.tile_setStn (s : State) (n : Nat) (x : Station) (j : Nat) : (s.setStn n x).tile j = s.tile j := rfl
@[simp] theorem State.tile_setPart (s : State) (p : Nat) (x : Partition) (j : Nat) : (s.setPart p x).tile j = s.tile j := rfl
@[simp] theorem State.tile_setPort (s : State) (p : Nat) (x : Port) (j : Nat) : (s.setPort p x).tile j = s.tile j := rfl
@[simp] theorem State.tile_setHall (s : State) (p : Nat) (x : HallPort) (j : Nat) : (s.setHall p x).tile j = s.tile j := rfl
@[simp] theorem State.tile_setSite (s : State) (n : Nat) (x : Site) (j : Nat) : (s.setSite n x).tile j = s.tile j := rfl
@[simp] theorem State.tile_setStack (s : State) (n : Nat) (x : Stack) (j : Nat) : (s.setStack n x).tile j = s.tile j := rfl
@[simp] theorem State.tile_setDie (s : State) (d : Nat) (x : Die) (j : Nat) : (s.setDie d x).tile j = s.tile j := rfl
@[simp] theorem State.tile_setChan (s : State) (c : Nat) (x : Channel) (j : Nat) : (s.setChan c x).tile j = s.tile j := rfl
@[simp] theorem State.tile_setReqr (s : State) (r : Nat) (x : Requester) (j : Nat) : (s.setReqr r x).tile j = s.tile j := rfl
@[simp] theorem State.tile_setLaser (s : State) (l : Nat) (x : Laser) (j : Nat) : (s.setLaser l x).tile j = s.tile j := rfl
@[simp] theorem State.tile_setRing (s : State) (k : Nat) (x : Ring) (j : Nat) : (s.setRing k x).tile j = s.tile j := rfl
@[simp] theorem State.tile_emit (s : State) (o : Out) (j : Nat) : (s.emit o).tile j = s.tile j := rfl
@[simp] theorem State.tile_record (s : State) (point code : Nat) (p : Option Nat) (src : W32) (data : List Byte) (j : Nat) : (s.record point code p src data).tile j = s.tile j := rfl
@[simp] theorem State.rgn_setTile (s : State) (t : Nat) (x : Tile) (j : Nat) : (s.setTile t x).rgn j = s.rgn j := rfl
@[simp] theorem State.rgn_setStn (s : State) (n : Nat) (x : Station) (j : Nat) : (s.setStn n x).rgn j = s.rgn j := rfl
@[simp] theorem State.rgn_setPart (s : State) (p : Nat) (x : Partition) (j : Nat) : (s.setPart p x).rgn j = s.rgn j := rfl
@[simp] theorem State.rgn_setPort (s : State) (p : Nat) (x : Port) (j : Nat) : (s.setPort p x).rgn j = s.rgn j := rfl
@[simp] theorem State.rgn_setHall (s : State) (p : Nat) (x : HallPort) (j : Nat) : (s.setHall p x).rgn j = s.rgn j := rfl
@[simp] theorem State.rgn_setSite (s : State) (n : Nat) (x : Site) (j : Nat) : (s.setSite n x).rgn j = s.rgn j := rfl
@[simp] theorem State.rgn_setStack (s : State) (n : Nat) (x : Stack) (j : Nat) : (s.setStack n x).rgn j = s.rgn j := rfl
@[simp] theorem State.rgn_setDie (s : State) (d : Nat) (x : Die) (j : Nat) : (s.setDie d x).rgn j = s.rgn j := rfl
@[simp] theorem State.rgn_setChan (s : State) (c : Nat) (x : Channel) (j : Nat) : (s.setChan c x).rgn j = s.rgn j := rfl
@[simp] theorem State.rgn_setReqr (s : State) (r : Nat) (x : Requester) (j : Nat) : (s.setReqr r x).rgn j = s.rgn j := rfl
@[simp] theorem State.rgn_setLaser (s : State) (l : Nat) (x : Laser) (j : Nat) : (s.setLaser l x).rgn j = s.rgn j := rfl
@[simp] theorem State.rgn_setRing (s : State) (k : Nat) (x : Ring) (j : Nat) : (s.setRing k x).rgn j = s.rgn j := rfl
@[simp] theorem State.rgn_emit (s : State) (o : Out) (j : Nat) : (s.emit o).rgn j = s.rgn j := rfl
@[simp] theorem State.rgn_record (s : State) (point code : Nat) (p : Option Nat) (src : W32) (data : List Byte) (j : Nat) : (s.record point code p src data).rgn j = s.rgn j := rfl
@[simp] theorem State.stn_setTile (s : State) (t : Nat) (x : Tile) (j : Nat) : (s.setTile t x).stn j = s.stn j := rfl
@[simp] theorem State.stn_setRgn (s : State) (r : Nat) (x : Region) (j : Nat) : (s.setRgn r x).stn j = s.stn j := rfl
@[simp] theorem State.stn_setPart (s : State) (p : Nat) (x : Partition) (j : Nat) : (s.setPart p x).stn j = s.stn j := rfl
@[simp] theorem State.stn_setPort (s : State) (p : Nat) (x : Port) (j : Nat) : (s.setPort p x).stn j = s.stn j := rfl
@[simp] theorem State.stn_setHall (s : State) (p : Nat) (x : HallPort) (j : Nat) : (s.setHall p x).stn j = s.stn j := rfl
@[simp] theorem State.stn_setSite (s : State) (n : Nat) (x : Site) (j : Nat) : (s.setSite n x).stn j = s.stn j := rfl
@[simp] theorem State.stn_setStack (s : State) (n : Nat) (x : Stack) (j : Nat) : (s.setStack n x).stn j = s.stn j := rfl
@[simp] theorem State.stn_setDie (s : State) (d : Nat) (x : Die) (j : Nat) : (s.setDie d x).stn j = s.stn j := rfl
@[simp] theorem State.stn_setChan (s : State) (c : Nat) (x : Channel) (j : Nat) : (s.setChan c x).stn j = s.stn j := rfl
@[simp] theorem State.stn_setReqr (s : State) (r : Nat) (x : Requester) (j : Nat) : (s.setReqr r x).stn j = s.stn j := rfl
@[simp] theorem State.stn_setLaser (s : State) (l : Nat) (x : Laser) (j : Nat) : (s.setLaser l x).stn j = s.stn j := rfl
@[simp] theorem State.stn_setRing (s : State) (k : Nat) (x : Ring) (j : Nat) : (s.setRing k x).stn j = s.stn j := rfl
@[simp] theorem State.stn_emit (s : State) (o : Out) (j : Nat) : (s.emit o).stn j = s.stn j := rfl
@[simp] theorem State.stn_record (s : State) (point code : Nat) (p : Option Nat) (src : W32) (data : List Byte) (j : Nat) : (s.record point code p src data).stn j = s.stn j := rfl
@[simp] theorem State.part_setTile (s : State) (t : Nat) (x : Tile) (j : Nat) : (s.setTile t x).part j = s.part j := rfl
@[simp] theorem State.part_setRgn (s : State) (r : Nat) (x : Region) (j : Nat) : (s.setRgn r x).part j = s.part j := rfl
@[simp] theorem State.part_setStn (s : State) (n : Nat) (x : Station) (j : Nat) : (s.setStn n x).part j = s.part j := rfl
@[simp] theorem State.part_setPort (s : State) (p : Nat) (x : Port) (j : Nat) : (s.setPort p x).part j = s.part j := rfl
@[simp] theorem State.part_setHall (s : State) (p : Nat) (x : HallPort) (j : Nat) : (s.setHall p x).part j = s.part j := rfl
@[simp] theorem State.part_setSite (s : State) (n : Nat) (x : Site) (j : Nat) : (s.setSite n x).part j = s.part j := rfl
@[simp] theorem State.part_setStack (s : State) (n : Nat) (x : Stack) (j : Nat) : (s.setStack n x).part j = s.part j := rfl
@[simp] theorem State.part_setDie (s : State) (d : Nat) (x : Die) (j : Nat) : (s.setDie d x).part j = s.part j := rfl
@[simp] theorem State.part_setChan (s : State) (c : Nat) (x : Channel) (j : Nat) : (s.setChan c x).part j = s.part j := rfl
@[simp] theorem State.part_setReqr (s : State) (r : Nat) (x : Requester) (j : Nat) : (s.setReqr r x).part j = s.part j := rfl
@[simp] theorem State.part_setLaser (s : State) (l : Nat) (x : Laser) (j : Nat) : (s.setLaser l x).part j = s.part j := rfl
@[simp] theorem State.part_setRing (s : State) (k : Nat) (x : Ring) (j : Nat) : (s.setRing k x).part j = s.part j := rfl
@[simp] theorem State.part_emit (s : State) (o : Out) (j : Nat) : (s.emit o).part j = s.part j := rfl
@[simp] theorem State.part_record (s : State) (point code : Nat) (p : Option Nat) (src : W32) (data : List Byte) (j : Nat) : (s.record point code p src data).part j = s.part j := rfl
@[simp] theorem State.port_setTile (s : State) (t : Nat) (x : Tile) (j : Nat) : (s.setTile t x).port j = s.port j := rfl
@[simp] theorem State.port_setRgn (s : State) (r : Nat) (x : Region) (j : Nat) : (s.setRgn r x).port j = s.port j := rfl
@[simp] theorem State.port_setStn (s : State) (n : Nat) (x : Station) (j : Nat) : (s.setStn n x).port j = s.port j := rfl
@[simp] theorem State.port_setPart (s : State) (p : Nat) (x : Partition) (j : Nat) : (s.setPart p x).port j = s.port j := rfl
@[simp] theorem State.port_setHall (s : State) (p : Nat) (x : HallPort) (j : Nat) : (s.setHall p x).port j = s.port j := rfl
@[simp] theorem State.port_setSite (s : State) (n : Nat) (x : Site) (j : Nat) : (s.setSite n x).port j = s.port j := rfl
@[simp] theorem State.port_setStack (s : State) (n : Nat) (x : Stack) (j : Nat) : (s.setStack n x).port j = s.port j := rfl
@[simp] theorem State.port_setDie (s : State) (d : Nat) (x : Die) (j : Nat) : (s.setDie d x).port j = s.port j := rfl
@[simp] theorem State.port_setChan (s : State) (c : Nat) (x : Channel) (j : Nat) : (s.setChan c x).port j = s.port j := rfl
@[simp] theorem State.port_setReqr (s : State) (r : Nat) (x : Requester) (j : Nat) : (s.setReqr r x).port j = s.port j := rfl
@[simp] theorem State.port_setLaser (s : State) (l : Nat) (x : Laser) (j : Nat) : (s.setLaser l x).port j = s.port j := rfl
@[simp] theorem State.port_setRing (s : State) (k : Nat) (x : Ring) (j : Nat) : (s.setRing k x).port j = s.port j := rfl
@[simp] theorem State.port_emit (s : State) (o : Out) (j : Nat) : (s.emit o).port j = s.port j := rfl
@[simp] theorem State.port_record (s : State) (point code : Nat) (p : Option Nat) (src : W32) (data : List Byte) (j : Nat) : (s.record point code p src data).port j = s.port j := rfl
@[simp] theorem State.ht_setTile (s : State) (t : Nat) (x : Tile) : (s.setTile t x).ht = s.ht := rfl
@[simp] theorem State.ht_setRgn (s : State) (r : Nat) (x : Region) : (s.setRgn r x).ht = s.ht := rfl
@[simp] theorem State.ht_setStn (s : State) (n : Nat) (x : Station) : (s.setStn n x).ht = s.ht := rfl
@[simp] theorem State.ht_setPart (s : State) (p : Nat) (x : Partition) : (s.setPart p x).ht = s.ht := rfl
@[simp] theorem State.ht_setPort (s : State) (p : Nat) (x : Port) : (s.setPort p x).ht = s.ht := rfl
@[simp] theorem State.ht_setHall (s : State) (p : Nat) (x : HallPort) : (s.setHall p x).ht = s.ht := rfl
@[simp] theorem State.ht_setSite (s : State) (n : Nat) (x : Site) : (s.setSite n x).ht = s.ht := rfl
@[simp] theorem State.ht_setStack (s : State) (n : Nat) (x : Stack) : (s.setStack n x).ht = s.ht := rfl
@[simp] theorem State.ht_setDie (s : State) (d : Nat) (x : Die) : (s.setDie d x).ht = s.ht := rfl
@[simp] theorem State.ht_setChan (s : State) (c : Nat) (x : Channel) : (s.setChan c x).ht = s.ht := rfl
@[simp] theorem State.ht_setReqr (s : State) (r : Nat) (x : Requester) : (s.setReqr r x).ht = s.ht := rfl
@[simp] theorem State.ht_setLaser (s : State) (l : Nat) (x : Laser) : (s.setLaser l x).ht = s.ht := rfl
@[simp] theorem State.ht_setRing (s : State) (k : Nat) (x : Ring) : (s.setRing k x).ht = s.ht := rfl
@[simp] theorem State.ht_emit (s : State) (o : Out) : (s.emit o).ht = s.ht := rfl
@[simp] theorem State.ht_record (s : State) (point code : Nat) (p : Option Nat) (src : W32) (data : List Byte) : (s.record point code p src data).ht = s.ht := rfl

end Sys2Proof.Machine
end

