-- ==== Sys2Proof/Laws/Issue.lean ====
section
/-! SUPPORT. What the issue of a tile instruction can do: nothing, one of two faults, or its effect. -/

namespace Sys2Proof.Machine

/-- Everything `State.issue` can do. -/
theorem State.issue_cases (s : State) (t : Nat) (f : Fields) (unit : Option ExecUnit) (occ : Nat) (sregs : List Nat) (legal : Bool)
    (run : Tile → TEff) :
    s.issue t f unit occ sregs legal run =
      if s.issuing t = false then s
      else if (s.tile t).fetchOk = false then s.tileFault t .range
      else if legal = false then s.tileFault t .illegal
      else if (s.tile t).ready unit sregs = false then s
      else if f.regParity = true then s.tileFault t .regParity
      else if (run ((s.tile t).issued unit occ)).fault = .none then s.putEff t (run ((s.tile t).issued unit occ))
      else s.putEff t { run ((s.tile t).issued unit occ) with
        tile := (run ((s.tile t).issued unit occ)).tile.unissued (s.tile t) } := by
  simp [State.issue]

/-- An effect without a fault and without an uncorrectable error is the new tile. -/
theorem State.putEff_tile (s : State) (t : Nat) (x : Tile) : s.putEff t { tile := x } = s.setTile t x := by
  simp [State.putEff]

/-- An instruction that may issue, is legal and meets no fault retires. -/
theorem State.issue_ran {s : State} {t : Nat} {f : Fields} {unit : Option ExecUnit} {occ : Nat} {sregs : List Nat} {legal : Bool}
    {run : Tile → TEff} {g : Tile → Tile} (h : s.canIssue t f unit sregs) (hl : legal = true)
    (hr : run ((s.tile t).issued unit occ) = { tile := g ((s.tile t).issued unit occ) }) :
    s.issue t f unit occ sregs legal run = s.ran t unit occ g := by
  obtain ⟨h1, h2, h3, h4⟩ := h
  rw [State.issue_cases, h1, h2, h3, h4, hl, hr]
  simp [State.putEff_tile, State.ran]

/-- R100: an instruction that fails its checks faults with ILLEGAL. -/
theorem State.issue_illegal {s : State} {t : Nat} {f : Fields} {unit : Option ExecUnit} {occ : Nat} {sregs : List Nat}
    {run : Tile → TEff} (h1 : s.issuing t = true) (h2 : (s.tile t).fetchOk = true) :
    s.issue t f unit occ sregs false run = s.tileFault t .illegal := by
  rw [State.issue_cases, h1, h2]
  simp

/-- R103: a fetch outside [FETCH_LO, FETCH_HI) faults with RANGE. -/
theorem State.issue_range {s : State} {t : Nat} {f : Fields} {unit : Option ExecUnit} {occ : Nat} {sregs : List Nat} {legal : Bool}
    {run : Tile → TEff} (h1 : s.issuing t = true) (h2 : (s.tile t).fetchOk = false) :
    s.issue t f unit occ sregs legal run = s.tileFault t .range := by
  rw [State.issue_cases, h1, h2]
  simp

/-- An instruction whose effect ends in a fault leaves the program counter and the units as they were. -/
theorem State.issue_fault {s : State} {t : Nat} {f : Fields} {unit : Option ExecUnit} {occ : Nat} {sregs : List Nat} {legal : Bool}
    {run : Tile → TEff} (h : s.canIssue t f unit sregs) (hl : legal = true)
    (hf : (run ((s.tile t).issued unit occ)).fault ≠ .none) :
    s.issue t f unit occ sregs legal run = s.putEff t { run ((s.tile t).issued unit occ) with
      tile := (run ((s.tile t).issued unit occ)).tile.unissued (s.tile t) } := by
  obtain ⟨h1, h2, h3, h4⟩ := h
  rw [State.issue_cases, h1, h2, h3, h4, hl]
  simp [hf]

/-! ## A retired instruction: the frame -/

@[simp] theorem State.tile_ran (s : State) (t : Nat) (unit : Option ExecUnit) (occ : Nat) (g : Tile → Tile) :
    (s.ran t unit occ g).tile t = g ((s.tile t).issued unit occ) := State.tile_setTile_same _ _ _

@[simp] theorem State.tile_ran_ne (s : State) {t u : Nat} (unit : Option ExecUnit) (occ : Nat) (g : Tile → Tile)
    (h : u ≠ t) : (s.ran t unit occ g).tile u = s.tile u := State.tile_setTile_ne _ _ h

/-! ## Registers of a tile -/

@[simp] theorem Tile.issued_pc (x : Tile) (u : Option ExecUnit) (occ : Nat) : (x.issued u occ).pc = x.pc + 8 := by
  cases u with
  | none => rfl
  | some u => cases u <;> rfl

@[simp] theorem Tile.issued_rs (x : Tile) (u : Option ExecUnit) (occ r : Nat) : (x.issued u occ).rs r = x.rs r := by
  cases u with
  | none => rfl
  | some u => cases u <;> rfl

@[simp] theorem Tile.issued_rv (x : Tile) (u : Option ExecUnit) (occ r : Nat) : (x.issued u occ).rv r = x.rv r := by
  cases u with
  | none => rfl
  | some u => cases u <;> rfl

@[simp] theorem Tile.issued_rm (x : Tile) (u : Option ExecUnit) (occ r : Nat) : (x.issued u occ).rm r = x.rm r := by
  cases u with
  | none => rfl
  | some u => cases u <;> rfl

@[simp] theorem Tile.issued_sram (x : Tile) (u : Option ExecUnit) (occ : Nat) : (x.issued u occ).sram = x.sram := by
  cases u with
  | none => rfl
  | some u => cases u <;> rfl

@[simp] theorem Tile.issued_poison (x : Tile) (u : Option ExecUnit) (occ : Nat) : (x.issued u occ).poison = x.poison := by
  cases u with
  | none => rfl
  | some u => cases u <;> rfl

@[simp] theorem Tile.issued_badWord (x : Tile) (u : Option ExecUnit) (occ a n : Nat) :
    (x.issued u occ).badWord a n = x.badWord a n := by simp [Tile.badWord]

@[simp] theorem Tile.issued_badPartial (x : Tile) (u : Option ExecUnit) (occ a n : Nat) :
    (x.issued u occ).badPartial a n = x.badPartial a n := by simp [Tile.badPartial]

@[simp] theorem effAddr_issued (f : Fields) (x : Tile) (u : Option ExecUnit) (occ : Nat) :
    effAddr f (x.issued u occ) = effAddr f x := by simp [effAddr]

/-- R22: s0 reads 0, and a write to it is discarded. -/
@[simp] theorem Tile.rs_zero (x : Tile) : x.rs 0 = 0 := rfl
@[simp] theorem Tile.ws_zero (x : Tile) (v : W64) : x.ws 0 v = x := rfl

theorem Tile.rs_ws (x : Tile) (r k : Nat) (v : W64) : (x.ws r v).rs k = if k = r ∧ r ≠ 0 then v else x.rs k := by
  unfold Tile.ws
  split
  · rename_i h
    simp [h]
  · rename_i h
    unfold Tile.rs
    by_cases hk : k = 0
    · subst hk
      simp [Ne.symm h]
    · simp [mget_mset, hk, h]

theorem Tile.rv_wv (x : Tile) (r k : Nat) (v : VReg) : (x.wv r v).rv k = if k = r then v else x.rv k :=
  mget_mset _ _ _ _ _

theorem Tile.rm_wm (x : Tile) (r k : Nat) (a : Acc) : (x.wm r a).rm k = if k = r then a else x.rm k :=
  mget_mset _ _ _ _ _

theorem Tile.rc_wc (x : Tile) (r k : Nat) (v : W32) : (x.wc r v).rc k = if k = r then v else x.rc k :=
  mget_mset _ _ _ _ _

/-! ## SRAM of a tile (R28, R31, R32) -/

/-- A load that is aligned, in range and meets no uncorrectable word. -/
theorem Tile.load_ok {x : Tile} {a n align : Nat} {k : Tile → List Byte → Tile} (ha : a % align = 0)
    (hr : a + n ≤ sramBytes) (hb : x.badWord a n = none) :
    x.load a n align k = { tile := k (x.noteCorr a n) (x.rmem a n) } := by
  simp [Tile.load, ha, Nat.not_lt.2 hr, hb]

/-- A store that is aligned, in range and covers no poisoned word in part. -/
theorem Tile.store_ok {x : Tile} {a align : Nat} {bs : List Byte} (ha : a % align = 0)
    (hr : a + bs.length ≤ sramBytes) (hb : x.badPartial a bs.length = none) :
    x.store a align bs = { tile := x.wmem a bs } := by
  simp [Tile.store, ha, Nat.not_lt.2 hr, hb]

/-- A store changes no byte outside its range. -/
theorem Tile.wmem_out (x : Tile) (a : Nat) (bs : List Byte) (b : Nat) (h : b < a ∨ a + bs.length ≤ b) :
    mget 0 (x.wmem a bs).sram b = mget 0 x.sram b := mget_writeBytes_out _ _ _ _ h

/-- What a store has written is read back. -/
theorem Tile.rmem_wmem (x : Tile) (a : Nat) (bs : List Byte) : (x.wmem a bs).rmem a bs.length = bs :=
  readBytes_writeBytes _ _ _

/-- A store keeps the canonical form. -/
theorem Tile.wmem_wf (x : Tile) (a : Nat) (bs : List Byte) (h : Memory.wf x.sram) : Memory.wf (x.wmem a bs).sram :=
  mwf_writeBytes a bs h

@[simp] theorem leBytes_length (n v : Nat) : (leBytes n v).length = n := by
  induction n generalizing v with
  | zero => rfl
  | succ n ih => simp [leBytes, ih]

/-- The bytes of a value give the value back, modulo their number. -/
theorem leNat_leBytes (n v : Nat) : leNat (leBytes n v) = v % 256 ^ n := by
  induction n generalizing v with
  | zero => simp [leBytes, leNat, Nat.mod_one]
  | succ n ih =>
    simp only [leBytes, leNat, ih, BitVec.toNat_ofNat]
    rw [show 256 ^ (n + 1) = 256 * 256 ^ n by ring, Nat.mod_mul]

end Sys2Proof.Machine
end

