-- ==== Sys2Proof/Laws/Fault.lean ====
section
/-! SUPPORT. The completion of a descriptor and the fault of a tile: what they leave as it was. -/

namespace Sys2Proof.Machine

/-! ## Single-bit errors that are met change CORR_CNT and FLAGS alone -/

@[simp] theorem Tile.noteSoft_st (x : Tile) (q : Nat → Bool) : (x.noteSoft q).st = x.st := by
  unfold Tile.noteSoft; simp only; split <;> rfl
@[simp] theorem Tile.noteSoft_cause (x : Tile) (q : Nat → Bool) : (x.noteSoft q).cause = x.cause := by
  unfold Tile.noteSoft; simp only; split <;> rfl
@[simp] theorem Tile.noteSoft_draining (x : Tile) (q : Nat → Bool) : (x.noteSoft q).draining = x.draining := by
  unfold Tile.noteSoft; simp only; split <;> rfl
@[simp] theorem Tile.noteSoft_fenceReq (x : Tile) (q : Nat → Bool) : (x.noteSoft q).fenceReq = x.fenceReq := by
  unfold Tile.noteSoft; simp only; split <;> rfl
@[simp] theorem Tile.noteSoft_pc (x : Tile) (q : Nat → Bool) : (x.noteSoft q).pc = x.pc := by
  unfold Tile.noteSoft; simp only; split <;> rfl
@[simp] theorem Tile.noteSoft_fetchLo (x : Tile) (q : Nat → Bool) : (x.noteSoft q).fetchLo = x.fetchLo := by
  unfold Tile.noteSoft; simp only; split <;> rfl
@[simp] theorem Tile.noteSoft_fetchHi (x : Tile) (q : Nat → Bool) : (x.noteSoft q).fetchHi = x.fetchHi := by
  unfold Tile.noteSoft; simp only; split <;> rfl
@[simp] theorem Tile.noteSoft_entries (x : Tile) (q : Nat → Bool) : (x.noteSoft q).entries = x.entries := by
  unfold Tile.noteSoft; simp only; split <;> rfl
@[simp] theorem Tile.noteSoft_s (x : Tile) (q : Nat → Bool) : (x.noteSoft q).s = x.s := by
  unfold Tile.noteSoft; simp only; split <;> rfl
@[simp] theorem Tile.noteSoft_v (x : Tile) (q : Nat → Bool) : (x.noteSoft q).v = x.v := by
  unfold Tile.noteSoft; simp only; split <;> rfl
@[simp] theorem Tile.noteSoft_m (x : Tile) (q : Nat → Bool) : (x.noteSoft q).m = x.m := by
  unfold Tile.noteSoft; simp only; split <;> rfl
@[simp] theorem Tile.noteSoft_c (x : Tile) (q : Nat → Bool) : (x.noteSoft q).c = x.c := by
  unfold Tile.noteSoft; simp only; split <;> rfl
@[simp] theorem Tile.noteSoft_sram (x : Tile) (q : Nat → Bool) : (x.noteSoft q).sram = x.sram := by
  unfold Tile.noteSoft; simp only; split <;> rfl
@[simp] theorem Tile.noteSoft_poison (x : Tile) (q : Nat → Bool) : (x.noteSoft q).poison = x.poison := by
  unfold Tile.noteSoft; simp only; split <;> rfl
@[simp] theorem Tile.noteSoft_uncorrCnt (x : Tile) (q : Nat → Bool) : (x.noteSoft q).uncorrCnt = x.uncorrCnt := by
  unfold Tile.noteSoft; simp only; split <;> rfl
@[simp] theorem Tile.noteSoft_eccAddr (x : Tile) (q : Nat → Bool) : (x.noteSoft q).eccAddr = x.eccAddr := by
  unfold Tile.noteSoft; simp only; split <;> rfl
@[simp] theorem Tile.noteSoft_failCnt (x : Tile) (q : Nat → Bool) : (x.noteSoft q).failCnt = x.failCnt := by
  unfold Tile.noteSoft; simp only; split <;> rfl
@[simp] theorem Tile.noteSoft_txid (x : Tile) (q : Nat → Bool) : (x.noteSoft q).txid = x.txid := by
  unfold Tile.noteSoft; simp only; split <;> rfl
@[simp] theorem Tile.noteSoft_partition (x : Tile) (q : Nat → Bool) : (x.noteSoft q).partition = x.partition := by
  unfold Tile.noteSoft; simp only; split <;> rfl
@[simp] theorem Tile.noteSoft_logical (x : Tile) (q : Nat → Bool) : (x.noteSoft q).logical = x.logical := by
  unfold Tile.noteSoft; simp only; split <;> rfl
@[simp] theorem Tile.noteSoft_enabled (x : Tile) (q : Nat → Bool) : (x.noteSoft q).enabled = x.enabled := by
  unfold Tile.noteSoft; simp only; split <;> rfl
@[simp] theorem Tile.noteSoft_descs (x : Tile) (q : Nat → Bool) : (x.noteSoft q).descs = x.descs := by
  unfold Tile.noteSoft; simp only; split <;> rfl
@[simp] theorem Tile.noteSoft_nextId (x : Tile) (q : Nat → Bool) : (x.noteSoft q).nextId = x.nextId := by
  unfold Tile.noteSoft; simp only; split <;> rfl
@[simp] theorem Tile.noteSoft_wait (x : Tile) (q : Nat → Bool) : (x.noteSoft q).wait = x.wait := by
  unfold Tile.noteSoft; simp only; split <;> rfl
@[simp] theorem Tile.noteSoft_sampler (x : Tile) (q : Nat → Bool) : (x.noteSoft q).sampler = x.sampler := by
  unfold Tile.noteSoft; simp only; split <;> rfl
@[simp] theorem Tile.noteSoft_combine (x : Tile) (q : Nat → Bool) : (x.noteSoft q).combine = x.combine := by
  unfold Tile.noteSoft; simp only; split <;> rfl
@[simp] theorem Tile.noteSoft_scrub (x : Tile) (q : Nat → Bool) : (x.noteSoft q).scrub = x.scrub := by
  unfold Tile.noteSoft; simp only; split <;> rfl
@[simp] theorem Tile.noteSoft_soft (x : Tile) (q : Nat → Bool) : (x.noteSoft q).soft = x.soft := by
  unfold Tile.noteSoft; simp only; split <;> rfl
@[simp] theorem Tile.noteSoft_ibuf (x : Tile) (q : Nat → Bool) : (x.noteSoft q).ibuf = x.ibuf := by
  unfold Tile.noteSoft; simp only; split <;> rfl

@[simp] theorem Tile.noteCorr_st (x : Tile) (a n : Nat) : (x.noteCorr a n).st = x.st := x.noteSoft_st _
@[simp] theorem Tile.noteCorr_cause (x : Tile) (a n : Nat) : (x.noteCorr a n).cause = x.cause := x.noteSoft_cause _
@[simp] theorem Tile.noteCorr_draining (x : Tile) (a n : Nat) : (x.noteCorr a n).draining = x.draining := x.noteSoft_draining _
@[simp] theorem Tile.noteCorr_fenceReq (x : Tile) (a n : Nat) : (x.noteCorr a n).fenceReq = x.fenceReq := x.noteSoft_fenceReq _
@[simp] theorem Tile.noteCorr_pc (x : Tile) (a n : Nat) : (x.noteCorr a n).pc = x.pc := x.noteSoft_pc _
@[simp] theorem Tile.noteCorr_fetchLo (x : Tile) (a n : Nat) : (x.noteCorr a n).fetchLo = x.fetchLo := x.noteSoft_fetchLo _
@[simp] theorem Tile.noteCorr_fetchHi (x : Tile) (a n : Nat) : (x.noteCorr a n).fetchHi = x.fetchHi := x.noteSoft_fetchHi _
@[simp] theorem Tile.noteCorr_entries (x : Tile) (a n : Nat) : (x.noteCorr a n).entries = x.entries := x.noteSoft_entries _
@[simp] theorem Tile.noteCorr_s (x : Tile) (a n : Nat) : (x.noteCorr a n).s = x.s := x.noteSoft_s _
@[simp] theorem Tile.noteCorr_v (x : Tile) (a n : Nat) : (x.noteCorr a n).v = x.v := x.noteSoft_v _
@[simp] theorem Tile.noteCorr_m (x : Tile) (a n : Nat) : (x.noteCorr a n).m = x.m := x.noteSoft_m _
@[simp] theorem Tile.noteCorr_c (x : Tile) (a n : Nat) : (x.noteCorr a n).c = x.c := x.noteSoft_c _
@[simp] theorem Tile.noteCorr_sram (x : Tile) (a n : Nat) : (x.noteCorr a n).sram = x.sram := x.noteSoft_sram _
@[simp] theorem Tile.noteCorr_poison (x : Tile) (a n : Nat) : (x.noteCorr a n).poison = x.poison := x.noteSoft_poison _
@[simp] theorem Tile.noteCorr_uncorrCnt (x : Tile) (a n : Nat) : (x.noteCorr a n).uncorrCnt = x.uncorrCnt := x.noteSoft_uncorrCnt _
@[simp] theorem Tile.noteCorr_eccAddr (x : Tile) (a n : Nat) : (x.noteCorr a n).eccAddr = x.eccAddr := x.noteSoft_eccAddr _
@[simp] theorem Tile.noteCorr_failCnt (x : Tile) (a n : Nat) : (x.noteCorr a n).failCnt = x.failCnt := x.noteSoft_failCnt _
@[simp] theorem Tile.noteCorr_txid (x : Tile) (a n : Nat) : (x.noteCorr a n).txid = x.txid := x.noteSoft_txid _
@[simp] theorem Tile.noteCorr_partition (x : Tile) (a n : Nat) : (x.noteCorr a n).partition = x.partition := x.noteSoft_partition _
@[simp] theorem Tile.noteCorr_logical (x : Tile) (a n : Nat) : (x.noteCorr a n).logical = x.logical := x.noteSoft_logical _
@[simp] theorem Tile.noteCorr_enabled (x : Tile) (a n : Nat) : (x.noteCorr a n).enabled = x.enabled := x.noteSoft_enabled _
@[simp] theorem Tile.noteCorr_descs (x : Tile) (a n : Nat) : (x.noteCorr a n).descs = x.descs := x.noteSoft_descs _
@[simp] theorem Tile.noteCorr_nextId (x : Tile) (a n : Nat) : (x.noteCorr a n).nextId = x.nextId := x.noteSoft_nextId _
@[simp] theorem Tile.noteCorr_wait (x : Tile) (a n : Nat) : (x.noteCorr a n).wait = x.wait := x.noteSoft_wait _
@[simp] theorem Tile.noteCorr_sampler (x : Tile) (a n : Nat) : (x.noteCorr a n).sampler = x.sampler := x.noteSoft_sampler _
@[simp] theorem Tile.noteCorr_combine (x : Tile) (a n : Nat) : (x.noteCorr a n).combine = x.combine := x.noteSoft_combine _
@[simp] theorem Tile.noteCorr_scrub (x : Tile) (a n : Nat) : (x.noteCorr a n).scrub = x.scrub := x.noteSoft_scrub _
@[simp] theorem Tile.noteCorr_soft (x : Tile) (a n : Nat) : (x.noteCorr a n).soft = x.soft := x.noteSoft_soft _
@[simp] theorem Tile.noteCorr_ibuf (x : Tile) (a n : Nat) : (x.noteCorr a n).ibuf = x.ibuf := x.noteSoft_ibuf _
/-- R32: the flags after single-bit errors among the words that `q` names. -/
theorem Tile.noteSoft_flags (x : Tile) (q : Nat → Bool) :
    (x.noteSoft q).flags = if x.soft.any q then x.flags ||| fECC_CORR else x.flags := by
  unfold Tile.noteSoft
  cases h : x.soft.any q with
  | false =>
    have e : x.soft.filter q = [] := List.filter_eq_nil_iff.2 fun w hw => by simpa using List.any_eq_false.1 h w hw
    simp [e]
  | true =>
    obtain ⟨w, hw, hq⟩ := List.any_eq_true.1 h
    have e : (x.soft.filter q).length ≠ 0 := fun e =>
      List.filter_eq_nil_iff.1 (List.length_eq_zero_iff.1 e) w hw hq
    simp only [e, if_false, if_true]

@[simp] theorem Tile.noteCorr_rmem (x : Tile) (a n b m : Nat) : (x.noteCorr a n).rmem b m = x.rmem b m := by
  simp [Tile.rmem]
@[simp] theorem Tile.noteCorr_badWord (x : Tile) (a n b m : Nat) : (x.noteCorr a n).badWord b m = x.badWord b m := by
  simp [Tile.badWord]
@[simp] theorem Tile.noteCorr_badPartial (x : Tile) (a n b m : Nat) :
    (x.noteCorr a n).badPartial b m = x.badPartial b m := by simp [Tile.badPartial]

/-! ## A store changes SRAM, and CORR_CNT and FLAGS where it meets a single-bit error -/

@[simp] theorem Tile.wmem_st (x : Tile) (a : Nat) (bs : List Byte) : (x.wmem a bs).st = x.st :=
  x.noteSoft_st _
@[simp] theorem Tile.wmem_cause (x : Tile) (a : Nat) (bs : List Byte) : (x.wmem a bs).cause = x.cause :=
  x.noteSoft_cause _
@[simp] theorem Tile.wmem_draining (x : Tile) (a : Nat) (bs : List Byte) : (x.wmem a bs).draining = x.draining :=
  x.noteSoft_draining _
@[simp] theorem Tile.wmem_fenceReq (x : Tile) (a : Nat) (bs : List Byte) : (x.wmem a bs).fenceReq = x.fenceReq :=
  x.noteSoft_fenceReq _
@[simp] theorem Tile.wmem_pc (x : Tile) (a : Nat) (bs : List Byte) : (x.wmem a bs).pc = x.pc :=
  x.noteSoft_pc _
@[simp] theorem Tile.wmem_fetchLo (x : Tile) (a : Nat) (bs : List Byte) : (x.wmem a bs).fetchLo = x.fetchLo :=
  x.noteSoft_fetchLo _
@[simp] theorem Tile.wmem_fetchHi (x : Tile) (a : Nat) (bs : List Byte) : (x.wmem a bs).fetchHi = x.fetchHi :=
  x.noteSoft_fetchHi _
@[simp] theorem Tile.wmem_entries (x : Tile) (a : Nat) (bs : List Byte) : (x.wmem a bs).entries = x.entries :=
  x.noteSoft_entries _
@[simp] theorem Tile.wmem_s (x : Tile) (a : Nat) (bs : List Byte) : (x.wmem a bs).s = x.s :=
  x.noteSoft_s _
@[simp] theorem Tile.wmem_v (x : Tile) (a : Nat) (bs : List Byte) : (x.wmem a bs).v = x.v :=
  x.noteSoft_v _
@[simp] theorem Tile.wmem_m (x : Tile) (a : Nat) (bs : List Byte) : (x.wmem a bs).m = x.m :=
  x.noteSoft_m _
@[simp] theorem Tile.wmem_c (x : Tile) (a : Nat) (bs : List Byte) : (x.wmem a bs).c = x.c :=
  x.noteSoft_c _
theorem Tile.wmem_flags (x : Tile) (a : Nat) (bs : List Byte) : (x.wmem a bs).flags = (x.notePart a bs.length).flags := rfl
theorem Tile.wmem_corrCnt (x : Tile) (a : Nat) (bs : List Byte) : (x.wmem a bs).corrCnt = (x.notePart a bs.length).corrCnt := rfl
@[simp] theorem Tile.wmem_uncorrCnt (x : Tile) (a : Nat) (bs : List Byte) : (x.wmem a bs).uncorrCnt = x.uncorrCnt :=
  x.noteSoft_uncorrCnt _
@[simp] theorem Tile.wmem_eccAddr (x : Tile) (a : Nat) (bs : List Byte) : (x.wmem a bs).eccAddr = x.eccAddr :=
  x.noteSoft_eccAddr _
@[simp] theorem Tile.wmem_failCnt (x : Tile) (a : Nat) (bs : List Byte) : (x.wmem a bs).failCnt = x.failCnt :=
  x.noteSoft_failCnt _
@[simp] theorem Tile.wmem_txid (x : Tile) (a : Nat) (bs : List Byte) : (x.wmem a bs).txid = x.txid :=
  x.noteSoft_txid _
@[simp] theorem Tile.wmem_partition (x : Tile) (a : Nat) (bs : List Byte) : (x.wmem a bs).partition = x.partition :=
  x.noteSoft_partition _
@[simp] theorem Tile.wmem_logical (x : Tile) (a : Nat) (bs : List Byte) : (x.wmem a bs).logical = x.logical :=
  x.noteSoft_logical _
@[simp] theorem Tile.wmem_enabled (x : Tile) (a : Nat) (bs : List Byte) : (x.wmem a bs).enabled = x.enabled :=
  x.noteSoft_enabled _
@[simp] theorem Tile.wmem_descs (x : Tile) (a : Nat) (bs : List Byte) : (x.wmem a bs).descs = x.descs :=
  x.noteSoft_descs _
@[simp] theorem Tile.wmem_nextId (x : Tile) (a : Nat) (bs : List Byte) : (x.wmem a bs).nextId = x.nextId :=
  x.noteSoft_nextId _
@[simp] theorem Tile.wmem_wait (x : Tile) (a : Nat) (bs : List Byte) : (x.wmem a bs).wait = x.wait :=
  x.noteSoft_wait _
@[simp] theorem Tile.wmem_sampler (x : Tile) (a : Nat) (bs : List Byte) : (x.wmem a bs).sampler = x.sampler :=
  x.noteSoft_sampler _

/-- R40: a completed tile, its word 3 and its CNT_FAIL bit named. -/
theorem Tile.complete_eq (x : Tile) (d : Desc) (st : Byte) :
    ∃ w m, w = d.w3.toNat % 2 ^ 55 + 2 ^ 55 + st.toNat * 2 ^ 56 ∧ m = BitVec.ofNat 32 (2 ^ (16 + d.counter)) ∧
      x.complete d st =
        let y := x.wmem (d.addr + 24) (leBytes 8 w)
        if statusOk st then
          { y with c := mupd 0 y.c d.counter (· + 1), descs := y.descs.filter (fun e => e.id != d.id) }
        else
          { y with
            c := mupd 0 y.c d.counter (· + 1)
            descs := y.descs.filter (fun e => e.id != d.id)
            flags := y.flags ||| m
            failCnt := satInc 65535 y.failCnt } := ⟨_, _, rfl, rfl, rfl⟩

/-- Any property of both forms of a completed tile holds of the completed tile. -/
theorem Tile.complete_ind (P : Tile → Prop) (x : Tile) (d : Desc) (st : Byte)
    (h : ∀ w m y fl fc, w = d.w3.toNat % 2 ^ 55 + 2 ^ 55 + st.toNat * 2 ^ 56 →
      y = x.wmem (d.addr + 24) (leBytes 8 w) →
      (statusOk st = true → fl = (x.notePart (d.addr + 24) 8).flags ∧ fc = x.failCnt) →
      m = BitVec.ofNat 32 (2 ^ (16 + d.counter)) →
      (statusOk st = false → fl = (x.notePart (d.addr + 24) 8).flags ||| m ∧ fc = satInc 65535 x.failCnt) →
      P { y with
        c := mupd 0 y.c d.counter (· + 1), descs := y.descs.filter (fun e => e.id != d.id), flags := fl
        failCnt := fc }) : P (x.complete d st) := by
  obtain ⟨w, m, hw, hm, e⟩ := x.complete_eq d st
  rw [e]
  by_cases hs : statusOk st = true
  · rw [if_pos hs]
    exact h w m _ _ _ hw rfl (fun _ => ⟨rfl, Tile.wmem_failCnt ..⟩) hm (fun e => by rw [hs] at e; simp at e)
  · rw [if_neg hs]
    exact h w m _ _ _ hw rfl (fun e => absurd e hs) hm (fun _ => ⟨rfl, by rw [Tile.wmem_failCnt]⟩)

/-- R40: a completion changes SRAM, the counter, the flags and the table of descriptors, not the registers. -/
theorem Tile.complete_keeps (x : Tile) (d : Desc) (st : Byte) :
    (x.complete d st).pc = x.pc ∧ (x.complete d st).s = x.s ∧ (x.complete d st).v = x.v ∧
      (x.complete d st).cause = x.cause := by
  refine Tile.complete_ind (fun y => y.pc = x.pc ∧ y.s = x.s ∧ y.v = x.v ∧ y.cause = x.cause) x d st
    fun _ _ _ _ _ _ hy _ _ _ => by subst hy; simp

/-- R40, R41: the counter is incremented once. -/
theorem Tile.complete_rc (x : Tile) (d : Desc) (st : Byte) : (x.complete d st).rc d.counter = x.rc d.counter + 1 :=
  Tile.complete_ind (fun y => y.rc d.counter = x.rc d.counter + 1) x d st fun _ _ _ _ _ _ hy _ _ _ => by
    subst hy
    simp [Tile.rc, mupd]

/-- R40: the descriptor leaves the table. -/
theorem Tile.complete_descs (x : Tile) (d : Desc) (st : Byte) :
    (x.complete d st).descs = x.descs.filter (·.id != d.id) :=
  Tile.complete_ind (fun y => y.descs = x.descs.filter (·.id != d.id)) x d st fun _ _ _ _ _ _ hy _ _ _ => by
    subst hy
    simp

/-- R34, R40: a status that is no failure sets no flag but ECC_CORR, where the write meets a single-bit error
(R32). -/
theorem Tile.complete_flags (x : Tile) (d : Desc) (st : Byte) (h : statusOk st = true) :
    (x.complete d st).flags = (x.notePart (d.addr + 24) 8).flags :=
  Tile.complete_ind (fun y => y.flags = (x.notePart (d.addr + 24) 8).flags) x d st fun _ _ _ _ _ _ _ ho _ _ => (ho h).1

/-- R40: a failure is counted. -/
theorem Tile.complete_failCnt (x : Tile) (d : Desc) (st : Byte) (h : statusOk st = false) :
    (x.complete d st).failCnt = satInc 65535 x.failCnt :=
  Tile.complete_ind (fun y => y.failCnt = satInc 65535 x.failCnt) x d st fun _ _ _ _ _ _ _ _ _ hf => (hf h).2

/-- R36, R40: only bytes 24 to 31 of the descriptor are written. -/
theorem Tile.complete_out (x : Tile) (d : Desc) (st : Byte) (b : Nat) (h : b < d.addr + 24 ∨ d.addr + 32 ≤ b) :
    mget 0 (x.complete d st).sram b = mget 0 x.sram b :=
  Tile.complete_ind (fun y => mget 0 y.sram b = mget 0 x.sram b) x d st fun _ _ _ _ _ _ hy _ _ _ => by
    subst hy
    exact Tile.wmem_out x (d.addr + 24) _ b (by rw [leBytes_length]; omega)

/-- R40: STATUS is byte 31 of the descriptor. -/
theorem Tile.complete_status (x : Tile) (d : Desc) (st : Byte) : (x.complete d st).rmem (d.addr + 31) 1 = [st] := by
  refine Tile.complete_ind (fun y => y.rmem (d.addr + 31) 1 = [st]) x d st fun w _ _ _ _ hw hy _ _ _ => ?_
  subst hy
  have h := Tile.rmem_wmem x (d.addr + 24) (leBytes 8 w)
  rw [leBytes_length] at h
  have h2 := congrArg (·[7]?) h
  have e : (leBytes 8 w)[7]? = some st := by
    rw [show (leBytes 8 w)[7]? = some (BitVec.ofNat 8 (w / 256 / 256 / 256 / 256 / 256 / 256 / 256)) from rfl]
    have hm := Nat.mod_lt d.w3.toNat (Nat.two_pow_pos 55)
    congr 1
    apply BitVec.eq_of_toNat_eq
    rw [BitVec.toNat_ofNat]
    omega
  simp only [e] at h2
  simpa [Tile.rmem, readBytes, List.range_succ] using h2

theorem Tile.completeAll_keeps (x : Tile) (q : Desc → Bool) (st : Byte) :
    (x.completeAll q st).pc = x.pc ∧ (x.completeAll q st).s = x.s ∧ (x.completeAll q st).v = x.v ∧
      (x.completeAll q st).cause = x.cause := by
  unfold Tile.completeAll
  generalize x.descs.filter q = l
  induction l generalizing x with
  | nil => exact ⟨rfl, rfl, rfl, rfl⟩
  | cons d l ih =>
    have a := ih (x.complete d st)
    have b := x.complete_keeps d st
    exact ⟨a.1.trans b.1, a.2.1.trans b.2.1, a.2.2.1.trans b.2.2.1, a.2.2.2.trans b.2.2.2⟩

/-- R25: a faulted tile stands at the instruction with its cause and its registers. -/
theorem Tile.faulted_keeps (x : Tile) (k : Cause) :
    (x.faulted k).st = .faulted ∧ (x.faulted k).cause = k ∧ (x.faulted k).pc = x.pc ∧ (x.faulted k).s = x.s ∧
      (x.faulted k).v = x.v := by
  have a := Tile.completeAll_keeps { x with cause := k } Desc.unsent St.quiesced
  exact ⟨rfl, a.2.2.2, a.1, a.2.1, a.2.2.1⟩

theorem State.tile_tileFault (s : State) (t : Nat) (k : Cause) :
    (s.tileFault t k).tile t = (s.tile t).faulted k := State.tile_setTile_same _ _ _

/-- An effect that is a fault alone. -/
theorem State.putEff_bad (s : State) (t : Nat) (x : Tile) {c : Cause} (hc : c ≠ .none) :
    s.putEff t { tile := x, fault := c } = (s.setTile t x).tileFault t c := if_neg hc

/-- The tile after an instruction whose effect ends in a fault without an uncorrectable word. -/
theorem State.issue_bad {s : State} {t : Nat} {f : Fields} {unit : Option ExecUnit} {occ : Nat} {sregs : List Nat} {legal : Bool}
    {run : Tile → TEff} {y : Tile} {c : Cause} (h : s.canIssue t f unit sregs) (hl : legal = true) (hc : c ≠ .none)
    (hr : run ((s.tile t).issued unit occ) = TEff.bad y c) :
    (s.issue t f unit occ sregs legal run).tile t = (y.unissued (s.tile t)).faulted c := by
  rw [State.issue_fault h hl (by rw [hr]; exact hc), hr]
  exact (congrArg (·.tile t) (s.putEff_bad t _ hc)).trans
    ((State.tile_tileFault _ _ _).trans (congrArg (·.faulted c) (State.tile_setTile_same _ _ _)))

theorem Tile.issued_unissued (x : Tile) (occ : Nat) : (x.issued none occ).unissued x = x := rfl

end Sys2Proof.Machine
end

