-- ==== Sys2Proof/Laws/Folds.lean ====
section
/-! SUPPORT. Updates repeated over a list of keys: what one key reads after them, and what they leave alone. -/

namespace Sys2Proof.Machine

/-- An update of each station of a list, once each. -/
theorem foldl_updStn (g : Nat → Station → Station) (l : List Nat) (hl : l.Nodup) (s : State) (k : Nat) :
    (l.foldl (fun s n => s.updStn n (g n)) s).stn k = if k ∈ l then g k (s.stn k) else s.stn k := by
  induction l generalizing s with
  | nil => simp
  | cons a l ih =>
    rw [List.foldl_cons, ih (List.nodup_cons.1 hl).2]
    have ha := (List.nodup_cons.1 hl).1
    by_cases hk : k = a
    · subst hk
      rw [if_neg ha, if_pos (List.mem_cons_self ..), State.updStn, State.stn_setStn_same]
    · rw [State.updStn, State.stn_setStn_ne _ _ hk]
      by_cases hm : k ∈ l
      · rw [if_pos hm, if_pos (List.mem_cons_of_mem _ hm)]
      · rw [if_neg hm, if_neg (by simp [hk, hm])]

/-- A property that every step keeps holds after all of them. -/
theorem foldl_keep {α β : Type} (P : β → Prop) (f : β → α → β) (h : ∀ b a, P b → P (f b a)) (l : List α) (b : β)
    (hb : P b) : P (l.foldl f b) := by
  induction l generalizing b with
  | nil => exact hb
  | cons a l ih => exact ih _ (h b a hb)

/-- What every step leaves alone is left alone by all of them. -/
theorem foldl_same {α β γ : Type} (p : β → γ) (f : β → α → β) (h : ∀ b a, p (f b a) = p b) (l : List α) (b : β) :
    p (l.foldl f b) = p b := by
  induction l generalizing b with
  | nil => rfl
  | cons a l ih => exact (ih _).trans (h b a)

/-- Writes at the keys `k a` of a list, no two equal. -/
theorem foldl_mset {α : Type} [DecidableEq α] (d : α) (k : Nat → Nat) (v : Nat → α) (hk : ∀ i j, k i = k j → i = j)
    (l : List Nat) (hl : l.Nodup) (m : SMap α) (j : Nat) (hj : j ∈ l) :
    mget d (l.foldl (fun g i => mset d g (k i) (v i)) m) (k j) = v j := by
  induction l generalizing m with
  | nil => simp at hj
  | cons a l ih =>
    rw [List.foldl_cons]
    rcases List.mem_cons.1 hj with rfl | hm
    · have ha := (List.nodup_cons.1 hl).1
      have key : ∀ (l : List Nat), j ∉ l → ∀ m : SMap α,
          mget d (l.foldl (fun g i => mset d g (k i) (v i)) m) (k j) = mget d m (k j) := by
        intro l
        induction l with
        | nil => intro _ m; rfl
        | cons b l ih =>
          intro hb m
          rw [List.foldl_cons, ih (fun h => hb (List.mem_cons_of_mem _ h)), mget_mset, if_neg]
          intro he
          exact hb (by rw [hk _ _ he]; exact List.mem_cons_self ..)
      rw [key l ha, mget_mset, if_pos rfl]
    · exact ih (List.nodup_cons.1 hl).2 _ hm

end Sys2Proof.Machine
end

