-- ==== Sys2Proof/Laws/Keep.lean ====
section
/-! SUPPORT. What the meanings of the commands leave alone: the queue of commands, the fused values,
the module's own count and, but for a key operation, the signer fuses. One lemma for each definition
over the state stands in the files Laws/Keep<file>.lean; no later proof unfolds the definition for it. -/

namespace Sys2Proof.Machine

/-- `t` has the queue, the fused values, the own count and the signer fuses of `s`. -/
abbrev Kept (s t : State) : Prop :=
  t.pending = s.pending ∧ t.fused = s.fused ∧ t.boot.osc = s.boot.osc ∧ t.cfg.keys = s.cfg.keys

theorem Kept.trans {s t u : State} (h : Kept s t) (k : Kept t u) : Kept s u :=
  ⟨k.1.trans h.1, k.2.1.trans h.2.1, k.2.2.1.trans h.2.2.1, k.2.2.2.trans h.2.2.2⟩

/-- What a command answers is a next state that keeps what `Kept` names. -/
abbrev Keeps (s : State) (r : Res) : Prop := ∃ t, r = .next t ∧ Kept s t

theorem Keeps.next {s t : State} (h : Kept s t) : Keeps s (.next t) := ⟨t, rfl, h⟩

/-- A loop keeps what its body keeps. -/
theorem Kept.foldl {α : Type} {f : State → α → State} (h : ∀ s a, Kept s (f s a)) (l : List α)
    (s : State) : Kept s (l.foldl f s) := by
  induction l generalizing s with
  | nil => exact ⟨rfl, rfl, rfl, rfl⟩
  | cons a l ih => exact (h s a).trans (ih (f s a))

/-- A loop after updates that keep it. -/
theorem Kept.loop {α : Type} {f : State → α → State} {s t : State} {l : List α} (k : Kept s t)
    (h : ∀ s a, Kept s (f s a)) : Kept s (l.foldl f t) := Kept.trans k (Kept.foldl h l t)

/-- The same for a loop that carries something beside the state. -/
theorem Kept.foldl_fst {α β : Type} {f : State × β → α → State × β} (h : ∀ x a, Kept x.1 (f x a).1) (l : List α)
    (x : State × β) : Kept x.1 (l.foldl f x).1 := by
  induction l generalizing x with
  | nil => exact ⟨rfl, rfl, rfl, rfl⟩
  | cons a l ih => exact (h x a).trans (ih (f x a))

@[simp] theorem ite_pending (c : Prop) [Decidable c] (a b : State) :
    (if c then a else b).pending = if c then a.pending else b.pending := apply_ite (fun s : State => s.pending) c a b

@[simp] theorem foldl_pending {α : Type} {f : State → α → State} (h : ∀ s a, (f s a).pending = s.pending)
    (l : List α) (s : State) : (l.foldl f s).pending = s.pending := by
  induction l generalizing s with
  | nil => rfl
  | cons a l ih => exact (ih (f s a)).trans (h s a)

@[simp] theorem ite_fused (c : Prop) [Decidable c] (a b : State) :
    (if c then a else b).fused = if c then a.fused else b.fused := apply_ite (fun s : State => s.fused) c a b

@[simp] theorem foldl_fused {α : Type} {f : State → α → State} (h : ∀ s a, (f s a).fused = s.fused)
    (l : List α) (s : State) : (l.foldl f s).fused = s.fused := by
  induction l generalizing s with
  | nil => rfl
  | cons a l ih => exact (ih (f s a)).trans (h s a)

@[simp] theorem ite_osc (c : Prop) [Decidable c] (a b : State) :
    (if c then a else b).boot.osc = if c then a.boot.osc else b.boot.osc := apply_ite (fun s : State => s.boot.osc) c a b

@[simp] theorem foldl_osc {α : Type} {f : State → α → State} (h : ∀ s a, (f s a).boot.osc = s.boot.osc)
    (l : List α) (s : State) : (l.foldl f s).boot.osc = s.boot.osc := by
  induction l generalizing s with
  | nil => rfl
  | cons a l ih => exact (ih (f s a)).trans (h s a)

@[simp] theorem ite_keys (c : Prop) [Decidable c] (a b : State) :
    (if c then a else b).cfg.keys = if c then a.cfg.keys else b.cfg.keys := apply_ite (fun s : State => s.cfg.keys) c a b

@[simp] theorem foldl_keys {α : Type} {f : State → α → State} (h : ∀ s a, (f s a).cfg.keys = s.cfg.keys)
    (l : List α) (s : State) : (l.foldl f s).cfg.keys = s.cfg.keys := by
  induction l generalizing s with
  | nil => rfl
  | cons a l ih => exact (ih (f s a)).trans (h s a)

@[simp] theorem ite_state_fst {β : Type} (c : Prop) [Decidable c] (a b : State × β) :
    (if c then a else b).1 = if c then a.1 else b.1 := apply_ite Prod.fst c a b

@[simp] theorem foldl_fst_pending {α β : Type} {f : State × β → α → State × β}
    (h : ∀ x a, (f x a).1.pending = x.1.pending) (l : List α) (x : State × β) :
    (l.foldl f x).1.pending = x.1.pending := by
  induction l generalizing x with
  | nil => rfl
  | cons a l ih => exact (ih (f x a)).trans (h x a)

@[simp] theorem foldl_fst_fused {α β : Type} {f : State × β → α → State × β}
    (h : ∀ x a, (f x a).1.fused = x.1.fused) (l : List α) (x : State × β) :
    (l.foldl f x).1.fused = x.1.fused := by
  induction l generalizing x with
  | nil => rfl
  | cons a l ih => exact (ih (f x a)).trans (h x a)

@[simp] theorem foldl_fst_osc {α β : Type} {f : State × β → α → State × β}
    (h : ∀ x a, (f x a).1.boot.osc = x.1.boot.osc) (l : List α) (x : State × β) :
    (l.foldl f x).1.boot.osc = x.1.boot.osc := by
  induction l generalizing x with
  | nil => rfl
  | cons a l ih => exact (ih (f x a)).trans (h x a)

@[simp] theorem foldl_fst_keys {α β : Type} {f : State × β → α → State × β}
    (h : ∀ x a, (f x a).1.cfg.keys = x.1.cfg.keys) (l : List α) (x : State × β) :
    (l.foldl f x).1.cfg.keys = x.1.cfg.keys := by
  induction l generalizing x with
  | nil => rfl
  | cons a l ih => exact (ih (f x a)).trans (h x a)

end Sys2Proof.Machine
end

