-- ==== Sys2Proof/Laws/KeepOps.lean ====
section
/-! SUPPORT. What no definition of Machine/Ops.lean touches: the queue of commands, the fused values,
the module's own count and the signer fuses. -/

namespace Sys2Proof.Machine

@[simp] theorem Boot.fixE_osc (b : Boot) (ht : Nat) : (b.fixE ht).osc = b.osc := by
  unfold Boot.fixE
  split <;> rfl

@[simp] theorem State.setTile_kept (s : State) (t : ℕ) (x : Tile) : Kept s (State.setTile s t x) := by
  simp [Kept, State.setTile]

@[simp] theorem State.updTile_kept (s : State) (t : ℕ) (f : Tile → Tile) : Kept s (State.updTile s t f) := by
  simp [Kept, State.updTile]

@[simp] theorem State.setRgn_kept (s : State) (r : ℕ) (x : Region) : Kept s (State.setRgn s r x) := by
  simp [Kept, State.setRgn]

@[simp] theorem State.updRgn_kept (s : State) (r : ℕ) (f : Region → Region) : Kept s (State.updRgn s r f) := by
  simp [Kept, State.updRgn]

@[simp] theorem State.setStn_kept (s : State) (n : ℕ) (x : Station) : Kept s (State.setStn s n x) := by
  simp [Kept, State.setStn]

@[simp] theorem State.updStn_kept (s : State) (n : ℕ) (f : Station → Station) : Kept s (State.updStn s n f) := by
  simp [Kept, State.updStn]

@[simp] theorem State.setPart_kept (s : State) (p : ℕ) (x : Partition) : Kept s (State.setPart s p x) := by
  simp [Kept, State.setPart]

@[simp] theorem State.updPart_kept (s : State) (p : ℕ) (f : Partition → Partition) : Kept s (State.updPart s p f) := by
  simp [Kept, State.updPart]

@[simp] theorem State.setPort_kept (s : State) (p : ℕ) (x : Port) : Kept s (State.setPort s p x) := by
  simp [Kept, State.setPort]

@[simp] theorem State.updPort_kept (s : State) (p : ℕ) (f : Port → Port) : Kept s (State.updPort s p f) := by
  simp [Kept, State.updPort]

@[simp] theorem State.setHall_kept (s : State) (p : ℕ) (x : HallPort) : Kept s (State.setHall s p x) := by
  simp [Kept, State.setHall]

@[simp] theorem State.setSite_kept (s : State) (n : ℕ) (x : Site) : Kept s (State.setSite s n x) := by
  simp [Kept, State.setSite]

@[simp] theorem State.setStack_kept (s : State) (n : ℕ) (x : Stack) : Kept s (State.setStack s n x) := by
  simp [Kept, State.setStack]

@[simp] theorem State.setDie_kept (s : State) (d : ℕ) (x : Die) : Kept s (State.setDie s d x) := by
  simp [Kept, State.setDie]

@[simp] theorem State.setChan_kept (s : State) (c : ℕ) (x : Channel) : Kept s (State.setChan s c x) := by
  simp [Kept, State.setChan]

@[simp] theorem State.setReqr_kept (s : State) (r : ℕ) (x : Requester) : Kept s (State.setReqr s r x) := by
  simp [Kept, State.setReqr]

@[simp] theorem State.setLaser_kept (s : State) (l : ℕ) (x : Laser) : Kept s (State.setLaser s l x) := by
  simp [Kept, State.setLaser]

@[simp] theorem State.setRing_kept (s : State) (k : ℕ) (x : Ring) : Kept s (State.setRing s k x) := by
  simp [Kept, State.setRing]

@[simp] theorem State.emit_kept (s : State) (o : Out) : Kept s (State.emit s o) := by
  simp [Kept, State.emit]

@[simp] theorem State.aer_kept (s : State) (n : ℕ) (k : ℕ) : Kept s (State.aer s n k) := by
  simp [Kept, State.aer]

@[simp] theorem State.aerOf_kept (s : State) (w : Who) (k : ℕ) : Kept s (State.aerOf s w k) := by
  unfold State.aerOf
  (repeat' split) <;> simp [Kept]

@[simp] theorem State.sendMsix_kept (s : State) (n : ℕ) (v : ℕ) : Kept s (State.sendMsix s n v) := by
  simp [Kept, State.sendMsix]

@[simp] theorem State.holdReq_kept (s : State) (q : MgmtReq) : Kept s (State.holdReq s q) := by
  simp [Kept, State.holdReq]

@[simp] theorem State.record_kept (s : State) (point : ℕ) (code : ℕ) (p : Option ℕ) (src : W32) (data : List Byte) : Kept s (State.record s point code p src data) := by
  simp [Kept, State.record]

@[simp] theorem State.recStn_kept (s : State) (code : ℕ) (p : Option ℕ) (n : ℕ) (data : List Byte) : Kept s (State.recStn s code p n data) := by
  simp [Kept, State.recStn]

@[simp] theorem State.recDie_kept (s : State) (code : ℕ) (p : Option ℕ) (die : ℕ) (data : List Byte) : Kept s (State.recDie s code p die data) := by
  simp [Kept, State.recDie]

@[simp] theorem State.recTile_kept (s : State) (code : ℕ) (t : ℕ) (data : List Byte) : Kept s (State.recTile s code t data) := by
  simp [Kept, State.recTile]

@[simp] theorem State.tileFault_kept (s : State) (t : ℕ) (c : Cause) : Kept s (State.tileFault s t c) := by
  simp [Kept, State.tileFault]

@[simp] theorem State.putEff_kept (s : State) (t : ℕ) (e : TEff) : Kept s (State.putEff s t e) := by
  unfold State.putEff
  (repeat' split) <;> simp [Kept]

@[simp] theorem State.stepDone_kept (s : State) (n : ℕ) : Kept s (State.stepDone s n) := by
  unfold State.stepDone
  dsimp only
  (repeat' split) <;> simp [Kept]

end Sys2Proof.Machine
end

