-- ==== Sys2Proof/Laws/KeepReset.lean ====
section
/-! SUPPORT. What no definition of Machine/Reset.lean touches: the queue of commands, the fused values,
the module's own count and the signer fuses. -/

namespace Sys2Proof.Machine

@[simp] theorem State.moduleReset_kept (s : State) (mode : RunMode) : Kept s (State.moduleReset s mode) := by
  simp [Kept, State.moduleReset]

@[simp] theorem execModuleReset_kept (s : State) : Keeps s (execModuleReset s) := by
  unfold execModuleReset
  (repeat' split) <;> exact .next (by simp [Kept])

@[simp] theorem State.powerOff_kept (s : State) : Kept s (State.powerOff s) := by
  simp [Kept, State.powerOff]

@[simp] theorem State.thenOff_kept (s : State) : Kept s (State.thenOff s) := by
  unfold State.thenOff
  (repeat' split) <;> simp [Kept]

@[simp] theorem State.afterFlush_kept (s : State) : Kept s (State.afterFlush s) := by
  unfold State.afterFlush
  (repeat' split) <;> simp [Kept]

end Sys2Proof.Machine
end

