-- ==== Sys2Proof/Laws/KeepPacket.lean ====
section
/-! SUPPORT. What no definition of Machine/Packet.lean touches: the queue of commands, the fused values,
the module's own count and the signer fuses. -/

namespace Sys2Proof.Machine

@[simp] theorem State.dropPkt_kept (s : State) (n : ℕ) : Kept s (State.dropPkt s n) := by
  simp [Kept, State.dropPkt]

@[simp] theorem State.putPkt_kept (s : State) (pl : Place) (p : Packet) : Kept s (State.putPkt s pl p) := by
  simp [Kept, State.putPkt]

@[simp] theorem State.putVia_kept (s : State) (pl : Place) (p : Packet) (via : Option ℕ) : Kept s (State.putVia s pl p via) := by
  simp [Kept, State.putVia]

@[simp] theorem State.movePkt_kept (s : State) (f : Flight) (pl : Place) : Kept s (State.movePkt s f pl) := by
  simp [Kept, State.movePkt]

@[simp] theorem State.sendFrom_kept (s : State) (station : ℕ) (f : PktFields) : Kept s (State.sendFrom s station f) := by
  simp [Kept, State.sendFrom]

@[simp] theorem State.answer_kept (s : State) (station : ℕ) (p : Packet) (st : Byte) (data : List Byte) : Kept s (State.answer s station p st data) := by
  simp [Kept, State.answer]

@[simp] theorem State.replyAt_kept (s : State) (station : ℕ) (p : Packet) (st : Byte) (data : List Byte) : Kept s (State.replyAt s station p st data) := by
  unfold State.replyAt
  (repeat' split) <;> simp [Kept]

@[simp] theorem State.discardFmt_kept (s : State) (station : ℕ) (p : Packet) : Kept s (State.discardFmt s station p) := by
  simp [Kept, State.discardFmt]

end Sys2Proof.Machine
end

