-- ==== Sys2Proof/Laws/KeepCollCfg.lean ====
section
/-! SUPPORT. What no definition of Machine/CollCfg.lean touches: the queue of commands, the fused values,
the module's own count and the signer fuses. -/

namespace Sys2Proof.Machine

@[simp] theorem State.setColl_kept (s : State) (station : ℕ) (e : ℕ) (x : CollEntry) : Kept s (State.setColl s station e x) := by
  simp [Kept, State.setColl]

end Sys2Proof.Machine
end

