-- ==== Sys2Proof/Laws/KeepOperands.lean ====
section
/-! SUPPORT. What no definition of Machine/Operands.lean touches: the queue of commands, the fused values,
the module's own count and the signer fuses. -/

namespace Sys2Proof.Machine

@[simp] theorem State.issue_kept (s : State) (t : ℕ) (f : Fields) (unit : Option ExecUnit) (occ : ℕ) (sregs : List ℕ) (legal : Bool) (run : Tile → TEff) : Kept s (State.issue s t f unit occ sregs legal run) := by
  unfold State.issue
  dsimp only
  (repeat' split) <;> simp [Kept]

end Sys2Proof.Machine
end

