-- ==== Sys2Proof/Laws/KeepScalar.lean ====
section
/-! SUPPORT. What no definition of Machine/Scalar.lean touches: the queue of commands, the fused values,
the module's own count and the signer fuses. -/

namespace Sys2Proof.Machine

@[simp] theorem State.alu_kept (s : State) (t : ℕ) (f : Fields) (op : W64 → W64 → W64) : Kept s (State.alu s t f op) := by
  simp [Kept, State.alu]

@[simp] theorem State.aluI_kept (s : State) (t : ℕ) (f : Fields) (ok : Bool) (op : W64 → W64 → W64) : Kept s (State.aluI s t f ok op) := by
  simp [Kept, State.aluI]

@[simp] theorem execAdd_kept (t : ℕ) (f : Fields) (s : State) : Keeps s (execAdd t f s) := by
  unfold execAdd
  (repeat' split) <;> exact .next (by simp [Kept])

@[simp] theorem execSub_kept (t : ℕ) (f : Fields) (s : State) : Keeps s (execSub t f s) := by
  unfold execSub
  (repeat' split) <;> exact .next (by simp [Kept])

@[simp] theorem execAnd_kept (t : ℕ) (f : Fields) (s : State) : Keeps s (execAnd t f s) := by
  unfold execAnd
  (repeat' split) <;> exact .next (by simp [Kept])

@[simp] theorem execOr_kept (t : ℕ) (f : Fields) (s : State) : Keeps s (execOr t f s) := by
  unfold execOr
  (repeat' split) <;> exact .next (by simp [Kept])

@[simp] theorem execXor_kept (t : ℕ) (f : Fields) (s : State) : Keeps s (execXor t f s) := by
  unfold execXor
  (repeat' split) <;> exact .next (by simp [Kept])

@[simp] theorem execSll_kept (t : ℕ) (f : Fields) (s : State) : Keeps s (execSll t f s) := by
  unfold execSll
  (repeat' split) <;> exact .next (by simp [Kept])

@[simp] theorem execSrl_kept (t : ℕ) (f : Fields) (s : State) : Keeps s (execSrl t f s) := by
  unfold execSrl
  (repeat' split) <;> exact .next (by simp [Kept])

@[simp] theorem execSra_kept (t : ℕ) (f : Fields) (s : State) : Keeps s (execSra t f s) := by
  unfold execSra
  (repeat' split) <;> exact .next (by simp [Kept])

@[simp] theorem execMul_kept (t : ℕ) (f : Fields) (s : State) : Keeps s (execMul t f s) := by
  unfold execMul
  (repeat' split) <;> exact .next (by simp [Kept])

@[simp] theorem execMulh_kept (t : ℕ) (f : Fields) (s : State) : Keeps s (execMulh t f s) := by
  unfold execMulh
  (repeat' split) <;> exact .next (by simp [Kept])

@[simp] theorem execMulhu_kept (t : ℕ) (f : Fields) (s : State) : Keeps s (execMulhu t f s) := by
  unfold execMulhu
  (repeat' split) <;> exact .next (by simp [Kept])

@[simp] theorem execSlt_kept (t : ℕ) (f : Fields) (s : State) : Keeps s (execSlt t f s) := by
  unfold execSlt
  (repeat' split) <;> exact .next (by simp [Kept])

@[simp] theorem execSltu_kept (t : ℕ) (f : Fields) (s : State) : Keeps s (execSltu t f s) := by
  unfold execSltu
  (repeat' split) <;> exact .next (by simp [Kept])

@[simp] theorem execMin_kept (t : ℕ) (f : Fields) (s : State) : Keeps s (execMin t f s) := by
  unfold execMin
  (repeat' split) <;> exact .next (by simp [Kept])

@[simp] theorem execMax_kept (t : ℕ) (f : Fields) (s : State) : Keeps s (execMax t f s) := by
  unfold execMax
  (repeat' split) <;> exact .next (by simp [Kept])

@[simp] theorem execAddi_kept (t : ℕ) (f : Fields) (s : State) : Keeps s (execAddi t f s) := by
  unfold execAddi
  (repeat' split) <;> exact .next (by simp [Kept])

@[simp] theorem execAndi_kept (t : ℕ) (f : Fields) (s : State) : Keeps s (execAndi t f s) := by
  unfold execAndi
  (repeat' split) <;> exact .next (by simp [Kept])

@[simp] theorem execOri_kept (t : ℕ) (f : Fields) (s : State) : Keeps s (execOri t f s) := by
  unfold execOri
  (repeat' split) <;> exact .next (by simp [Kept])

@[simp] theorem execXori_kept (t : ℕ) (f : Fields) (s : State) : Keeps s (execXori t f s) := by
  unfold execXori
  (repeat' split) <;> exact .next (by simp [Kept])

@[simp] theorem execSlli_kept (t : ℕ) (f : Fields) (s : State) : Keeps s (execSlli t f s) := by
  unfold execSlli
  (repeat' split) <;> exact .next (by simp [Kept])

@[simp] theorem execSrli_kept (t : ℕ) (f : Fields) (s : State) : Keeps s (execSrli t f s) := by
  unfold execSrli
  (repeat' split) <;> exact .next (by simp [Kept])

@[simp] theorem execSrai_kept (t : ℕ) (f : Fields) (s : State) : Keeps s (execSrai t f s) := by
  unfold execSrai
  (repeat' split) <;> exact .next (by simp [Kept])

@[simp] theorem execMuli_kept (t : ℕ) (f : Fields) (s : State) : Keeps s (execMuli t f s) := by
  unfold execMuli
  (repeat' split) <;> exact .next (by simp [Kept])

@[simp] theorem execSlti_kept (t : ℕ) (f : Fields) (s : State) : Keeps s (execSlti t f s) := by
  unfold execSlti
  (repeat' split) <;> exact .next (by simp [Kept])

@[simp] theorem execSltui_kept (t : ℕ) (f : Fields) (s : State) : Keeps s (execSltui t f s) := by
  unfold execSltui
  (repeat' split) <;> exact .next (by simp [Kept])

@[simp] theorem execLi_kept (t : ℕ) (f : Fields) (s : State) : Keeps s (execLi t f s) := by
  unfold execLi
  (repeat' split) <;> exact .next (by simp [Kept])

@[simp] theorem execLih_kept (t : ℕ) (f : Fields) (s : State) : Keeps s (execLih t f s) := by
  unfold execLih
  (repeat' split) <;> exact .next (by simp [Kept])

end Sys2Proof.Machine
end

