-- ==== Sys2Proof/Laws/KeepPeat.lean ====
section
/-! SUPPORT. What no definition of Machine/Peat.lean touches: the queue of commands, the fused values,
the module's own count and the signer fuses. -/

namespace Sys2Proof.Machine

@[simp] theorem State.bootOutcome_kept (s : State) (step : ℕ) (detail : ℕ) (row : ℕ) : Kept s (State.bootOutcome s step detail row) := by
  simp [Kept, State.bootOutcome]

@[simp] theorem State.outcomeNow_kept (s : State) (detail : ℕ) (row : ℕ) : Kept s (State.outcomeNow s detail row) := by
  simp [Kept, State.outcomeNow]

@[simp] theorem State.evtMsix_kept (s : State) (code : ℕ) (n : ℕ) : Kept s (State.evtMsix s code n) := by
  unfold State.evtMsix
  dsimp only
  (repeat' split) <;> simp [Kept]

@[simp] theorem State.enterRec_kept (s : State) (r : PeatRec) : Kept s (State.enterRec s r) := by
  simp [Kept, State.enterRec]

@[simp] theorem execPeatRecord_kept (s : State) : Keeps s (execPeatRecord s) := by
  unfold execPeatRecord
  (repeat' split) <;> exact .next (by simp [Kept])

@[simp] theorem State.reportLost_kept (s : State) (die : ℕ) : Kept s (State.reportLost s die) := by
  unfold State.reportLost
  dsimp only
  (repeat' split) <;> simp [Kept]

@[simp] theorem execPeatStageSend_kept (die : ℕ) (s : State) : Keeps s (execPeatStageSend die s) := by
  unfold execPeatStageSend
  (repeat' split) <;> exact .next (by simp [Kept])

@[simp] theorem execPeatRateWindow_kept (s : State) : Keeps s (execPeatRateWindow s) := by
  unfold execPeatRateWindow
  split
  · exact .next (by simp [Kept])
  · exact .next (Kept.loop ⟨rfl, rfl, rfl, rfl⟩ fun _ _ => by simp [Kept])

@[simp] theorem State.startFlush_kept (s : State) (cause : ℕ) : Kept s (State.startFlush s cause) := by
  simp [Kept, State.startFlush]

@[simp] theorem State.enterOffered_kept (s : State) : Kept s (State.enterOffered s) := by
  simp [Kept, State.enterOffered]

@[simp] theorem State.safeFlush_kept (s : State) : Kept s (State.safeFlush s) := by
  simp [Kept, State.safeFlush]

@[simp] theorem State.clearNow_kept (s : State) : Kept s (State.clearNow s) := by
  simp [Kept, State.clearNow]

@[simp] theorem State.clearCmd_kept (s : State) : Kept s (State.clearCmd s) := by
  unfold State.clearCmd
  (repeat' split) <;> simp [Kept]

@[simp] theorem State.flashClearCmd_kept (s : State) : Kept s (State.flashClearCmd s) := by
  unfold State.flashClearCmd
  (repeat' split) <;> simp [Kept]

@[simp] theorem State.evtCmd_kept (s : State) (w : Who) (v : W32) : Kept s (State.evtCmd s w v) := by
  unfold State.evtCmd
  (repeat' split) <;> simp [Kept]

@[simp] theorem execClear_kept (w : Who) (v : W32) (s : State) : Keeps s (execClear w v s) := by
  unfold execClear
  (repeat' split) <;> exact .next (by simp [Kept])

@[simp] theorem execFlush_kept (w : Who) (v : W32) (s : State) : Keeps s (execFlush w v s) := by
  unfold execFlush
  (repeat' split) <;> exact .next (by simp [Kept])

@[simp] theorem execFlashClear_kept (w : Who) (v : W32) (s : State) : Keeps s (execFlashClear w v s) := by
  unfold execFlashClear
  (repeat' split) <;> exact .next (by simp [Kept])

@[simp] theorem execFlushDone_kept (written : ℕ) (s : State) : Keeps s (execFlushDone written s) := by
  unfold execFlushDone
  (repeat' split) <;> exact .next (by simp [Kept])

@[simp] theorem execFlashEraseDone_kept (s : State) : Keeps s (execFlashEraseDone s) := by
  unfold execFlashEraseDone
  (repeat' split) <;> exact .next (by simp [Kept])

@[simp] theorem State.hiWrite_kept (s : State) (w : Who) (loAddr : ℕ) (old : W64) (v : W32) : Kept s (State.hiWrite s w loAddr old v).1 := by
  unfold State.hiWrite
  dsimp only
  (repeat' split) <;> simp [Kept]

@[simp] theorem State.peatLatch_kept (s : State) (w : Who) (v : W32) : Kept s (State.peatLatch s w v) := by
  simp [Kept, State.peatLatch]

@[simp] theorem execPeatReadLatch_kept (w : Who) (v : W32) (s : State) : Keeps s (execPeatReadLatch w v s) := by
  unfold execPeatReadLatch
  (repeat' split) <;> exact .next (by simp [Kept])

end Sys2Proof.Machine
end

