-- ==== Sys2Proof/Laws/KeepControl.lean ====
section
/-! SUPPORT. What no definition of Machine/Control.lean touches: the queue of commands, the fused values,
the module's own count and the signer fuses. -/

namespace Sys2Proof.Machine

@[simp] theorem State.ldS_kept (s : State) (t : ℕ) (f : Fields) (n : ℕ) (signed : Bool) : Kept s (State.ldS s t f n signed) := by
  simp [Kept, State.ldS]

@[simp] theorem State.stS_kept (s : State) (t : ℕ) (f : Fields) (n : ℕ) : Kept s (State.stS s t f n) := by
  simp [Kept, State.stS]

@[simp] theorem State.br_kept (s : State) (t : ℕ) (f : Fields) (c : W64 → W64 → Bool) : Kept s (State.br s t f c) := by
  simp [Kept, State.br]

@[simp] theorem execLdu1_kept (t : ℕ) (f : Fields) (s : State) : Keeps s (execLdu1 t f s) := by
  unfold execLdu1
  (repeat' split) <;> exact .next (by simp [Kept])

@[simp] theorem execLdu2_kept (t : ℕ) (f : Fields) (s : State) : Keeps s (execLdu2 t f s) := by
  unfold execLdu2
  (repeat' split) <;> exact .next (by simp [Kept])

@[simp] theorem execLdu4_kept (t : ℕ) (f : Fields) (s : State) : Keeps s (execLdu4 t f s) := by
  unfold execLdu4
  (repeat' split) <;> exact .next (by simp [Kept])

@[simp] theorem execLdu8_kept (t : ℕ) (f : Fields) (s : State) : Keeps s (execLdu8 t f s) := by
  unfold execLdu8
  (repeat' split) <;> exact .next (by simp [Kept])

@[simp] theorem execLds1_kept (t : ℕ) (f : Fields) (s : State) : Keeps s (execLds1 t f s) := by
  unfold execLds1
  (repeat' split) <;> exact .next (by simp [Kept])

@[simp] theorem execLds2_kept (t : ℕ) (f : Fields) (s : State) : Keeps s (execLds2 t f s) := by
  unfold execLds2
  (repeat' split) <;> exact .next (by simp [Kept])

@[simp] theorem execLds4_kept (t : ℕ) (f : Fields) (s : State) : Keeps s (execLds4 t f s) := by
  unfold execLds4
  (repeat' split) <;> exact .next (by simp [Kept])

@[simp] theorem execSt1_kept (t : ℕ) (f : Fields) (s : State) : Keeps s (execSt1 t f s) := by
  unfold execSt1
  (repeat' split) <;> exact .next (by simp [Kept])

@[simp] theorem execSt2_kept (t : ℕ) (f : Fields) (s : State) : Keeps s (execSt2 t f s) := by
  unfold execSt2
  (repeat' split) <;> exact .next (by simp [Kept])

@[simp] theorem execSt4_kept (t : ℕ) (f : Fields) (s : State) : Keeps s (execSt4 t f s) := by
  unfold execSt4
  (repeat' split) <;> exact .next (by simp [Kept])

@[simp] theorem execSt8_kept (t : ℕ) (f : Fields) (s : State) : Keeps s (execSt8 t f s) := by
  unfold execSt8
  (repeat' split) <;> exact .next (by simp [Kept])

@[simp] theorem execBeq_kept (t : ℕ) (f : Fields) (s : State) : Keeps s (execBeq t f s) := by
  unfold execBeq
  (repeat' split) <;> exact .next (by simp [Kept])

@[simp] theorem execBne_kept (t : ℕ) (f : Fields) (s : State) : Keeps s (execBne t f s) := by
  unfold execBne
  (repeat' split) <;> exact .next (by simp [Kept])

@[simp] theorem execBlt_kept (t : ℕ) (f : Fields) (s : State) : Keeps s (execBlt t f s) := by
  unfold execBlt
  (repeat' split) <;> exact .next (by simp [Kept])

@[simp] theorem execBge_kept (t : ℕ) (f : Fields) (s : State) : Keeps s (execBge t f s) := by
  unfold execBge
  (repeat' split) <;> exact .next (by simp [Kept])

@[simp] theorem execBltu_kept (t : ℕ) (f : Fields) (s : State) : Keeps s (execBltu t f s) := by
  unfold execBltu
  (repeat' split) <;> exact .next (by simp [Kept])

@[simp] theorem execBgeu_kept (t : ℕ) (f : Fields) (s : State) : Keeps s (execBgeu t f s) := by
  unfold execBgeu
  (repeat' split) <;> exact .next (by simp [Kept])

@[simp] theorem execJal_kept (t : ℕ) (f : Fields) (s : State) : Keeps s (execJal t f s) := by
  unfold execJal
  (repeat' split) <;> exact .next (by simp [Kept])

@[simp] theorem execJalr_kept (t : ℕ) (f : Fields) (s : State) : Keeps s (execJalr t f s) := by
  unfold execJalr
  (repeat' split) <;> exact .next (by simp [Kept])

@[simp] theorem execRdsys_kept (t : ℕ) (f : Fields) (s : State) : Keeps s (execRdsys t f s) := by
  unfold execRdsys
  (repeat' split) <;> exact .next (by simp [Kept])

@[simp] theorem execHalt_kept (t : ℕ) (f : Fields) (s : State) : Keeps s (execHalt t f s) := by
  unfold execHalt
  (repeat' split) <;> exact .next (by simp [Kept])

@[simp] theorem execIbinv_kept (t : ℕ) (f : Fields) (s : State) : Keeps s (execIbinv t f s) := by
  unfold execIbinv
  (repeat' split) <;> exact .next (by simp [Kept])

@[simp] theorem execNop_kept (t : ℕ) (f : Fields) (s : State) : Keeps s (execNop t f s) := by
  unfold execNop
  (repeat' split) <;> exact .next (by simp [Kept])

@[simp] theorem execFlclr_kept (t : ℕ) (f : Fields) (s : State) : Keeps s (execFlclr t f s) := by
  unfold execFlclr
  (repeat' split) <;> exact .next (by simp [Kept])

@[simp] theorem execIbufMissFill_kept (t : ℕ) (addr : ℕ) (parity : Bool) (s : State) : Keeps s (execIbufMissFill t addr parity s) := by
  unfold execIbufMissFill
  refine .next ?_
  dsimp only
  (repeat' split) <;> simp [Kept]

@[simp] theorem execUnitQueueStart_kept (t : ℕ) (u : ExecUnit) (s : State) : Keeps s (execUnitQueueStart t u s) := by
  unfold execUnitQueueStart
  (repeat' split) <;> exact .next (by simp [Kept])

@[simp] theorem State.scrubStep_kept (s : State) (t : ℕ) (stale : Bool) : Kept s (State.scrubStep s t stale) := by
  unfold State.scrubStep
  dsimp only
  (repeat' split) <;> simp [Kept]

@[simp] theorem execScrubLine_kept (t : ℕ) (writtenMeanwhile : Bool) (s : State) : Keeps s (execScrubLine t writtenMeanwhile s) := by
  unfold execScrubLine
  (repeat' split) <;> exact .next (by simp [Kept])

@[simp] theorem execScrubForced_kept (t : ℕ) (writtenMeanwhile : Bool) (s : State) : Keeps s (execScrubForced t writtenMeanwhile s) := by
  unfold execScrubForced
  (repeat' split) <;> exact .next (by simp [Kept])

end Sys2Proof.Machine
end

