-- ==== Sys2Proof/Laws/KeepVector.lean ====
section
/-! SUPPORT. What no definition of Machine/Vector.lean touches: the queue of commands, the fused values,
the module's own count and the signer fuses. -/

namespace Sys2Proof.Machine

@[simp] theorem State.vecIssue_kept (s : State) (t : ℕ) (f : Fields) (occ : ℕ) (sregs : List ℕ) (legal : Bool) (run : Tile → Tile) : Kept s (State.vecIssue s t f occ sregs legal run) := by
  simp [Kept, State.vecIssue]

@[simp] theorem State.vv_kept (s : State) (t : ℕ) (f : Fields) (fop : ℕ → ℕ → ℕ → ℕ → ℕ → ℕ × W32) (iop : ℤ → ℤ → ℤ) : Kept s (State.vv s t f fop iop) := by
  simp [Kept, State.vv]

@[simp] theorem State.vs_kept (s : State) (t : ℕ) (f : Fields) (fop : ℕ → ℕ → ℕ → ℕ → ℕ → ℕ × W32) (iop : ℤ → ℤ → ℤ) : Kept s (State.vs s t f fop iop) := by
  simp [Kept, State.vs]

@[simp] theorem State.vPick_kept (s : State) (t : ℕ) (f : Fields) (op : ℕ → ℕ → ℕ → ℕ) : Kept s (State.vPick s t f op) := by
  simp [Kept, State.vPick]

@[simp] theorem execVadd_kept (t : ℕ) (f : Fields) (s : State) : Keeps s (execVadd t f s) := by
  unfold execVadd
  (repeat' split) <;> exact .next (by simp [Kept])

@[simp] theorem execVsub_kept (t : ℕ) (f : Fields) (s : State) : Keeps s (execVsub t f s) := by
  unfold execVsub
  (repeat' split) <;> exact .next (by simp [Kept])

@[simp] theorem execVmul_kept (t : ℕ) (f : Fields) (s : State) : Keeps s (execVmul t f s) := by
  unfold execVmul
  (repeat' split) <;> exact .next (by simp [Kept])

@[simp] theorem execVfma_kept (t : ℕ) (f : Fields) (s : State) : Keeps s (execVfma t f s) := by
  unfold execVfma
  (repeat' split) <;> exact .next (by simp [Kept])

@[simp] theorem execVmin_kept (t : ℕ) (f : Fields) (s : State) : Keeps s (execVmin t f s) := by
  unfold execVmin
  (repeat' split) <;> exact .next (by simp [Kept])

@[simp] theorem execVmax_kept (t : ℕ) (f : Fields) (s : State) : Keeps s (execVmax t f s) := by
  unfold execVmax
  (repeat' split) <;> exact .next (by simp [Kept])

@[simp] theorem execVceq_kept (t : ℕ) (f : Fields) (s : State) : Keeps s (execVceq t f s) := by
  unfold execVceq
  (repeat' split) <;> exact .next (by simp [Kept])

@[simp] theorem execVclt_kept (t : ℕ) (f : Fields) (s : State) : Keeps s (execVclt t f s) := by
  unfold execVclt
  (repeat' split) <;> exact .next (by simp [Kept])

@[simp] theorem execVcle_kept (t : ℕ) (f : Fields) (s : State) : Keeps s (execVcle t f s) := by
  unfold execVcle
  (repeat' split) <;> exact .next (by simp [Kept])

@[simp] theorem execVsel_kept (t : ℕ) (f : Fields) (s : State) : Keeps s (execVsel t f s) := by
  unfold execVsel
  (repeat' split) <;> exact .next (by simp [Kept])

@[simp] theorem State.vBits_kept (s : State) (t : ℕ) (f : Fields) (op : VReg → VReg → VReg) : Kept s (State.vBits s t f op) := by
  simp [Kept, State.vBits]

@[simp] theorem execVand_kept (t : ℕ) (f : Fields) (s : State) : Keeps s (execVand t f s) := by
  unfold execVand
  (repeat' split) <;> exact .next (by simp [Kept])

@[simp] theorem execVor_kept (t : ℕ) (f : Fields) (s : State) : Keeps s (execVor t f s) := by
  unfold execVor
  (repeat' split) <;> exact .next (by simp [Kept])

@[simp] theorem execVxor_kept (t : ℕ) (f : Fields) (s : State) : Keeps s (execVxor t f s) := by
  unfold execVxor
  (repeat' split) <;> exact .next (by simp [Kept])

@[simp] theorem execVadds_kept (t : ℕ) (f : Fields) (s : State) : Keeps s (execVadds t f s) := by
  unfold execVadds
  (repeat' split) <;> exact .next (by simp [Kept])

@[simp] theorem execVmuls_kept (t : ℕ) (f : Fields) (s : State) : Keeps s (execVmuls t f s) := by
  unfold execVmuls
  (repeat' split) <;> exact .next (by simp [Kept])

@[simp] theorem execVbcast_kept (t : ℕ) (f : Fields) (s : State) : Keeps s (execVbcast t f s) := by
  unfold execVbcast
  (repeat' split) <;> exact .next (by simp [Kept])

@[simp] theorem State.vRed_kept (s : State) (t : ℕ) (u : Uses) (f : Fields) (op : ℕ → ℕ → ℕ × W32) : Kept s (State.vRed s t u f op) := by
  simp [Kept, State.vRed]

@[simp] theorem execVredsum_kept (t : ℕ) (f : Fields) (s : State) : Keeps s (execVredsum t f s) := by
  unfold execVredsum
  (repeat' split) <;> exact .next (by simp [Kept])

@[simp] theorem execVredmax_kept (t : ℕ) (f : Fields) (s : State) : Keeps s (execVredmax t f s) := by
  unfold execVredmax
  (repeat' split) <;> exact .next (by simp [Kept])

@[simp] theorem execVredmin_kept (t : ℕ) (f : Fields) (s : State) : Keeps s (execVredmin t f s) := by
  unfold execVredmin
  (repeat' split) <;> exact .next (by simp [Kept])

end Sys2Proof.Machine
end

