-- ==== Sys2Proof/Laws/KeepVecMem.lean ====
section
/-! SUPPORT. What no definition of Machine/VecMem.lean touches: the queue of commands, the fused values,
the module's own count and the signer fuses. -/

namespace Sys2Proof.Machine

@[simp] theorem execVld_kept (t : ℕ) (f : Fields) (s : State) : Keeps s (execVld t f s) := by
  unfold execVld
  (repeat' split) <;> exact .next (by simp [Kept])

@[simp] theorem execVst_kept (t : ℕ) (f : Fields) (s : State) : Keeps s (execVst t f s) := by
  unfold execVst
  (repeat' split) <;> exact .next (by simp [Kept])

@[simp] theorem execVcvt_kept (t : ℕ) (f : Fields) (s : State) : Keeps s (execVcvt t f s) := by
  unfold execVcvt
  (repeat' split) <;> exact .next (by simp [Kept])

@[simp] theorem execVcvtmx_kept (t : ℕ) (f : Fields) (s : State) : Keeps s (execVcvtmx t f s) := by
  unfold execVcvtmx
  (repeat' split) <;> exact .next (by simp [Kept])

@[simp] theorem execVcvtw_kept (t : ℕ) (f : Fields) (s : State) : Keeps s (execVcvtw t f s) := by
  unfold execVcvtw
  (repeat' split) <;> exact .next (by simp [Kept])

@[simp] theorem execVmovs_kept (t : ℕ) (f : Fields) (s : State) : Keeps s (execVmovs t f s) := by
  unfold execVmovs
  (repeat' split) <;> exact .next (by simp [Kept])

@[simp] theorem execVins_kept (t : ℕ) (f : Fields) (s : State) : Keeps s (execVins t f s) := by
  unfold execVins
  (repeat' split) <;> exact .next (by simp [Kept])

@[simp] theorem execVfx_kept (t : ℕ) (f : Fields) (s : State) : Keeps s (execVfx t f s) := by
  unfold execVfx
  (repeat' split) <;> exact .next (by simp [Kept])

end Sys2Proof.Machine
end

