-- ==== Sys2Proof/Laws/KeepSpecial.lean ====
section
/-! SUPPORT. What no definition of Machine/Special.lean touches: the queue of commands, the fused values,
the module's own count and the signer fuses. -/

namespace Sys2Proof.Machine

@[simp] theorem State.special_kept (s : State) (t : ℕ) (f : Fields) (fn : SpecFn) : Kept s (State.special s t f fn) := by
  simp [Kept, State.special]

@[simp] theorem execFexp2_kept (t : ℕ) (f : Fields) (s : State) : Keeps s (execFexp2 t f s) := by
  unfold execFexp2
  (repeat' split) <;> exact .next (by simp [Kept])

@[simp] theorem execFlog2_kept (t : ℕ) (f : Fields) (s : State) : Keeps s (execFlog2 t f s) := by
  unfold execFlog2
  (repeat' split) <;> exact .next (by simp [Kept])

@[simp] theorem execFrcp_kept (t : ℕ) (f : Fields) (s : State) : Keeps s (execFrcp t f s) := by
  unfold execFrcp
  (repeat' split) <;> exact .next (by simp [Kept])

@[simp] theorem execFrsq_kept (t : ℕ) (f : Fields) (s : State) : Keeps s (execFrsq t f s) := by
  unfold execFrsq
  (repeat' split) <;> exact .next (by simp [Kept])

@[simp] theorem execFtanh_kept (t : ℕ) (f : Fields) (s : State) : Keeps s (execFtanh t f s) := by
  unfold execFtanh
  (repeat' split) <;> exact .next (by simp [Kept])

@[simp] theorem execRandv_kept (t : ℕ) (f : Fields) (s : State) : Keeps s (execRandv t f s) := by
  unfold execRandv
  (repeat' split) <;> exact .next (by simp [Kept])

@[simp] theorem execRands_kept (t : ℕ) (f : Fields) (s : State) : Keeps s (execRands t f s) := by
  unfold execRands
  (repeat' split) <;> exact .next (by simp [Kept])

end Sys2Proof.Machine
end

