-- ==== Sys2Proof/Laws/KeepMatrix.lean ====
section
/-! SUPPORT. What no definition of Machine/Matrix.lean touches: the queue of commands, the fused values,
the module's own count and the signer fuses. -/

namespace Sys2Proof.Machine

@[simp] theorem State.matIssue_kept (s : State) (t : ℕ) (f : Fields) (occ : ℕ) (sregs : List ℕ) (legal : Bool) (run : Tile → TEff) : Kept s (State.matIssue s t f occ sregs legal run) := by
  simp [Kept, State.matIssue]

@[simp] theorem execMop_kept (t : ℕ) (f : Fields) (s : State) : Keeps s (execMop t f s) := by
  unfold execMop
  (repeat' split) <;> exact .next (by simp [Kept])

@[simp] theorem execMmv_kept (t : ℕ) (f : Fields) (s : State) : Keeps s (execMmv t f s) := by
  unfold execMmv
  (repeat' split) <;> exact .next (by simp [Kept])

@[simp] theorem execMfold_kept (t : ℕ) (f : Fields) (s : State) : Keeps s (execMfold t f s) := by
  unfold execMfold
  (repeat' split) <;> exact .next (by simp [Kept])

@[simp] theorem execMclr_kept (t : ℕ) (f : Fields) (s : State) : Keeps s (execMclr t f s) := by
  unfold execMclr
  (repeat' split) <;> exact .next (by simp [Kept])

@[simp] theorem execMscl_kept (t : ℕ) (f : Fields) (s : State) : Keeps s (execMscl t f s) := by
  unfold execMscl
  (repeat' split) <;> exact .next (by simp [Kept])

@[simp] theorem execMrd_kept (t : ℕ) (f : Fields) (s : State) : Keeps s (execMrd t f s) := by
  unfold execMrd
  (repeat' split) <;> exact .next (by simp [Kept])

@[simp] theorem execMwr_kept (t : ℕ) (f : Fields) (s : State) : Keeps s (execMwr t f s) := by
  unfold execMwr
  (repeat' split) <;> exact .next (by simp [Kept])

end Sys2Proof.Machine
end

