-- ==== Sys2Proof/Laws/KeepDma.lean ====
section
/-! SUPPORT. What no definition of Machine/Dma.lean touches: the queue of commands, the fused values,
the module's own count and the signer fuses. -/

namespace Sys2Proof.Machine

@[simp] theorem State.dmaIssue_kept (s : State) (t : ℕ) (f : Fields) (job : Bool) : Kept s (State.dmaIssue s t f job) := by
  unfold State.dmaIssue
  (repeat' split) <;> simp [Kept]

@[simp] theorem execDma_kept (t : ℕ) (f : Fields) (s : State) : Keeps s (execDma t f s) := by
  unfold execDma
  (repeat' split) <;> exact .next (by simp [Kept])

@[simp] theorem execDmaj_kept (t : ℕ) (f : Fields) (s : State) : Keeps s (execDmaj t f s) := by
  unfold execDmaj
  (repeat' split) <;> exact .next (by simp [Kept])

@[simp] theorem execCset_kept (t : ℕ) (f : Fields) (s : State) : Keeps s (execCset t f s) := by
  unfold execCset
  (repeat' split) <;> exact .next (by simp [Kept])

@[simp] theorem execCrd_kept (t : ℕ) (f : Fields) (s : State) : Keeps s (execCrd t f s) := by
  unfold execCrd
  (repeat' split) <;> exact .next (by simp [Kept])

@[simp] theorem execLocalCopyLine_kept (t : ℕ) (id : ℕ) (s : State) : Keeps s (execLocalCopyLine t id s) := by
  unfold execLocalCopyLine
  (repeat' split) <;> exact .next (by simp [Kept])

@[simp] theorem execAgentEntryGrant_kept (region : ℕ) (s : State) : Keeps s (execAgentEntryGrant region s) := by
  unfold execAgentEntryGrant
  refine .next ?_
  dsimp only
  (repeat' split) <;> simp [Kept]

@[simp] theorem execTimedRelease_kept (t : ℕ) (id : ℕ) (s : State) : Keeps s (execTimedRelease t id s) := by
  unfold execTimedRelease
  refine .next ?_
  dsimp only
  (repeat' split) <;> simp [Kept]

@[simp] theorem State.injectPkt_kept (s : State) (t : ℕ) (d : Desc) : Kept s (State.injectPkt s t d) := by
  unfold State.injectPkt
  dsimp only
  (repeat' split) <;> simp [Kept]

@[simp] theorem State.injectItem_kept (s : State) (t : ℕ) (vc : ℕ) (d : Desc) : Kept s (State.injectItem s t vc d) := by
  simp [Kept, State.injectItem]

@[simp] theorem State.injectRsp_kept (s : State) (t : ℕ) (vc : ℕ) (f : Flight) : Kept s (State.injectRsp s t vc f) := by
  simp [Kept, State.injectRsp]

@[simp] theorem execDmaInject_kept (t : ℕ) (vc : ℕ) (s : State) : Keeps s (execDmaInject t vc s) := by
  unfold execDmaInject
  (repeat' split) <;> exact .next (by simp [Kept])

@[simp] theorem execDescComplete_kept (t : ℕ) (id : ℕ) (s : State) : Keeps s (execDescComplete t id s) := by
  unfold execDescComplete
  (repeat' split) <;> exact .next (by simp [Kept])

@[simp] theorem execItemTimeout_kept (t : ℕ) (id : ℕ) (s : State) : Keeps s (execItemTimeout t id s) := by
  unfold execItemTimeout
  refine .next ?_
  dsimp only
  (repeat' split) <;> simp [Kept]

@[simp] theorem execMsgSpanTimeout_kept (t : ℕ) (id : ℕ) (s : State) : Keeps s (execMsgSpanTimeout t id s) := by
  unfold execMsgSpanTimeout
  (repeat' split) <;> exact .next (by simp [Kept])

@[simp] theorem State.fenceWrite_kept (s : State) (t : ℕ) (v : W32) : Kept s (State.fenceWrite s t v) := by
  unfold State.fenceWrite
  dsimp only
  (repeat' split) <;> simp [Kept]

@[simp] theorem State.eccClear_kept (s : State) (t : ℕ) (v : W32) : Kept s (State.eccClear s t v) := by
  unfold State.eccClear
  (repeat' split) <;> simp [Kept]

@[simp] theorem execFenceReq_kept (_w : Who) (t : ℕ) (v : W32) (s : State) : Keeps s (execFenceReq _w t v s) := by
  unfold execFenceReq
  (repeat' split) <;> exact .next (by simp [Kept])

@[simp] theorem execEccClr_kept (_w : Who) (t : ℕ) (v : W32) (s : State) : Keeps s (execEccClr _w t v s) := by
  unfold execEccClr
  (repeat' split) <;> exact .next (by simp [Kept])

@[simp] theorem execTileFenceComplete_kept (t : ℕ) (s : State) : Keeps s (execTileFenceComplete t s) := by
  unfold execTileFenceComplete
  refine .next ?_
  dsimp only
  (repeat' split) <;> simp [Kept]

end Sys2Proof.Machine
end

