-- ==== Sys2Proof/Laws/KeepWaits.lean ====
section
/-! SUPPORT. What no definition of Machine/Waits.lean touches: the queue of commands, the fused values,
the module's own count and the signer fuses. -/

namespace Sys2Proof.Machine

@[simp] theorem execWaitc_kept (t : ℕ) (f : Fields) (s : State) : Keeps s (execWaitc t f s) := by
  unfold execWaitc
  (repeat' split) <;> exact .next (by simp [Kept])

@[simp] theorem execWaitcRelease_kept (t : ℕ) (s : State) : Keeps s (execWaitcRelease t s) := by
  unfold execWaitcRelease
  (repeat' split) <;> exact .next (by simp [Kept])

@[simp] theorem execWaitjt_kept (t : ℕ) (f : Fields) (s : State) : Keeps s (execWaitjt t f s) := by
  unfold execWaitjt
  (repeat' split) <;> exact .next (by simp [Kept])

@[simp] theorem execWaitjtRelease_kept (t : ℕ) (s : State) : Keeps s (execWaitjtRelease t s) := by
  unfold execWaitjtRelease
  (repeat' split) <;> exact .next (by simp [Kept])

@[simp] theorem execFence_kept (t : ℕ) (f : Fields) (s : State) : Keeps s (execFence t f s) := by
  unfold execFence
  (repeat' split) <;> exact .next (by simp [Kept])

@[simp] theorem execFenceRelease_kept (t : ℕ) (s : State) : Keeps s (execFenceRelease t s) := by
  unfold execFenceRelease
  (repeat' split) <;> exact .next (by simp [Kept])

@[simp] theorem State.spend_kept (s : State) (t : ℕ) (cost : ℕ) : Kept s (State.spend s t cost) := by
  simp [Kept, State.spend]

@[simp] theorem execEblk_kept (t : ℕ) (f : Fields) (s : State) : Keeps s (execEblk t f s) := by
  unfold execEblk
  refine .next ?_
  (repeat' split) <;> simp [Kept]

@[simp] theorem execEwait_kept (t : ℕ) (f : Fields) (s : State) : Keeps s (execEwait t f s) := by
  unfold execEwait
  refine .next ?_
  (repeat' split) <;> simp [Kept]

@[simp] theorem execEwaitGrant_kept (cluster : ℕ) (s : State) : Keeps s (execEwaitGrant cluster s) := by
  unfold execEwaitGrant
  refine .next ?_
  dsimp only
  (repeat' split) <;> simp [Kept]

@[simp] theorem execSample_kept (t : ℕ) (f : Fields) (s : State) : Keeps s (execSample t f s) := by
  unfold execSample
  refine .next ?_
  dsimp only
  (repeat' split) <;> simp [Kept]

@[simp] theorem execSampleDone_kept (t : ℕ) (s : State) : Keeps s (execSampleDone t s) := by
  unfold execSampleDone
  (repeat' split) <;> exact .next (by simp [Kept])

end Sys2Proof.Machine
end

