-- ==== Sys2Proof/Laws/KeepLaunch.lean ====
section
/-! SUPPORT. What no definition of Machine/Launch.lean touches: the queue of commands, the fused values,
the module's own count and the signer fuses. -/

namespace Sys2Proof.Machine

@[simp] theorem State.deny_kept (s : State) (w : Who) : Kept s (State.deny s w) := by
  unfold State.deny
  (repeat' split) <;> simp [Kept]

@[simp] theorem State.portErr_kept (s : State) (w : Who) : Kept s (State.portErr s w) := by
  unfold State.portErr
  (repeat' split) <;> simp [Kept]

@[simp] theorem State.setOwner_kept (s : State) (p : ℕ) (n : ℕ) : Kept s (State.setOwner s p n) := by
  unfold State.setOwner
  dsimp only
  (repeat' split) <;> simp [Kept]

@[simp] theorem State.renewLease_kept (s : State) (p : ℕ) : Kept s (State.renewLease s p) := by
  simp [Kept, State.renewLease]

@[simp] theorem State.renewNow_kept (s : State) (w : Who) (p : ℕ) : Kept s (State.renewNow s w p) := by
  simp [Kept, State.renewNow]

@[simp] theorem State.claimNow_kept (s : State) (w : Who) (p : ℕ) : Kept s (State.claimNow s w p) := by
  simp [Kept, State.claimNow]

@[simp] theorem State.releaseNow_kept (s : State) (w : Who) (p : ℕ) : Kept s (State.releaseNow s w p) := by
  simp [Kept, State.releaseNow]

@[simp] theorem State.ownNow_kept (s : State) (w : Who) (cmd : ℕ) (p : ℕ) : Kept s (State.ownNow s w cmd p) := by
  unfold State.ownNow
  (repeat' split) <;> simp [Kept]

@[simp] theorem State.ownReq_kept (s : State) (w : Who) (cmd : ℕ) (p : ℕ) : Kept s (State.ownReq s w cmd p) := by
  simp [Kept, State.ownReq]

@[simp] theorem State.ownerWrite_kept (s : State) (p : ℕ) (n : ℕ) : Kept s (State.ownerWrite s p n) := by
  simp [Kept, State.ownerWrite]

@[simp] theorem execRenew_kept (w : Who) (p : ℕ) (s : State) : Keeps s (execRenew w p s) := by
  unfold execRenew
  (repeat' split) <;> exact .next (by simp [Kept])

@[simp] theorem execClaim_kept (w : Who) (p : ℕ) (s : State) : Keeps s (execClaim w p s) := by
  unfold execClaim
  (repeat' split) <;> exact .next (by simp [Kept])

@[simp] theorem execRelease_kept (w : Who) (p : ℕ) (s : State) : Keeps s (execRelease w p s) := by
  unfold execRelease
  (repeat' split) <;> exact .next (by simp [Kept])

@[simp] theorem execLeaseExpire_kept (p : ℕ) (s : State) : Keeps s (execLeaseExpire p s) := by
  unfold execLeaseExpire
  refine .next ?_
  dsimp only
  (repeat' split) <;> simp [Kept]

@[simp] theorem State.stageBytes_kept (s : State) (offset : ℕ) (data : List Byte) : Kept s (State.stageBytes s offset data) := by
  simp [Kept, State.stageBytes]

@[simp] theorem execLaunchRecordWrite_kept (w : Who) (offset : ℕ) (data : Bar4Write) (s : State) : Keeps s (execLaunchRecordWrite w offset data s) := by
  unfold execLaunchRecordWrite
  refine .next ?_
  dsimp only
  (repeat' split) <;> simp [Kept]

@[simp] theorem State.ringWrite_kept (s : State) (p : ℕ) (i : ℕ) (r : LaunchRec) : Kept s (State.ringWrite s p i r) := by
  unfold State.ringWrite
  dsimp only
  (repeat' split) <;> simp [Kept]

@[simp] theorem State.launchMsix_kept (s : State) (p : ℕ) (r : LaunchRec) : Kept s (State.launchMsix s p r) := by
  unfold State.launchMsix
  dsimp only
  (repeat' split) <;> simp [Kept]

@[simp] theorem State.finishRec_kept (s : State) (p : ℕ) (i : ℕ) (status : Byte) (halt : ℕ) (faulted : ℕ) (phase : ℕ) : Kept s (State.finishRec s p i status halt faulted phase) := by
  simp [Kept, State.finishRec]

@[simp] theorem State.endLaunch_kept (s : State) (p : ℕ) : Kept s (State.endLaunch s p) := by
  unfold State.endLaunch
  dsimp only
  (repeat' split) <;> simp [Kept]

@[simp] theorem State.stopLaunch_kept (s : State) (p : ℕ) (st : Byte) : Kept s (State.stopLaunch s p st) := by
  simp [Kept, State.stopLaunch]

@[simp] theorem execLaunchEnd_kept (p : ℕ) (s : State) : Keeps s (execLaunchEnd p s) := by
  unfold execLaunchEnd
  (repeat' split) <;> exact .next (by simp [Kept])

@[simp] theorem State.takeRec_kept (s : State) (p : ℕ) (phase : ℕ) (i : ℕ) : Kept s (State.takeRec s p phase i) := by
  unfold State.takeRec
  dsimp only
  (repeat' split) <;> simp [Kept]

@[simp] theorem execLaunchDecision_kept (p : ℕ) (s : State) : Keeps s (execLaunchDecision p s) := by
  unfold execLaunchDecision
  refine .next ?_
  try dsimp only
  repeat' split
  all_goals first
    | (simp [Kept]; done)
    | (refine Kept.foldl (fun _ _ => ?_) _ _
       (repeat' split) <;> (simp [Kept]; done))
    | (refine Kept.trans ?_ (Kept.foldl (fun _ _ => ?_) _ _) <;> (repeat' split) <;> (simp [Kept]; done))

@[simp] theorem execLaunchStart_kept (p : ℕ) (s : State) : Keeps s (execLaunchStart p s) := by
  unfold execLaunchStart
  refine .next ?_
  try dsimp only
  repeat' split
  all_goals first
    | (simp [Kept]; done)
    | (refine Kept.foldl (fun _ _ => ?_) _ _
       (repeat' split) <;> (simp [Kept]; done))
    | (refine Kept.trans ?_ (Kept.foldl (fun _ _ => ?_) _ _) <;> (repeat' split) <;> (simp [Kept]; done))

@[simp] theorem State.cqRpCmd_kept (s : State) (w : Who) (p : ℕ) (v : W32) : Kept s (State.cqRpCmd s w p v) := by
  unfold State.cqRpCmd
  (repeat' split) <;> simp [Kept]

@[simp] theorem execCqRpWrite_kept (w : Who) (p : ℕ) (v : W32) (s : State) : Keeps s (execCqRpWrite w p v s) := by
  unfold execCqRpWrite
  (repeat' split) <;> exact .next (by simp [Kept])

end Sys2Proof.Machine
end

