-- ==== Sys2Proof/Laws/KeepWindow.lean ====
section
/-! SUPPORT. What no definition of Machine/Window.lean touches: the queue of commands, the fused values,
the module's own count and the signer fuses. -/

namespace Sys2Proof.Machine

@[simp] theorem State.hbmUncorr_kept (s : State) (word : ℕ) : Kept s (State.hbmUncorr s word) := by
  simp [Kept, State.hbmUncorr]

@[simp] theorem State.hbmCorr_kept (s : State) (mpa : ℕ) (n : ℕ) : Kept s (State.hbmCorr s mpa n) := by
  unfold State.hbmCorr
  dsimp only
  (repeat' split) <;> simp [Kept]

@[simp] theorem State.countAnswer_kept (s : State) (station : ℕ) (st : Byte) : Kept s (State.countAnswer s station st) := by
  simp [Kept, State.countAnswer]

@[simp] theorem State.recordRefusal_kept (s : State) (station : ℕ) (p : Packet) (code : ℕ) : Kept s (State.recordRefusal s station p code) := by
  unfold State.recordRefusal
  (repeat' split) <;> simp [Kept]

@[simp] theorem State.countRefusal_kept (s : State) (station : ℕ) (p : Packet) (st : Byte) (code : ℕ) : Kept s (State.countRefusal s station p st code) := by
  simp [Kept, State.countRefusal]

@[simp] theorem State.discardAge_kept (s : State) (station : ℕ) (p : Packet) : Kept s (State.discardAge s station p) := by
  simp [Kept, State.discardAge]

@[simp] theorem State.storeAt_kept (s : State) (w : BitVec 256) (va : ℕ) (bs : List Byte) : Kept s (State.storeAt s w va bs).1 := by
  unfold State.storeAt
  dsimp only
  (repeat' split) <;> simp [Kept]

@[simp] theorem State.storeVa_kept (s : State) (station : ℕ) (job : ℕ) (va : ℕ) (bs : List Byte) : Kept s (State.storeVa s station job va bs).1 := by
  unfold State.storeVa
  (repeat' split) <;> simp [Kept]

@[simp] theorem State.storeLines_kept (s : State) (w : BitVec 256) (va : ℕ) (bs : List Byte) : Kept s (State.storeLines s w va bs).1 := by
  simp [Kept, State.storeLines]

@[simp] theorem State.storeBlocks_kept (s : State) (station : ℕ) (job : ℕ) (va : ℕ) (bs : List Byte) : Kept s (State.storeBlocks s station job va bs).1 := by
  unfold State.storeBlocks
  generalize (chunks 256 bs).zipIdx = l
  generalize St.done = st
  induction l generalizing s st with
  | nil => exact ⟨rfl, rfl, rfl, rfl⟩
  | cons a l ih => exact (State.storeVa_kept ..).trans (ih _ _)

end Sys2Proof.Machine
end

