-- ==== Sys2Proof/Laws/KeepRoute.lean ====
section
/-! SUPPORT. What no definition of Machine/Route.lean touches: the queue of commands, the fused values,
the module's own count and the signer fuses. -/

namespace Sys2Proof.Machine

@[simp] theorem State.regenTables_kept (s : State) (r : ℕ) : Kept s (State.regenTables s r) := by
  simp [Kept, State.regenTables]

@[simp] theorem State.setArb_kept (s : State) (k : ℕ) (a : Arb) : Kept s (State.setArb s k a) := by
  simp [Kept, State.setArb]

@[simp] theorem State.crcDiscard_kept (s : State) (station : ℕ) : Kept s (State.crcDiscard s station) := by
  simp [Kept, State.crcDiscard]

@[simp] theorem State.receive_kept (s : State) (station : Nat) (p : Packet) {k : State → State} (hk : ∀ s, Kept s (k s)) :
    Kept s (s.receive station p k) := by
  unfold State.receive
  (repeat' split) <;> simp [Kept, hk]

@[simp] theorem State.crossTo_kept (s : State) (station : ℕ) (f : Flight) (pl : Place) : Kept s (State.crossTo s station f pl) := by
  unfold State.crossTo
  dsimp only
  (repeat' split) <;> simp [Kept]

@[simp] theorem State.forward_kept (s : State) (r : Router) (port : ℕ) (vc : ℕ) : Kept s (State.forward s r port vc) := by
  unfold State.forward
  dsimp only
  split
  · split
    · exact ⟨rfl, rfl, rfl, rfl⟩
    · refine Kept.trans ?_ (State.crossTo_kept ..)
      refine Kept.trans ?_ (State.updStn_kept ..)
      exact Kept.loop (State.setArb_kept ..) fun _ _ => State.dropPkt_kept ..
  · exact ⟨rfl, rfl, rfl, rfl⟩

@[simp] theorem State.tstHit_kept (s : State) (n : ℕ) : Kept s (State.tstHit s n).1 := by
  unfold State.tstHit
  (repeat' split) <;> simp [Kept]

@[simp] theorem State.perturb_kept (s : State) (station : ℕ) (p : Packet) : Kept s (State.perturb s station p).1 := by
  unfold State.perturb
  dsimp only
  (repeat' split) <;> simp [Kept]

@[simp] theorem State.leaveHall_kept (s : State) (port : ℕ) (p : Packet) : Kept s (State.leaveHall s port p) := by
  have k := State.perturb_kept s 26 p
  unfold State.leaveHall
  split <;> rename_i e <;> rw [e] at k
  · exact k
  · exact Kept.trans k (State.emit_kept _ _)

@[simp] theorem State.hallForward_kept (s : State) (port : ℕ) (vc : ℕ) : Kept s (State.hallForward s port vc) := by
  unfold State.hallForward
  dsimp only
  (repeat' split) <;> simp [Kept]

@[simp] theorem execRouterForward_kept (r : Router) (port : ℕ) (vc : ℕ) (s : State) : Keeps s (execRouterForward r port vc s) := by
  unfold execRouterForward
  (repeat' split) <;> exact .next (by simp [Kept])

@[simp] theorem State.islandFault_kept (s : State) (rk : ℕ) (site : ℕ) : Kept s (State.islandFault s rk site) := by
  unfold State.islandFault
  (repeat' split) <;> simp [Kept]

@[simp] theorem execRouterFault_kept (r : Router) (s : State) : Keeps s (execRouterFault r s) := by
  unfold execRouterFault
  (repeat' split) <;> exact .next (by simp [Kept])

end Sys2Proof.Machine
end

