-- ==== Sys2Proof/Laws/KeepMemOps.lean ====
section
/-! SUPPORT. What no definition of Machine/MemOps.lean touches: the queue of commands, the fused values,
the module's own count and the signer fuses. -/

namespace Sys2Proof.Machine

@[simp] theorem State.setCombine_kept (s : State) (station : ℕ) (dst : W32) (cs : List Combine) : Kept s (State.setCombine s station dst cs) := by
  unfold State.setCombine
  (repeat' split) <;> simp [Kept]

@[simp] theorem State.hostWrite_kept (s : State) (p : Packet) (w : BitVec 256) : Kept s (State.hostWrite s p w) := by
  simp [Kept, State.hostWrite]

@[simp] theorem State.updMsg_kept (s : State) (station : ℕ) (src : W32) (txid : BitVec 24) (f : MsgEntry → MsgEntry) : Kept s (State.updMsg s station src txid f) := by
  simp [Kept, State.updMsg]

theorem State.acceptChip_kept (s : State) (station : ℕ) (p : Packet) (w : BitVec 256) (r : State) (h : State.acceptChip s station p w = some r) : Kept s r := by
  unfold State.acceptChip at h
  try dsimp only at h
  repeat' split at h
  all_goals first
    | (injection h with h; subst h; simp [Kept])
    | cases h

@[simp] theorem State.toMgmt_kept (s : State) (p : Packet) : Kept s (State.toMgmt s p) := by
  simp [Kept, State.toMgmt]

theorem State.accept_kept (s : State) (station : ℕ) (p : Packet) (w : BitVec 256) (r : State) (h : State.accept s station p w = some r) : Kept s r := by
  unfold State.accept at h
  split at h
  · injection h with h; subst h; exact State.toMgmt_kept ..
  · split at h
    · injection h with h; subst h; exact State.hostWrite_kept ..
    · split at h
      · exact State.acceptChip_kept _ _ _ _ _ h
      · dsimp only at h
        split at h
        · cases h
        · injection h with h; subst h; simp [Kept]

@[simp] theorem State.dropMsg_kept (s : State) (station : ℕ) (src : W32) (txid : BitVec 24) : Kept s (State.dropMsg s station src txid) := by
  simp [Kept, State.dropMsg]

@[simp] theorem State.endChip_kept (s : State) (station : ℕ) (e : MsgEntry) : Kept s (State.endChip s station e) := by
  unfold State.endChip
  (repeat' split) <;> simp [Kept]

@[simp] theorem State.msgFinish_kept (s : State) (station : ℕ) (e : MsgEntry) : Kept s (State.msgFinish s station e) := by
  unfold State.msgFinish
  (repeat' split) <;> simp [Kept]

@[simp] theorem State.msgStep_kept (s : State) (station : ℕ) (e : MsgEntry) : Kept s (State.msgStep s station e) := by
  unfold State.msgStep
  try dsimp only
  repeat' split
  all_goals first
    | (simp [Kept]; done)
    | (have := State.accept_kept _ _ _ _ _ (by assumption); simp_all [Kept])

@[simp] theorem State.msgSweep_kept (s : State) (station : ℕ) : Kept s (State.msgSweep s station) := by
  unfold State.msgSweep
  try dsimp only
  repeat' first
    | split
    | refine Kept.foldl (fun _ _ => ?_) _ _
    | refine Kept.trans ?_ (Kept.foldl (fun _ _ => ?_) _ _)
  all_goals simp [Kept]

@[simp] theorem State.msgCount_kept (s : State) (station : ℕ) (p : Packet) (st : Byte) (held : Option Packet) : Kept s (State.msgCount s station p st held) := by
  simp [Kept, State.msgCount]

@[simp] theorem State.toChiplet_kept (s : State) (station : ℕ) (f : Flight) (w : BitVec 256) : Kept s (State.toChiplet s station f w) := by
  unfold State.toChiplet
  dsimp only
  (repeat' split) <;> simp [Kept]

@[simp] theorem State.refuseReq_kept (s : State) (station : ℕ) (f : Flight) (c : Check) : Kept s (State.refuseReq s station f c) := by
  unfold State.refuseReq
  (repeat' split) <;> simp [Kept]

@[simp] theorem State.msgArrive_kept (s : State) (station : ℕ) (f : Flight) : Kept s (State.msgArrive s station f) := by
  unfold State.msgArrive
  dsimp only
  repeat' split
  all_goals first
    | (simp [Kept]; done)
    | (rename_i h
       refine Kept.trans ?_ ((State.accept_kept _ _ _ _ _ h).trans (by simp [Kept]))
       (repeat' split) <;> simp [Kept])

@[simp] theorem execMsgPacketArrive_kept (station : ℕ) (s : State) : Keeps s (execMsgPacketArrive station s) := by
  unfold execMsgPacketArrive
  (repeat' split) <;> exact .next (by simp [Kept])

@[simp] theorem execMsgEntryExpire_kept (station : ℕ) (s : State) : Keeps s (execMsgEntryExpire station s) := by
  unfold execMsgEntryExpire
  refine .next ?_
  dsimp only
  (repeat' split) <;> simp [Kept]

@[simp] theorem State.loadTile_kept (s : State) (station : ℕ) (p : Packet) (a : ℕ) (n : ℕ) : Kept s (State.loadTile s station p a n) := by
  unfold State.loadTile
  dsimp only
  (repeat' split) <;> simp [Kept]

@[simp] theorem State.loadHbm_kept (s : State) (station : ℕ) (p : Packet) (a : ℕ) (n : ℕ) : Kept s (State.loadHbm s station p a n) := by
  unfold State.loadHbm
  dsimp only
  (repeat' split) <;> simp [Kept]

@[simp] theorem State.loadHost_kept (s : State) (station : ℕ) (p : Packet) (w : BitVec 256) : Kept s (State.loadHost s station p w) := by
  unfold State.loadHost
  dsimp only
  (repeat' split) <;> simp [Kept]

@[simp] theorem execLoadApply_kept (station : ℕ) (s : State) : Keeps s (execLoadApply station s) := by
  unfold execLoadApply
  refine .next ?_
  dsimp only
  (repeat' split) <;> simp [Kept]

@[simp] theorem execStoreAccept_kept (station : ℕ) (s : State) : Keeps s (execStoreAccept station s) := by
  unfold execStoreAccept
  refine .next ?_
  try dsimp only
  repeat' split
  all_goals first
    | (simp [Kept]; done)
    | (have := State.accept_kept _ _ _ _ _ (by assumption); simp_all [Kept])

@[simp] theorem State.storeWritten_kept (s : State) (station : ℕ) (p : Packet) (st : Byte) : Kept s (State.storeWritten s station p st) := by
  unfold State.storeWritten
  dsimp only
  (repeat' split) <;> simp [Kept]

@[simp] theorem State.writeTileEntry_kept (s : State) (t : ℕ) (c : Combine) : Kept s (State.writeTileEntry s t c) := by
  unfold State.writeTileEntry
  dsimp only
  refine Kept.trans ?_ (Kept.foldl (fun _ _ => State.storeWritten_kept ..) _ _)
  exact (State.updTile_kept ..).trans (Kept.foldl_fst (fun x a =>
    (State.setTile_kept ..).trans (Kept.foldl (fun _ _ => State.recTile_kept ..) _ _)) _ (_, _))

@[simp] theorem State.writeHbmEntry_kept (s : State) (station : ℕ) (c : Combine) : Kept s (State.writeHbmEntry s station c) := by
  unfold State.writeHbmEntry
  dsimp only
  refine Kept.trans ?_ (Kept.foldl (fun _ _ => State.storeWritten_kept ..) _ _)
  exact (State.updStn_kept ..).trans (Kept.foldl_fst (fun x a =>
    Kept.trans ⟨rfl, rfl, rfl, rfl⟩ (Kept.foldl (fun _ _ => State.hbmUncorr_kept ..) _ _)) _ (_, _))

@[simp] theorem execCombineEntryWrite_kept (station : ℕ) (s : State) : Keeps s (execCombineEntryWrite station s) := by
  unfold execCombineEntryWrite
  (repeat' split) <;> exact .next (by simp [Kept])

@[simp] theorem State.mireInsert_kept (s : State) (station : ℕ) (p : Packet) (result : List Byte) : Kept s (State.mireInsert s station p result) := by
  simp [Kept, State.mireInsert]

@[simp] theorem State.atomicRun_kept (s : State) (station : ℕ) (p : Packet) (w : BitVec 256) : Kept s (State.atomicRun s station p w) := by
  unfold State.atomicRun
  dsimp only
  (repeat' split) <;> simp [Kept]

@[simp] theorem State.staleOut_kept (s : State) (station : ℕ) (p : Packet) : Kept s (State.staleOut s station p) := by
  unfold State.staleOut
  (repeat' split) <;> simp [Kept]

theorem State.atomicDecide_kept (s : State) (station : ℕ) (p : Packet) (w : BitVec 256) (r : State) (h : State.atomicDecide s station p w = some r) : Kept s r := by
  unfold State.atomicDecide at h
  try dsimp only at h
  repeat' split at h
  all_goals first
    | (injection h with h; subst h; simp [Kept])
    | cases h

@[simp] theorem execAtomicApply_kept (station : ℕ) (s : State) : Keeps s (execAtomicApply station s) := by
  unfold execAtomicApply
  refine .next ?_
  try dsimp only
  repeat' split
  all_goals first
    | (simp [Kept]; done)
    | (have := State.atomicDecide_kept _ _ _ _ _ (by assumption); simp_all [Kept])

@[simp] theorem execAtomicStaleInWait_kept (station : ℕ) (s : State) : Keeps s (execAtomicStaleInWait station s) := by
  unfold execAtomicStaleInWait
  (repeat' split) <;> exact .next (by simp [Kept])

@[simp] theorem execMireEntryExpire_kept (station : ℕ) (s : State) : Keeps s (execMireEntryExpire station s) := by
  unfold execMireEntryExpire
  (repeat' split) <;> exact .next (by simp [Kept])

@[simp] theorem execChipletStampExpire_kept (site : ℕ) (s : State) : Keeps s (execChipletStampExpire site s) := by
  unfold execChipletStampExpire
  (repeat' split) <;> exact .next (by simp [Kept])

end Sys2Proof.Machine
end

