-- ==== Sys2Proof/Laws/KeepResponse.lean ====
section
/-! SUPPORT. What no definition of Machine/Response.lean touches: the queue of commands, the fused values,
the module's own count and the signer fuses. -/

namespace Sys2Proof.Machine

@[simp] theorem State.lateRsp_kept (s : State) (station : ℕ) : Kept s (State.lateRsp s station) := by
  simp [Kept, State.lateRsp]

@[simp] theorem State.landData_kept (s : State) (t : ℕ) (d : Desc) (st : Byte) (bs : List Byte) : Kept s (State.landData s t d st bs) := by
  unfold State.landData
  dsimp only
  (repeat' split) <;> simp [Kept]

@[simp] theorem State.loadLand_kept (s : State) (t : ℕ) (d : Desc) (p : Packet) : Kept s (State.loadLand s t d p) := by
  simp [Kept, State.loadLand]

@[simp] theorem State.atomicLand_kept (s : State) (t : ℕ) (d : Desc) (p : Packet) : Kept s (State.atomicLand s t d p) := by
  simp [Kept, State.atomicLand]

@[simp] theorem State.hostWriteDone_kept (s : State) (n : ℕ) (txid : BitVec 24) (st : Byte) : Kept s (State.hostWriteDone s n txid st) := by
  unfold State.hostWriteDone
  dsimp only
  (repeat' split) <;> simp [Kept]

@[simp] theorem State.hostReadPart_kept (s : State) (n : ℕ) (txid : BitVec 24) (st : Byte) (bs : List Byte) : Kept s (State.hostReadPart s n txid st bs) := by
  simp [Kept, State.hostReadPart]

@[simp] theorem State.rspArrive_kept (s : State) (station kind descKind : Nat) {tile : State → Nat → Desc → Packet → State} {host : State → Nat → Packet → State} (ht : ∀ s t d p, Kept s (tile s t d p)) (hh : ∀ s n p, Kept s (host s n p)) :
    Kept s (s.rspArrive station kind descKind tile host) := by
  unfold State.rspArrive
  dsimp only
  repeat' split
  all_goals first
    | (simp [Kept]; done)
    | exact Kept.trans (State.dropPkt_kept s _) (ht _ _ _ _)
    | exact Kept.trans (State.dropPkt_kept s _) (hh _ _ _)

@[simp] theorem execLoadRspArrive_kept (station : ℕ) (s : State) : Keeps s (execLoadRspArrive station s) := by
  unfold execLoadRspArrive
  (repeat' split) <;> exact .next (by simp [Kept])

@[simp] theorem execStoreAckArrive_kept (station : ℕ) (s : State) : Keeps s (execStoreAckArrive station s) := by
  unfold execStoreAckArrive
  (repeat' split) <;> exact .next (by simp [Kept])

@[simp] theorem execAtomicRspArrive_kept (station : ℕ) (s : State) : Keeps s (execAtomicRspArrive station s) := by
  unfold execAtomicRspArrive
  (repeat' split) <;> exact .next (by simp [Kept])

@[simp] theorem execMsgAckArrive_kept (station : ℕ) (s : State) : Keeps s (execMsgAckArrive station s) := by
  unfold execMsgAckArrive
  (repeat' split) <;> exact .next (by simp [Kept])

end Sys2Proof.Machine
end

