-- ==== Sys2Proof/Laws/KeepFabric.lean ====
section
/-! SUPPORT. What no definition of Machine/Fabric.lean touches: the queue of commands, the fused values,
the module's own count and the signer fuses. -/

namespace Sys2Proof.Machine

@[simp] theorem State.bounce_kept (s : State) (station : ℕ) (p : Packet) (st : Byte) : Kept s (State.bounce s station p st) := by
  simp [Kept, State.bounce]

@[simp] theorem State.holdTimed_kept (s : State) (p : Packet) (q : ℕ) : Kept s (State.holdTimed s p q) := by
  simp [Kept, State.holdTimed]

@[simp] theorem State.queueHall_kept (s : State) (n : ℕ) (p : Packet) (via : Option ℕ) : Kept s (State.queueHall s n p via) := by
  simp [Kept, State.queueHall]

@[simp] theorem State.toHall_kept (s : State) (p : Packet) (via : Option ℕ) : Kept s (State.toHall s p via) := by
  unfold State.toHall
  (repeat' split) <;> simp [Kept]

@[simp] theorem State.chargeHall_kept (s : State) (port : ℕ) (p : Packet) : Kept s (State.chargeHall s port p) := by
  simp [Kept, State.chargeHall]

@[simp] theorem execHallTimedRelease_kept (port : ℕ) (s : State) : Keeps s (execHallTimedRelease port s) := by
  unfold execHallTimedRelease
  refine .next ?_
  dsimp only
  (repeat' split) <;> simp [Kept]

@[simp] theorem State.arriveAt_kept (s : State) (station : ℕ) (p : Packet) (via : Option ℕ) : Kept s (State.arriveAt s station p via) := by
  simp [Kept, State.arriveAt]

@[simp] theorem State.route_kept (s : State) (src : ℕ) (d : ℕ) (p : Packet) : Kept s (State.route s src d p).1 := by
  unfold State.route
  dsimp only
  (repeat' split) <;> simp [Kept]

@[simp] theorem State.launchTo_kept (s : State) (src : ℕ) (d : ℕ) (p : Packet) (via : Option ℕ) : Kept s (State.launchTo s src d p via) := by
  unfold State.launchTo
  try dsimp only
  repeat' split
  all_goals first
    | (simp [Kept]; done)
    | (have k := State.perturb_kept s src p; rw [‹State.perturb s src p = _›] at k; exact Kept.trans (by simp [Kept]) (k.trans (by simp [Kept])))

@[simp] theorem State.startTo_kept (s : State) (src : ℕ) (d : ℕ) (p : Packet) (via : Option ℕ) : Kept s (State.startTo s src d p via) := by
  unfold State.startTo
  dsimp only
  (repeat' split) <;> simp [Kept]

@[simp] theorem State.enterMemory_kept (s : State) (station : ℕ) (p : Packet) : Kept s (State.enterMemory s station p).1 := by
  unfold State.enterMemory
  (repeat' split) <;> simp [Kept]

@[simp] theorem State.enterCheck_kept (s : State) (station : ℕ) (p : Packet) : Kept s (State.enterCheck s station p).1 := by
  simp [Kept, State.enterCheck]

@[simp] theorem State.noteInjected_kept (s : State) (p : Packet) : Kept s (State.noteInjected s p) := by
  simp [Kept, State.noteInjected]

@[simp] theorem State.inject_kept (s : State) (station : ℕ) (f : Flight) : Kept s (State.inject s station f) := by
  unfold State.inject
  dsimp only
  split
  · simp [Kept]
  · have k0 : Kept s ((s.dropPkt f.seq).noteInjected f.pkt) := by simp [Kept]
    split
    · refine Kept.loop k0 fun _ _ => ?_
      (repeat' split) <;> simp [Kept]
    · have k := State.enterCheck_kept ((s.dropPkt f.seq).noteInjected f.pkt) station f.pkt
      split <;>
      · rename_i h
        rw [h] at k
        refine k0.trans (k.trans ?_)
        (repeat' split) <;> simp [Kept]

@[simp] theorem execStationInject_kept (station : ℕ) (s : State) : Keeps s (execStationInject station s) := by
  unfold execStationInject
  (repeat' split) <;> exact .next (by simp [Kept])

@[simp] theorem State.holdCredit_kept (s : State) (link : ℕ) (since : ℕ) : Kept s (State.holdCredit s link since) := by
  simp [Kept, State.holdCredit]

@[simp] theorem State.carry_kept (s : State) (src : ℕ) (dst : ℕ) (f : Flight) (errs : List ℕ) : Kept s (State.carry s src dst f errs) := by
  unfold State.carry
  (repeat' split) <;> simp [Kept]

@[simp] theorem State.recvPlane_kept (s : State) (src : ℕ) (dst : ℕ) (errs : List ℕ) : Kept s (State.recvPlane s src dst errs) := by
  unfold State.recvPlane
  (repeat' split) <;> simp [Kept]

@[simp] theorem State.sendTurn_kept (s : State) (key windowBytes : Nat) (q : Nat → Option Flight) {send : State → Flight → State} (hs : ∀ s f, Kept s (send s f)) :
    Kept s (s.sendTurn key windowBytes q send) := by
  unfold State.sendTurn
  dsimp only
  split
  · exact ⟨rfl, rfl, rfl, rfl⟩
  · split
    · exact ⟨rfl, rfl, rfl, rfl⟩
    · exact (State.setArb_kept ..).trans (hs _ _)

@[simp] theorem State.recvBond_kept (s : State) (r : ℕ) (errs : List ℕ) : Kept s (State.recvBond s r errs) := by
  unfold State.recvBond
  split
  · exact ⟨rfl, rfl, rfl, rfl⟩
  · exact State.sendTurn_kept _ _ _ _ fun _ _ => (State.dropPkt_kept ..).trans (State.receive_kept _ _ _ fun _ => State.putPkt_kept ..)

@[simp] theorem State.recvBondDown_kept (s : State) (r : ℕ) (errs : List ℕ) : Kept s (State.recvBondDown s r errs) := by
  unfold State.recvBondDown
  split
  · exact ⟨rfl, rfl, rfl, rfl⟩
  · exact State.sendTurn_kept _ _ _ _ fun _ _ => State.crossTo_kept ..

@[simp] theorem State.recvIoDie_kept (s : State) (p : Packet) : Kept s (State.recvIoDie s p) := by
  simp [Kept, State.recvIoDie]

@[simp] theorem State.recvChipletAtomic_kept (s : State) (site : ℕ) (p : Packet) : Kept s (State.recvChipletAtomic s site p) := by
  unfold State.recvChipletAtomic
  dsimp only
  (repeat' split) <;> simp [Kept]

@[simp] theorem State.recvChiplet_kept (s : State) (site : ℕ) (p : Packet) : Kept s (State.recvChiplet s site p) := by
  simp [Kept, State.recvChiplet]

@[simp] theorem State.recvStream_kept (s : State) (site : ℕ) (data : List Byte) : Kept s (State.recvStream s site data) := by
  simp [Kept, State.recvStream]

@[simp] theorem execStationPktReceive_kept (h : Hop) (s : State) : Keeps s (execStationPktReceive h s) := by
  unfold execStationPktReceive
  (repeat' split) <;> exact .next (by simp [Kept])

@[simp] theorem execPktRxLossOfLock_kept (station : ℕ) (channel : ℕ) (s : State) : Keeps s (execPktRxLossOfLock station channel s) := by
  unfold execPktRxLossOfLock
  (repeat' split) <;> exact .next (by simp [Kept])

@[simp] theorem execPktRxLockRegain_kept (station : ℕ) (channel : ℕ) (s : State) : Keeps s (execPktRxLockRegain station channel s) := by
  unfold execPktRxLockRegain
  (repeat' split) <;> exact .next (by simp [Kept])

@[simp] theorem State.presentSites_kept (s : State) : Kept s (State.presentSites s) := by
  unfold State.presentSites
  refine Kept.foldl (fun _ _ => ?_) _ _
  try dsimp only
  (repeat' split) <;> simp [Kept]

@[simp] theorem State.markBegun_kept (s : State) : Kept s (State.markBegun s) := by
  unfold State.markBegun
  try dsimp only
  repeat' split
  all_goals first
    | (simp [Kept]; done)
    | (refine Kept.foldl (fun _ _ => ?_) _ _
       (repeat' split) <;> (simp [Kept]; done))
    | (refine Kept.trans ?_ (Kept.foldl (fun _ _ => ?_) _ _) <;> (repeat' split) <;> (simp [Kept]; done))

@[simp] theorem execMaintInjectStop_kept (s : State) : Keeps s (execMaintInjectStop s) := by
  unfold execMaintInjectStop
  (repeat' split) <;> exact .next (by simp [Kept])

@[simp] theorem execMaintQuietStart_kept (s : State) : Keeps s (execMaintQuietStart s) := by
  unfold execMaintQuietStart
  (repeat' split) <;> exact .next (by simp [Kept])

@[simp] theorem State.rehash_kept (s : State) : Kept s (State.rehash s) := by
  unfold State.rehash
  refine Kept.foldl (fun _ _ => ?_) _ _
  try dsimp only
  (repeat' split) <;> simp [Kept]

@[simp] theorem State.hallPkt_kept (s : State) (port : ℕ) (p : Packet) : Kept s (State.hallPkt s port p) := by
  simp [Kept, State.hallPkt]

@[simp] theorem execHallCodewordReceive_kept (port : ℕ) (cw : Codeword) (data : List Byte) (s : State) : Keeps s (execHallCodewordReceive port cw data s) := by
  unfold execHallCodewordReceive
  (repeat' split) <;> exact .next (by simp [Kept])

@[simp] theorem execHallPortExit_kept (port : ℕ) (cause : ℕ) (s : State) : Keeps s (execHallPortExit port cause s) := by
  unfold execHallPortExit
  (repeat' split) <;> exact .next (by simp [Kept])

@[simp] theorem execHallPortEnter_kept (port : ℕ) (signal : Bool) (aligned : Bool) (s : State) : Keeps s (execHallPortEnter port signal aligned s) := by
  unfold execHallPortEnter
  (repeat' split) <;> exact .next (by simp [Kept])

@[simp] theorem State.listPorts_kept (s : State) : Kept s (State.listPorts s) := by
  unfold State.listPorts
  split
  · exact (Kept.foldl (fun _ _ => State.setHall_kept ..) _ _).trans (State.rehash_kept _)
  · exact ⟨rfl, rfl, rfl, rfl⟩

@[simp] theorem execHallPortCfgApply_kept (port : ℕ) (s : State) : Keeps s (execHallPortCfgApply port s) := by
  unfold execHallPortCfgApply
  (repeat' split) <;> exact .next (by simp [Kept])

@[simp] theorem execAprReduce_kept (port : ℕ) (s : State) : Keeps s (execAprReduce port s) := by
  unfold execAprReduce
  (repeat' split) <;> exact .next (by simp [Kept])

@[simp] theorem execAprProbe_kept (port : ℕ) (signal : Bool) (s : State) : Keeps s (execAprProbe port signal s) := by
  unfold execAprProbe
  (repeat' split) <;> exact .next (by simp [Kept])

@[simp] theorem State.sampleRow_kept (s : State) (src : ℕ) : Kept s (State.sampleRow s src) := by
  simp [Kept, State.sampleRow]

@[simp] theorem State.showMap_kept (s : State) (n : ℕ) : Kept s (State.showMap s n) := by
  simp [Kept, State.showMap]

@[simp] theorem State.sendRow_kept (s : State) (src : ℕ) : Kept s (State.sendRow s src) := by
  simp [Kept, State.sendRow]

@[simp] theorem State.gngPush_kept (s : State) : Kept s (State.gngPush s) := by
  simp [Kept, State.gngPush]

@[simp] theorem execGngSample_kept (s : State) : Keeps s (execGngSample s) := by
  unfold execGngSample
  (repeat' split) <;> exact .next (by simp [Kept])

@[simp] theorem execGngRowReceive_kept (station : ℕ) (src : ℕ) (s : State) : Keeps s (execGngRowReceive station src s) := by
  unfold execGngRowReceive
  (repeat' split) <;> exact .next (by simp [Kept])

@[simp] theorem execGngRowStale_kept (station : ℕ) (src : ℕ) (s : State) : Keeps s (execGngRowStale station src s) := by
  unfold execGngRowStale
  (repeat' split) <;> exact .next (by simp [Kept])

@[simp] theorem State.gngRestart_kept (s : State) : Kept s (State.gngRestart s) := by
  simp [Kept, State.gngRestart]

@[simp] theorem execGngReset_kept (_w : Who) (v : W32) (s : State) : Keeps s (execGngReset _w v s) := by
  unfold execGngReset
  (repeat' split) <;> exact .next (by simp [Kept])

@[simp] theorem State.pktClear_kept (s : State) : Kept s (State.pktClear s) := by
  unfold State.pktClear
  exact Kept.loop (Kept.loop ⟨rfl, rfl, rfl, rfl⟩ fun _ _ => by simp [Kept]) fun _ _ => by simp [Kept]

@[simp] theorem execPktCntClr_kept (_w : Who) (v : W32) (s : State) : Keeps s (execPktCntClr _w v s) := by
  unfold execPktCntClr
  (repeat' split) <;> exact .next (by simp [Kept])

end Sys2Proof.Machine
end

