-- ==== Sys2Proof/Laws/KeepMemAdmin.lean ====
section
/-! SUPPORT. What no definition of Machine/MemAdmin.lean touches: the queue of commands, the fused values,
the module's own count and the signer fuses. -/

namespace Sys2Proof.Machine

theorem State.retireEmpty_kept (s : State) (c : ℕ) (r : State) (h : State.retireEmpty s c = some r) : Kept s r := by
  unfold State.retireEmpty at h
  dsimp only at h
  split at h
  · cases h
  · injection h with h
    subst h
    simp [Kept]

@[simp] theorem State.retireEarly_kept (s : State) (c : ℕ) : Kept s (State.retireEarly s c) := by
  unfold State.retireEarly
  try dsimp only
  repeat' split
  all_goals first
    | (simp [Kept]; done)
    | (rename_i h; exact Kept.trans (State.retireEmpty_kept _ _ _ h) (by simp [Kept]))
    | (rename_i h; exact Kept.trans (by simp [Kept]) (Kept.trans (State.retireEmpty_kept _ _ _ h) (by simp [Kept])))

@[simp] theorem State.retire_kept (s : State) (v : W32) : Kept s (State.retire s v) := by
  simp [Kept, State.retire]

@[simp] theorem execChannelRetire_kept (_w : Who) (v : W32) (s : State) : Keeps s (execChannelRetire _w v s) := by
  unfold execChannelRetire
  (repeat' split) <;> exact .next (by simp [Kept])

@[simp] theorem execRetireCopyDone_kept (s : State) : Keeps s (execRetireCopyDone s) := by
  unfold execRetireCopyDone
  (repeat' split) <;> exact .next (by simp [Kept])

@[simp] theorem execRetireSwitch_kept (s : State) : Keeps s (execRetireSwitch s) := by
  unfold execRetireSwitch
  (repeat' split) <;> exact .next (by simp [Kept])

@[simp] theorem State.mireWrite_kept (s : State) (v : W32) : Kept s (State.mireWrite s v) := by
  simp [Kept, State.mireWrite]

@[simp] theorem execMireWindowWrite_kept (_w : Who) (v : W32) (s : State) : Keeps s (execMireWindowWrite _w v s) := by
  unfold execMireWindowWrite
  (repeat' split) <;> exact .next (by simp [Kept])

@[simp] theorem State.memClear_kept (s : State) : Kept s (State.memClear s) := by
  unfold State.memClear
  exact Kept.loop (Kept.loop ⟨rfl, rfl, rfl, rfl⟩ fun _ _ => by simp [Kept]) fun _ _ => by simp [Kept]

@[simp] theorem execMemCntClr_kept (_w : Who) (v : W32) (s : State) : Keeps s (execMemCntClr _w v s) := by
  unfold execMemCntClr
  (repeat' split) <;> exact .next (by simp [Kept])

@[simp] theorem execHbmScrub_kept (channel : ℕ) (line : ℕ) (s : State) : Keeps s (execHbmScrub channel line s) := by
  unfold execHbmScrub
  (repeat' split) <;> exact .next (by simp [Kept])

end Sys2Proof.Machine
end

