-- ==== Sys2Proof/Laws/KeepHost.lean ====
section
/-! SUPPORT. What no definition of Machine/Host.lean touches: the queue of commands, the fused values,
the module's own count and the signer fuses. -/

namespace Sys2Proof.Machine

@[simp] theorem State.writeFail_kept (s : State) (n : ℕ) (va : ℕ) (st : Byte) : Kept s (State.writeFail s n va st) := by
  simp [Kept, State.writeFail]

@[simp] theorem State.sendWrite_kept (s : State) (n : ℕ) (va : ℕ) (bs : List Byte) : Kept s (State.sendWrite s n va bs) := by
  simp [Kept, State.sendWrite]

@[simp] theorem execBar2Write_kept (port : ℕ) (addr : ℕ) (data : List Byte) (poisoned : Bool) (s : State) : Keeps s (execBar2Write port addr data poisoned s) := by
  unfold execBar2Write
  (repeat' split) <;> exact .next (by simp [Kept])

@[simp] theorem State.sendRead_kept (s : State) (n : ℕ) (p : ℕ × ℕ) : Kept s (State.sendRead s n p).1 := by
  simp [Kept, State.sendRead]

@[simp] theorem State.enterRead_kept (s : State) (n : ℕ) (r : Bar2Read) : Kept s (State.enterRead s n r).1 := by
  simp [Kept, State.enterRead]

@[simp] theorem State.enterReads_kept (s : State) (n : ℕ) : Kept s (State.enterReads s n) := by
  simp [Kept, State.enterReads]

@[simp] theorem State.bar2Answer_kept (s : State) (port : ℕ) (addr : ℕ) (code : ℕ) (data : List Byte) : Kept s (State.bar2Answer s port addr code data) := by
  simp [Kept, State.bar2Answer]

@[simp] theorem execBar2Read_kept (port : ℕ) (addr : ℕ) (len : ℕ) (s : State) : Keeps s (execBar2Read port addr len s) := by
  unfold execBar2Read
  (repeat' split) <;> exact .next (by simp [Kept])

@[simp] theorem State.expireParts_kept (s : State) (n : ℕ) : Kept s (State.expireParts s n) := by
  simp [Kept, State.expireParts]

@[simp] theorem execBar2ReadComplete_kept (port : ℕ) (s : State) : Keeps s (execBar2ReadComplete port s) := by
  unfold execBar2ReadComplete
  refine .next ?_
  dsimp only
  (repeat' split) <;> simp [Kept]

@[simp] theorem State.hostWriteOver_kept (s : State) (p : Packet) (st : Byte) : Kept s (State.hostWriteOver s p st) := by
  simp [Kept, State.hostWriteOver]

@[simp] theorem execHostFlushRead_kept (port : ℕ) (s : State) : Keeps s (execHostFlushRead port s) := by
  unfold execHostFlushRead
  refine .next ?_
  dsimp only
  (repeat' split) <;> simp [Kept]

@[simp] theorem State.reqOver_kept (s : State) (r : HostReq) (st : Byte) (data : List Byte) : Kept s (State.reqOver s r st data) := by
  unfold State.reqOver
  (repeat' split) <;> simp [Kept]

@[simp] theorem execPcieCompletion_kept (port : ℕ) (tag : ℕ) (o : PcieOutcome) (s : State) : Keeps s (execPcieCompletion port tag o s) := by
  unfold execPcieCompletion
  (repeat' split) <;> exact .next (by simp [Kept])

@[simp] theorem State.linkLost_kept (s : State) (port : ℕ) : Kept s (State.linkLost s port) := by
  simp [Kept, State.linkLost]

@[simp] theorem State.portLinkDown_kept (s : State) (port : ℕ) : Kept s (State.portLinkDown s port) := by
  simp [Kept, State.portLinkDown]

@[simp] theorem execPciePortReset_kept (port : ℕ) (s : State) : Keeps s (execPciePortReset port s) := by
  unfold execPciePortReset
  (repeat' split) <;> exact .next (by simp [Kept])

@[simp] theorem execPcieConfigWrite_kept (port : ℕ) (bme : Bool) (msix : MsixWrite) (s : State) : Keeps s (execPcieConfigWrite port bme msix s) := by
  unfold execPcieConfigWrite
  (repeat' split) <;> exact .next (by simp [Kept])

end Sys2Proof.Machine
end

