-- ==== Sys2Proof/Laws/KeepCollect.lean ====
section
/-! SUPPORT. What no definition of Machine/Collect.lean touches: the queue of commands, the fused values,
the module's own count and the signer fuses. -/

namespace Sys2Proof.Machine

@[simp] theorem State.engineSend_kept (s : State) (station : ℕ) (e : ℕ) (f : PktFields) (issue : Option W32) (via : Option ℕ) : Kept s (State.engineSend s station e f issue via) := by
  simp [Kept, State.engineSend]

@[simp] theorem State.collStale_kept (s : State) (station : ℕ) : Kept s (State.collStale s station) := by
  simp [Kept, State.collStale]

@[simp] theorem State.collDup_kept (s : State) (station : ℕ) : Kept s (State.collDup s station) := by
  simp [Kept, State.collDup]

@[simp] theorem State.collUnfit_kept (s : State) (station : ℕ) (e : ℕ) (round : ℕ) (chunk : ℕ) : Kept s (State.collUnfit s station e round chunk) := by
  simp [Kept, State.collUnfit]

@[simp] theorem State.sendGroup_kept (s : State) (station : ℕ) (n : ℕ) (via : Option ℕ) : Kept s (State.sendGroup s station n via) := by
  simp [Kept, State.sendGroup]

@[simp] theorem State.gatherTake_kept (s : State) (station : ℕ) (n : ℕ) (e : CollEntry) (q : Chunk) : Kept s (State.gatherTake s station n e q) := by
  simp [Kept, State.gatherTake]

@[simp] theorem State.gatherChunk_kept (s : State) (station : ℕ) (n : ℕ) (q : Chunk) : Kept s (State.gatherChunk s station n q) := by
  simp [Kept, State.gatherChunk]

@[simp] theorem execGatherContrib_kept (station : ℕ) (s : State) : Keeps s (execGatherContrib station s) := by
  unfold execGatherContrib
  (repeat' split) <;> exact .next (by simp [Kept])

@[simp] theorem execGroupResend_kept (station : ℕ) (entry : ℕ) (s : State) : Keeps s (execGroupResend station entry s) := by
  unfold execGroupResend
  (repeat' split) <;> exact .next (by simp [Kept])

@[simp] theorem execAcceptReceive_kept (station : ℕ) (s : State) : Keeps s (execAcceptReceive station s) := by
  unfold execAcceptReceive
  (repeat' split) <;> exact .next (by simp [Kept])

@[simp] theorem execGatherTimeoutAdvance_kept (station : ℕ) (entry : ℕ) (s : State) : Keeps s (execGatherTimeoutAdvance station entry s) := by
  unfold execGatherTimeoutAdvance
  (repeat' split) <;> exact .next (by simp [Kept])

@[simp] theorem State.sendResult_kept (s : State) (station : ℕ) (n : ℕ) (ls : List ℤ) : Kept s (State.sendResult s station n ls) := by
  simp [Kept, State.sendResult]

@[simp] theorem State.endRound_kept (s : State) (station : ℕ) (n : ℕ) (status : Byte) (chunksOut : ℕ) : Kept s (State.endRound s station n status chunksOut) := by
  simp [Kept, State.endRound]

@[simp] theorem State.finishDone_kept (s : State) (station : ℕ) (n : ℕ) : Kept s (State.finishDone s station n) := by
  unfold State.finishDone
  dsimp only
  (repeat' split) <;> simp [Kept]

@[simp] theorem State.rootTake_kept (s : State) (station : ℕ) (n : ℕ) (e : CollEntry) (q : Chunk) : Kept s (State.rootTake s station n e q) := by
  simp [Kept, State.rootTake]

@[simp] theorem State.rootChunk_kept (s : State) (station : ℕ) (n : ℕ) (q : Chunk) : Kept s (State.rootChunk s station n q) := by
  simp [Kept, State.rootChunk]

@[simp] theorem execRootGroupChunk_kept (station : ℕ) (s : State) : Keeps s (execRootGroupChunk station s) := by
  unfold execRootGroupChunk
  (repeat' split) <;> exact .next (by simp [Kept])

@[simp] theorem execRootDeadline_kept (station : ℕ) (entry : ℕ) (s : State) : Keeps s (execRootDeadline station entry s) := by
  unfold execRootDeadline
  (repeat' split) <;> exact .next (by simp [Kept])

@[simp] theorem State.landChunk_kept (s : State) (t : ℕ) (a : ℕ) (bs : List Byte) : Kept s (State.landChunk s t a bs) := by
  unfold State.landChunk
  dsimp only
  (repeat' split) <;> simp [Kept]

@[simp] theorem execCollDataReceive_kept (station : ℕ) (s : State) : Keeps s (execCollDataReceive station s) := by
  unfold execCollDataReceive
  refine .next ?_
  dsimp only
  (repeat' split) <;> simp [Kept]

@[simp] theorem State.endTile_kept (s : State) (t : ℕ) (m : BitVec 256) (w : EndWait) (gather : W32) (st : Byte) : Kept s (State.endTile s t m w gather st) := by
  simp [Kept, State.endTile]

@[simp] theorem State.passEnd_kept (s : State) (station : ℕ) (w : EndWait) (st : Byte) (tileSt : Byte) : Kept s (State.passEnd s station w st tileSt) := by
  simp [Kept, State.passEnd]

@[simp] theorem State.endSweep_kept (s : State) (station : ℕ) : Kept s (State.endSweep s station) := by
  unfold State.endSweep
  refine Kept.foldl (fun _ _ => ?_) _ _
  try dsimp only
  (repeat' split) <;> simp [Kept]

@[simp] theorem State.endArrive_kept (s : State) (station : ℕ) (p : Packet) : Kept s (State.endArrive s station p) := by
  unfold State.endArrive
  (repeat' split) <;> simp [Kept]

@[simp] theorem execEndDeliver_kept (station : ℕ) (s : State) : Keeps s (execEndDeliver station s) := by
  unfold execEndDeliver
  (repeat' split) <;> exact .next (by simp [Kept])

@[simp] theorem State.endRounds_kept (s : State) (p : ℕ) (status : Byte) : Kept s (State.endRounds s p status) := by
  simp [Kept, State.endRounds]

end Sys2Proof.Machine
end

