-- ==== Sys2Proof/Laws/KeepCircuit.lean ====
section
/-! SUPPORT. What no definition of Machine/Circuit.lean touches: the queue of commands, the fused values,
the module's own count and the signer fuses. -/

namespace Sys2Proof.Machine

@[simp] theorem State.putBurst_kept (s : State) (b : Burst) : Kept s (State.putBurst s b) := by
  simp [Kept, State.putBurst]

@[simp] theorem State.failRecord_kept (s : State) (p : ℕ) (frame : ℕ) (st : Byte) (slot : ℕ) (src : ℕ) (station : ℕ) (side : Bool) (k : ℕ) (item : ℕ) : Kept s (State.failRecord s p frame st slot src station side k item) := by
  simp [Kept, State.failRecord]

@[simp] theorem State.failItem_kept (s : State) (b : Burst) (st : Byte) (station : ℕ) (side : Bool) (item : ℕ) : Kept s (State.failItem s b st station side item) := by
  simp [Kept, State.failItem]

@[simp] theorem State.voidOne_kept (s : State) (b : Burst) (st : Byte) (x : CItem) : Kept s (State.voidOne s b st x) := by
  simp [Kept, State.voidOne]

@[simp] theorem State.voidItem_kept (s : State) (b : Burst) (items : List CItem) (x : CItem) (row : ℕ) (st : Byte) : Kept s (State.voidItem s b items x row st).1 := by
  simp [Kept, State.voidItem]

@[simp] theorem State.settle_kept (s : State) (b : Burst) : Kept s (State.settle s b).1 := by
  unfold State.settle
  refine Kept.foldl_fst (f := _) (fun x a => ?_) _ (s, b)
  split
  · split
    · exact State.voidItem_kept ..
    · exact ⟨rfl, rfl, rfl, rfl⟩
  · exact ⟨rfl, rfl, rfl, rfl⟩

@[simp] theorem State.readTileBlock_kept (s : State) (b : Burst) (x : CItem) (a : ℕ) : Kept s (State.readTileBlock s b x a).1 := by
  unfold State.readTileBlock
  dsimp only
  (repeat' split) <;> simp [Kept]

@[simp] theorem State.readMpaBlock_kept (s : State) (a : ℕ) : Kept s (State.readMpaBlock s a).1 := by
  unfold State.readMpaBlock
  (repeat' split) <;> simp [Kept]

@[simp] theorem State.readMemBlock_kept (s : State) (b : Burst) (a : ℕ) : Kept s (State.readMemBlock s b a).1 := by
  unfold State.readMemBlock
  (repeat' split) <;> simp [Kept]

@[simp] theorem State.readBlock_kept (s : State) (b : Burst) (x : CItem) (stream : List (ℕ × BitVec 256)) (j : ℕ) : Kept s (State.readBlock s b x stream j).1 := by
  unfold State.readBlock
  split
  · exact State.readTileBlock_kept _ _ _ _
  · exact State.readMemBlock_kept _ _ _
  · split <;> exact ⟨rfl, rfl, rfl, rfl⟩
  · split <;> exact ⟨rfl, rfl, rfl, rfl⟩

@[simp] theorem State.feedBlock_kept (s : State) (b : Burst) (items : List CItem) (stream : List (ℕ × BitVec 256)) (damage : List (ℕ × BitVec 256)) (n : ℕ) : Kept s (State.feedBlock s b items stream damage n).1 := by
  unfold State.feedBlock
  split
  · simp [Kept]
  · rename_i x _
    have k := State.readBlock_kept s b x stream (n - x.first)
    split
    · simp [Kept]
    · split <;>
      · rename_i h
        rw [h] at k
        first
          | exact k
          | exact k.trans (by simp [Kept])

@[simp] theorem State.feedDone_kept (s : State) (b : Burst) (items : List CItem) : Kept s (State.feedDone s b items).1 := by
  simp [Kept, State.feedDone]

@[simp] theorem execCircuitFeed_kept (station : ℕ) (k : ℕ) (row : FeedRow) (s : State) : Keeps s (execCircuitFeed station k row s) := by
  unfold execCircuitFeed
  refine .next ?_
  dsimp only
  (repeat' split) <;> simp [Kept]

@[simp] theorem execCrossbarSet_kept (s : State) : Keeps s (execCrossbarSet s) := by
  unfold execCrossbarSet
  (repeat' split) <;> exact .next (by simp [Kept])

@[simp] theorem State.retireBursts_kept (s : State) : Kept s (State.retireBursts s) := by
  simp [Kept, State.retireBursts]

@[simp] theorem execCircuitBurstSend_kept (s : State) : Keeps s (execCircuitBurstSend s) := by
  unfold execCircuitBurstSend
  refine .next ?_
  try dsimp only
  repeat' first
    | split
    | refine Kept.foldl (fun _ _ => ?_) _ _
    | refine Kept.trans ?_ (Kept.foldl (fun _ _ => ?_) _ _)
  all_goals simp [Kept]

@[simp] theorem State.freeBlocks_kept (s : State) (t : ℕ) (a : ℕ) (js : List ℕ) : Kept s (State.freeBlocks s t a js) := by
  simp [Kept, State.freeBlocks]

@[simp] theorem State.endAtTile_kept (s : State) (x : CItem) (st : Byte) (undef : List ℕ) (t : ℕ) : Kept s (State.endAtTile s x st undef t) := by
  simp [Kept, State.endAtTile]

@[simp] theorem State.commitItem_kept (s : State) (station : ℕ) (b : Burst) (x : CItem) (bs : List Byte) : Kept s (State.commitItem s station b x bs) := by
  unfold State.commitItem
  (repeat' split) <;> simp [Kept]

@[simp] theorem State.putRx_kept (s : State) (r : RxBurst) : Kept s (State.putRx s r) := by
  simp [Kept, State.putRx]

@[simp] theorem State.endItem_kept (s : State) (station : ℕ) (b : Burst) (x : CItem) (st : Byte) (bad : List ℕ) (bs : List Byte) : Kept s (State.endItem s station b x st bad bs) := by
  simp [Kept, State.endItem]

@[simp] theorem State.codewordBad_kept (s : State) (station : ℕ) (k : ℕ) (r : RxBurst) (n : ℕ) : Kept s (State.codewordBad s station k r n).1 := by
  simp [Kept, State.codewordBad]

@[simp] theorem State.codeword_kept (s : State) (station : ℕ) (k : ℕ) (items : List CItem) (r : RxBurst) (n : ℕ) (w : BitVec 266) : Kept s (State.codeword s station k items r n w).1 := by
  unfold State.codeword
  dsimp only
  (repeat' split) <;> simp [Kept]

@[simp] theorem State.landBlock_kept (s : State) (station : ℕ) (r : RxBurst) (items : List CItem) (n : ℕ) : Kept s (State.landBlock s station r items n) := by
  unfold State.landBlock
  (repeat' split) <;> simp [Kept]

@[simp] theorem State.endRow_kept (s : State) (station : ℕ) (k : ℕ) (row : ℕ) (h : ℕ) (gear : ℕ) (e : W64) (b : Burst) (lost : Bool) : Kept s (State.endRow s station k row h gear e b lost) := by
  simp [Kept, State.endRow]

@[simp] theorem State.noLight_kept (s : State) (station : ℕ) (k : ℕ) (h : ℕ) : Kept s (State.noLight s station k h) := by
  simp [Kept, State.noLight]

@[simp] theorem State.decodeRow_kept (s : State) (station : ℕ) (k : ℕ) (row : ℕ) (h : ℕ) (gear : ℕ) (e : W64) (light : Bool) (errs : List (ℕ × ℕ)) (damage : List (ℕ × ℕ × BitVec 256)) : Kept s (State.decodeRow s station k row h gear e light errs damage) := by
  unfold State.decodeRow
  dsimp only
  (repeat' split) <;> simp [Kept]

@[simp] theorem execCircuitRowDecode_kept (station : ℕ) (k : ℕ) (row : ℕ) (light : Bool) (errs : RowErrors) (s : State) : Keeps s (execCircuitRowDecode station k row light errs s) := by
  unfold execCircuitRowDecode
  (repeat' split) <;> exact .next (by simp [Kept])

@[simp] theorem State.checkEntry_kept (s : State) (station : ℕ) (idx : ℕ) (e : W64) : Kept s (State.checkEntry s station idx e) := by
  simp [Kept, State.checkEntry]

@[simp] theorem State.checkCircuits_kept (s : State) (p : Option ℕ) : Kept s (State.checkCircuits s p) := by
  simp [Kept, State.checkCircuits]

@[simp] theorem execTwillActivate_kept (p : ℕ) (s : State) : Keeps s (execTwillActivate p s) := by
  unfold execTwillActivate
  (repeat' split) <;> exact .next (by simp [Kept])

@[simp] theorem State.endHeld_kept (s : State) (p : ℕ) (st : Byte) : Kept s (State.endHeld s p st) := by
  simp [Kept, State.endHeld]

@[simp] theorem State.endBurstAt_kept (s : State) (b : Burst) (d : ℕ) (st : Byte) : Kept s (State.endBurstAt s b d st).1 := by
  unfold State.endBurstAt
  (repeat' split) <;> simp [Kept]

@[simp] theorem State.endCircuits_kept (s : State) (p : ℕ) (st : Byte) : Kept s (State.endCircuits s p st) := by
  simp [Kept, State.endCircuits]

@[simp] theorem State.takeSpare_kept (s : State) (station : ℕ) (dir : ℕ) (wg : ℕ) (line : ℕ) : Kept s (State.takeSpare s station dir wg line) := by
  simp [Kept, State.takeSpare]

@[simp] theorem State.channelOut_kept (s : State) (src : ℕ) (c : ℕ) : Kept s (State.channelOut s src c) := by
  simp [Kept, State.channelOut]

@[simp] theorem State.substitute_kept (s : State) (key : ℕ) : Kept s (State.substitute s key) := by
  simp [Kept, State.substitute]

@[simp] theorem execRingSubstitute_kept (s : State) : Keeps s (execRingSubstitute s) := by
  unfold execRingSubstitute
  (repeat' split) <;> exact .next (by simp [Kept])

@[simp] theorem State.optStnClear_kept (s : State) (station : ℕ) : Kept s (State.optStnClear s station) := by
  simp [Kept, State.optStnClear]

@[simp] theorem execOptStnCntClr_kept (_w : Who) (station : ℕ) (v : W32) (s : State) : Keeps s (execOptStnCntClr _w station v s) := by
  unfold execOptStnCntClr
  (repeat' split) <;> exact .next (by simp [Kept])

@[simp] theorem State.twlClear_kept (s : State) : Kept s (State.twlClear s) := by
  simp [Kept, State.twlClear]

@[simp] theorem execTwlCntClr_kept (_w : Who) (v : W32) (s : State) : Keeps s (execTwlCntClr _w v s) := by
  unfold execTwlCntClr
  (repeat' split) <;> exact .next (by simp [Kept])

@[simp] theorem State.twlRpWrite_kept (s : State) (p : ℕ) (v : W32) : Kept s (State.twlRpWrite s p v) := by
  simp [Kept, State.twlRpWrite]

@[simp] theorem execTwlRingRpWrite_kept (_w : Who) (p : ℕ) (v : W32) (s : State) : Keeps s (execTwlRingRpWrite _w p v s) := by
  unfold execTwlRingRpWrite
  (repeat' split) <;> exact .next (by simp [Kept])

end Sys2Proof.Machine
end

