-- ==== Sys2Proof/Laws/KeepCheckpoint.lean ====
section
/-! SUPPORT. What no definition of Machine/Checkpoint.lean touches: the queue of commands, the fused values,
the module's own count and the signer fuses. -/

namespace Sys2Proof.Machine

@[simp] theorem State.readLine_kept (s : State) (a : ℕ) (n : ℕ) : Kept s (State.readLine s a n).1 := by
  unfold State.readLine
  dsimp only
  (repeat' split) <;> simp [Kept]

@[simp] theorem State.readLines_kept (s : State) (a : ℕ) (n : ℕ) : Kept s (State.readLines s a n).1 := by
  simp [Kept, State.readLines]

@[simp] theorem State.areaRead_kept (s : State) (p : ℕ) (n : ℕ) (host : List Byte) : Kept s (State.areaRead s p n host).1 := by
  unfold State.areaRead
  (repeat' split) <;> simp [Kept]

@[simp] theorem State.beginRestore_kept (s : State) (p : ℕ) : Kept s (State.beginRestore s p) := by
  unfold State.beginRestore
  (repeat' split) <;> simp [Kept]

@[simp] theorem State.ckptGo_kept (s : State) (w : Who) (p : ℕ) (v : W32) : Kept s (State.ckptGo s w p v).1 := by
  simp [Kept, State.ckptGo]

@[simp] theorem State.ckptWrite_kept (s : State) (w : Who) (p : ℕ) (v : W32) : Kept s (State.ckptWrite s w p v) := by
  unfold State.ckptWrite
  dsimp only
  (repeat' split) <;> simp [Kept]

@[simp] theorem execCkptSave_kept (w : Who) (p : ℕ) (v : W32) (s : State) : Keeps s (execCkptSave w p v s) := by
  unfold execCkptSave
  (repeat' split) <;> exact .next (by simp [Kept])

@[simp] theorem execCkptRestore_kept (w : Who) (p : ℕ) (v : W32) (s : State) : Keeps s (execCkptRestore w p v s) := by
  unfold execCkptRestore
  (repeat' split) <;> exact .next (by simp [Kept])

@[simp] theorem execSaveCleanTest_kept (p : ℕ) (s : State) : Keeps s (execSaveCleanTest p s) := by
  unfold execSaveCleanTest
  (repeat' split) <;> exact .next (by simp [Kept])

@[simp] theorem execSaveStart_kept (p : ℕ) (s : State) : Keeps s (execSaveStart p s) := by
  unfold execSaveStart
  (repeat' split) <;> exact .next (by simp [Kept])

@[simp] theorem State.writeArea_kept (s : State) (p : ℕ) (host : Byte) : Kept s (State.writeArea s p host).1 := by
  unfold State.writeArea
  (repeat' split) <;> simp [Kept]

@[simp] theorem execSaveDone_kept (p : ℕ) (host : BitVec 8) (s : State) : Keeps s (execSaveDone p host s) := by
  unfold execSaveDone
  (repeat' split) <;> exact .next (by simp [Kept])

@[simp] theorem State.restore_kept (s : State) (p : ℕ) (a : SaveArea) : Kept s (State.restore s p a) := by
  simp [Kept, State.restore]

@[simp] theorem State.resumeHeld_kept (s : State) (p : ℕ) (host : List Byte) : Kept s (s.resumeHeld p host) := by
  unfold State.resumeHeld
  dsimp only
  (repeat' split) <;> simp [Kept]

@[simp] theorem execRestoreResume_kept (p : Resuming) (s : State) : Keeps s (execRestoreResume p s) := by
  unfold execRestoreResume
  (repeat' split) <;> exact .next (by simp [Kept])

@[simp] theorem State.collClear_kept (s : State) : Kept s (State.collClear s) := by
  simp [Kept, State.collClear]

@[simp] theorem execColCntClr_kept (_w : Who) (v : W32) (s : State) : Keeps s (execColCntClr _w v s) := by
  unfold execColCntClr
  (repeat' split) <;> exact .next (by simp [Kept])

end Sys2Proof.Machine
end

