-- ==== Sys2Proof/Laws/KeepSafe.lean ====
section
/-! SUPPORT. What no definition of Machine/Safe.lean touches: the queue of commands, the fused values,
the module's own count and the signer fuses. -/

namespace Sys2Proof.Machine

@[simp] theorem State.endHall_kept (s : State) (p : ℕ) (st : Byte) : Kept s (State.endHall s p st) := by
  simp [Kept, State.endHall]

@[simp] theorem State.enterNow_kept (s : State) (p : ℕ) (trigger : ℕ) : Kept s (State.enterNow s p trigger) := by
  simp [Kept, State.enterNow]

@[simp] theorem State.triggerRec_kept (s : State) (p : ℕ) (trigger : ℕ) : Kept s (State.triggerRec s p trigger) := by
  simp [Kept, State.triggerRec]

@[simp] theorem State.enterSafe_kept (s : State) (p : ℕ) (trigger : ℕ) : Kept s (State.enterSafe s p trigger) := by
  simp [Kept, State.enterSafe]

@[simp] theorem State.lasersOff_kept (s : State) : Kept s (State.lasersOff s) := by
  unfold State.lasersOff
  exact Kept.loop ⟨rfl, rfl, rfl, rfl⟩ fun _ _ => by simp [Kept]

@[simp] theorem State.darken_kept (s : State) : Kept s (State.darken s) := by
  unfold State.darken
  exact Kept.loop (State.lasersOff_kept s) fun _ _ => by simp [Kept]

@[simp] theorem State.emptyHall_kept (s : State) : Kept s (State.emptyHall s) := by
  simp [Kept, State.emptyHall]

@[simp] theorem State.stopClocks_kept (s : State) : Kept s (State.stopClocks s) := by
  simp [Kept, State.stopClocks]

@[simp] theorem State.enterShared_kept (s : State) (trigger : ℕ) : Kept s (State.enterShared s trigger) := by
  simp [Kept, State.enterShared]

@[simp] theorem State.trigger_kept (s : State) (ps : List ℕ) (n : ℕ) : Kept s (State.trigger s ps n) := by
  simp [Kept, State.trigger]

@[simp] theorem State.triggerAll_kept (s : State) (n : ℕ) : Kept s (State.triggerAll s n) := by
  simp [Kept, State.triggerAll]

@[simp] theorem execInputVoltageFault_kept (s : State) : Keeps s (execInputVoltageFault s) := by
  unfold execInputVoltageFault
  (repeat' split) <;> exact .next (by simp [Kept])

@[simp] theorem execCoolantFlowLoss_kept (s : State) : Keeps s (execCoolantFlowLoss s) := by
  unfold execCoolantFlowLoss
  (repeat' split) <;> exact .next (by simp [Kept])

@[simp] theorem execLeakDetect_kept (s : State) : Keeps s (execLeakDetect s) := by
  unfold execLeakDetect
  (repeat' split) <;> exact .next (by simp [Kept])

@[simp] theorem execMgmtCoreDisagree_kept (o : CoreOutput) (s : State) : Keeps s (execMgmtCoreDisagree o s) := by
  unfold execMgmtCoreDisagree
  (repeat' split) <;> exact .next (by simp [Kept])

@[simp] theorem State.timeLostFor_kept (s : State) (p : ℕ) : Kept s (State.timeLostFor s p) := by
  simp [Kept, State.timeLostFor]

@[simp] theorem execTwillStopTime_kept (p : ℕ) (s : State) : Keeps s (execTwillStopTime p s) := by
  unfold execTwillStopTime
  (repeat' split) <;> exact .next (by simp [Kept])

@[simp] theorem State.powerFail_kept (s : State) : Kept s (State.powerFail s) := by
  simp [Kept, State.powerFail]

@[simp] theorem execPowerFailFlush_kept (s : State) : Keeps s (execPowerFailFlush s) := by
  unfold execPowerFailFlush
  (repeat' split) <;> exact .next (by simp [Kept])

@[simp] theorem State.beginExit_kept (s : State) : Kept s (State.beginExit s) := by
  simp [Kept, State.beginExit]

@[simp] theorem State.safeCtrl_kept (s : State) (w : Who) (v : W32) (inputsOk : Bool) : Kept s (State.safeCtrl s w v inputsOk) := by
  simp [Kept, State.safeCtrl]

@[simp] theorem execSafeExit_kept (w : Who) (v : W32) (inputsOk : Bool) (s : State) : Keeps s (execSafeExit w v inputsOk s) := by
  unfold execSafeExit
  (repeat' split) <;> exact .next (by simp [Kept])

@[simp] theorem execSafeExitDone_kept (s : State) : Keeps s (execSafeExitDone s) := by
  unfold execSafeExitDone
  (repeat' split) <;> exact .next (by simp [Kept])

end Sys2Proof.Machine
end

