-- ==== Sys2Proof/Laws/KeepTime.lean ====
section
/-! SUPPORT. What no definition of Machine/Time.lean touches: the queue of commands, the fused values,
the module's own count and the signer fuses. -/

namespace Sys2Proof.Machine

@[simp] theorem State.recTime_kept (s : State) (code : ℕ) (data : List Byte) : Kept s (State.recTime s code data) := by
  simp [Kept, State.recTime]

@[simp] theorem State.setTime_kept (s : State) (t : TimeDom) : Kept s (State.setTime s t) := by
  simp [Kept, State.setTime]

@[simp] theorem State.settleTime_kept (s : State) : Kept s (State.settleTime s) := by
  simp [Kept, State.settleTime]

@[simp] theorem State.track_kept (s : State) (o : ℤ) : Kept s (State.track s o) := by
  simp [Kept, State.track]

@[simp] theorem State.reacquireNow_kept (s : State) (epoch : BitVec 16) (o : ℤ) : Kept s (State.reacquireNow s epoch o) := by
  simp [Kept, State.reacquireNow]

@[simp] theorem State.measured_kept (s : State) (epoch : BitVec 16) (o : ℤ) : Kept s (State.measured s epoch o) := by
  simp [Kept, State.measured]

@[simp] theorem execRefPllLock_kept (s : State) : Keeps s (execRefPllLock s) := by
  unfold execRefPllLock
  (repeat' split) <;> exact .next (by simp [Kept])

@[simp] theorem execHtRefLockLoss_kept (s : State) : Keeps s (execHtRefLockLoss s) := by
  unfold execHtRefLockLoss
  (repeat' split) <;> exact .next (by simp [Kept])

@[simp] theorem execTimeWordReceive_kept (word : BitVec 128) (timely : Bool) (s : State) : Keeps s (execTimeWordReceive word timely s) := by
  unfold execTimeWordReceive
  (repeat' split) <;> exact .next (by simp [Kept])

@[simp] theorem execSyncPulse_kept (intervalPs : ℤ) (arrivalPs : ℤ) (s : State) : Keeps s (execSyncPulse intervalPs arrivalPs s) := by
  unfold execSyncPulse
  refine .next ?_
  dsimp only
  (repeat' split) <;> simp [Kept]

@[simp] theorem execHoldoverEnter_kept (s : State) : Keeps s (execHoldoverEnter s) := by
  unfold execHoldoverEnter
  (repeat' split) <;> exact .next (by simp [Kept])

@[simp] theorem execSourceReturn_kept (s : State) : Keeps s (execSourceReturn s) := by
  unfold execSourceReturn
  refine .next ?_
  dsimp only
  (repeat' split) <;> simp [Kept]

@[simp] theorem State.reacquireCmd_kept (s : State) (v : W32) : Kept s (State.reacquireCmd s v) := by
  simp [Kept, State.reacquireCmd]

@[simp] theorem execReacquire_kept (_w : Who) (v : W32) (s : State) : Keeps s (execReacquire _w v s) := by
  unfold execReacquire
  (repeat' split) <;> exact .next (by simp [Kept])

@[simp] theorem State.timClear_kept (s : State) : Kept s (State.timClear s) := by
  simp [Kept, State.timClear]

@[simp] theorem execTimCntClr_kept (_w : Who) (v : W32) (s : State) : Keeps s (execTimCntClr _w v s) := by
  unfold execTimCntClr
  (repeat' split) <;> exact .next (by simp [Kept])

@[simp] theorem State.setTport_kept (s : State) (n : ℕ) (x : TimePort) : Kept s (State.setTport s n x) := by
  simp [Kept, State.setTport]

@[simp] theorem State.setMode_kept (s : State) (m : ℕ) : Kept s (State.setMode s m) := by
  simp [Kept, State.setMode]

@[simp] theorem execTimeModeWrite_kept (_w : Who) (v : W32) (s : State) : Keeps s (execTimeModeWrite _w v s) := by
  unfold execTimeModeWrite
  (repeat' split) <;> exact .next (by simp [Kept])

@[simp] theorem State.sendTime_kept (s : State) (port : ℕ) (dst : W32) (txid : BitVec 24) (payload : List Byte) : Kept s (State.sendTime s port dst txid payload) := by
  simp [Kept, State.sendTime]

@[simp] theorem execTimeRequestSend_kept (n : ℕ) (s : State) : Keeps s (execTimeRequestSend n s) := by
  unfold execTimeRequestSend
  (repeat' split) <;> exact .next (by simp [Kept])

@[simp] theorem State.reply_kept (s : State) (n : ℕ) (quality : ℕ) (epoch : BitVec 16) (rtt : ℚ) (ofs : ℚ) : Kept s (State.reply s n quality epoch rtt ofs) := by
  simp [Kept, State.reply]

@[simp] theorem execTimeReplyReceive_kept (port : ℕ) (p : Packet) (t4 : ℕ) (t4frac : BitVec 16) (s : State) : Keeps s (execTimeReplyReceive port p t4 t4frac s) := by
  unfold execTimeReplyReceive
  (repeat' split) <;> exact .next (by simp [Kept])

@[simp] theorem execTimePortInvalid_kept (n : ℕ) (s : State) : Keeps s (execTimePortInvalid n s) := by
  unfold execTimePortInvalid
  (repeat' split) <;> exact .next (by simp [Kept])

@[simp] theorem execTimeEstimateCombine_kept (s : State) : Keeps s (execTimeEstimateCombine s) := by
  unfold execTimeEstimateCombine
  refine .next ?_
  dsimp only
  (repeat' split) <;> simp [Kept]

@[simp] theorem execTimeRequestServe_kept (port : ℕ) (p : Packet) (s : State) : Keeps s (execTimeRequestServe port p s) := by
  unfold execTimeRequestServe
  (repeat' split) <;> exact .next (by simp [Kept])

@[simp] theorem execTimePortCfgApply_kept (n : ℕ) (s : State) : Keeps s (execTimePortCfgApply n s) := by
  unfold execTimePortCfgApply
  (repeat' split) <;> exact .next (by simp [Kept])

@[simp] theorem execStationTimeWord_kept (station : ℕ) (checkOk : Bool) (w : StnWord) (s : State) : Keeps s (execStationTimeWord station checkOk w s) := by
  unfold execStationTimeWord
  (repeat' split) <;> exact .next (by simp [Kept])

@[simp] theorem execTickMissing_kept (station : ℕ) (s : State) : Keeps s (execTickMissing station s) := by
  unfold execTickMissing
  (repeat' split) <;> exact .next (by simp [Kept])

@[simp] theorem execStationTimeRestore_kept (station : ℕ) (s : State) : Keeps s (execStationTimeRestore station s) := by
  unfold execStationTimeRestore
  (repeat' split) <;> exact .next (by simp [Kept])

@[simp] theorem execStationDelayMeasure_kept (station : ℕ) (roundTripPs : ℕ) (s : State) : Keeps s (execStationDelayMeasure station roundTripPs s) := by
  unfold execStationDelayMeasure
  (repeat' split) <;> exact .next (by simp [Kept])

end Sys2Proof.Machine
end

