-- ==== Sys2Proof/Laws/KeepPower.lean ====
section
/-! SUPPORT. What no definition of Machine/Power.lean touches: the queue of commands, the fused values,
the module's own count and the signer fuses. -/

namespace Sys2Proof.Machine

@[simp] theorem State.putThermal_kept (s : State) (k : ℕ) (r : Region) : Kept s (State.putThermal s k r) := by
  simp [Kept, State.putThermal]

@[simp] theorem State.noteStepDown_kept (s : State) (k : ℕ) (r : Region) : Kept s (State.noteStepDown s k r) := by
  simp [Kept, State.noteStepDown]

@[simp] theorem State.chooseRegion_kept (s : State) (k : ℕ) : Kept s (State.chooseRegion s k) := by
  simp [Kept, State.chooseRegion]

@[simp] theorem State.setNextGears_kept (s : State) (ps : List ℕ) (c : GearChoice) : Kept s (State.setNextGears s ps c) :=
  Kept.foldl (fun _ _ => by simp [Kept]) _ _

@[simp] theorem State.noteOverCommit_kept (s : State) (deficit : Option ℕ) : Kept s (State.noteOverCommit s deficit) := by
  unfold State.noteOverCommit
  dsimp only
  (repeat' split) <;> simp [Kept]

@[simp] theorem State.setAllotments_kept (s : State) (ds : List ℕ) (c : GearChoice) : Kept s (State.setAllotments s ds c) :=
  Kept.foldl (fun _ _ => Kept.loop (by simp [Kept]) fun _ _ => by simp [Kept]) _ _

@[simp] theorem execGearChoice_kept (s : State) : Keeps s (execGearChoice s) := by
  unfold execGearChoice
  refine .next ?_
  dsimp only
  split
  · exact ⟨rfl, rfl, rfl, rfl⟩
  · refine Kept.trans ?_ (State.setAllotments_kept _ _ _)
    refine Kept.trans ?_ (State.noteOverCommit_kept _ _)
    refine Kept.trans ?_ (State.setNextGears_kept _ _ _)
    exact Kept.foldl State.chooseRegion_kept allRegions s

@[simp] theorem execGearHoldEnd_kept (s : State) : Keeps s (execGearHoldEnd s) := by
  unfold execGearHoldEnd
  (repeat' split) <;> exact .next (by simp [Kept])

@[simp] theorem State.gearFrame_kept (s : State) (p : ℕ) : Kept s (State.gearFrame s p) := by
  unfold State.gearFrame
  (repeat' split) <;> simp [Kept]

@[simp] theorem State.powerBoundary_kept (s : State) : Kept s (State.powerBoundary s) := by
  simp [Kept, State.powerBoundary]

@[simp] theorem State.commitGears_kept (s : State) : Kept s (State.commitGears s) := by
  unfold State.commitGears
  exact Kept.loop ⟨rfl, rfl, rfl, rfl⟩ fun _ _ => by simp [Kept]

@[simp] theorem execTokenGrant_kept (s : State) : Keeps s (execTokenGrant s) := by
  unfold execTokenGrant
  (repeat' split) <;> exact .next (by simp [Kept])

@[simp] theorem execPowerCorrection_kept (region : ℕ) (measured : ℚ) (s : State) : Keeps s (execPowerCorrection region measured s) := by
  unfold execPowerCorrection
  (repeat' split) <;> exact .next (by simp [Kept])

@[simp] theorem State.setTemps_kept (s : State) (k : ℕ) (r : Region) : Kept s (State.setTemps s k r) := by
  simp [Kept, State.setTemps]

@[simp] theorem State.diodeRead_kept (s : State) (k : ℕ) (reading : ℚ) : Kept s (State.diodeRead s k reading) := by
  simp [Kept, State.diodeRead]

@[simp] theorem execAdcSample_kept (die : ℕ) (channel : ℕ) (reading : ℚ) (s : State) : Keeps s (execAdcSample die channel reading s) := by
  unfold execAdcSample
  (repeat' split) <;> exact .next (by simp [Kept])

@[simp] theorem execPredictorUpdate_kept (region : ℕ) (current : ℚ) (s : State) : Keeps s (execPredictorUpdate region current s) := by
  unfold execPredictorUpdate
  (repeat' split) <;> exact .next (by simp [Kept])

@[simp] theorem execConservativeEnd_kept (region : ℕ) (s : State) : Keeps s (execConservativeEnd region s) := by
  unfold execConservativeEnd
  refine .next ?_
  dsimp only
  (repeat' split) <;> simp [Kept]

@[simp] theorem execCompatChange_kept (s : State) : Keeps s (execCompatChange s) := by
  unfold execCompatChange
  (repeat' split) <;> exact .next (by simp [Kept])

@[simp] theorem execBaseDiodeRead_kept (station : ℕ) (reading : ℚ) (s : State) : Keeps s (execBaseDiodeRead station reading s) := by
  unfold execBaseDiodeRead
  (repeat' split) <;> exact .next (by simp [Kept])

@[simp] theorem State.shutRegion_kept (s : State) (k : ℕ) (comparator : Bool) : Kept s (State.shutRegion s k comparator) := by
  simp [Kept, State.shutRegion]

@[simp] theorem State.shutBase_kept (s : State) (n : ℕ) (comparator : Bool) : Kept s (State.shutBase s n comparator) := by
  simp [Kept, State.shutBase]

@[simp] theorem execThermalShutdown_kept (place : ThermalPlace) (comparator : Bool) (s : State) : Keeps s (execThermalShutdown place comparator s) := by
  unfold execThermalShutdown
  (repeat' split) <;> exact .next (by simp [Kept])

@[simp] theorem State.sdClear_kept (s : State) (k : ℕ) (v : W32) : Kept s (State.sdClear s k v) := by
  simp [Kept, State.sdClear]

@[simp] theorem execSdClr_kept (_w : Who) (region : ℕ) (v : W32) (s : State) : Keeps s (execSdClr _w region v s) := by
  unfold execSdClr
  (repeat' split) <;> exact .next (by simp [Kept])

@[simp] theorem execInputLimit_kept (reading : InputReading) (s : State) : Keeps s (execInputLimit reading s) := by
  unfold execInputLimit
  (repeat' split) <;> exact .next (by simp [Kept])

@[simp] theorem State.parkCmd_kept (s : State) (w : Who) (p : ℕ) : Kept s (State.parkCmd s w p) := by
  simp [Kept, State.parkCmd]

@[simp] theorem State.retainRegion_kept (s : State) (k : ℕ) : Kept s (State.retainRegion s k) := by
  simp [Kept, State.retainRegion]

@[simp] theorem execParkEnter_kept (p : ℕ) (s : State) : Keeps s (execParkEnter p s) := by
  unfold execParkEnter
  (repeat' split) <;> exact .next (by simp [Kept])

@[simp] theorem State.unparkCmd_kept (s : State) (w : Who) (p : ℕ) : Kept s (State.unparkCmd s w p) := by
  simp [Kept, State.unparkCmd]

@[simp] theorem State.parkWrite_kept (s : State) (w : Who) (p : ℕ) (v : W32) : Kept s (State.parkWrite s w p v) := by
  simp [Kept, State.parkWrite]

@[simp] theorem execPark_kept (w : Who) (p : ℕ) (v : W32) (s : State) : Keeps s (execPark w p v s) := by
  unfold execPark
  (repeat' split) <;> exact .next (by simp [Kept])

@[simp] theorem execUnpark_kept (w : Who) (p : ℕ) (v : W32) (s : State) : Keeps s (execUnpark w p v s) := by
  unfold execUnpark
  (repeat' split) <;> exact .next (by simp [Kept])

@[simp] theorem State.wakeAll_kept (s : State) : Kept s (State.wakeAll s) := by
  simp [Kept, State.wakeAll]

@[simp] theorem execWakeRegionUp_kept (region : ℕ) (s : State) : Keeps s (execWakeRegionUp region s) := by
  unfold execWakeRegionUp
  (repeat' split) <;> exact .next (by simp [Kept])

@[simp] theorem execWakeRestart_kept (p : ℕ) (s : State) : Keeps s (execWakeRestart p s) := by
  unfold execWakeRestart
  (repeat' split) <;> exact .next (by simp [Kept])

end Sys2Proof.Machine
end

