-- ==== Sys2Proof/Laws/KeepClocks.lean ====
section
/-! SUPPORT. What no definition of Machine/Clocks.lean touches: the queue of commands, the fused values,
the module's own count and the signer fuses. -/

namespace Sys2Proof.Machine

@[simp] theorem execClockStepStop_kept (s : State) : Keeps s (execClockStepStop s) := by
  unfold execClockStepStop
  (repeat' split) <;> exact .next (by simp [Kept])

@[simp] theorem execClockStepFail_kept (region : ℕ) (backLocked : Bool) (s : State) : Keeps s (execClockStepFail region backLocked s) := by
  unfold execClockStepFail
  (repeat' split) <;> exact .next (by simp [Kept])

@[simp] theorem execClockRestart_kept (region : ℕ) (s : State) : Keeps s (execClockRestart region s) := by
  unfold execClockRestart
  refine .next ?_
  dsimp only
  (repeat' split) <;> simp [Kept]

@[simp] theorem State.tickWindow_kept (s : State) (station : ℕ) (ps : ℕ) (dutyMin : ℕ) (dutyMax : ℕ) : Kept s (State.tickWindow s station ps dutyMin dutyMax) := by
  simp [Kept, State.tickWindow]

@[simp] theorem State.regionWindow_kept (s : State) (region : ℕ) (jitterPs : ℕ) (dutyMin : ℕ) (dutyMax : ℕ) : Kept s (State.regionWindow s region jitterPs dutyMin dutyMax) := by
  simp [Kept, State.regionWindow]

@[simp] theorem execClockMonitorWindow_kept (place : ClockPlace) (ps : ℕ) (dutyMin : ℕ) (dutyMax : ℕ) (s : State) : Keeps s (execClockMonitorWindow place ps dutyMin dutyMax s) := by
  unfold execClockMonitorWindow
  (repeat' split) <;> exact .next (by simp [Kept])

@[simp] theorem execFallbackSwitch_kept (region : ℕ) (shortPeriod : Bool) (s : State) : Keeps s (execFallbackSwitch region shortPeriod s) := by
  unfold execFallbackSwitch
  (repeat' split) <;> exact .next (by simp [Kept])

end Sys2Proof.Machine
end

