-- ==== Sys2Proof/Laws/KeepOptics.lean ====
section
/-! SUPPORT. What no definition of Machine/Optics.lean touches: the queue of commands, the fused values,
the module's own count and the signer fuses. -/

namespace Sys2Proof.Machine

@[simp] theorem State.heatField_kept (s : State) (f : ℕ) : Kept s (State.heatField s f) := by
  simp [Kept, State.heatField]

@[simp] theorem execHeaterUpdate_kept (station : ℕ) (errs : List (ℕ × ℤ)) (s : State) : Keeps s (execHeaterUpdate station errs s) := by
  unfold execHeaterUpdate
  refine .next ?_
  dsimp only
  split
  · exact ⟨rfl, rfl, rfl, rfl⟩
  · exact Kept.foldl (fun _ _ => by simp [Kept]) (stationRings station) s

@[simp] theorem execSplitterCheck_kept (station : ℕ) (k : ℕ) (diff : ℤ) (s : State) : Keeps s (execSplitterCheck station k diff s) := by
  unfold execSplitterCheck
  (repeat' split) <;> exact .next (by simp [Kept])

@[simp] theorem execRingFail_kept (ring : ℕ) (cause : ℕ) (s : State) : Keeps s (execRingFail ring cause s) := by
  unfold execRingFail
  (repeat' split) <;> exact .next (by simp [Kept])

@[simp] theorem execChannelSweep_kept (reads : List SweepRead) (s : State) : Keeps s (execChannelSweep reads s) := by
  unfold execChannelSweep
  (repeat' split) <;> exact .next (by simp [Kept])

@[simp] theorem State.blendTrims_kept (s : State) : Kept s (State.blendTrims s) := by
  unfold State.blendTrims
  split
  · exact ⟨rfl, rfl, rfl, rfl⟩
  · exact Kept.loop ⟨rfl, rfl, rfl, rfl⟩ fun _ _ => by simp [Kept]

@[simp] theorem State.deepCmd_kept (s : State) (v : W32) : Kept s (State.deepCmd s v) := by
  simp [Kept, State.deepCmd]

@[simp] theorem execDeepCalRequest_kept (_w : Who) (v : W32) (s : State) : Keeps s (execDeepCalRequest _w v s) := by
  unfold execDeepCalRequest
  (repeat' split) <;> exact .next (by simp [Kept])

@[simp] theorem execDeepCalStart_kept (s : State) : Keeps s (execDeepCalStart s) := by
  unfold execDeepCalStart
  (repeat' split) <;> exact .next (by simp [Kept])

@[simp] theorem execDeepCalApply_kept (rings : List (ℕ × DeepRead)) (s : State) : Keeps s (execDeepCalApply rings s) := by
  unfold execDeepCalApply
  (repeat' split) <;> exact .next (by simp [Kept])

@[simp] theorem State.firstLight_kept (s : State) (flights : List (ℕ × ℕ)) (delays : List ℕ) : Kept s (State.firstLight s flights delays) := by
  simp [Kept, State.firstLight]

@[simp] theorem State.substituteAll_kept (s : State) : Kept s (State.substituteAll s) := by
  simp [Kept, State.substituteAll]

@[simp] theorem State.hallBack_kept (s : State) : Kept s (State.hallBack s) := by
  unfold State.hallBack
  exact Kept.loop ⟨rfl, rfl, rfl, rfl⟩ fun _ _ => by simp [Kept]

@[simp] theorem execDeepCalEnd_kept (flights : List (ℕ × ℕ)) (delays : List ℕ) (s : State) : Keeps s (execDeepCalEnd flights delays s) := by
  unfold execDeepCalEnd
  (repeat' split) <;> exact .next (by simp [Kept])

@[simp] theorem State.darkIndex_kept (s : State) (l : ℕ) : Kept s (State.darkIndex s l) := by
  simp [Kept, State.darkIndex]

@[simp] theorem State.darkenAskers_kept (s : State) : Kept s (State.darkenAskers s) := by
  simp [Kept, State.darkenAskers]

@[simp] theorem State.askSpare_kept (s : State) (l : ℕ) : Kept s (State.askSpare s l) := by
  simp [Kept, State.askSpare]

@[simp] theorem State.assignSpare_kept (s : State) (l : ℕ) (sp : ℕ) : Kept s (State.assignSpare s l sp) := by
  unfold State.assignSpare
  (repeat' split) <;> simp [Kept]

@[simp] theorem State.releaseSpare_kept (s : State) (l : ℕ) : Kept s (State.releaseSpare s l) := by
  unfold State.releaseSpare
  (repeat' split) <;> simp [Kept]

@[simp] theorem State.fadeActions_kept (s : State) (l : ℕ) : Kept s (State.fadeActions s l) := by
  simp [Kept, State.fadeActions]

@[simp] theorem execFadeUpdate_kept (laser : ℕ) (power : ℕ) (s : State) : Keeps s (execFadeUpdate laser power s) := by
  unfold execFadeUpdate
  (repeat' split) <;> exact .next (by simp [Kept])

@[simp] theorem State.takeIndex_kept (s : State) (l : ℕ) (sp : ℕ) : Kept s (State.takeIndex s l sp) := by
  simp [Kept, State.takeIndex]

@[simp] theorem execSpareLock_kept (laser : ℕ) (s : State) : Keeps s (execSpareLock laser s) := by
  unfold execSpareLock
  refine .next ?_
  dsimp only
  (repeat' split) <;> simp [Kept]

@[simp] theorem State.scaleGains_kept (s : State) (k : ℕ) (old : Laser) (new : Laser) : Kept s (State.scaleGains s k old new) := by
  simp [Kept, State.scaleGains]

@[simp] theorem State.noteSwitch_kept (s : State) (k : ℕ) : Kept s (State.noteSwitch s k) := by
  simp [Kept, State.noteSwitch]

@[simp] theorem State.switchOver_kept (s : State) (k : ℕ) (l : ℕ) (sp : ℕ) : Kept s (State.switchOver s k l sp) := by
  simp [Kept, State.switchOver]

@[simp] theorem execLaserSwitchover_kept (k : ℕ) (s : State) : Keeps s (execLaserSwitchover k s) := by
  unfold execLaserSwitchover
  (repeat' split) <;> exact .next (by simp [Kept])

@[simp] theorem State.switchCmd_kept (s : State) (v : W32) : Kept s (State.switchCmd s v) := by
  simp [Kept, State.switchCmd]

@[simp] theorem execSwitchRequest_kept (_w : Who) (v : W32) (s : State) : Keeps s (execSwitchRequest _w v s) := by
  unfold execSwitchRequest
  (repeat' split) <;> exact .next (by simp [Kept])

@[simp] theorem State.opticsBoundary_kept (s : State) : Kept s (State.opticsBoundary s) := by
  simp [Kept, State.opticsBoundary]

@[simp] theorem execFrameBoundary_kept (s : State) : Keeps s (execFrameBoundary s) := by
  unfold execFrameBoundary
  (repeat' split) <;> exact .next (by simp [Kept])

end Sys2Proof.Machine
end

