-- ==== Sys2Proof/Laws/KeepLinks.lean ====
section
/-! SUPPORT. What no definition of Machine/Links.lean touches: the queue of commands, the fused values,
the module's own count and the signer fuses. -/

namespace Sys2Proof.Machine

@[simp] theorem State.setBond_kept (s : State) (r : ℕ) (b : BondPort) : Kept s (State.setBond s r b) := by
  simp [Kept, State.setBond]

@[simp] theorem State.declareLane_kept (s : State) (r : ℕ) (dir : ℕ) (lane : ℕ) : Kept s (State.declareLane s r dir lane) := by
  simp [Kept, State.declareLane]

@[simp] theorem execLaneCheck_kept (region : ℕ) (upErr : BitVec 528) (dnErr : BitVec 528) (s : State) : Keeps s (execLaneCheck region upErr dnErr s) := by
  unfold execLaneCheck
  (repeat' split) <;> exact .next (by simp [Kept])

@[simp] theorem execLaneFail_kept (region : ℕ) (dir : ℕ) (lane : ℕ) (s : State) : Keeps s (execLaneFail region dir lane s) := by
  unfold execLaneFail
  (repeat' split) <;> exact .next (by simp [Kept])

@[simp] theorem State.putMaps_kept (s : State) (r : ℕ) (up : BitVec 528) (dn : BitVec 528) : Kept s (State.putMaps s r up dn) := by
  simp [Kept, State.putMaps]

@[simp] theorem State.bondMismatch_kept (s : State) (r : ℕ) : Kept s (State.bondMismatch s r) := by
  simp [Kept, State.bondMismatch]

@[simp] theorem execBpMapChange_kept (region : ℕ) (hash : BitVec 64) (s : State) : Keeps s (execBpMapChange region hash s) := by
  unfold execBpMapChange
  (repeat' split) <;> exact .next (by simp [Kept])

@[simp] theorem State.trainBond_kept (s : State) (r : ℕ) (t : TrainResult) : Kept s (State.trainBond s r t) := by
  simp [Kept, State.trainBond]

@[simp] theorem State.refuseChiplet_kept (s : State) (n : ℕ) (cause : ℕ) : Kept s (State.refuseChiplet s n cause) := by
  simp [Kept, State.refuseChiplet]

@[simp] theorem State.trainSite_kept (s : State) (n : ℕ) (t : TrainResult) : Kept s (State.trainSite s n t) := by
  simp [Kept, State.trainSite]

@[simp] theorem execLinkTraining_kept (l : Link) (r : TrainResult) (s : State) : Keeps s (execLinkTraining l r s) := by
  unfold execLinkTraining
  (repeat' split) <;> exact .next (by simp [Kept])

@[simp] theorem execTrainingRetry_kept (l : Link) (s : State) : Keeps s (execTrainingRetry l s) := by
  unfold execTrainingRetry
  (repeat' split) <;> exact .next (by simp [Kept])

@[simp] theorem State.setPresentNext_kept (s : State) (n : ℕ) (b : Bool) : Kept s (State.setPresentNext s n b) := by
  unfold State.setPresentNext
  dsimp only
  split
  · exact Kept.trans (by simp [Kept]) (State.presentSites_kept _)
  · simp [Kept]

@[simp] theorem State.measured__kept (s : State) (index : ℕ) : Kept s (State.measured_ s index) := by
  simp [Kept, State.measured_]

@[simp] theorem State.measuredSite_kept (s : State) (n : ℕ) (decl : BitVec 512) : Kept s (State.measuredSite s n decl) := by
  simp [Kept, State.measuredSite]

@[simp] theorem execChipletDeclaration_kept (station : ℕ) (decl : BitVec 512) (s : State) : Keeps s (execChipletDeclaration station decl s) := by
  unfold execChipletDeclaration
  (repeat' split) <;> exact .next (by simp [Kept])

@[simp] theorem execChipletTimeWord_kept (station : ℕ) (s : State) : Keeps s (execChipletTimeWord station s) := by
  unfold execChipletTimeWord
  (repeat' split) <;> exact .next (by simp [Kept])

@[simp] theorem execSiteLinkDown_kept (station : ℕ) (s : State) : Keeps s (execSiteLinkDown station s) := by
  unfold execSiteLinkDown
  (repeat' split) <;> exact .next (by simp [Kept])

@[simp] theorem execHbmRetrain_kept (channel : ℕ) (badLane : Bool) (s : State) : Keeps s (execHbmRetrain channel badLane s) := by
  unfold execHbmRetrain
  (repeat' split) <;> exact .next (by simp [Kept])

@[simp] theorem execHbmTempRead_kept (stack : ℕ) (temp : ℕ) (s : State) : Keeps s (execHbmTempRead stack temp s) := by
  unfold execHbmTempRead
  (repeat' split) <;> exact .next (by simp [Kept])

@[simp] theorem execHbmCattrip_kept (stack : ℕ) (s : State) : Keeps s (execHbmCattrip stack s) := by
  unfold execHbmCattrip
  (repeat' split) <;> exact .next (by simp [Kept])

@[simp] theorem State.dlkClear_kept (s : State) (v : W32) : Kept s (State.dlkClear s v) := by
  simp [Kept, State.dlkClear]

@[simp] theorem execDlkCntClr_kept (_w : Who) (v : W32) (s : State) : Keeps s (execDlkCntClr _w v s) := by
  unfold execDlkCntClr
  (repeat' split) <;> exact .next (by simp [Kept])

end Sys2Proof.Machine
end

