-- ==== Sys2Proof/Laws/KeepLoader.lean ====
section
/-! SUPPORT. What no definition of Machine/Loader.lean touches: the queue of commands, the fused values,
the module's own count and the signer fuses. -/

namespace Sys2Proof.Machine

@[simp] theorem State.updReqr_kept (s : State) (r : ℕ) (f : Requester → Requester) : Kept s (State.updReqr s r f) := by
  simp [Kept, State.updReqr]

@[simp] theorem State.reqCtrlNow_kept (s : State) (r : ℕ) (v : W32) : Kept s (State.reqCtrlNow s r v) := by
  simp [Kept, State.reqCtrlNow]

@[simp] theorem State.reqCtrl_kept (s : State) (r : ℕ) (v : W32) : Kept s (State.reqCtrl s r v) := by
  simp [Kept, State.reqCtrl]

@[simp] theorem State.reqGo_kept (s : State) (w : Who) (op : ℕ) (v : W32) : Kept s (State.reqGo s w op v) := by
  simp [Kept, State.reqGo]

@[simp] theorem execLoad_kept (w : Who) (v : W32) (s : State) : Keeps s (execLoad w v s) := by
  unfold execLoad
  (repeat' split) <;> exact .next (by simp [Kept])

@[simp] theorem execUnload_kept (w : Who) (v : W32) (s : State) : Keeps s (execUnload w v s) := by
  unfold execUnload
  (repeat' split) <;> exact .next (by simp [Kept])

@[simp] theorem execRegion_kept (w : Who) (v : W32) (s : State) : Keeps s (execRegion w v s) := by
  unfold execRegion
  (repeat' split) <;> exact .next (by simp [Kept])

@[simp] theorem execHoldHbm_kept (w : Who) (v : W32) (s : State) : Keeps s (execHoldHbm w v s) := by
  unfold execHoldHbm
  (repeat' split) <;> exact .next (by simp [Kept])

@[simp] theorem State.setRun_kept (s : State) (r : Option LoadRun) : Kept s (State.setRun s r) := by
  simp [Kept, State.setRun]

@[simp] theorem State.dequeue_kept (s : State) (q : Req) : Kept s (State.dequeue s q) := by
  simp [Kept, State.dequeue]

@[simp] theorem State.setPhase_kept (s : State) (l : LoadRun) (ph : ReqSt) : Kept s (State.setPhase s l ph) := by
  simp [Kept, State.setPhase]

@[simp] theorem State.endReq_kept (s : State) (q : Req) (result : ℕ) (section_ : ℕ) : Kept s (State.endReq s q result section_) := by
  simp [Kept, State.endReq]

@[simp] theorem State.endRun_kept (s : State) (l : LoadRun) (result : ℕ) (section_ : ℕ) : Kept s (State.endRun s l result section_) := by
  simp [Kept, State.endRun]

@[simp] theorem State.stageFw_kept (s : State) (q : Req) (i : Image) : Kept s (State.stageFw s q i) := by
  simp [Kept, State.stageFw]

@[simp] theorem State.prepStandby_kept (s : State) (l : LoadRun) : Kept s (State.prepStandby s l) := by
  simp [Kept, State.prepStandby]

@[simp] theorem State.readRange_kept (s : State) (a : ℕ) (n : ℕ) : Kept s (State.readRange s a n).1 := by
  simp [Kept, State.readRange]

@[simp] theorem State.readSection_kept (s : State) (base : ℕ) (img : ImageBytes) (e : DirEntry) : Kept s (State.readSection s base img e).1 := by
  simp [Kept, State.readSection]

@[simp] theorem State.readImage_kept (s : State) (src : ℕ) (len : ℕ) (img : ImageBytes) : Kept s (State.readImage s src len img).1 := by
  unfold State.readImage
  dsimp only
  (repeat' split) <;> simp [Kept]

@[simp] theorem State.startLoad_kept (s : State) (q : Req) (i : Image) : Kept s (State.startLoad s q i) := by
  unfold State.startLoad
  (repeat' split) <;> simp [Kept]

@[simp] theorem execLoaderStart_kept (img : ImageBytes) (s : State) : Keeps s (execLoaderStart img s) := by
  unfold execLoaderStart
  (repeat' split) <;> exact .next (by simp [Kept])

@[simp] theorem execQuiesceBegin_kept (s : State) : Keeps s (execQuiesceBegin s) := by
  unfold execQuiesceBegin
  (repeat' split) <;> exact .next (by simp [Kept])

@[simp] theorem State.countQuiesced_kept (s : State) (l : LoadRun) (n : ℕ) : Kept s (State.countQuiesced s l n) := by
  simp [Kept, State.countQuiesced]

@[simp] theorem execQuiesceStop_kept (p : ℕ) (s : State) : Keeps s (execQuiesceStop p s) := by
  unfold execQuiesceStop
  (repeat' split) <;> exact .next (by simp [Kept])

@[simp] theorem State.dropRebinds_kept (s : State) (p : ℕ) : Kept s (State.dropRebinds s p) := by
  simp [Kept, State.dropRebinds]

@[simp] theorem State.releasePart_kept (s : State) (p : ℕ) : Kept s (State.releasePart s p) := by
  simp [Kept, State.releasePart]

@[simp] theorem State.placeWindows_kept (s : State) (ws : List WinRec) : Kept s (State.placeWindows s ws) := by
  simp [Kept, State.placeWindows]

@[simp] theorem State.placeColl_kept (s : State) (x : ℕ × ℕ × BitVec 512) : Kept s (State.placeColl s x) := by
  simp [Kept, State.placeColl]

@[simp] theorem State.placeMcast_kept (s : State) (x : ℕ × ℕ × BitVec 256) : Kept s (State.placeMcast s x) := by
  simp [Kept, State.placeMcast]

@[simp] theorem State.placeTwill_kept (s : State) (i : Image) : Kept s (State.placeTwill s i) := by
  simp [Kept, State.placeTwill]

@[simp] theorem State.setGov_kept (s : State) (p : ℕ) (g : GovParam) : Kept s (State.setGov s p g) := by
  unfold State.setGov
  (repeat' split) <;> simp [Kept]

@[simp] theorem State.lockTst_kept (s : State) (cause : ℕ) : Kept s (State.lockTst s cause) := by
  simp [Kept, State.lockTst]

@[simp] theorem State.applyPart_kept (s : State) (p : ℕ) (i : Image) : Kept s (State.applyPart s p i) := by
  simp [Kept, State.applyPart]

@[simp] theorem State.setTrim_kept (s : State) (r : TrimRec) : Kept s (State.setTrim s r) := by
  simp [Kept, State.setTrim]

@[simp] theorem State.setSites_kept (s : State) (i : Image) : Kept s (State.setSites s i) := by
  simp [Kept, State.setSites]

@[simp] theorem State.setSpareMaps_kept (s : State) (i : Image) : Kept s (State.setSpareMaps s i) := by
  unfold State.setSpareMaps
  refine Kept.foldl (fun _ _ => ?_) _ _
  try dsimp only
  (repeat' split) <;> simp [Kept]

@[simp] theorem State.applyModule_kept (s : State) (i : Image) : Kept s (State.applyModule s i) := by
  simp [Kept, State.applyModule]

@[simp] theorem State.remapRegion_kept (s : State) (r : ℕ) (bad : List ℕ) : Kept s (State.remapRegion s r bad) := by
  simp [Kept, State.remapRegion]

@[simp] theorem State.setRebind_kept (s : State) (key : ℕ) (v : ℕ) : Kept s (State.setRebind s key v) := by
  simp [Kept, State.setRebind]

@[simp] theorem State.rebindOne_kept (s : State) (station : ℕ) (dir : ℕ) (gear : ℕ) (slot : ℕ) (region : ℕ) (k : ℕ) : Kept s (State.rebindOne s station dir gear slot region k) := by
  simp [Kept, State.rebindOne]

@[simp] theorem State.rebindDir_kept (s : State) (station : ℕ) (dir : ℕ) (region : ℕ) : Kept s (State.rebindDir s station dir region) := by
  unfold State.rebindDir
  refine Kept.foldl (fun _ _ => ?_) _ _
  try dsimp only
  (repeat' split) <;> simp [Kept]

@[simp] theorem State.rebindRegion_kept (s : State) (r : ℕ) : Kept s (State.rebindRegion s r) := by
  simp [Kept, State.rebindRegion]

@[simp] theorem State.applyRegion_kept (s : State) (r : ℕ) (bad : List ℕ) : Kept s (State.applyRegion s r bad) := by
  simp [Kept, State.applyRegion]

@[simp] theorem State.endDrain_kept (s : State) (l : LoadRun) (p : ℕ) : Kept s (State.endDrain s l p) := by
  simp [Kept, State.endDrain]

@[simp] theorem State.applyChange_kept (s : State) (l : LoadRun) (h : l.isLoad 2 = false) :
    Kept s (s.applyChange l) := by
  unfold State.applyChange
  simp only [h]
  (repeat' split) <;> simp_all [Kept]

@[simp] theorem State.rereadFails_kept (s : State) (l : LoadRun) (reread : ImageBytes) : Kept s (State.rereadFails s l reread).1 := by
  unfold State.rereadFails
  (repeat' split) <;> simp [Kept]

@[simp] theorem State.settleOrigin_kept (s : State) (l : LoadRun) (h : l.isLoad 2 = false) :
    Kept s (s.settleOrigin l).1 := by
  unfold State.settleOrigin
  split
  · exact ⟨rfl, rfl, rfl, rfl⟩
  · split
    · exact ⟨rfl, rfl, rfl, rfl⟩
    · exact State.applyChange_kept _ _ h

@[simp] theorem execApplyDone_kept (s : State) : Keeps s (execApplyDone s) := by
  unfold execApplyDone
  refine .next ?_
  split
  · exact ⟨rfl, rfl, rfl, rfl⟩
  · split
    · exact ⟨rfl, rfl, rfl, rfl⟩
    · split
      · exact State.endRun_kept ..
      · split
        · exact State.endRun_kept ..
        · rename_i l _ _ _ h
          have k := State.settleOrigin_kept s l (by simpa using h)
          refine k.trans ?_
          dsimp only
          split <;> simp [Kept]

@[simp] theorem State.resumePart_kept (s : State) (l : LoadRun) (br : ℕ) (p : ℕ) : Kept s (State.resumePart s l br p) := by
  simp [Kept, State.resumePart]

@[simp] theorem State.releaseBar2_kept (s : State) : Kept s (State.releaseBar2 s) := by
  simp [Kept, State.releaseBar2]

@[simp] theorem execScopeResume_kept (s : State) : Keeps s (execScopeResume s) := by
  unfold execScopeResume
  (repeat' split) <;> exact .next (by simp [Kept])

end Sys2Proof.Machine
end

