-- ==== Sys2Proof/Laws/KeepFirmware.lean ====
section
/-! SUPPORT. What no definition of Machine/Firmware.lean touches: the queue of commands, the fused values,
the module's own count and the signer fuses. -/

namespace Sys2Proof.Machine

@[simp] theorem State.setPresence_kept (s : State) (base : ℕ) (masks : List ℕ) : Kept s (State.setPresence s base masks) := by
  simp [Kept, State.setPresence]

@[simp] theorem execPresence_kept (s : State) : Keeps s (execPresence s) := by
  unfold execPresence
  (repeat' split) <;> exact .next (by simp [Kept])

@[simp] theorem State.presNow_kept (s : State) (n : ℕ) (v : W32) : Kept s (State.presNow s n v) := by
  simp [Kept, State.presNow]

@[simp] theorem State.presWrite_kept (s : State) (w : Who) (n : ℕ) (v : W32) : Kept s (State.presWrite s w n v) := by
  simp [Kept, State.presWrite]

@[simp] theorem execPresenceWrite_kept (w : Who) (n : ℕ) (v : W32) (s : State) : Keeps s (execPresenceWrite w n v s) := by
  unfold execPresenceWrite
  (repeat' split) <;> exact .next (by simp [Kept])

@[simp] theorem State.setFw_kept (s : State) {f : Config → Config} (hf : (f s.cfg).keys = s.cfg.keys) : Kept s (s.setFw f) := by
  simp [Kept, State.setFw, hf]

@[simp] theorem State.endFw_kept (s : State) (result : ℕ) : Kept s (State.endFw s result) := by
  unfold State.endFw
  (repeat' split) <;> simp [Kept]

@[simp] theorem State.serveReq_kept (s : State) (q : MgmtReq) : Kept s (State.serveReq s q) := by
  unfold State.serveReq
  (repeat' split) <;> simp [Kept]

@[simp] theorem State.releaseMgmt_kept (s : State) : Kept s (State.releaseMgmt s) := by
  unfold State.releaseMgmt
  try dsimp only
  repeat' first
    | split
    | refine Kept.foldl (fun _ _ => ?_) _ _
    | refine Kept.trans ?_ (Kept.foldl (fun _ _ => ?_) _ _)
  all_goals simp [Kept]

@[simp] theorem execFwStandbyReady_kept (s : State) : Keeps s (execFwStandbyReady s) := by
  unfold execFwStandbyReady
  (repeat' split) <;> exact .next (by simp [Kept])

@[simp] theorem State.takeOver_kept (s : State) (version : ℕ) (digest : BitVec 256) : Kept s (State.takeOver s version digest) := by
  simp [Kept, State.takeOver]

@[simp] theorem State.abandon_kept (s : State) : Kept s (State.abandon s) := by
  simp [Kept, State.abandon]

@[simp] theorem execFwTakeover_kept (s : State) : Keeps s (execFwTakeover s) := by
  unfold execFwTakeover
  (repeat' split) <;> exact .next (by simp [Kept])

@[simp] theorem execFwCheckPass_kept (s : State) : Keeps s (execFwCheckPass s) := by
  unfold execFwCheckPass
  (repeat' split) <;> exact .next (by simp [Kept])

@[simp] theorem execFwFlashDone_kept (s : State) : Keeps s (execFwFlashDone s) := by
  unfold execFwFlashDone
  (repeat' split) <;> exact .next (by simp [Kept])

@[simp] theorem execFwAbandon_kept (s : State) : Keeps s (execFwAbandon s) := by
  unfold execFwAbandon
  (repeat' split) <;> exact .next (by simp [Kept])

@[simp] theorem State.recoveryWrite_kept (s : State) (v : W32) : Kept s (State.recoveryWrite s v) := by
  unfold State.recoveryWrite
  (repeat' split) <;> simp [Kept]

@[simp] theorem execRecoveryGo_kept (_w : Who) (v : W32) (img : List Byte) (s : State) : Keeps s (execRecoveryGo _w v img s) := by
  unfold execRecoveryGo
  (repeat' split) <;> exact .next (by simp [Kept])

end Sys2Proof.Machine
end

