-- ==== Sys2Proof/Laws/KeepBoot.lean ====
section
/-! SUPPORT. What no definition of Machine/Boot.lean touches: the queue of commands, the fused values,
the module's own count and the signer fuses. -/

namespace Sys2Proof.Machine

@[simp] theorem State.startupFail_kept (s : State) (step : ℕ) (detail : ℕ) : Kept s (State.startupFail s step detail) := by
  simp [Kept, State.startupFail]

@[simp] theorem State.start_kept (s : State) : Kept s (State.start s) := by
  simp [Kept, State.start]

@[simp] theorem execPowerOn_kept (s : State) : Keeps s (execPowerOn s) := by
  unfold execPowerOn
  (repeat' split) <;> exact .next (by simp [Kept])

@[simp] theorem execFirmwareCheckDone_kept (ok : Bool) (s : State) : Keeps s (execFirmwareCheckDone ok s) := by
  unfold execFirmwareCheckDone
  (repeat' split) <;> exact .next (by simp [Kept])

@[simp] theorem execRecoveryFlashDone_kept (s : State) : Keeps s (execRecoveryFlashDone s) := by
  unfold execRecoveryFlashDone
  (repeat' split) <;> exact .next (by simp [Kept])

@[simp] theorem State.pcieSettled_kept (s : State) : Kept s (State.pcieSettled s) := by
  simp [Kept, State.pcieSettled]

@[simp] theorem execPcieLinkDown_kept (port : ℕ) (_cause : LinkCause) (s : State) : Keeps s (execPcieLinkDown port _cause s) := by
  unfold execPcieLinkDown
  (repeat' split) <;> exact .next (by simp [Kept])

@[simp] theorem execPcieLinkUp_kept (port : ℕ) (s : State) : Keeps s (execPcieLinkUp port s) := by
  unfold execPcieLinkUp
  (repeat' split) <;> exact .next (by simp [Kept])

@[simp] theorem State.setField_kept (s : State) (f : ℕ) (x : FieldSt) : Kept s (State.setField s f x) := by
  simp [Kept, State.setField]

@[simp] theorem execFieldPowerUp_kept (field : ℕ) (s : State) : Keeps s (execFieldPowerUp field s) := by
  unfold execFieldPowerUp
  (repeat' split) <;> exact .next (by simp [Kept])

@[simp] theorem State.fieldsDone_kept (s : State) : Kept s (State.fieldsDone s) := by
  simp [Kept, State.fieldsDone]

@[simp] theorem State.hbmInit_kept (s : State) : Kept s (State.hbmInit s) := by
  unfold State.hbmInit
  split
  · simp [Kept]
  · refine Kept.loop ⟨rfl, rfl, rfl, rfl⟩ fun s c => ?_
    split
    · exact ⟨rfl, rfl, rfl, rfl⟩
    · cases h : s.retireEmpty c with
      | none => exact ⟨rfl, rfl, rfl, rfl⟩
      | some r => exact State.retireEmpty_kept s c r h

@[simp] theorem State.fieldPass_kept (s : State) (f : ℕ) : Kept s (State.fieldPass s f) := by
  simp [Kept, State.fieldPass]

@[simp] theorem State.fieldFail_kept (s : State) (f : ℕ) : Kept s (State.fieldFail s f) := by
  simp [Kept, State.fieldFail]

@[simp] theorem execFieldBistDone_kept (field : ℕ) (ok : Bool) (s : State) : Keeps s (execFieldBistDone field ok s) := by
  unfold execFieldBistDone
  (repeat' split) <;> exact .next (by simp [Kept])

@[simp] theorem State.retireFailed_kept (s : State) (cs : List Nat) : Kept s (s.retireFailed cs) := by
  induction cs generalizing s with
  | nil => exact ⟨rfl, rfl, rfl, rfl⟩
  | cons c cs ih =>
    unfold State.retireFailed
    split
    · exact ih s
    · cases h : s.retireEmpty c with
      | none => simp [Kept]
      | some r =>
        exact (State.retireEmpty_kept s c r h).trans (Kept.trans (by simp [Kept]) (ih _))

@[simp] theorem execHbmTrainDone_kept (station : ℕ) (failedChannels : List ℕ) (stackFail : Option ℕ) (s : State) : Keeps s (execHbmTrainDone station failedChannels stackFail s) := by
  unfold execHbmTrainDone
  (repeat' split) <;> exact .next (by simp [Kept])

@[simp] theorem execHbmZeroFillDone_kept (station : ℕ) (s : State) : Keeps s (execHbmZeroFillDone station s) := by
  unfold execHbmZeroFillDone
  (repeat' split) <;> exact .next (by simp [Kept])

@[simp] theorem State.noteStart_kept (s : State) : Kept s (State.noteStart s) := by
  simp [Kept, State.noteStart]

@[simp] theorem State.lasersDone_kept (s : State) : Kept s (State.lasersDone s) := by
  simp [Kept, State.lasersDone]

@[simp] theorem execLaserStart_kept (laser : ℕ) (s : State) : Keeps s (execLaserStart laser s) := by
  unfold execLaserStart
  (repeat' split) <;> exact .next (by simp [Kept])

@[simp] theorem State.spareFailed_kept (s : State) (sp : ℕ) : Kept s (State.spareFailed s sp) := by
  unfold State.spareFailed
  dsimp only
  (repeat' split) <;> simp [Kept]

@[simp] theorem execLaserLock_kept (laser : ℕ) (locked : Bool) (s : State) : Keeps s (execLaserLock laser locked s) := by
  unfold execLaserLock
  (repeat' split) <;> exact .next (by simp [Kept])

@[simp] theorem State.stageLo_kept (s : State) (w : Who) (loAddr : ℕ) (v : W32) : Kept s (State.stageLo s w loAddr v) := by
  simp [Kept, State.stageLo]

@[simp] theorem State.bootWin_kept (s : State) (w : Who) (p : ℕ) (hi : Bool) (v : W32) : Kept s (State.bootWin s w p hi v) := by
  unfold State.bootWin
  dsimp only
  (repeat' split) <;> simp [Kept]

@[simp] theorem execBootWinWrite_kept (w : Who) (p : ℕ) (hi : Bool) (v : W32) (s : State) : Keeps s (execBootWinWrite w p hi v s) := by
  unfold execBootWinWrite
  (repeat' split) <;> exact .next (by simp [Kept])

@[simp] theorem execRegionEnableStart_kept (region : ℕ) (s : State) : Keeps s (execRegionEnableStart region s) := by
  unfold execRegionEnableStart
  (repeat' split) <;> exact .next (by simp [Kept])

@[simp] theorem execClusterUngate_kept (region : ℕ) (cluster : ℕ) (s : State) : Keeps s (execClusterUngate region cluster s) := by
  unfold execClusterUngate
  (repeat' split) <;> exact .next (by simp [Kept])

@[simp] theorem execRegionClockStart_kept (region : ℕ) (s : State) : Keeps s (execRegionClockStart region s) := by
  unfold execRegionClockStart
  (repeat' split) <;> exact .next (by simp [Kept])

@[simp] theorem State.bootSites_kept (s : State) (r : ℕ) (bad : List ℕ) : Kept s (State.bootSites s r bad) := by
  simp [Kept, State.bootSites]

@[simp] theorem State.bootBond_kept (s : State) (r : ℕ) : Kept s (State.bootBond s r) := by
  simp [Kept, State.bootBond]

@[simp] theorem State.regionsDone_kept (s : State) : Kept s (State.regionsDone s) := by
  simp [Kept, State.regionsDone]

@[simp] theorem execRegionEnableDone_kept (region : ℕ) (badSites : List ℕ) (badRouters : List ℕ) (s : State) : Keeps s (execRegionEnableDone region badSites badRouters s) := by
  unfold execRegionEnableDone
  (repeat' split) <;> exact .next (by simp [Kept])

end Sys2Proof.Machine
end

