-- ==== Sys2Proof/Laws/KeepBoard.lean ====
section
/-! SUPPORT. What no definition of Machine/Board.lean touches: the queue of commands, the fused values,
the module's own count and the signer fuses. -/

namespace Sys2Proof.Machine

@[simp] theorem execInputDisconnect_kept (s : State) : Keeps s (execInputDisconnect s) := by
  unfold execInputDisconnect
  (repeat' split) <;> exact .next (by simp [Kept])

@[simp] theorem execPowerOffResetExit_kept (s : State) : Keeps s (execPowerOffResetExit s) := by
  unfold execPowerOffResetExit
  (repeat' split) <;> exact .next (by simp [Kept])

@[simp] theorem execMateBreak_kept (s : State) : Keeps s (execMateBreak s) := by
  unfold execMateBreak
  (repeat' split) <;> exact .next (by simp [Kept])

@[simp] theorem State.pinReset_kept (s : State) : Kept s (State.pinReset s) := by
  simp [Kept, State.pinReset]

@[simp] theorem execModReset_kept (s : State) : Keeps s (execModReset s) := by
  unfold execModReset
  (repeat' split) <;> exact .next (by simp [Kept])

@[simp] theorem execModResetRelease_kept (s : State) : Keeps s (execModResetRelease s) := by
  unfold execModResetRelease
  (repeat' split) <;> exact .next (by simp [Kept])

end Sys2Proof.Machine
end

