-- ==== Sys2Proof/Laws/KeepRead.lean ====
section
/-! SUPPORT. What no definition of Machine/Read.lean touches: the queue of commands, the fused values,
the module's own count and the signer fuses. -/

namespace Sys2Proof.Machine

@[simp] theorem State.sramRead_kept (s : State) (w : Who) (a : ℕ) : Kept s (State.sramRead s w a) := by
  unfold State.sramRead
  dsimp only
  (repeat' split) <;> simp [Kept]

@[simp] theorem State.readLatch_kept (s : State) (w : Who) (a : ℕ) : Kept s (State.readLatch s w a) := by
  simp [Kept, State.readLatch]

@[simp] theorem State.regRead_kept (s : State) (w : Who) (a : ℕ) : Kept s (State.regRead s w a).1 := by
  simp [Kept, State.regRead]

@[simp] theorem execRegLoReadLatch_kept (w : Who) (a : RegAccess) (s : State) : Keeps s (execRegLoReadLatch w a s) := by
  unfold execRegLoReadLatch
  (repeat' split) <;> exact .next (by simp [Kept])

end Sys2Proof.Machine
end

