-- ==== Sys2Proof/Laws/KeepTest.lean ====
section
/-! SUPPORT. What no definition of Machine/Test.lean touches: the queue of commands, the fused values,
the module's own count and the signer fuses. -/

namespace Sys2Proof.Machine

@[simp] theorem State.dropKey_kept (s : State) : Kept s (State.dropKey s) := by
  simp [Kept, State.dropKey]

@[simp] theorem State.unlockTst_kept (s : State) (w : Who) : Kept s (State.unlockTst s w) := by
  simp [Kept, State.unlockTst]

@[simp] theorem State.tstKey_kept (s : State) (w : Who) (v : W32) : Kept s (State.tstKey s w v) := by
  simp [Kept, State.tstKey]

@[simp] theorem execTstKeyWrite_kept (w : Who) (v : W32) (s : State) : Keeps s (execTstKeyWrite w v s) := by
  unfold execTstKeyWrite
  (repeat' split) <;> exact .next (by simp [Kept])

@[simp] theorem State.tstCmd_kept (s : State) (v : W32) : Kept s (State.tstCmd s v) := by
  simp [Kept, State.tstCmd]

@[simp] theorem execTstLock_kept (_w : Who) (v : W32) (s : State) : Keeps s (execTstLock _w v s) := by
  unfold execTstLock
  (repeat' split) <;> exact .next (by simp [Kept])

@[simp] theorem State.tstSeed_kept (s : State) (v : W32) : Kept s (State.tstSeed s v) := by
  simp [Kept, State.tstSeed]

@[simp] theorem execTstSeedWrite_kept (_w : Who) (v : W32) (s : State) : Keeps s (execTstSeedWrite _w v s) := by
  unfold execTstSeedWrite
  (repeat' split) <;> exact .next (by simp [Kept])

theorem State.setTstAt_kept (s : State) (a : ℕ) (v : W32) (r : State) (h : State.setTstAt s a v = some r) : Kept s r := by
  unfold State.setTstAt at h
  split at h
  · injection h with h; subst h; simp [Kept]
  · obtain ⟨x, -, rfl⟩ := Option.map_eq_some_iff.1 h
    simp [Kept]
  · injection h with h; subst h; simp [Kept]
  · cases h

@[simp] theorem State.tstSetting_kept (s : State) (a : ℕ) (v : W32) : Kept s (State.tstSetting s a v) := by
  unfold State.tstSetting
  dsimp only
  split
  · simp [Kept]
  · split
    · rename_i h
      exact Kept.trans (by simp [Kept]) ((State.setTstAt_kept _ _ _ _ h).trans (by simp [Kept]))
    · simp [Kept]

@[simp] theorem execTstSettingWrite_kept (_w : Who) (addr : ℕ) (v : W32) (s : State) : Keeps s (execTstSettingWrite _w addr v s) := by
  unfold execTstSettingWrite
  (repeat' split) <;> exact .next (by simp [Kept])

end Sys2Proof.Machine
end

