-- ==== Sys2Proof/Laws/KeepSideband.lean ====
section
/-! SUPPORT. What no definition of Machine/Sideband.lean touches: the queue of commands, the fused values,
the module's own count and the signer fuses. -/

namespace Sys2Proof.Machine

@[simp] theorem State.mctp_kept (s : State) (body : List Byte) : Kept s (State.mctp s body) := by
  simp [Kept, State.mctp]

@[simp] theorem execMctpControl_kept (m : MctpMsg) (s : State) : Keeps s (execMctpControl m s) := by
  unfold execMctpControl
  (repeat' split) <;> exact .next (by simp [Kept])

@[simp] theorem execGetState_kept (s : State) : Keeps s (execGetState s) := by
  unfold execGetState
  (repeat' split) <;> exact .next (by simp [Kept])

@[simp] theorem execGetTemps_kept (die : ℕ) (s : State) : Keeps s (execGetTemps die s) := by
  unfold execGetTemps
  (repeat' split) <;> exact .next (by simp [Kept])

@[simp] theorem execReadReg_kept (offset : ℕ) (s : State) : Keeps s (execReadReg offset s) := by
  unfold execReadReg
  (repeat' split) <;> exact .next (by simp [Kept])

@[simp] theorem execReadPeat_kept (seq : ℕ) (s : State) : Keeps s (execReadPeat seq s) := by
  unfold execReadPeat
  (repeat' split) <;> exact .next (by simp [Kept])

@[simp] theorem State.setConn_kept (s : State) (via : SpdmVia) (c : Spdm) : Kept s (State.setConn s via c) := by
  simp [Kept, State.setConn]

@[simp] theorem State.spdmSend_kept (s : State) (via : SpdmVia) (msg : List Byte) : Kept s (State.spdmSend s via msg) := by
  simp [Kept, State.spdmSend]

@[simp] theorem State.spdmError_kept (s : State) (via : SpdmVia) (code : Byte) (data : Byte) : Kept s (State.spdmError s via code data) := by
  simp [Kept, State.spdmError]

@[simp] theorem State.spdmServe_kept (s : State) (via : SpdmVia) (ready : Spdm → Bool) (put : Spdm → List Byte → Spdm) (req : List Byte) (rsp : List Byte) : Kept s (State.spdmServe s via ready put req rsp) := by
  simp [Kept, State.spdmServe]

@[simp] theorem execGetVersion_kept (via : SpdmVia) (s : State) : Keeps s (execGetVersion via s) := by
  unfold execGetVersion
  (repeat' split) <;> exact .next (by simp [Kept])

@[simp] theorem execGetCapabilities_kept (via : SpdmVia) (s : State) : Keeps s (execGetCapabilities via s) := by
  unfold execGetCapabilities
  (repeat' split) <;> exact .next (by simp [Kept])

@[simp] theorem execNegotiateAlgorithms_kept (via : SpdmVia) (offer : AlgOffer) (s : State) : Keeps s (execNegotiateAlgorithms via offer s) := by
  unfold execNegotiateAlgorithms
  (repeat' split) <;> exact .next (by simp [Kept])

@[simp] theorem execGetDigests_kept (via : SpdmVia) (s : State) : Keeps s (execGetDigests via s) := by
  unfold execGetDigests
  (repeat' split) <;> exact .next (by simp [Kept])

@[simp] theorem execGetCertificate_kept (via : SpdmVia) (slot : ℕ) (offset : ℕ) (length : ℕ) (s : State) : Keeps s (execGetCertificate via slot offset length s) := by
  unfold execGetCertificate
  (repeat' split) <;> exact .next (by simp [Kept])

@[simp] theorem State.serveSigned_kept (s : State) (via : SpdmVia) (put : Spdm → Spdm) (req : List Byte) (rsp : List Byte) (before : List Byte) : Kept s (State.serveSigned s via put req rsp before) := by
  simp [Kept, State.serveSigned]

@[simp] theorem execChallenge_kept (via : SpdmVia) (slot : ℕ) (nonce : BitVec 256) (s : State) : Keeps s (execChallenge via slot nonce s) := by
  unfold execChallenge
  (repeat' split) <;> exact .next (by simp [Kept])

@[simp] theorem execGetMeasurements_kept (via : SpdmVia) (nonce : BitVec 256) (s : State) : Keeps s (execGetMeasurements via nonce s) := by
  unfold execGetMeasurements
  (repeat' split) <;> exact .next (by simp [Kept])

@[simp] theorem execSpdmUnsupported_kept (via : SpdmVia) (code : BitVec 8) (s : State) : Keeps s (execSpdmUnsupported via code s) := by
  unfold execSpdmUnsupported
  (repeat' split) <;> exact .next (by simp [Kept])

@[simp] theorem execDoeDiscovery_kept (port : ℕ) (index : ℕ) (s : State) : Keeps s (execDoeDiscovery port index s) := by
  unfold execDoeDiscovery
  (repeat' split) <;> exact .next (by simp [Kept])

@[simp] theorem State.setIr_kept (s : State) (i : JtagIr) : Kept s (State.setIr s i) := by
  simp [Kept, State.setIr]

@[simp] theorem State.setIrHeld_kept (s : State) (i : JtagIr) : Kept s (State.setIrHeld s i) := by
  simp [Kept, State.setIrHeld]

@[simp] theorem execBypass_kept (s : State) : Keeps s (execBypass s) := by
  unfold execBypass
  (repeat' split) <;> exact .next (by simp [Kept])

@[simp] theorem execIdcode_kept (s : State) : Keeps s (execIdcode s) := by
  unfold execIdcode
  (repeat' split) <;> exact .next (by simp [Kept])

@[simp] theorem State.capture_kept (s : State) : Kept s (State.capture s) := by
  simp [Kept, State.capture]

@[simp] theorem State.extestIr_kept (s : State) (i : JtagIr) : Kept s (State.extestIr s i) := by
  simp [Kept, State.extestIr]

@[simp] theorem execSamplePreload_kept (s : State) : Keeps s (execSamplePreload s) := by
  unfold execSamplePreload
  (repeat' split) <;> exact .next (by simp [Kept])

@[simp] theorem execExtest_kept (s : State) : Keeps s (execExtest s) := by
  unfold execExtest
  (repeat' split) <;> exact .next (by simp [Kept])

@[simp] theorem execExtestPulse_kept (s : State) : Keeps s (execExtestPulse s) := by
  unfold execExtestPulse
  (repeat' split) <;> exact .next (by simp [Kept])

@[simp] theorem execExtestTrain_kept (s : State) : Keeps s (execExtestTrain s) := by
  unfold execExtestTrain
  (repeat' split) <;> exact .next (by simp [Kept])

@[simp] theorem execClamp_kept (s : State) : Keeps s (execClamp s) := by
  unfold execClamp
  (repeat' split) <;> exact .next (by simp [Kept])

@[simp] theorem execHighz_kept (s : State) : Keeps s (execHighz s) := by
  unfold execHighz
  (repeat' split) <;> exact .next (by simp [Kept])

end Sys2Proof.Machine
end

