-- ==== Sys2Proof/Laws/KeepAccess.lean ====
section
/-! SUPPORT. What no definition of Machine/Access.lean touches: the queue of commands, the fused values,
the module's own count and the signer fuses. -/

namespace Sys2Proof.Machine

@[simp] theorem State.pairWrite_kept (s : State) (w : Who) (lo : Nat) (hi : Bool) (v : W32) (old : W64) {put : State → W64 → State} (hk : ∀ s v, Kept s (put s v)) :
    Kept s (s.pairWrite w lo hi v old put) := by
  unfold State.pairWrite
  split
  · exact (State.hiWrite_kept s w lo old v).trans (hk _ _)
  · simp [Kept]

@[simp] theorem State.wrGlb_kept (s : State) (w : Who) (o : ℕ) (v : W32) : Kept s (State.wrGlb s w o v) := by
  unfold State.wrGlb
  (repeat' split) <;> simp [Kept]

@[simp] theorem State.wrTim_kept (s : State) (o : ℕ) (v : W32) : Kept s (State.wrTim s o v) := by
  unfold State.wrTim
  (repeat' split) <;> simp [Kept]

@[simp] theorem State.wrPwr_kept (s : State) (w : Who) (o : ℕ) (v : W32) : Kept s (State.wrPwr s w o v) := by
  unfold State.wrPwr
  (repeat' split) <;> simp [Kept]

@[simp] theorem State.wrOpt_kept (s : State) (o : ℕ) (v : W32) : Kept s (State.wrOpt s o v) := by
  unfold State.wrOpt
  (repeat' split) <;> simp [Kept]

@[simp] theorem State.wrTwl_kept (s : State) (o : ℕ) (v : W32) : Kept s (State.wrTwl s o v) := by
  unfold State.wrTwl
  (repeat' split) <;> simp [Kept]

@[simp] theorem State.wrPkt_kept (s : State) (w : Who) (o : ℕ) (v : W32) : Kept s (State.wrPkt s w o v) := by
  unfold State.wrPkt
  (repeat' split) <;> simp [Kept]

@[simp] theorem State.wrMem_kept (s : State) (o : ℕ) (v : W32) : Kept s (State.wrMem s o v) := by
  unfold State.wrMem
  (repeat' split) <;> simp [Kept]

@[simp] theorem State.wrCol_kept (s : State) (w : Who) (o : ℕ) (v : W32) : Kept s (State.wrCol s w o v) := by
  unfold State.wrCol
  (repeat' split) <;> simp [Kept]

@[simp] theorem State.wrDlk_kept (s : State) (o : ℕ) (v : W32) : Kept s (State.wrDlk s o v) := by
  unfold State.wrDlk
  (repeat' split) <;> simp [Kept]

@[simp] theorem State.wrReq_kept (s : State) (w : Who) (r : ℕ) (o : ℕ) (v : W32) : Kept s (State.wrReq s w r o v) := by
  unfold State.wrReq
  (repeat' split) <;> simp [Kept]

@[simp] theorem State.wrCfg_kept (s : State) (w : Who) (o : ℕ) (v : W32) : Kept s (State.wrCfg s w o v) := by
  unfold State.wrCfg
  (repeat' split) <;> simp [Kept]

@[simp] theorem State.wrCq_kept (s : State) (w : Who) (p : ℕ) (r : ℕ) (v : W32) : Kept s (State.wrCq s w p r v) := by
  unfold State.wrCq
  (repeat' split) <;> simp [Kept]

@[simp] theorem State.ownCmd_kept (s : State) (w : Who) (p : ℕ) (v : W32) : Kept s (State.ownCmd s w p v) := by
  unfold State.ownCmd
  (repeat' split) <;> simp [Kept]

@[simp] theorem State.wrHif_kept (s : State) (w : Who) (o : ℕ) (v : W32) : Kept s (State.wrHif s w o v) := by
  unfold State.wrHif
  (repeat' split) <;> simp [Kept]

@[simp] theorem State.wrEvt_kept (s : State) (w : Who) (o : ℕ) (v : W32) : Kept s (State.wrEvt s w o v) := by
  unfold State.wrEvt
  (repeat' split) <;> simp [Kept]

@[simp] theorem State.wrTst_kept (s : State) (w : Who) (a : ℕ) (v : W32) : Kept s (State.wrTst s w a v) := by
  unfold State.wrTst
  (repeat' split) <;> simp [Kept]

@[simp] theorem State.wrSec_kept (s : State) (o : ℕ) (v : W32) : Kept s (State.wrSec s o v) := by
  simp [Kept, State.wrSec]

@[simp] theorem State.wrTile_kept (s : State) (t : ℕ) (r : ℕ) (v : W32) : Kept s (State.wrTile s t r v) := by
  unfold State.wrTile
  (repeat' split) <;> simp [Kept]

@[simp] theorem State.wrRegion_kept (s : State) (a : ℕ) (k : ℕ) (r : ℕ) (v : W32) : Kept s (State.wrRegion s a k r v) := by
  unfold State.wrRegion
  (repeat' split) <;> simp [Kept]

@[simp] theorem State.regAct_kept (s : State) (w : Who) (a : ℕ) (v : W32) : Kept s (State.regAct s w a v) := by
  unfold State.regAct
  (repeat' split) <;> simp [Kept]

@[simp] theorem State.regWrite_kept (s : State) (w : Who) (a : ℕ) (size : ℕ) (v : W32) : Kept s (State.regWrite s w a size v) := by
  simp [Kept, State.regWrite]

@[simp] theorem execRegWrite_kept (w : Who) (addr : ℕ) (size : RegSize) (v : W32) (s : State) : Keeps s (execRegWrite w addr size v s) := by
  unfold execRegWrite
  (repeat' split) <;> exact .next (by simp [Kept])

@[simp] theorem execRegLoWriteStage_kept (w : Who) (addr : ℕ) (v : W32) (s : State) : Keeps s (execRegLoWriteStage w addr v s) := by
  unfold execRegLoWriteStage
  (repeat' split) <;> exact .next (by simp [Kept])

@[simp] theorem execRegHiWriteApply_kept (w : Who) (addr : ℕ) (v : W32) (s : State) : Keeps s (execRegHiWriteApply w addr v s) := by
  unfold execRegHiWriteApply
  (repeat' split) <;> exact .next (by simp [Kept])

end Sys2Proof.Machine
end

