-- ==== Sys2Proof/Laws/KeepFrameWord.lean ====
section
/-! SUPPORT. What no definition of Machine/FrameWord.lean touches: the queue of commands, the fused values,
the module's own count and the signer fuses. -/

namespace Sys2Proof.Machine

@[simp] theorem execFrameWordWrite_kept (p : ℕ) (s : State) : Keeps s (execFrameWordWrite p s) := by
  unfold execFrameWordWrite
  (repeat' split) <;> exact .next (by simp [Kept])

end Sys2Proof.Machine
end

