-- ==== Sys2Proof/Laws/KeepKeys.lean ====
section
/-! SUPPORT. The one meaning that writes signer fuses, APPLY_START of a key-operation image (R403), and
what the passing of a nanosecond leaves alone. -/

namespace Sys2Proof.Machine

/-- `t` has the queue, the fused values and the own count of `s`. -/
abbrev KeptFew (s t : State) : Prop :=
  t.pending = s.pending ∧ t.fused = s.fused ∧ t.boot.osc = s.boot.osc

theorem Kept.few {s t : State} (h : Kept s t) : KeptFew s t := ⟨h.1, h.2.1, h.2.2.1⟩

theorem State.applyKey_few (s : State) (i : Image) : KeptFew s (s.applyKey i) := by
  unfold State.applyKey
  split <;> simp [KeptFew, State.measured_]

/-- R403: a key operation changes the slot it names, and no other. -/
theorem State.applyKey_key (s : State) (i : Image) (n : Nat) :
    (s.applyKey i).key n = match i.keyOp with
      | some (op, slot, _, hash) =>
        if n = slot then
          if op = 1 then { s.key slot with hash := hash, enrolled := true } else { s.key slot with revoked := true }
        else s.key n
      | none => s.key n := by
  unfold State.applyKey
  split
  · rename_i op slot r hash h
    simp only [h]
    by_cases hn : n = slot
    · subst hn
      simp [State.key, State.measured_, mget_mset_same]
    · simp [State.key, State.measured_, mget_mset_ne _ _ _ hn, hn]
  · rename_i h
    simp only [h]

/-- R403, R405: an image that passes the checks with SCOPE 2 carries a key operation that is allowed. -/
theorem State.checkImage_keyOpOk {s : State} {i : Image} (h : (s.checkImage i).1 = LR.done) (h2 : i.header.scope = 2) :
    s.keyOpOk i = true := by
  unfold State.checkImage at h
  dsimp only at h
  split at h; · simp [LR.source, LR.done] at h
  split at h; · simp [LR.badHeader, LR.done] at h
  split at h; · simp [LR.wrongPart, LR.done] at h
  split at h; · simp [LR.notAllowed, LR.done] at h
  split at h; · simp [LR.sectionCheck, LR.done] at h
  split at h; · simp [LR.keyRefused, LR.done] at h
  split at h; · simp [LR.badSignature, LR.done] at h
  split at h; · simp [LR.digest, LR.done] at h
  split at h; · simp [LR.notAllowed, LR.done] at h
  rename_i hb
  split at h; · simp [LR.notAllowed, LR.done] at h
  split at h; · simp [LR.sectionCheck, LR.done] at h
  rename_i hs
  have h1 : i.has 1 = true := by
    unfold Image.badSection at hb
    rw [List.findSome?_eq_none_iff] at hb
    have := hb 0 (by simp)
    simp [h2, sectionRule, nth] at this
    exact this
  unfold State.sectionsBad at hs
  simp only [h2, h1] at hs
  by_contra hk
  simp [hk] at hs

/-- What the change of a request does is one of these: something that keeps the fuses, or the key operation of a key
image. -/
theorem State.applyChange_keys (s : State) (l : LoadRun) :
    Kept s (s.applyChange l) ∨ ∃ i, l.img = some i ∧ i.header.scope = 2 ∧ s.applyChange l = s.applyKey i := by
  unfold State.applyChange
  split
  · rename_i i _ hi
    split
    · exact .inl (State.applyPart_kept ..)
    split
    · rename_i h2
      refine .inr ⟨i, hi, ?_, rfl⟩
      unfold LoadRun.isLoad at h2
      rw [hi] at h2
      simpa using (Bool.and_eq_true_iff.1 h2).2
    · exact .inl (State.applyModule_kept ..)
  · exact .inl ((State.releasePart_kept ..).trans (State.measured__kept ..))
  · exact .inl (State.applyRegion_kept ..)
  · exact .inl ⟨rfl, rfl, rfl, rfl⟩

/-- What APPLY_START does is one of these: something that keeps the fuses, or an allowed key operation (R403). -/
theorem execApplyStart_keys (reread : ImageBytes) (s : State) :
    ∃ t, execApplyStart reread s = .next t ∧ (Kept s t ∨ ∃ u i, Kept s u ∧ u.keyOpOk i = true ∧ Kept (u.applyKey i) t) := by
  refine ⟨_, rfl, ?_⟩
  split
  · exact .inl ⟨rfl, rfl, rfl, rfl⟩
  rename_i l _
  split
  · exact .inl ⟨rfl, rfl, rfl, rfl⟩
  split
  · exact .inl (State.prepStandby_kept ..)
  split
  · exact .inl (State.endRun_kept ..)
  dsimp only
  have k := ((Kept.foldl (s := s) (fun s p => State.endDrain_kept s l p) (l.scope.filter fun p => !(l.lost.contains p)))).trans
    (State.rereadFails_kept _ l reread)
  revert k
  generalize (List.foldl (fun s p => s.endDrain l p) s (l.scope.filter fun p => !(l.lost.contains p))).rereadFails l reread = v
  intro k
  split
  · exact .inl (k.trans (by simp [Kept]))
  split
  · rename_i hd
    split
    · exact .inl (k.trans (State.setPhase_kept ..))
    · rcases State.applyChange_keys v.1 l with h | ⟨i, hi, h2, h⟩
      · exact .inl (k.trans (h.trans (State.setPhase_kept ..)))
      · refine .inr ⟨v.1, i, k, ?_, ?_⟩
        · unfold State.recheck at hd
          rw [hi] at hd
          exact State.checkImage_keyOpOk hd h2
        · rw [h]; exact State.setPhase_kept ..
  · exact .inl (k.trans (State.setPhase_kept ..))

@[simp] theorem State.seqFault_kept (s : State) (t : Nat) : Kept s (s.seqFault t) := by
  unfold State.seqFault
  dsimp only
  (repeat' split) <;> simp [Kept]

/-- The words that sequencers cannot issue change no more than the counts of a nanosecond do. -/
theorem State.tick_kept (s : State) : Kept s.tickCounts s.tick := Kept.foldl State.seqFault_kept _ _

/-- A nanosecond that passes changes neither the queue, the fused values nor the signer fuses. -/
theorem State.tick_keeps (s : State) :
    s.tick.pending = s.pending ∧ s.tick.fused = s.fused ∧ s.tick.boot.osc = s.tickCounts.boot.osc ∧
      s.tick.cfg.keys = s.cfg.keys :=
  ⟨s.tick_kept.1, s.tick_kept.2.1, s.tick_kept.2.2.1, s.tick_kept.2.2.2⟩

end Sys2Proof.Machine
end

