-- ==== Sys2Proof/Laws/KeepExec.lean ====
section
/-! SUPPORT. What a command can do to the queue, the fused values, the own count and the signer fuses. -/

namespace Sys2Proof.Machine
/-- Everything a command can do to them: nothing, or an allowed key operation (R403). -/
theorem exec_keys (c : Instr) (s : State) : ∃ t, exec c s = .next t ∧ (Kept s t ∨ ∃ u i, Kept s u ∧ u.keyOpOk i = true ∧ Kept (u.applyKey i) t) := by
  have kk : ∀ {r : Res}, Keeps s r → ∃ t, r = .next t ∧ (Kept s t ∨ ∃ u i, Kept s u ∧ u.keyOpOk i = true ∧ Kept (u.applyKey i) t) := fun ⟨t, h, k⟩ => ⟨t, h, .inl k⟩
  cases c with
  | moduleReset => exact kk (execModuleReset_kept s)
  | regWrite w addr size v => exact kk (execRegWrite_kept w addr size v s)
  | regLoReadLatch w a => exact kk (execRegLoReadLatch_kept w a s)
  | regLoWriteStage w addr v => exact kk (execRegLoWriteStage_kept w addr v s)
  | regHiWriteApply w addr v => exact kk (execRegHiWriteApply_kept w addr v s)
  | ibufMissFill t addr parity => exact kk (execIbufMissFill_kept t addr parity s)
  | unitQueueStart t u => exact kk (execUnitQueueStart_kept t u s)
  | scrubLine t writtenMeanwhile => exact kk (execScrubLine_kept t writtenMeanwhile s)
  | scrubForced t writtenMeanwhile => exact kk (execScrubForced_kept t writtenMeanwhile s)
  | add t f => exact kk (execAdd_kept t f s)
  | sub t f => exact kk (execSub_kept t f s)
  | and t f => exact kk (execAnd_kept t f s)
  | or t f => exact kk (execOr_kept t f s)
  | xor t f => exact kk (execXor_kept t f s)
  | sll t f => exact kk (execSll_kept t f s)
  | srl t f => exact kk (execSrl_kept t f s)
  | sra t f => exact kk (execSra_kept t f s)
  | mul t f => exact kk (execMul_kept t f s)
  | mulh t f => exact kk (execMulh_kept t f s)
  | mulhu t f => exact kk (execMulhu_kept t f s)
  | slt t f => exact kk (execSlt_kept t f s)
  | sltu t f => exact kk (execSltu_kept t f s)
  | min t f => exact kk (execMin_kept t f s)
  | max t f => exact kk (execMax_kept t f s)
  | addi t f => exact kk (execAddi_kept t f s)
  | andi t f => exact kk (execAndi_kept t f s)
  | ori t f => exact kk (execOri_kept t f s)
  | xori t f => exact kk (execXori_kept t f s)
  | slli t f => exact kk (execSlli_kept t f s)
  | srli t f => exact kk (execSrli_kept t f s)
  | srai t f => exact kk (execSrai_kept t f s)
  | muli t f => exact kk (execMuli_kept t f s)
  | slti t f => exact kk (execSlti_kept t f s)
  | sltui t f => exact kk (execSltui_kept t f s)
  | li t f => exact kk (execLi_kept t f s)
  | lih t f => exact kk (execLih_kept t f s)
  | ldu1 t f => exact kk (execLdu1_kept t f s)
  | ldu2 t f => exact kk (execLdu2_kept t f s)
  | ldu4 t f => exact kk (execLdu4_kept t f s)
  | ldu8 t f => exact kk (execLdu8_kept t f s)
  | lds1 t f => exact kk (execLds1_kept t f s)
  | lds2 t f => exact kk (execLds2_kept t f s)
  | lds4 t f => exact kk (execLds4_kept t f s)
  | st1 t f => exact kk (execSt1_kept t f s)
  | st2 t f => exact kk (execSt2_kept t f s)
  | st4 t f => exact kk (execSt4_kept t f s)
  | st8 t f => exact kk (execSt8_kept t f s)
  | beq t f => exact kk (execBeq_kept t f s)
  | bne t f => exact kk (execBne_kept t f s)
  | blt t f => exact kk (execBlt_kept t f s)
  | bge t f => exact kk (execBge_kept t f s)
  | bltu t f => exact kk (execBltu_kept t f s)
  | bgeu t f => exact kk (execBgeu_kept t f s)
  | jal t f => exact kk (execJal_kept t f s)
  | jalr t f => exact kk (execJalr_kept t f s)
  | rdsys t f => exact kk (execRdsys_kept t f s)
  | halt t f => exact kk (execHalt_kept t f s)
  | ibinv t f => exact kk (execIbinv_kept t f s)
  | nop t f => exact kk (execNop_kept t f s)
  | flclr t f => exact kk (execFlclr_kept t f s)
  | vadd t f => exact kk (execVadd_kept t f s)
  | vsub t f => exact kk (execVsub_kept t f s)
  | vmul t f => exact kk (execVmul_kept t f s)
  | vfma t f => exact kk (execVfma_kept t f s)
  | vmin t f => exact kk (execVmin_kept t f s)
  | vmax t f => exact kk (execVmax_kept t f s)
  | vceq t f => exact kk (execVceq_kept t f s)
  | vclt t f => exact kk (execVclt_kept t f s)
  | vcle t f => exact kk (execVcle_kept t f s)
  | vsel t f => exact kk (execVsel_kept t f s)
  | vand t f => exact kk (execVand_kept t f s)
  | vor t f => exact kk (execVor_kept t f s)
  | vxor t f => exact kk (execVxor_kept t f s)
  | vadds t f => exact kk (execVadds_kept t f s)
  | vmuls t f => exact kk (execVmuls_kept t f s)
  | vbcast t f => exact kk (execVbcast_kept t f s)
  | vredsum t f => exact kk (execVredsum_kept t f s)
  | vredmax t f => exact kk (execVredmax_kept t f s)
  | vredmin t f => exact kk (execVredmin_kept t f s)
  | vld t f => exact kk (execVld_kept t f s)
  | vst t f => exact kk (execVst_kept t f s)
  | vcvt t f => exact kk (execVcvt_kept t f s)
  | vcvtmx t f => exact kk (execVcvtmx_kept t f s)
  | vcvtw t f => exact kk (execVcvtw_kept t f s)
  | vmovs t f => exact kk (execVmovs_kept t f s)
  | vins t f => exact kk (execVins_kept t f s)
  | vfx t f => exact kk (execVfx_kept t f s)
  | mop t f => exact kk (execMop_kept t f s)
  | mmv t f => exact kk (execMmv_kept t f s)
  | mfold t f => exact kk (execMfold_kept t f s)
  | mclr t f => exact kk (execMclr_kept t f s)
  | mscl t f => exact kk (execMscl_kept t f s)
  | mrd t f => exact kk (execMrd_kept t f s)
  | mwr t f => exact kk (execMwr_kept t f s)
  | fexp2 t f => exact kk (execFexp2_kept t f s)
  | flog2 t f => exact kk (execFlog2_kept t f s)
  | frcp t f => exact kk (execFrcp_kept t f s)
  | frsq t f => exact kk (execFrsq_kept t f s)
  | ftanh t f => exact kk (execFtanh_kept t f s)
  | randv t f => exact kk (execRandv_kept t f s)
  | rands t f => exact kk (execRands_kept t f s)
  | dma t f => exact kk (execDma_kept t f s)
  | dmaj t f => exact kk (execDmaj_kept t f s)
  | cset t f => exact kk (execCset_kept t f s)
  | crd t f => exact kk (execCrd_kept t f s)
  | waitc t f => exact kk (execWaitc_kept t f s)
  | waitcRelease t => exact kk (execWaitcRelease_kept t s)
  | waitjt t f => exact kk (execWaitjt_kept t f s)
  | waitjtRelease t => exact kk (execWaitjtRelease_kept t s)
  | fence t f => exact kk (execFence_kept t f s)
  | fenceRelease t => exact kk (execFenceRelease_kept t s)
  | eblk t f => exact kk (execEblk_kept t f s)
  | ewait t f => exact kk (execEwait_kept t f s)
  | ewaitGrant cluster => exact kk (execEwaitGrant_kept cluster s)
  | sample t f => exact kk (execSample_kept t f s)
  | sampleDone t => exact kk (execSampleDone_kept t s)
  | localCopyLine t id => exact kk (execLocalCopyLine_kept t id s)
  | agentEntryGrant region => exact kk (execAgentEntryGrant_kept region s)
  | timedRelease t id => exact kk (execTimedRelease_kept t id s)
  | dmaInject t vc => exact kk (execDmaInject_kept t vc s)
  | descComplete t id => exact kk (execDescComplete_kept t id s)
  | routerForward r port vc => exact kk (execRouterForward_kept r port vc s)
  | routerFault r => exact kk (execRouterFault_kept r s)
  | fenceReq w t v => exact kk (execFenceReq_kept w t v s)
  | tileFenceComplete t => exact kk (execTileFenceComplete_kept t s)
  | eccClr w t v => exact kk (execEccClr_kept w t v s)
  | launchStart p => exact kk (execLaunchStart_kept p s)
  | circuitFeed station k row => exact kk (execCircuitFeed_kept station k row s)
  | crossbarSet => exact kk (execCrossbarSet_kept s)
  | circuitBurstSend => exact kk (execCircuitBurstSend_kept s)
  | circuitRowDecode station k row light errs => exact kk (execCircuitRowDecode_kept station k row light errs s)
  | stationPktReceive h => exact kk (execStationPktReceive_kept h s)
  | pktRxLossOfLock station channel => exact kk (execPktRxLossOfLock_kept station channel s)
  | pktRxLockRegain station channel => exact kk (execPktRxLockRegain_kept station channel s)
  | maintInjectStop => exact kk (execMaintInjectStop_kept s)
  | maintQuietStart => exact kk (execMaintQuietStart_kept s)
  | frameBoundary => exact kk (execFrameBoundary_kept s)
  | ringSubstitute => exact kk (execRingSubstitute_kept s)
  | optStnCntClr w station v => exact kk (execOptStnCntClr_kept w station v s)
  | gearChoice => exact kk (execGearChoice_kept s)
  | frameWordWrite p => exact kk (execFrameWordWrite_kept p s)
  | hallTimedRelease port => exact kk (execHallTimedRelease_kept port s)
  | twillActivate p => exact kk (execTwillActivate_kept p s)
  | twillStopTime p => exact kk (execTwillStopTime_kept p s)
  | twlCntClr w v => exact kk (execTwlCntClr_kept w v s)
  | twlRingRpWrite w p v => exact kk (execTwlRingRpWrite_kept w p v s)
  | stationInject station => exact kk (execStationInject_kept station s)
  | msgSpanTimeout t id => exact kk (execMsgSpanTimeout_kept t id s)
  | msgPacketArrive station => exact kk (execMsgPacketArrive_kept station s)
  | msgEntryExpire station => exact kk (execMsgEntryExpire_kept station s)
  | loadApply station => exact kk (execLoadApply_kept station s)
  | storeAccept station => exact kk (execStoreAccept_kept station s)
  | combineEntryWrite station => exact kk (execCombineEntryWrite_kept station s)
  | atomicApply station => exact kk (execAtomicApply_kept station s)
  | mireEntryExpire station => exact kk (execMireEntryExpire_kept station s)
  | loadRspArrive station => exact kk (execLoadRspArrive_kept station s)
  | storeAckArrive station => exact kk (execStoreAckArrive_kept station s)
  | atomicRspArrive station => exact kk (execAtomicRspArrive_kept station s)
  | msgAckArrive station => exact kk (execMsgAckArrive_kept station s)
  | itemTimeout t id => exact kk (execItemTimeout_kept t id s)
  | chipletStampExpire site => exact kk (execChipletStampExpire_kept site s)
  | hallCodewordReceive port cw pkts => exact kk (execHallCodewordReceive_kept port cw pkts s)
  | hallPortExit port cause => exact kk (execHallPortExit_kept port cause s)
  | hallPortEnter port signal aligned => exact kk (execHallPortEnter_kept port signal aligned s)
  | hallPortCfgApply port => exact kk (execHallPortCfgApply_kept port s)
  | gngSample => exact kk (execGngSample_kept s)
  | gngRowReceive station src => exact kk (execGngRowReceive_kept station src s)
  | gngRowStale station src => exact kk (execGngRowStale_kept station src s)
  | gngReset w v => exact kk (execGngReset_kept w v s)
  | pktCntClr w v => exact kk (execPktCntClr_kept w v s)
  | channelRetire w v => exact kk (execChannelRetire_kept w v s)
  | retireCopyDone => exact kk (execRetireCopyDone_kept s)
  | retireSwitch => exact kk (execRetireSwitch_kept s)
  | mireWindowWrite w v => exact kk (execMireWindowWrite_kept w v s)
  | memCntClr w v => exact kk (execMemCntClr_kept w v s)
  | hbmScrub channel line => exact kk (execHbmScrub_kept channel line s)
  | gatherContrib station => exact kk (execGatherContrib_kept station s)
  | groupResend station entry => exact kk (execGroupResend_kept station entry s)
  | acceptReceive station => exact kk (execAcceptReceive_kept station s)
  | gatherTimeoutAdvance station entry => exact kk (execGatherTimeoutAdvance_kept station entry s)
  | rootGroupChunk station => exact kk (execRootGroupChunk_kept station s)
  | rootDeadline station entry => exact kk (execRootDeadline_kept station entry s)
  | collDataReceive station => exact kk (execCollDataReceive_kept station s)
  | endDeliver station => exact kk (execEndDeliver_kept station s)
  | ckptSave w p v => exact kk (execCkptSave_kept w p v s)
  | ckptRestore w p v => exact kk (execCkptRestore_kept w p v s)
  | saveCleanTest p => exact kk (execSaveCleanTest_kept p s)
  | saveStart p => exact kk (execSaveStart_kept p s)
  | saveDone p host => exact kk (execSaveDone_kept p host s)
  | restoreResume p => exact kk (execRestoreResume_kept p s)
  | colCntClr w v => exact kk (execColCntClr_kept w v s)
  | refPllLock => exact kk (execRefPllLock_kept s)
  | timeWordReceive word timely => exact kk (execTimeWordReceive_kept word timely s)
  | syncPulse intervalPs arrivalPs => exact kk (execSyncPulse_kept intervalPs arrivalPs s)
  | holdoverEnter => exact kk (execHoldoverEnter_kept s)
  | sourceReturn => exact kk (execSourceReturn_kept s)
  | reacquire w v => exact kk (execReacquire_kept w v s)
  | timCntClr w v => exact kk (execTimCntClr_kept w v s)
  | timeModeWrite w v => exact kk (execTimeModeWrite_kept w v s)
  | timeRequestSend n => exact kk (execTimeRequestSend_kept n s)
  | timeReplyReceive port p t4 t4frac => exact kk (execTimeReplyReceive_kept port p t4 t4frac s)
  | timePortInvalid n => exact kk (execTimePortInvalid_kept n s)
  | timeEstimateCombine => exact kk (execTimeEstimateCombine_kept s)
  | timeRequestServe port p => exact kk (execTimeRequestServe_kept port p s)
  | timePortCfgApply n => exact kk (execTimePortCfgApply_kept n s)
  | stationTimeWord station checkOk w => exact kk (execStationTimeWord_kept station checkOk w s)
  | tickMissing station => exact kk (execTickMissing_kept station s)
  | stationTimeRestore station => exact kk (execStationTimeRestore_kept station s)
  | stationDelayMeasure station roundTripPs => exact kk (execStationDelayMeasure_kept station roundTripPs s)
  | clockStepStop => exact kk (execClockStepStop_kept s)
  | clockStepFail region backLocked => exact kk (execClockStepFail_kept region backLocked s)
  | clockRestart region => exact kk (execClockRestart_kept region s)
  | clockMonitorWindow place ps dutyMin dutyMax => exact kk (execClockMonitorWindow_kept place ps dutyMin dutyMax s)
  | fallbackSwitch region shortPeriod => exact kk (execFallbackSwitch_kept region shortPeriod s)
  | launchDecision p => exact kk (execLaunchDecision_kept p s)
  | launchEnd p => exact kk (execLaunchEnd_kept p s)
  | gearHoldEnd => exact kk (execGearHoldEnd_kept s)
  | tokenGrant => exact kk (execTokenGrant_kept s)
  | powerCorrection region measured => exact kk (execPowerCorrection_kept region measured s)
  | adcSample die channel reading => exact kk (execAdcSample_kept die channel reading s)
  | predictorUpdate region current => exact kk (execPredictorUpdate_kept region current s)
  | conservativeEnd region => exact kk (execConservativeEnd_kept region s)
  | compatChange => exact kk (execCompatChange_kept s)
  | baseDiodeRead station reading => exact kk (execBaseDiodeRead_kept station reading s)
  | thermalShutdown place comparator => exact kk (execThermalShutdown_kept place comparator s)
  | sdClr w region v => exact kk (execSdClr_kept w region v s)
  | inputLimit watts => exact kk (execInputLimit_kept watts s)
  | park w p v => exact kk (execPark_kept w p v s)
  | parkEnter p => exact kk (execParkEnter_kept p s)
  | unpark w p v => exact kk (execUnpark_kept w p v s)
  | wakeRegionUp region => exact kk (execWakeRegionUp_kept region s)
  | wakeRestart p => exact kk (execWakeRestart_kept p s)
  | heaterUpdate station errs => exact kk (execHeaterUpdate_kept station errs s)
  | splitterCheck station k diff => exact kk (execSplitterCheck_kept station k diff s)
  | ringFail ring cause => exact kk (execRingFail_kept ring cause s)
  | channelSweep reads => exact kk (execChannelSweep_kept reads s)
  | deepCalRequest w v => exact kk (execDeepCalRequest_kept w v s)
  | deepCalStart => exact kk (execDeepCalStart_kept s)
  | deepCalApply rings => exact kk (execDeepCalApply_kept rings s)
  | deepCalEnd flights delays => exact kk (execDeepCalEnd_kept flights delays s)
  | fadeUpdate laser power => exact kk (execFadeUpdate_kept laser power s)
  | spareLock laser => exact kk (execSpareLock_kept laser s)
  | laserSwitchover k => exact kk (execLaserSwitchover_kept k s)
  | switchRequest w v => exact kk (execSwitchRequest_kept w v s)
  | aprReduce port => exact kk (execAprReduce_kept port s)
  | aprProbe port signal => exact kk (execAprProbe_kept port signal s)
  | laneCheck region upErr dnErr => exact kk (execLaneCheck_kept region upErr dnErr s)
  | laneFail region dir lane => exact kk (execLaneFail_kept region dir lane s)
  | bpMapChange region hash => exact kk (execBpMapChange_kept region hash s)
  | linkTraining l r => exact kk (execLinkTraining_kept l r s)
  | trainingRetry l => exact kk (execTrainingRetry_kept l s)
  | hbmRetrain channel badLane => exact kk (execHbmRetrain_kept channel badLane s)
  | hbmTempRead stack temp => exact kk (execHbmTempRead_kept stack temp s)
  | hbmCattrip stack => exact kk (execHbmCattrip_kept stack s)
  | chipletDeclaration station decl => exact kk (execChipletDeclaration_kept station decl s)
  | chipletTimeWord station => exact kk (execChipletTimeWord_kept station s)
  | siteLinkDown station => exact kk (execSiteLinkDown_kept station s)
  | dlkCntClr w v => exact kk (execDlkCntClr_kept w v s)
  | load w v => exact kk (execLoad_kept w v s)
  | unload w v => exact kk (execUnload_kept w v s)
  | region w v => exact kk (execRegion_kept w v s)
  | holdHbm w v => exact kk (execHoldHbm_kept w v s)
  | loaderStart img => exact kk (execLoaderStart_kept img s)
  | quiesceBegin => exact kk (execQuiesceBegin_kept s)
  | quiesceStop p => exact kk (execQuiesceStop_kept p s)
  | applyStart reread => exact execApplyStart_keys reread s
  | applyDone => exact kk (execApplyDone_kept s)
  | scopeResume => exact kk (execScopeResume_kept s)
  | presence => exact kk (execPresence_kept s)
  | presenceWrite w n v => exact kk (execPresenceWrite_kept w n v s)
  | fwStandbyReady => exact kk (execFwStandbyReady_kept s)
  | fwTakeover => exact kk (execFwTakeover_kept s)
  | fwCheckPass => exact kk (execFwCheckPass_kept s)
  | fwFlashDone => exact kk (execFwFlashDone_kept s)
  | fwAbandon => exact kk (execFwAbandon_kept s)
  | recoveryGo w v img => exact kk (execRecoveryGo_kept w v img s)
  | powerOn => exact kk (execPowerOn_kept s)
  | firmwareCheckDone ok => exact kk (execFirmwareCheckDone_kept ok s)
  | fieldPowerUp field => exact kk (execFieldPowerUp_kept field s)
  | fieldBistDone field ok => exact kk (execFieldBistDone_kept field ok s)
  | hbmTrainDone station failedChannels stackFail => exact kk (execHbmTrainDone_kept station failedChannels stackFail s)
  | hbmZeroFillDone station => exact kk (execHbmZeroFillDone_kept station s)
  | laserStart laser => exact kk (execLaserStart_kept laser s)
  | laserLock laser locked => exact kk (execLaserLock_kept laser locked s)
  | bootWinWrite w p hi v => exact kk (execBootWinWrite_kept w p hi v s)
  | regionEnableStart region => exact kk (execRegionEnableStart_kept region s)
  | clusterUngate region cluster => exact kk (execClusterUngate_kept region cluster s)
  | regionClockStart region => exact kk (execRegionClockStart_kept region s)
  | regionEnableDone region badSites badRouters => exact kk (execRegionEnableDone_kept region badSites badRouters s)
  | pcieLinkDown port cause => exact kk (execPcieLinkDown_kept port cause s)
  | pcieLinkUp port => exact kk (execPcieLinkUp_kept port s)
  | pciePortReset port => exact kk (execPciePortReset_kept port s)
  | bar2Write port addr data poisoned => exact kk (execBar2Write_kept port addr data poisoned s)
  | bar2Read port addr len => exact kk (execBar2Read_kept port addr len s)
  | bar2ReadComplete port => exact kk (execBar2ReadComplete_kept port s)
  | hostFlushRead port => exact kk (execHostFlushRead_kept port s)
  | pcieCompletion port tag o => exact kk (execPcieCompletion_kept port tag o s)
  | renew w p => exact kk (execRenew_kept w p s)
  | claim w p => exact kk (execClaim_kept w p s)
  | release w p => exact kk (execRelease_kept w p s)
  | leaseExpire p => exact kk (execLeaseExpire_kept p s)
  | launchRecordWrite w offset data => exact kk (execLaunchRecordWrite_kept w offset data s)
  | cqRpWrite w p v => exact kk (execCqRpWrite_kept w p v s)
  | mctpControl m => exact kk (execMctpControl_kept m s)
  | getState => exact kk (execGetState_kept s)
  | getTemps die => exact kk (execGetTemps_kept die s)
  | readReg offset => exact kk (execReadReg_kept offset s)
  | readPeat seq => exact kk (execReadPeat_kept seq s)
  | getVersion via => exact kk (execGetVersion_kept via s)
  | getCapabilities via => exact kk (execGetCapabilities_kept via s)
  | negotiateAlgorithms via offer => exact kk (execNegotiateAlgorithms_kept via offer s)
  | getDigests via => exact kk (execGetDigests_kept via s)
  | getCertificate via slot offset length => exact kk (execGetCertificate_kept via slot offset length s)
  | challenge via slot nonce => exact kk (execChallenge_kept via slot nonce s)
  | getMeasurements via nonce => exact kk (execGetMeasurements_kept via nonce s)
  | spdmUnsupported via code => exact kk (execSpdmUnsupported_kept via code s)
  | bypass => exact kk (execBypass_kept s)
  | idcode => exact kk (execIdcode_kept s)
  | samplePreload => exact kk (execSamplePreload_kept s)
  | extest => exact kk (execExtest_kept s)
  | extestPulse => exact kk (execExtestPulse_kept s)
  | extestTrain => exact kk (execExtestTrain_kept s)
  | clamp => exact kk (execClamp_kept s)
  | highz => exact kk (execHighz_kept s)
  | inputVoltageFault => exact kk (execInputVoltageFault_kept s)
  | coolantFlowLoss => exact kk (execCoolantFlowLoss_kept s)
  | leakDetect => exact kk (execLeakDetect_kept s)
  | mgmtCoreDisagree o => exact kk (execMgmtCoreDisagree_kept o s)
  | safeExit w v inputsOk => exact kk (execSafeExit_kept w v inputsOk s)
  | safeExitDone => exact kk (execSafeExitDone_kept s)
  | peatRecord => exact kk (execPeatRecord_kept s)
  | peatStageSend die => exact kk (execPeatStageSend_kept die s)
  | peatRateWindow => exact kk (execPeatRateWindow_kept s)
  | clear w v => exact kk (execClear_kept w v s)
  | flush w v => exact kk (execFlush_kept w v s)
  | flushDone written => exact kk (execFlushDone_kept written s)
  | flashClear w v => exact kk (execFlashClear_kept w v s)
  | flashEraseDone => exact kk (execFlashEraseDone_kept s)
  | powerFailFlush => exact kk (execPowerFailFlush_kept s)
  | peatReadLatch w v => exact kk (execPeatReadLatch_kept w v s)
  | tstKeyWrite w v => exact kk (execTstKeyWrite_kept w v s)
  | tstLock w v => exact kk (execTstLock_kept w v s)
  | tstSettingWrite w addr v => exact kk (execTstSettingWrite_kept w addr v s)
  | tstSeedWrite w v => exact kk (execTstSeedWrite_kept w v s)
  | inputDisconnect => exact kk (execInputDisconnect_kept s)
  | powerOffResetExit => exact kk (execPowerOffResetExit_kept s)
  | modReset => exact kk (execModReset_kept s)
  | mateBreak => exact kk (execMateBreak_kept s)
  | modResetRelease => exact kk (execModResetRelease_kept s)
  | htRefLockLoss => exact kk (execHtRefLockLoss_kept s)
  | atomicStaleInWait station => exact kk (execAtomicStaleInWait_kept station s)
  | doeDiscovery port index => exact kk (execDoeDiscovery_kept port index s)
  | pcieConfigWrite port bme msix => exact kk (execPcieConfigWrite_kept port bme msix s)
  | recoveryFlashDone => exact kk (execRecoveryFlashDone_kept s)
end Sys2Proof.Machine
end

