-- ==== Sys2Proof/Laws/SaveArea.lean ====
section
/-! SUPPORT. The header of a save area reads back as written, whatever the layout of its bytes is (R279). -/

namespace Sys2Proof.Machine

theorem ofFn_leBytes (n v : Nat) : List.ofFn (fun i : Fin n => BitVec.ofNat 8 (v / 256 ^ i.val)) = leBytes n v := by
  induction n generalizing v with
  | zero => rfl
  | succ n ih =>
    rw [List.ofFn_succ, leBytes, ← ih (v / 256)]
    simp [Nat.pow_succ', Nat.div_div_eq_div_mul]

@[simp] theorem placed_length (p : Equiv.Perm (Fin 128)) (v : Nat) : (placed p v).length = 128 :=
  List.length_ofFn

/-- The fields of a header read back, in every layout. -/
theorem unplaced_placed (p : Equiv.Perm (Fin 128)) (v : Nat) : unplaced p (placed p v) = v % 256 ^ 128 := by
  have h : ∀ i : Fin 128, (placed p v).getD (p.symm i).val 0 = BitVec.ofNat 8 (v / 256 ^ i.val) := by
    intro i
    rw [List.getD_eq_getElem _ _ (by rw [placed_length]; exact (p.symm i).isLt)]
    unfold placed
    rw [List.getElem_ofFn, Fin.eta, Equiv.apply_symm_apply]
  unfold unplaced
  simp only [h]
  rw [ofFn_leBytes, leNat_leBytes]

/-- R279: what the header of an area says is what the area's fields say. -/
theorem headerOf_header (a : SaveArea) : headerOf a.header = SaveArea.ofFields (a.fields % 256 ^ 128) := by
  rw [headerOf, SaveArea.header, unplaced_placed]

/-- R279: the checked fields of an area come back from its header, cut to their widths. -/
theorem headerOf_checked (a : SaveArea) : (headerOf a.header).digest = a.digest ∧
    (headerOf a.header).gradeTiles = a.gradeTiles % 2 ^ 32 ∧ (headerOf a.header).tiles = a.tiles % 2 ^ 32 ∧
    (headerOf a.header).jframe = a.jframe % 2 ^ 64 := by
  have hd : a.digest.toNat < 2 ^ 256 := a.digest.isLt
  have hm : Config.savedMagic.toNat < 2 ^ 32 := Config.savedMagic.isLt
  rw [headerOf_header]
  unfold SaveArea.fields SaveArea.ofFields bits at_
  dsimp only
  generalize Config.savedMagic.toNat = m at hm ⊢
  generalize hg : a.gradeTiles % 2 ^ 32 = g
  generalize ht : a.tiles % 2 ^ 32 = t
  generalize hj : a.jframe % 2 ^ 64 = j
  generalize he : a.gear % 2 ^ 8 = e
  generalize hs : a.size % 2 ^ 64 = z
  have h1 : g < 2 ^ 32 := hg ▸ Nat.mod_lt _ (by decide)
  have h2 : t < 2 ^ 32 := ht ▸ Nat.mod_lt _ (by decide)
  have h3 : j < 2 ^ 64 := hj ▸ Nat.mod_lt _ (by decide)
  have h4 : e < 2 ^ 8 := he ▸ Nat.mod_lt _ (by decide)
  have h5 : z < 2 ^ 64 := hs ▸ Nat.mod_lt _ (by decide)
  clear hg ht hj he hs
  refine ⟨BitVec.eq_of_toNat_eq ?_, ?_, ?_, ?_⟩
  · rw [BitVec.toNat_ofNat]
    omega
  all_goals omega

/-- R279: the header stands at the start of an area's bytes. -/
theorem take_bytes (a : SaveArea) : a.bytes.take 128 = a.header := by
  have h : a.header.length = 128 := placed_length _ _
  rw [SaveArea.bytes, List.append_assoc, List.take_append_of_le_length (Nat.le_of_eq h.symm), ← h, List.take_length]

end Sys2Proof.Machine
end

