-- ==== Sys2Proof/Laws/Tick.lean ====
section
/-! SUPPORT. What the passing of one nanosecond can do. -/

namespace Sys2Proof.Machine

/-- Every entry of a table changed in place: what a key reads. -/
theorem mget_map {α : Type} (d : α) (g : Nat → α → α) (m : SMap α) (k : Nat) :
    mget d (m.map fun p => (p.1, g p.1 p.2)) k = if k ∈ m.map (·.1) then g k (mget d m k) else d := by
  induction m with
  | nil => rfl
  | cons a m ih =>
    by_cases h : a.1 = k
    · simp [mget, h]
    · simp only [List.map_cons, mget, h, if_false, ih, List.mem_cons, Ne.symm h, false_or]

theorem mget_absent {α : Type} (d : α) (m : SMap α) (k : Nat) (h : k ∉ m.map (·.1)) : mget d m k = d := by
  induction m with
  | nil => rfl
  | cons a m ih =>
    simp only [List.map_cons, List.mem_cons, not_or] at h
    simp [mget, Ne.symm h.1, ih h.2]

/-- R104: a nanosecond changes the count of cycles of a tile, and nothing else of it. -/
theorem State.tile_tickCounts (s : State) (k : Nat) :
    s.tickCounts.tile k = { s.tile k with cycles := (s.tickCounts.tile k).cycles, cycFrac := (s.tickCounts.tile k).cycFrac } := by
  by_cases h : k ∈ s.tiles.map (·.1)
  · have e : s.tickCounts.tile k = if (s.part (s.tile k).partition).ckStands then s.tile k
        else (s.tile k).count ((s.rgn (tileRegion k)).cyclesIn s.time.ht) := by
      refine (mget_map {} (fun j x => if (s.part x.partition).ckStands then x
        else x.count ((s.rgn (tileRegion j)).cyclesIn s.time.ht)) s.tiles k).trans ?_
      rw [if_pos h]
      rfl
    rw [e]
    split
    · rfl
    · unfold Tile.count
      split <;> rfl
  · have e : s.tickCounts.tile k = s.tile k := by
      refine (mget_absent _ _ _ ?_).trans (mget_absent {} s.tiles k h).symm
      simpa [State.tickCounts] using h
    rw [e]

theorem State.part_tickCounts (s : State) (p : Nat) : s.tickCounts.part p = s.part p := rfl

theorem State.stopped_tickCounts (s : State) (r : Nat) : (s.tickCounts.rgn r).stopped = (s.rgn r).stopped := by
  by_cases h : r ∈ s.regions.map (·.1)
  · have e : s.tickCounts.rgn r = (s.rgn r).count ((s.rgn r).cyclesIn s.time.ht) := by
      refine (mget_map {} (fun _ x => x.count (x.cyclesIn s.time.ht)) s.regions r).trans ?_
      rw [if_pos h]
      rfl
    rw [e]
    rfl
  · exact congrArg Region.stopped ((mget_absent _ _ _ (by simpa [State.tickCounts] using h)).trans
      (mget_absent {} s.regions r h).symm)

theorem State.issuing_tickCounts (s : State) (k : Nat) : s.tickCounts.issuing k = s.issuing k := by
  have h := s.tile_tickCounts k
  have hs : (s.tickCounts.tile k).st = (s.tile k).st := (congrArg Tile.st h).trans rfl
  have hp : (s.tickCounts.tile k).partition = (s.tile k).partition := (congrArg Tile.partition h).trans rfl
  simp only [State.issuing, hs, hp, s.stopped_tickCounts, s.part_tickCounts]

/-- Everything the sequencer of a tile can meet with no command: a fetch outside its range, a word that no
instruction has, or nothing. -/
theorem State.seqFault_cases (s : State) (t : Nat) :
    s.seqFault t =
      if s.issuing t = false then s
      else if (s.tile t).fetchOk = false then s.tileFault t .range
      else if decodeTile t (s.tile t).nextWord = none then s.tileFault t .illegal
      else s := by
  simp [State.seqFault]

/-- A tile's sequencer changes no other tile. -/
theorem State.seqFault_tile_ne (s : State) {t k : Nat} (h : k ≠ t) : (s.seqFault t).tile k = s.tile k := by
  rw [s.seqFault_cases]
  (repeat' split) <;> simp [State.tileFault, State.updTile, State.tile_setTile_ne, h]

/-- A tile's sequencer changes the tiles alone. -/
theorem State.seqFault_frame (s : State) (t : Nat) : { s.seqFault t with tiles := s.tiles } = s := by
  rw [s.seqFault_cases]
  (repeat' split) <;> rfl

/-- The passing of a nanosecond changes time, the module's own count, the region clocks and the tiles alone. -/
theorem State.tick_frame (s : State) : s.tick.time = s.time.tick ∧ s.tick.boot = s.boot.tick s.time.oscUnits ∧
    { s.tick with time := s.time, boot := s.boot, tiles := s.tiles, regions := s.regions } = s := by
  have h : ∀ (l : List Nat) (u : State), { l.foldl State.seqFault u with tiles := s.tiles } = { u with tiles := s.tiles } := by
    intro l
    induction l with
    | nil => exact fun u => rfl
    | cons t l ih => exact fun u => (ih _).trans (congrArg (fun v : State => { v with tiles := s.tiles }) (u.seqFault_frame t))
  have e := h (s.tiles.map (·.1)) s.tickCounts
  exact ⟨congrArg State.time e, congrArg State.boot e,
    congrArg (fun v : State => { v with time := s.time, boot := s.boot, regions := s.regions }) e⟩

/-- A tile whose sequencer meets nothing keeps all but its count of cycles. -/
theorem State.tick_tile_idle (s : State) (k : Nat) (h : s.issuing k = false) : s.tick.tile k = s.tickCounts.tile k := by
  have key : ∀ (l : List Nat) (u : State), u.issuing k = false → (l.foldl State.seqFault u).tile k = u.tile k := by
    intro l
    induction l with
    | nil => exact fun u _ => rfl
    | cons t l ih =>
      intro u hu
      by_cases ht : k = t
      · subst ht
        have e : u.seqFault k = u := by rw [State.seqFault_cases, hu]; rfl
        rw [List.foldl_cons, e]
        exact ih u hu
      · have e := u.seqFault_tile_ne ht
        have hi : (u.seqFault t).issuing k = false := by
          rw [← hu]
          have hr : (u.seqFault t).regions = u.regions := (congrArg State.regions (u.seqFault_frame t)).trans rfl
          have hp : (u.seqFault t).parts = u.parts := (congrArg State.parts (u.seqFault_frame t)).trans rfl
          simp only [State.issuing, e, State.rgn, State.part, hr, hp]
        exact (ih _ hi).trans e
  exact key _ _ ((s.issuing_tickCounts k).trans h)

/-- R100, R101: a sequencer that meets a word that no instruction has faults with ILLEGAL. -/
theorem State.tick_tile_illegal (s : State) (k : Nat) (hk : k ∈ s.tiles.map (·.1)) (h : s.issuing k = true)
    (hf : (s.tile k).fetchOk = true) (hd : decodeTile k (s.tile k).nextWord = none) :
    s.tick.tile k = (s.tickCounts.tile k).faulted .illegal := by
  have key : ∀ (l : List Nat) (u : State), k ∈ l → u.issuing k = true → (u.tile k).fetchOk = true →
      decodeTile k (u.tile k).nextWord = none → (l.foldl State.seqFault u).tile k = (u.tile k).faulted .illegal := by
    intro l
    induction l with
    | nil => exact fun u hm => by cases hm
    | cons t l ih =>
      intro u hm hu hf hd
      by_cases ht : k = t
      · subst ht
        have e : u.seqFault k = u.tileFault k .illegal := by rw [State.seqFault_cases, hu, hf, hd]; simp
        rw [List.foldl_cons, e]
        have done : ∀ (l : List Nat) (v : State), (v.tile k).st = .faulted → (l.foldl State.seqFault v).tile k = v.tile k := by
          intro l
          induction l with
          | nil => exact fun v _ => rfl
          | cons t l ih =>
            intro v hv
            have e : (v.seqFault t).tile k = v.tile k := by
              by_cases ht : k = t
              · subst ht
                rw [State.seqFault_cases, if_pos (by simp [State.issuing, hv])]
              · exact v.seqFault_tile_ne ht
            exact (ih _ (e ▸ hv)).trans e
        have hs : (u.tileFault k .illegal).tile k = (u.tile k).faulted .illegal := u.tile_tileFault k _
        exact (done l _ (hs ▸ ((u.tile k).faulted_keeps _).1)).trans hs
      · have e := u.seqFault_tile_ne ht
        have hr : (u.seqFault t).regions = u.regions := (congrArg State.regions (u.seqFault_frame t)).trans rfl
        have hp : (u.seqFault t).parts = u.parts := (congrArg State.parts (u.seqFault_frame t)).trans rfl
        have hi : (u.seqFault t).issuing k = u.issuing k := by
          simp only [State.issuing, e, State.rgn, State.part, hr, hp]
        rw [List.foldl_cons, ih _ (by simpa [ht] using hm) (hi.trans hu) (by rw [e]; exact hf) (by rw [e]; exact hd), e]
  have et := s.tile_tickCounts k
  refine key _ _ hk ((s.issuing_tickCounts k).trans h) ?_ ?_
  · rw [et]; exact hf
  · rw [et]; exact hd

end Sys2Proof.Machine
end

