-- ==== Sys2Proof/Laws/Vector.lean ====
section
/-! SUPPORT. Packing of codes into a register, and the issue of vector and matrix instructions. -/

namespace Sys2Proof.Machine

/-- Two outcomes with equal states. -/
theorem next_congr {a b : State} (h : a = b) : (Host.Outcome.next a : Res) = .next b := by rw [h]

/-- A vector instruction that may issue and is legal retires with its effect on the tile. -/
theorem State.vec_ran {s : State} {t occ : Nat} {sregs : List Nat} {legal : Bool} {run : Tile → Tile}
    {g : Tile → Tile} (h : s.canIssue t f (some .vector) sregs) (hl : legal = true)
    (hr : run ((s.tile t).issued (some .vector) occ) = g ((s.tile t).issued (some .vector) occ)) :
    s.vecIssue t f occ sregs legal run = s.ran t (some .vector) occ g := by
  unfold State.vecIssue
  exact State.issue_ran h hl (by rw [hr])

@[simp] theorem Tile.issued_lanes (x : Tile) (u : Option ExecUnit) (occ fmt r : Nat) :
    (x.issued u occ).lanes fmt r = x.lanes fmt r := by simp [Tile.lanes]

@[simp] theorem Tile.issued_groupLanes (x : Tile) (u : Option ExecUnit) (occ fmt r n : Nat) :
    (x.issued u occ).groupLanes fmt r n = x.groupLanes fmt r n := by simp [Tile.groupLanes]

@[simp] theorem Tile.issued_rmem (x : Tile) (u : Option ExecUnit) (occ a n : Nat) :
    (x.issued u occ).rmem a n = x.rmem a n := by simp [Tile.rmem]

@[simp] theorem Tile.noteCorr_rm (x : Tile) (a n r : Nat) : (x.noteCorr a n).rm r = x.rm r := by
  simp [Tile.rm]

@[simp] theorem Tile.ws_draw2 (x : Tile) (r : Nat) (v : W64) : (x.ws r v).draw2 = x.draw2 := by
  unfold Tile.ws
  split <;> rfl

@[simp] theorem Tile.issued_draw2 (x : Tile) (u : Option ExecUnit) (occ : Nat) :
    (x.issued u occ).draw2 = x.draw2 := by
  cases u with
  | none => rfl
  | some u => cases u <;> rfl

@[simp] theorem Tile.issued_logical (x : Tile) (u : Option ExecUnit) (occ : Nat) :
    (x.issued u occ).logical = x.logical := by
  cases u with
  | none => rfl
  | some u => cases u <;> rfl

@[simp] theorem Tile.issued_partition (x : Tile) (u : Option ExecUnit) (occ : Nat) :
    (x.issued u occ).partition = x.partition := by
  cases u with
  | none => rfl
  | some u => cases u <;> rfl

/-- R42, R43: the blocks of stream 2 are those of its draw counter. -/
theorem Tile.peekBlocks_two (y : Tile) (seed : W64) (n : Nat) :
    y.peekBlocks seed 2 n = (List.range n).map fun i => philox seed (y.draw2 + BitVec.ofNat 64 i) 2 y.logical := by
  generalize hp : (fun i => philox seed (y.draw2 + BitVec.ofNat 64 i) 2 y.logical) = p
  rw [← hp]
  rfl

/-- The first block of one. -/
theorem head_block (p : W64 → W64 → Nat → Nat → Nat) (seed d : W64) (k l : Nat) :
    ((List.range 1).map fun i => p seed (d + BitVec.ofNat 64 i) k l) = [p seed d k l] := by
  simp [List.range_succ]

theorem Tile.peekBlocks_two_one (y : Tile) (seed : W64) :
    y.peekBlocks seed 2 1 = [philox seed y.draw2 2 y.logical] := by
  rw [Tile.peekBlocks_two, head_block]

/-! ## Packing of codes -/

theorem packCodes_lt (w : Nat) (cs : List Nat) : packCodes w cs < 2 ^ (w * cs.length) := by
  induction cs with
  | nil => simp [packCodes]
  | cons c cs ih =>
    simp only [packCodes, List.length_cons]
    have h1 : c % 2 ^ w < 2 ^ w := Nat.mod_lt _ (Nat.two_pow_pos _)
    rw [show w * (cs.length + 1) = w + w * cs.length by ring, pow_add]
    calc c % 2 ^ w + 2 ^ w * packCodes w cs < 2 ^ w + 2 ^ w * packCodes w cs := by omega
      _ = 2 ^ w * (packCodes w cs + 1) := by ring
      _ ≤ _ := Nat.mul_le_mul_left _ ih

theorem packCodes_get (w : Nat) (cs : List Nat) (i : Nat) (hi : i < cs.length) :
    packCodes w cs / 2 ^ (w * i) % 2 ^ w = cs[i] % 2 ^ w := by
  induction cs generalizing i with
  | nil => simp at hi
  | cons c cs ih =>
    cases i with
    | zero => simp [packCodes]
    | succ i =>
      simp only [packCodes, List.getElem_cons_succ]
      rw [show w * (i + 1) = w + w * i by ring, pow_add, ← Nat.div_div_eq_div_mul]
      rw [Nat.add_mul_div_left _ _ (Nat.two_pow_pos _), Nat.div_eq_of_lt (Nat.mod_lt _ (Nat.two_pow_pos _)),
        Nat.zero_add]
      exact ih i (by simpa using hi)

/-- R70: every format has elements of at least one bit, at least one of them, within 1,024 bits. -/
theorem fmt_fits (fmt : Nat) (h : fmt ≤ 10) :
    0 < fmtWidth fmt ∧ 0 < fmtLanes fmt ∧ fmtWidth fmt * fmtLanes fmt ≤ 1024 := by
  have : fmt = 0 ∨ fmt = 1 ∨ fmt = 2 ∨ fmt = 3 ∨ fmt = 4 ∨ fmt = 5 ∨ fmt = 6 ∨ fmt = 7 ∨ fmt = 8 ∨ fmt = 9 ∨
    fmt = 10 := by omega
  rcases this with rfl | rfl | rfl | rfl | rfl | rfl | rfl | rfl | rfl | rfl | rfl <;> decide

end Sys2Proof.Machine
end

