-- ==== Sys2Proof/WellFormed.lean ====
section
/-! DEFINITION. Which operands of a command name something the module has: a Boolean check. A
command whose operands name nothing has no effect on the part it would name. -/

namespace Sys2Proof

/-- A tile key: a compute die 0-19, a region, a slot. -/
def tileOk (t : Nat) : Bool := t < 20 * 4096
/-- A data station, 0-30 (R15). -/
def stationOk (n : Nat) : Bool := n < 31
/-- A chiplet site: stations 27-30. -/
def siteOk (n : Nat) : Bool := 27 ≤ n && n < 31
/-- A region key: die × 16 + region. -/
def regionOk (r : Nat) : Bool := r < 320
/-- A physical cluster of a region. -/
def clusterOk (c : Nat) : Bool := c < 16
/-- A partition. -/
def partOk (p : Nat) : Bool := p < 64
/-- A hall port. -/
def hallOk (p : Nat) : Bool := p < 32
/-- A PCIe port. -/
def pcieOk (p : Nat) : Bool := p < 2
/-- A laser of field 31. -/
def laserOk (l : Nat) : Bool := l < 40
/-- A virtual channel. -/
def vcOk (v : Nat) : Bool := v < 4
/-- A waveguide index of the circuit plane. -/
def indexOk (k : Nat) : Bool := 4 ≤ k && k < 32
/-- A time port. -/
def timePortOk (n : Nat) : Bool := n < 8
/-- A packet channel of a station. -/
def pktChOk (c : Nat) : Bool := c < 64
/-- A memory channel. -/
def chanOk (c : Nat) : Bool := c < 192
/-- An HBM3E stack. -/
def stackOk (n : Nat) : Bool := n < 12
/-- A compute die. -/
def dieOk (d : Nat) : Bool := d < 20
/-- A collective entry. -/
def entryOk (e : Nat) : Bool := e < 4096
/-- An access size of BAR0. -/
def sizeOk (n : Nat) : Bool := 1 ≤ n && n ≤ 256
/-- An offset of BAR0. -/
def barOk (a : Nat) : Bool := a < 2 ^ 26

/-- Every operand that names a part of the module names one that exists. -/
def Instr.wf (i : Instr) : Bool :=
  match i with
  | .moduleReset | .routerFault _ | .crossbarSet | .circuitBurstSend | .stationPktReceive _
  | .maintInjectStop | .maintQuietStart | .frameBoundary | .ringSubstitute | .gearChoice
  | .twlCntClr _ _ | .gngSample | .gngReset _ _ | .pktCntClr _ _ | .channelRetire _ _
  | .retireCopyDone | .retireSwitch | .mireWindowWrite _ _ | .memCntClr _ _ | .colCntClr _ _
  | .refPllLock | .timeWordReceive _ _ | .syncPulse _ _ | .holdoverEnter | .sourceReturn
  | .reacquire _ _ | .timCntClr _ _ | .timeModeWrite _ _ | .timeEstimateCombine | .clockStepStop
  | .gearHoldEnd | .tokenGrant | .compatChange | .thermalShutdown _ _ | .inputLimit _
  | .ringFail _ _ | .channelSweep _ | .deepCalRequest _ _ | .deepCalStart | .deepCalApply _
  | .deepCalEnd _ _ | .switchRequest _ _ | .linkTraining _ _ | .trainingRetry _ | .dlkCntClr _ _
  | .load _ _ | .unload _ _ | .region _ _ | .holdHbm _ _ | .loaderStart _ | .quiesceBegin
  | .applyStart _ | .applyDone | .scopeResume | .presence | .presenceWrite _ _ _ | .fwStandbyReady
  | .fwTakeover | .fwCheckPass | .fwFlashDone | .fwAbandon | .recoveryGo _ _ _ | .powerOn
  | .firmwareCheckDone _ | .fieldPowerUp _ | .fieldBistDone _ _ | .launchRecordWrite _ _ _
  | .mctpControl _ | .getState | .readReg _ | .readPeat _ | .getVersion _ | .getCapabilities _
  | .negotiateAlgorithms _ _ | .getDigests _ | .getCertificate _ _ _ _ | .challenge _ _ _
  | .getMeasurements _ _ | .spdmUnsupported _ _ | .bypass | .idcode | .samplePreload | .extest
  | .extestPulse | .extestTrain | .clamp | .highz | .inputVoltageFault | .coolantFlowLoss
  | .leakDetect | .mgmtCoreDisagree _ | .safeExit _ _ _ | .safeExitDone | .peatRecord
  | .peatRateWindow | .clear _ _ | .flush _ _ | .flushDone _ | .flashClear _ _ | .flashEraseDone
  | .powerFailFlush | .peatReadLatch _ _ | .tstKeyWrite _ _ | .tstLock _ _
  | .tstSettingWrite _ _ _ | .tstSeedWrite _ _ | .inputDisconnect | .powerOffResetExit | .modReset
  | .mateBreak | .modResetRelease | .htRefLockLoss | .recoveryFlashDone => true
  | .regWrite _ addr size _ => barOk addr && sizeOk size.size
  | .regLoReadLatch _ ⟨addr, _⟩ | .regLoWriteStage _ addr _ | .regHiWriteApply _ addr _ => barOk addr
  | .ibufMissFill t _ _ | .unitQueueStart t _ | .scrubLine t _ | .scrubForced t _ | .add t _
  | .sub t _ | .and t _ | .or t _ | .xor t _ | .sll t _ | .srl t _ | .sra t _ | .mul t _
  | .mulh t _ | .mulhu t _ | .slt t _ | .sltu t _ | .min t _ | .max t _ | .addi t _ | .andi t _
  | .ori t _ | .xori t _ | .slli t _ | .srli t _ | .srai t _ | .muli t _ | .slti t _ | .sltui t _
  | .li t _ | .lih t _ | .ldu1 t _ | .ldu2 t _ | .ldu4 t _ | .ldu8 t _ | .lds1 t _ | .lds2 t _
  | .lds4 t _ | .st1 t _ | .st2 t _ | .st4 t _ | .st8 t _ | .beq t _ | .bne t _ | .blt t _
  | .bge t _ | .bltu t _ | .bgeu t _ | .jal t _ | .jalr t _ | .rdsys t _ | .halt t _ | .ibinv t _
  | .nop t _ | .flclr t _ | .vadd t _ | .vsub t _ | .vmul t _ | .vfma t _ | .vmin t _ | .vmax t _
  | .vceq t _ | .vclt t _ | .vcle t _ | .vsel t _ | .vand t _ | .vor t _ | .vxor t _ | .vadds t _
  | .vmuls t _ | .vbcast t _ | .vredsum t _ | .vredmax t _ | .vredmin t _ | .vld t _ | .vst t _
  | .vcvt t _ | .vcvtmx t _ | .vcvtw t _ | .vmovs t _ | .vins t _ | .vfx t _ | .mop t _ | .mmv t _
  | .mfold t _ | .mclr t _ | .mscl t _ | .mrd t _ | .mwr t _ | .fexp2 t _ | .flog2 t _ | .frcp t _
  | .frsq t _ | .ftanh t _ | .randv t _ | .rands t _ | .dma t _ | .dmaj t _ | .cset t _ | .crd t _
  | .waitc t _ | .waitcRelease t | .waitjt t _ | .waitjtRelease t | .fence t _ | .fenceRelease t
  | .eblk t _ | .ewait t _ | .sample t _ | .sampleDone t | .localCopyLine t _ | .timedRelease t _
  | .descComplete t _ | .fenceReq _ t _ | .tileFenceComplete t | .eccClr _ t _
  | .msgSpanTimeout t _ | .itemTimeout t _ => tileOk t
  | .ewaitGrant cluster => regionOk (cluster / 16)
  | .agentEntryGrant rg | .clockStepFail rg _ | .clockRestart rg
  | .clockMonitorWindow (.region rg) _ _ _ | .fallbackSwitch rg _ | .powerCorrection rg _
  | .predictorUpdate rg _ | .conservativeEnd rg | .sdClr _ rg _ | .wakeRegionUp rg
  | .laneCheck rg _ _ | .laneFail rg _ _ | .bpMapChange rg _
  | .regionEnableStart rg | .regionClockStart rg | .regionEnableDone rg _ _ => regionOk rg
  | .dmaInject t vc => tileOk t && vcOk vc
  | .routerForward _ _ vc => vcOk vc
  | .launchStart p | .frameWordWrite p | .twillActivate p | .twillStopTime p
  | .twlRingRpWrite _ p _ | .ckptSave _ p _ | .ckptRestore _ p _ | .saveCleanTest p | .saveStart p
  | .saveDone p _ | .restoreResume ⟨p, _⟩ | .launchDecision p | .launchEnd p | .park _ p _
  | .parkEnter p | .unpark _ p _ | .wakeRestart p | .quiesceStop p | .bootWinWrite _ p _ _
  | .renew _ p | .claim _ p | .release _ p | .leaseExpire p | .cqRpWrite _ p _ => partOk p
  | .clockMonitorWindow (.tick n) _ _ _ => stationOk n
  | .splitterCheck station k _ => stationOk station && decide (k < 32)
  | .circuitFeed station k ⟨row, stream, damage⟩ =>
    stationOk station && indexOk k && decide (row < 45) && (stream ++ damage).all fun x => x.1 / 16 == row
  | .circuitRowDecode station k row _ ⟨errs, damage⟩ =>
    stationOk station && indexOk k && decide (row < 45) && (errs.all fun x => decide (x.1 < 16) && decide (x.2 < 266)) &&
      damage.all fun x => decide (x.1 < 16) && x.2.1 / 16 == row
  | .pktRxLossOfLock station channel | .pktRxLockRegain station channel => stationOk station && pktChOk channel
  | .optStnCntClr _ station _ | .stationInject station | .msgPacketArrive station
  | .msgEntryExpire station | .loadApply station | .storeAccept station
  | .combineEntryWrite station | .atomicApply station | .mireEntryExpire station
  | .loadRspArrive station | .storeAckArrive station | .atomicRspArrive station
  | .msgAckArrive station | .gatherContrib station | .acceptReceive station
  | .rootGroupChunk station | .collDataReceive station | .endDeliver station
  | .stationTimeWord station _ _ | .tickMissing station | .stationTimeRestore station
  | .stationDelayMeasure station _ | .baseDiodeRead station _ | .heaterUpdate station _
  | .chipletDeclaration station _ | .chipletTimeWord station | .siteLinkDown station
  | .hbmTrainDone station _ _ | .hbmZeroFillDone station | .atomicStaleInWait station => stationOk station
  | .hallTimedRelease port | .hallCodewordReceive port _ _ | .hallPortExit port _
  | .hallPortEnter port _ _ | .hallPortCfgApply port | .timeReplyReceive port _ _ _
  | .timeRequestServe port _ | .aprReduce port | .aprProbe port _ => hallOk port
  | .chipletStampExpire site => siteOk site
  | .gngRowReceive station src | .gngRowStale station src => stationOk station && stationOk src
  | .hbmScrub channel _ | .hbmRetrain channel _ => chanOk channel
  | .groupResend station entry | .gatherTimeoutAdvance station entry | .rootDeadline station entry => stationOk station && entryOk entry
  | .timeRequestSend n | .timePortInvalid n | .timePortCfgApply n => timePortOk n
  | .adcSample die _ _ | .getTemps die | .peatStageSend die => dieOk die
  | .fadeUpdate laser _ | .spareLock laser | .laserStart laser | .laserLock laser _ => laserOk laser
  | .laserSwitchover k => decide (k < 32)
  | .hbmTempRead stack _ | .hbmCattrip stack => stackOk stack
  | .clusterUngate rg cluster => regionOk rg && clusterOk cluster
  | .pcieLinkDown port _ | .pcieLinkUp port | .pciePortReset port | .bar2Write port _ _ _
  | .bar2Read port _ _ | .bar2ReadComplete port | .hostFlushRead port | .pcieCompletion port _ _
  | .doeDiscovery port _ | .pcieConfigWrite port _ _ => pcieOk port

end Sys2Proof
end

