-- ==== Sys2Proof/Tests/Slice0.lean ====
section
/-! SUPPORT. Tests: the smoke tests of the checks, worked examples of the manual, and for every statement with
hypotheses a concrete state and operands that meet all hypotheses of each of its clauses. -/

namespace Sys2Proof.Tests

open Machine

set_option Elab.async false

/-! ## The checks of operands refuse -/

theorem smoke_parts : tileOk 0 = true ∧ tileOk 81919 = true ∧ tileOk 81920 = false ∧ stationOk 30 = true ∧
    stationOk 31 = false ∧ siteOk 26 = false ∧ siteOk 27 = true ∧ siteOk 31 = false ∧ regionOk 319 = true ∧
    regionOk 320 = false ∧ clusterOk 15 = true ∧ clusterOk 16 = false ∧ partOk 63 = true ∧ partOk 64 = false ∧
    hallOk 31 = true ∧ hallOk 32 = false ∧ pcieOk 1 = true ∧ pcieOk 2 = false ∧ laserOk 39 = true ∧ laserOk 40 = false := by
  decide

theorem smoke_fields : vcOk 3 = true ∧ vcOk 4 = false ∧ indexOk 3 = false ∧ indexOk 4 = true ∧ indexOk 32 = false ∧
    timePortOk 7 = true ∧ timePortOk 8 = false ∧ pktChOk 63 = true ∧ pktChOk 64 = false ∧ chanOk 191 = true ∧
    chanOk 192 = false ∧ stackOk 11 = true ∧ stackOk 12 = false ∧ dieOk 19 = true ∧ dieOk 20 = false ∧
    entryOk 4095 = true ∧ entryOk 4096 = false ∧ sizeOk 0 = false ∧ sizeOk 1 = true ∧ sizeOk 257 = false ∧
    barOk 0x3FFFFFF = true ∧ barOk 0x4000000 = false := by
  decide

theorem smoke_commands : Instr.wf (.add 81920 {}) = false ∧ Instr.wf (.dmaInject 0 4) = false ∧
    Instr.wf (.stationInject 31) = false ∧ Instr.wf (.chipletStampExpire 26) = false ∧ Instr.wf (.clockRestart 320) = false ∧
    Instr.wf (.clusterUngate 0 16) = false ∧ Instr.wf (.parkEnter 64) = false ∧ Instr.wf (.hallTimedRelease 32) = false ∧
    Instr.wf (.pcieLinkUp 2) = false ∧ Instr.wf (.spareLock 40) = false ∧ Instr.wf (.laserSwitchover 32) = false ∧
    Instr.wf (.timeRequestSend 8) = false ∧ Instr.wf (.pktRxLossOfLock 0 64) = false ∧ Instr.wf (.hbmScrub 192 0) = false ∧
    Instr.wf (.hbmCattrip 12) = false ∧ Instr.wf (.getTemps 20) = false ∧ Instr.wf (.groupResend 0 4096) = false ∧
    Instr.wf (.regWrite .port0 0 ⟨0, false⟩ 0) = false ∧ Instr.wf (.regLoReadLatch .port0 ⟨0x4000000, 8⟩) = false ∧
    Instr.wf (.ewaitGrant 5120) = false ∧ Instr.wf (.circuitFeed 0 31 ⟨45, [], []⟩) = false ∧
    Instr.wf (.circuitFeed 0 31 ⟨1, [(0, 0)], []⟩) = false ∧ Instr.wf (.circuitRowDecode 0 31 0 true ⟨[(0, 266)], []⟩) = false ∧
    Instr.wf (.circuitRowDecode 0 31 0 true ⟨[], [(16, 0, 1)]⟩) = false ∧ Instr.wf (.add 81919 {}) = true := by
  decide

/-! ## The small states of the tests -/

/-- A tile that runs at 0. -/
def tile0 : Tile := { st := .running, fetchHi := 4096, enabled := true, logical := 0, s := [(2, 8), (3, 5)] }

/-- A module that is up, with the clock of region 0 running and one tile. -/
def withTile (x : Tile) : State :=
  { State.reset with
    boot := { mode := .up }
    regions := [(0, { boot := .enabled, stopped := false, locked := true, grant := 10, balance := [(0, 80)] })]
    tiles := [(0, x)] }

def W : State := withTile tile0

/-! ## Witnesses: the step, the signers, reset -/

theorem witness_IdleStepPassesOneNanosecond : W.pending = [] := rfl

theorem witness_SignerFusesAreNeverCleared :
    let s := { W with cfg := { W.cfg with keys := [(3, { hash := 7, enrolled := true, revoked := true })] } }
    (∃ t, step s = .next t) ∧ (s.key 3).enrolled = true ∧ (s.key 3).revoked = true := by
  refine ⟨⟨_, rfl⟩, rfl, rfl⟩

theorem witness_TheLastSignerStays : W.signersOk ∧ ∃ t, step W = .next t := by
  refine ⟨⟨fun n h => ?_, fun ⟨n, h⟩ => ?_⟩, ⟨_, rfl⟩⟩ <;> cases h

/-! ## Witnesses: registers -/

theorem witness_ReadOfLoLatchesHi : 0x500018 % 4 = 0 ∧ 0x500018 + 4 < 2 ^ 32 ∧ W.mapped 0x500018 = true ∧
    W.isLo 0x500018 = true ∧ W.mapped (0x500018 + 4) = true ∧ Who.slot .port1 ≠ Who.slot .port0 ∧
    (W.latch.find? fun e => e.1 == Who.slot .port0 * 2 ^ 32 + 0x500018) = none := by
  decide +kernel

theorem witness_PairIsWrittenByHi : W.boot.mode = .up ∧ W.staged .port0 0x500018 = none ∧
    { W with stage := [(0x500018, 5)] }.staged .port0 0x500018 = some 5 ∧ Who.slot .port0 = 0 := by
  decide +kernel

theorem witness_RegisterWriteByAccessType : W.boot.mode = .up ∧ (0 : Nat) < W.dies ∧ 19 < W.dies ∧ 3 % 4 ≠ 0 := by
  decide +kernel

/-- R9: a write of HI without a staged LO keeps the low word. -/
theorem test_pair_keeps_low :
    (match exec (.regHiWriteApply .port0 0x50001C 7) { W with fabric := { W.fabric with gngAddr := 0x100000002 } } with
      | .next t => t.fabric.gngAddr
      | _ => 0) = 0x700000002 := by
  decide +kernel

/-! ## Witnesses: tiles and their scalar instructions -/

theorem witness_RegistersOfATile : (31 : Nat) ≠ 0 ∧ (0 : Nat) ≠ 31 ∧ (1 : Nat) ≠ 0 := by decide

theorem witness_ScalarArithmeticResults : W.canIssue 0 {} none [1, 2, 31] ∧
    rForm usesDAB { d := 1, a := 2, b := 31 } = true := by
  decide +kernel

theorem witness_ScalarImmediateResults : W.canIssue 0 {} none [1, 2] ∧ iForm usesDA { d := 1, a := 2, low := 63 } = true ∧
    (63 : W32).toNat < 64 ∧ W.canIssue 0 {} none [1] ∧ iForm usesD { d := 1, low := 0xFFFFFFFF } = true := by
  decide +kernel

theorem witness_ScalarLoadResults : W.canIssue 0 {} none [1, 2] ∧ iForm usesDA { d := 1, a := 2, low := 262128 } = true ∧
    (let a := effAddr { d := 1, a := 2, low := 262128 } tile0
     a % 8 = 0 ∧ a + 8 = 262144 ∧ (W.tile 0).badWord a 8 = none ∧ (W.tile 0).badWord a 4 = none ∧
       (W.tile 0).badWord a 2 = none ∧ (W.tile 0).badWord a 1 = none) := by
  decide +kernel

theorem witness_ScalarStoresAndTheirFrame : W.canIssue 0 {} none [2, 3] ∧
    iForm { a := true, b := true } { a := 2, b := 3, low := 262128 } = true ∧
    (let a := effAddr { a := 2, b := 3, low := 262128 } tile0
     a % 8 = 0 ∧ a + 8 = 262144 ∧ (W.tile 0).badPartial a 8 = none ∧ (W.tile 0).badPartial a 1 = none) := by
  decide +kernel

theorem witness_BranchesAndJumps : W.canIssue 0 {} none [2, 3] ∧
    iForm { a := true, b := true } { a := 2, b := 3, low := 0xFFFFFFF8 } = true ∧ (0xFFFFFFF8 : W32).toNat % 8 = 0 ∧
    W.canIssue 0 {} none [1] ∧ iForm usesD { d := 1, low := 8 } = true ∧ W.canIssue 0 {} none [1, 2] ∧
    iForm usesDA { d := 1, a := 2, low := 8 } = true ∧ effAddr { d := 1, a := 2, low := 8 } tile0 % 8 = 0 := by
  decide +kernel

theorem witness_SystemInstructions : W.canIssue 0 {} none [1] ∧ iForm usesD { d := 1, low := 6 } = true ∧
    iForm usesD { d := 1 } = true ∧ W.canIssue 0 {} none [] ∧ rForm { imm16 := true } { low := 0xFFFF } = true ∧
    rForm {} {} = true ∧ rForm { x := true, imm16 := true } { low := 0x10FFFF } = true := by
  decide +kernel

theorem witness_TileFaults : (withTile { tile0 with pc := 4096 }).issuing 0 = true ∧
    ((withTile { tile0 with pc := 4096 }).tile 0).fetchOk = false ∧ W.issuing 0 = true ∧ (W.tile 0).fetchOk = true ∧
    rForm {} { d := 1 } = false ∧ W.canIssue 0 {} none [1, 2] ∧ iForm usesDA { d := 1, a := 2, low := 1 } = true ∧
    effAddr { d := 1, a := 2, low := 1 } tile0 % 4 ≠ 0 ∧ effAddr { d := 1, a := 2, low := 262136 } tile0 % 4 = 0 ∧
    262144 < effAddr { d := 1, a := 2, low := 262136 } tile0 + 4 ∧
    effAddr { d := 1, a := 2, low := 0 } tile0 % 4 = 0 ∧ effAddr { d := 1, a := 2, low := 0 } tile0 + 4 ≤ 262144 ∧
    ({ tile0 with poison := [1] }.badWord (effAddr { d := 1, a := 2, low := 0 } tile0) 4).isSome = true := by
  decide +kernel

/-- R101: a worked branch. From 0x40 back by 16. -/
theorem test_branch_back :
    (match exec (.beq 0 { a := 2, b := 2, low := 0xFFFFFFF0 }) (withTile { tile0 with pc := 0x40 }) with
      | .next t => (t.tile 0).pc
      | _ => 0) = 0x30 := by
  decide +kernel

/-! ## Witnesses: the vector unit, the matrix unit, special functions -/

theorem witness_VectorRegisterPacking : (10 : Nat) ≤ 10 ∧ (List.replicate 32 (2 ^ 32 - 1)).length = fmtLanes 10 ∧
    (∀ c ∈ List.replicate 32 (2 ^ 32 - 1), c < 2 ^ fmtWidth 10) ∧ (7 : Nat) ≠ 8 := by
  decide +kernel

theorem witness_VectorArithmeticResults : W.canIssue 0 {} (some .vector) [] ∧
    (rForm usesLane { d := 1, a := 2, b := 31, low := 0x30000000 } &&
      laneOk { d := 1, a := 2, b := 31, low := 0x30000000 }) = true ∧
    (rForm usesLane { low := 0x80200000 } && laneOk { low := 0x80200000 }) = true ∧
    W.canIssue 0 {} (some .vector) [31] ∧
    (let f : Fields := { d := 1, a := 2, b := 3, c := 31, low := 0x00400000 }
     (rForm { usesLane with c := true } f && laneOk f && fmtIsFloat f.fa) = true) := by
  decide +kernel

theorem witness_VectorSelectionsAndReductions : W.canIssue 0 {} (some .vector) [] ∧
    (rForm usesLane { low := 0xA0000000 } && laneOk { low := 0xA0000000 }) = true ∧
    (rForm { usesLane with c := true } { c := 31 } && laneOk { c := 31 }) = true ∧
    rForm usesDAB { d := 1, a := 2, b := 31 } = true ∧ W.canIssue 0 {} (some .vector) [31] ∧
    (rForm { usesLane with b := false } { a := 31 } && laneOk { a := 31 }) = true ∧
    (let f : Fields := { d := 31, a := 1, low := 0xA0200000 }
     (rForm { usesLane with b := false } f && laneOk f && redFmt f.fa) = true) := by
  decide +kernel

theorem witness_VectorMemoryAndConversion : W.canIssue 0 {} (some .vector) [2] ∧ W.canIssue 0 {} (some .vector) [1] ∧
    W.canIssue 0 {} (some .vector) [] ∧
    (let f : Fields := { d := 1, a := 2, low := 262008 }
     iForm usesDA f = true ∧ effAddr f tile0 % 64 = 0 ∧ effAddr f tile0 + 128 = 262144 ∧
       (W.tile 0).badWord (effAddr f tile0) 128 = none) ∧
    (let f : Fields := { a := 2, b := 3, low := 56 }
     iForm { a := true, b := true } f = true ∧ effAddr f tile0 % 64 = 0 ∧ (W.tile 0).badPartial (effAddr f tile0) 128 = none) ∧
    (let f : Fields := { d := 28, a := 1, low := 0x03000000 }
     let n := Nat.max (fmtLanes f.fa) (fmtLanes f.fb)
     (rForm { d := true, a := true, fa := true, fb := true, rnd := true } f && convFmt f.fa && convFmt f.fb &&
       rndOk f.fa f.rnd && groupOk f.dn (ceilDiv n (fmtLanes f.fa)) && groupOk f.an (ceilDiv n (fmtLanes f.fb))) = true) ∧
    (let f : Fields := { d := 1, a := 28, c := 1, low := 0x30800000 }
     (rForm { d := true, a := true, c := true, fa := true, fb := true, rnd := true } f && fmtNarrow f.fa && fmtWide f.fb &&
       rndOk f.fa f.rnd && groupOk f.an (ceilDiv (fmtLanes f.fa) (fmtLanes f.fb))) = true) ∧
    (let f : Fields := { d := 28, a := 1, b := 2, low := 0x03100000 }
     (rForm { d := true, a := true, b := true, fa := true, fb := true, rnd := true, x := true } f && fmtNarrow f.fb &&
       fmtWide f.fa && rndOk f.fa f.rnd && groupOk f.dn (ceilDiv (fmtLanes f.fb) (fmtLanes f.fa))) = true) ∧
    (let f : Fields := { d := 1, a := 2, low := 31 }
     (rForm { d := true, a := true, fa := true, imm16 := true } f && laneFmt f.fa && decide (f.imm16 < fmtLanes f.fa)) = true) ∧
    (rForm usesDAB { d := 30, a := 1, b := 2 } && groupOk 30 2) = true := by
  decide +kernel

theorem witness_MatrixResults : W.canIssue 0 {} (some .matrix) [] ∧ W.canIssue 0 {} (some .matrix) [2, 3] ∧
    (let f : Fields := { d := 3, a := 1, b := 2, low := 0x34000000 }
     (rForm { usesDAB with fa := true, fb := true } f && mOk f.dn && matPair f.fa f.fb &&
       (fmtIsInt f.fa == ((W.tile 0).rm f.dn).integer)) = true) ∧
    (rForm usesD { d := 3 } && mOk 3) = true ∧
    (rForm { usesD with fa := true } { d := 3, low := 0xA0000000 } && mOk 3 && (Fields.fa { low := 0xA0000000 } == 10)) = true ∧
    (rForm usesDA { d := 3, a := 31 } && mOk 3) = true ∧
    (rForm { usesDAB with fa := true, rnd := true, imm16 := true } { d := 24, a := 3, b := 24, low := 2 } &&
      mrdOk { d := 24, a := 3, b := 24, low := 2 } ((W.tile 0).rm 3).integer) = true ∧
    (let f : Fields := { d := 3, a := 24 }
     (rForm { usesDA with fa := true } f && mOk f.dn && (f.fa == 0 || f.fa == 10) && groupOk f.an 8) = true) ∧
    (let f : Fields := { d := 0, a := 2, b := 5, c := 3, low := 0x33000100 }
     (rForm { usesDAB with c := true, fa := true, fb := true, imm16 := true } f && mOk f.dn && matPair f.fa f.fb &&
       decide (1 ≤ f.imm16 ∧ f.imm16 ≤ 256) && (fmtIsInt f.fa == ((W.tile 0).rm f.dn).integer)) = true ∧
     ((W.tile 0).rs f.an).toNat + mmvBytes f.fa f.imm16 ≤ 262144 ∧
     (W.tile 0).badWord ((W.tile 0).rs f.an).toNat (mmvBytes f.fa f.imm16) = none) := by
  decide +kernel

theorem witness_SpecialFunctionsAndRandomBits : W.canIssue 0 {} (some .special) [] ∧ W.canIssue 0 {} (some .special) [31] ∧
    (let f : Fields := { d := 1, a := 31, low := 0x20400000 }
     (rForm { d := true, a := true, fa := true, rnd := true } f && fmtWide f.fa && decide (f.rnd ≤ 1)) = true) ∧
    rForm usesD { d := 31 } = true := by
  decide +kernel

/-! ## Witnesses: waits, tokens, descriptors, the sampler, housekeeping -/

def fenceWait : Tile := { tile0 with descs := [{ id := 4, w0 := 0x50000 }] }
def waitTile (w : Wait) : Tile := { tile0 with st := .waiting, wait := some w, c := [(15, 6 + 2 ^ 31)] }

theorem witness_WaitsOnCountersJobTimeAndFences : W.canIssue 0 {} none [2] ∧ W.canIssue 0 {} none [1, 2] ∧ W.canIssue 0 {} none [] ∧
    (rForm usesDA { d := 15, a := 2 } && decide ((15 : Nat) < 16)) = true ∧ rForm usesDA { d := 1, a := 2 } = true ∧
    (rForm { imm16 := true } { low := 2 } && decide (Fields.imm16 { low := 2 } ≤ 2)) = true ∧ (W.tile 0).descs = [] ∧
    (withTile fenceWait).canIssue 0 {} none [] ∧ (∀ d ∈ fenceWait.descs, d.kind = 5) ∧
    (waitTile (.counter 15 7)).st = .waiting ∧ (W.rgn 0).stopped = false ∧ (W.part 0).standing = false ∧
    (waitTile (.counter 15 7)).wait = some (.counter 15 7) ∧ ((waitTile (.counter 15 7)).rc 15 - 7).toNat < 2 ^ 31 ∧
    (waitTile (.jobTime 0 31)).wait = some (.jobTime 0 31) ∧ (0 : W64).toNat ≤ (jobTime (W.part 0) (W.stnHt 0)).toNat ∧
    (waitTile (.fence [4])).wait = some (.fence [4]) ∧ ∀ d ∈ (waitTile (.fence [4])).descs, d.id ∉ [4] := by
  decide +kernel

/-- W with its partition 0 in the adaptive regime. -/
def adaptiveW : State := { W with parts := [(0, { st := .loaded, adaptive := true, tiles := [0] })] }

def poorW : State :=
  { adaptiveW with regions := [(0, { boot := .enabled, stopped := false, grant := 10, balance := [(0, 79)] })] }
def tokenWait : State := { adaptiveW with tiles := [(0, waitTile (.tokens 80 5))] }

theorem witness_EnergyBlocksAndTokens : W.canIssue 0 {} none [] ∧ (W.part 0).adaptive = false ∧
    adaptiveW.canIssue 0 {} none [] ∧ (adaptiveW.part 0).adaptive = true ∧ iForm {} { low := 80 } = true ∧
    rForm { imm16 := true } { low := 0xFFFF } = true ∧ (tokenWait.rgn 0).grant ≠ 0 ∧
    Nat.min 80 (8 * (tokenWait.rgn 0).grant) ≤ tokenWait.balanceOf 0 ∧ (tokenWait.waitOf 0).isSome = true ∧
    poorW.canIssue 0 {} none [] := by
  decide +kernel

theorem witness_EnergyBlocks_afford : adaptiveW.affords 0 80 = true ∧ adaptiveW.affords 0 0xFFFF = true ∧
    poorW.affords 0 80 = false ∧ tokenWait.oldestWaiter (tokenWait.tokenWaiters 0 0) = some (0, 80, 5) := by
  decide +kernel

/-- A tile with a descriptor at 0x40; s2 is 8. -/
def descTile (w0 w1 w2 w3 : Nat) : Tile :=
  tile0.wmem 0x40 (leBytes 8 w0 ++ leBytes 8 w1 ++ leBytes 8 w2 ++ leBytes 8 w3)

/-- The descriptor that DMA reads there. -/
def descAt (x : Tile) : Desc :=
  let w := fun i => BitVec.ofNat 64 (leNat (x.rmem (0x40 + 8 * i) 8))
  { id := x.nextId, addr := 0x40, w0 := w 0, w1 := w 1, w2 := w 2, w3 := w 3 }

theorem witness_DescriptorIssueAndCounters :
    let f : Fields := { a := 2, low := 0x38 }
    let s := withTile (descTile 0 0x100 0x200 64)
    s.canIssue 0 {} none [2] ∧ iForm { a := true } f = true ∧ effAddr f (s.tile 0) = 0x40 ∧ (s.tile 0).descs.length < 256 ∧
    (s.tile 0).badWord 0x40 32 = none ∧ descOk (descAt (s.tile 0)) = true ∧
    s.descRefused (s.tile 0) 0 (descAt (s.tile 0)) = false ∧
    (let x := descTile 0x11000 0x100 0 4
     (withTile x).canIssue 0 {} none [2] ∧ descOk (descAt x) = true ∧ (withTile x).descRefused x 0 (descAt x) = true) ∧
    (let x := descTile 1 0x100 0 4
     (withTile x).canIssue 0 {} none [2] ∧ descOk (descAt x) = false) ∧
    (rForm usesDA { d := 15, a := 2 } && decide ((15 : Nat) < 16)) = true ∧
    (rForm usesDA { d := 2, a := 15 } && decide ((15 : Nat) < 16)) = true := by
  decide +kernel

/-- The parameter block of R44 with 4 FP32 candidates at 0x100 and the result at 0x200. -/
def sampBlock (count k mode : Nat) : List Byte :=
  leBytes 4 0x100 ++ leBytes 4 count ++ leBytes 4 9 ++ leBytes 4 one32 ++ leBytes 4 one32 ++ leBytes 2 k ++ [0] ++
    leBytes 1 mode ++ leBytes 4 0x200 ++ leBytes 4 0

theorem witness_TokenSampler : W.canIssue 0 {} none [1, 2] ∧ iForm usesDA { d := 1, a := 2, low := 24 } = true ∧
    (W.tile 0).sampler = none ∧ effAddr { d := 1, a := 2, low := 24 } tile0 % 32 = 0 ∧ (W.tile 0).badWord 32 32 = none ∧
    (let s := withTile { tile0 with sampler := some { sd := 1, block := sampBlock 0 1 0 } }
     let p := sampPar (sampBlock 0 1 0)
     s.issuing 0 = true ∧ (s.tile 0).fetchOk = true ∧ (s.tile 0).sampler.isSome = true ∧ s.gated 0 = false ∧
       p.rejected = true ∧ p.dst % 8 = 0 ∧ p.dst + 8 ≤ 262144 ∧ (s.tile 0).badPartial p.dst 8 = none) ∧
    (let x := { (tile0.wmem 0x100 (leBytes 4 one32)) with sampler := some { sd := 1, block := sampBlock 4 2 1 } }
     let p := sampPar (sampBlock 4 2 1)
     let best := topCands p.adjusted.1 ((p.cands p.adjusted.2.2.1 (x.rmem p.src p.inBytes)).map (·.1))
     p.rejected = false ∧ p.mode = 1 ∧ p.src % 64 = 0 ∧ p.src + p.inBytes ≤ 262144 ∧ x.badWord p.src p.inBytes = none ∧
       best.map (·.1) = [9, 10] ∧ p.dst + 8 * best.length ≤ 262144 ∧ x.badPartial p.dst (8 * best.length) = none) := by
  decide +kernel

theorem witness_DescriptorProgress :
    (let d : Desc := { id := 4, w1 := 0x100, w2 := 0x23C, w3 := 8, stage := .copying 1 }
     let x := { tile0 with descs := [d] }
     let o := copyStart d 1
     let k := copyEnd d 1 - o
     x.desc d.id = some d ∧ k = 4 ∧ x.badWord (d.local_ + o) k = none ∧ x.badPartial (d.remote + o) k = none) ∧
    (let d : Desc := { id := 4, stage := .held 0 }
     let s := withTile { tile0 with descs := [d] }
     (s.tile 0).desc d.id = some d ∧ older (ht32 (s.stnHt 0)) 0 = false ∧ (s.part 0).standing = false ∧ d.kind = 0) ∧
    (let d : Desc := { id := 4, w0 := 0x10000, stage := .held 0 }
     let x := { tile0 with descs := [d] }
     x.desc d.id = some d ∧ d.kind ≠ 0 ∧ x.ownAgents < 8 ∧ x.entryWaited = false) ∧
    (let d : Desc := { id := 4, stage := .ended St.done }
     { tile0 with descs := [d] }.desc d.id = some d ∧ statusOk St.done = true) ∧
    (let d : Desc := { id := 4, w0 := 0x10000, stage := .waitEntry 3 }
     let s := withTile { tile0 with descs := [d] }
     s.firstWaiting ((s.waiting 0).filter fun w => s.entryFree 0 w.1) = some (0, d, 3)) := by
  decide +kernel

theorem witness_ItemInjectionAndTimeouts :
    (let d : Desc := { id := 4, w0 := 0x20000, w1 := 0x100, w3 := 64, stage := .ready 0 }
     let s := withTile { tile0 with descs := [d] }
     let x := s.tile 0
     s.tileRsp 0 0 = none ∧ firstInject (x.descs.filter fun e => e.injects 0 && x.mayInject e && !s.spanOver e && !x.behind e &&
       !(s.part x.partition).holdsBack e) = some d ∧ d.kind = 2 ∧ d.op ≠ 0x48 ∧
       s.hasRoom (s.tileRouter 0) 0 0 (ceilDiv (40 + d.len) 64) = true ∧ d.sentPkts = 0 ∧ d.retry = false ∧
       x.badWord d.local_ d.len = none) ∧
    (let d : Desc := { id := 4, w0 := 0x5040400, w3 := 8, stage := .sent, lastHt := 0, tmo := 20000 }
     let s := { withTile { tile0 with descs := [d] } with time := { ht := 20000, st := .locked } }
     let x := s.tile 0
     x.desc d.id = some d ∧ x.awaitsRsp d = true ∧ d.lastHt + d.tmo ≤ s.ht ∧
       (d.kind = 4 ∧ d.resend = true ∧ d.retry = false ∧ x.st ≠ .fenced)) ∧
    (let d : Desc := { id := 4, w0 := 0x5040400, w3 := 8, stage := .sent, lastHt := 0, retry := true, tmo := 20000 }
     let s := { withTile { tile0 with descs := [d] } with time := { ht := 20000, st := .locked } }
     (s.tile 0).awaitsRsp d = true ∧ d.lastHt + d.tmo ≤ s.ht) ∧
    (let d : Desc := { id := 4, w0 := 0x30000, w3 := 512, stage := .ready 0, sentPkts := 1, firstHt := 0 }
     let s := { withTile { tile0 with descs := [d] } with time := { ht := 200001, st := .locked } }
     (s.tile 0).desc d.id = some d ∧ d.kind = 3 ∧ 0 < d.sentPkts ∧ d.firstHt + 1000 * s.fabric.msgSpan < s.ht) := by
  decide +kernel

theorem witness_TileHousekeeping : W.issuing 0 = true ∧ (W.tile 0).fetchLo ≤ 4095 ∧ 4095 < (W.tile 0).fetchHi ∧
    (W.tile 0).badWord (4095 / 64 * 64) 64 = none ∧ (W.tile 0).st ≠ .retention ∧ (W.rgn 0).stopped = false ∧
    (W.tile 0).badWord ((W.tile 0).scrub * 64) 64 = none ∧ (5 : W32).getLsbD 0 = true ∧ (5 : W32).getLsbD 2 = true ∧
    { W with parts := [(0, { st := .quiescing })] }.fenceAllowed 0 = true ∧ (W.tile 0).st = .running ∧
    (let x := { tile0 with st := .fencing, draining := true }
     x.draining = true ∧ x.descs = [] ∧ x.st = .fencing) := by
  decide +kernel

/-! ## Witnesses: memory requests and their responses -/

/-- A landing window of tile SRAM: all rights, 256 KiB at VA 0, region 0. -/
def tileWindow : BitVec 256 :=
  BitVec.ofNat 256 (2 ^ 63 + 2 ^ 62 + 2 ^ 61 + 2 ^ 60 + 2 ^ 58 + 18 * 2 ^ 52 + (2 ^ 48 + 4096) * 2 ^ 128)

/-- A landing window of module memory: 4 KiB at VA 0. -/
def memWindow : BitVec 256 := BitVec.ofNat 256 (2 ^ 63 + 2 ^ 62 + 2 ^ 61 + 2 ^ 60 + 12 * 2 ^ 52)

/-- A packet at a station of a module with one tile and both windows. -/
def atStation (n : Nat) (x : Tile) (p : Packet) : State :=
  { withTile x with
    stations := [(0, { present := true, windows := [(0, tileWindow)] }), (20, { present := true, windows := [(0, memWindow)] })]
    fabric := { W.fabric with pkts := [{ seq := 0, place := .dest n, pkt := p }], seq := 1 } }

def flightOf (n : Nat) (p : Packet) : Flight := { seq := 0, place := .dest n, pkt := p }

/-- Requests: of 4 bytes at the end of the tile's window; of 64 bytes of module memory. -/
def loadTile : Packet := mkPkt { kind := kLOAD, dst := 0, src := 0, addr := 2 ^ 56 + 262140 }
def loadOut : Packet := mkPkt { kind := kLOAD, dst := 0, src := 0, addr := 2 ^ 56 + 262144 }
def loadMem : Packet := mkPkt { kind := kLOAD, dst := coord 1 0 20 0xFFF, addr := 16 * 2 ^ 56 }
def storeTile : Packet := mkPkt { kind := kSTORE, dst := 0, addr := 262140, payload := [1, 2, 3, 4] }
def addTile : Packet := mkPkt { kind := kATOMIC, dst := 0, addr := 8, op := 2, payload := leBytes 8 1 }

theorem witness_RequestsAtTheirTargetStation :
    (atStation 0 tile0 loadOut).checkReq 0 loadOut = .refuse St.translationMiss 0x6002 ∧
    (atStation 0 tile0 loadOut).takeDest 0 (fun q => q.kind == kLOAD) = some (flightOf 0 loadOut) ∧
    (atStation 0 tile0 loadTile).checkReq 0 loadTile = .pass tileWindow ∧
    (atStation 0 tile0 loadTile).takeDest 0 (fun q => q.kind == kLOAD) = some (flightOf 0 loadTile) ∧
    wKind tileWindow = 1 ∧ tile0.combine = [] ∧ tile0.poison = [] ∧
    (atStation 20 tile0 loadMem).checkReq 20 loadMem = .pass memWindow ∧
    (atStation 20 tile0 loadMem).takeDest 20 (fun q => q.kind == kLOAD) = some (flightOf 20 loadMem) ∧
    wKind memWindow = 0 ∧ ((atStation 20 tile0 loadMem).stn 20).combine = [] ∧
    (atStation 20 tile0 loadMem).mem.hbmPoison = [] ∧
    (atStation 20 tile0 loadMem).retraining ((atStation 20 tile0 loadMem).mem.channelOf (winAddr memWindow loadMem.va)) = false ∧
    (atStation 0 tile0 storeTile).checkReq 0 storeTile = .pass tileWindow ∧
    (atStation 0 tile0 storeTile).takeDest 0 (fun q => q.kind == kSTORE) = some (flightOf 0 storeTile) ∧
    cKind storeTile.dst = 0 ∧ (atStation 0 tile0 storeTile).behindAtomic 0 storeTile tileWindow (·.before (flightOf 0 storeTile)) = false ∧
    linePieces (winAddr tileWindow storeTile.va) storeTile.payload = [(4095, [(60, 1), (61, 2), (62, 3), (63, 4)])] := by
  decide +kernel

def entry0 : Combine := { line := 4095, opened := 0, stores := [(storeTile, St.done, [(60, 1), (63, 4)])] }
def entryDue : State :=
  { atStation 0 { tile0 with combine := [entry0] } addTile with time := { ht := 32, st := .locked } }

def memEntry : Combine :=
  { line := 0, opened := 0, stores := [(mkPkt { kind := kSTORE, dst := coord 1 0 20 0xFFF, payload := [1] }, St.done, [(0, 1)])] }
def memEntryDue : State :=
  { W with time := { ht := 32, st := .locked }, stations := [(20, { present := true, combine := [memEntry] })] }

theorem witness_CombiningEntryIsWritten :
    oldestDue entryDue.ht ((entryDue.stn 0).combine.filter fun c => !entryDue.retraining (entryDue.mem.channelOf (c.line * 64))) =
      none ∧ entryDue.dueTileEntry 0 = some (0, entry0) ∧
    (∀ st ∈ entry0.stores, cKind st.1.dst = 0 ∧ destTile st.1.dst = 0 ∧ (st.2.2.map (·.1)).Nodup ∧ ∀ b ∈ st.2.2, b.1 < 64) ∧
    (entryDue.stn 0).msgs = [] ∧ (∀ e ∈ (entryDue.tile 0).combine, e.line ≠ entry0.line → False) ∧
    oldestDue memEntryDue.ht ((memEntryDue.stn 20).combine.filter fun c =>
      !memEntryDue.retraining (memEntryDue.mem.channelOf (c.line * 64))) = some memEntry ∧ memEntryDue.dueTileEntry 20 = none ∧
    (∀ st ∈ memEntry.stores, cKind st.1.dst ≠ 0) ∧ (memEntryDue.stn 20).msgs = [] ∧
    oldestDue W.ht ((W.stn 20).combine.filter fun c => !W.retraining (W.mem.channelOf (c.line * 64))) = none ∧
    W.dueTileEntry 20 = none := by
  decide +kernel

def atomicW : State := atStation 0 tile0 addTile
def casPkt : Packet := mkPkt { kind := kATOMIC, op := 6, payload := leBytes 4 0 ++ leBytes 4 9 }
def atomicWaits : State :=
  { atomicW with
    time := { ht := 50000, st := .locked }
    stations := [(0, { present := true, atomicWait := [(addTile, 0)] })] }

theorem witness_AtomicsAreAppliedOnce :
    (atomicW.stn 0).atomicWait = [] ∧ atomicW.takeDest 0 (fun q => q.kind == kATOMIC) = some (flightOf 0 addTile) ∧
    atomicW.checkReq 0 addTile = .pass tileWindow ∧ atomicW.lineOpen 0 addTile tileWindow = false ∧
    ((atomicW.stn 0).mire.find? fun e => e.src == addTile.src && e.txid == addTile.txid) = none ∧
    atomicW.atomicStale 0 addTile = false ∧ (atomicW.stn 0).mire.length < 65536 ∧ wKind tileWindow = 1 ∧
    (atomicW.tile 0).badWord (winAddr tileWindow addTile.va) (Packet.width addTile) = none ∧
    (([{ src := 0, txid := 0 }] : List MireEnt).find? fun e => e.src == addTile.src && e.txid == addTile.txid) =
      some { src := 0, txid := 0 } ∧
    casPkt.op = 6 ∧ casPkt.payload.take (Packet.width casPkt) = leBytes 4 0 ∧
    casPkt.payload.take (Packet.width casPkt) ≠ leBytes 4 1 ∧
    (atomicWaits.stn 0).atomicWait.find? (fun e => atomicWaits.atomicStale 0 e.1) = some (addTile, 0) := by
  decide +kernel

/-- A response to tile 0, and its item. -/
def rsp (kind status : Nat) (payload : List Byte) : Packet :=
  mkPkt { kind := kind, dst := 0, src := coord 1 0 20 0xFFF, op := status, status := status, payload := payload }
def itemOfKind (k : Nat) : Tile :=
  { tile0 with descs := [{ id := 4, w0 := BitVec.ofNat 64 (k * 65536 + (if k = 4 then 2 * 2 ^ 24 else 0)), w1 := 0x100, w3 := 4, stage := .sent, sentPkts := 1 }] }

/-- The response has arrived, and the item it answers stands. -/
def answers (k kind status : Nat) (payload : List Byte) : Bool :=
  let p := rsp kind status payload
  let s := atStation 0 (itemOfKind k) p
  cKind p.dst == 0 && (s.tile 0).st == .running && decide (s.takeDest 0 (fun q => q.kind == kind) = some (flightOf 0 p)) &&
    ((s.tile 0).itemOf k p.txid).isSome

theorem witness_ResponsesEndTheirItem :
    answers 1 kLOAD_RSP 0x10 [] = true ∧ statusIn (rsp kLOAD_RSP 0x10 []).op ≠ St.done ∧
    answers 1 kLOAD_RSP 0 (List.replicate 8 1) = true ∧ statusIn (rsp kLOAD_RSP 0 []).op = St.done ∧
    (rsp kLOAD_RSP 0 (List.replicate 8 1)).payload.length ≠ 4 ∧
    answers 1 kLOAD_RSP 0 [1, 2, 3, 4] = true ∧ (itemOfKind 1).badPartial 0x100 4 = none ∧
    answers 2 kSTORE_ACK 0 [] = true ∧ answers 4 kATOMIC_RSP 0x10 [] = true ∧
    statusOk (statusIn (rsp kATOMIC_RSP 0x10 []).op) = false ∧ answers 4 kATOMIC_RSP 0 [1, 2, 3, 4] = true ∧
    statusOk (statusIn (rsp kATOMIC_RSP 0 []).op) = true ∧ atomicReturns 2 = true ∧ answers 3 kMSG_ACK 0 [] = true ∧
    (atStation 0 { tile0 with st := .fenced } (rsp kMSG_ACK 0 [])).takeDest 0 (fun q => q.kind == kMSG_ACK) =
      some (flightOf 0 (rsp kMSG_ACK 0 [])) := by
  decide +kernel

/-! ## Witnesses: packets, hall ports, the Gingham map -/

def fabricW (pl : Place) (p : Packet) : State :=
  { W with
    stations := [(0, { present := true }), (1, { present := true })]
    fabric := { W.fabric with pkts := [{ seq := 0, place := pl, pkt := p }], seq := 1, planeOpen := true } }
def vc2Load (dst : W32) : Packet := mkPkt { kind := kLOAD, vc := 2, dst := dst, addr := 16 * 2 ^ 56 }
/-- Tile 1 of region 0 lies east of tile 0. -/
def routed : State := { fabricW (.router (.tile 0 0) 0) (vc2Load 1) with tiles := [(0, tile0), (1, tile0)] }

theorem witness_PacketsMoveAndAreChecked_router : routed.routerBad (.tile 0 0) = false ∧
    (routed.rgn (routerRegion (.tile 0 0))).boot ≠ .off ∧ (routed.rgn (routerRegion (.tile 0 0))).stands = false ∧
    routed.candidate (.tile 0 0) 3 2 = some { seq := 0, place := .router (.tile 0 0) 0, pkt := vc2Load 1 } ∧
    cKind (vc2Load 1).dst ≠ 2 ∧ crcOk (vc2Load 1) = true ∧ malformed (vc2Load 1) = false ∧ routed.placeBad (portLeads (.tile 0 0) 3) = false ∧
    (let a := routed.arb (routerKey (.tile 0 0) * 32 + 3)
     (if a.window = routed.ht / 1000 then a.vc2Bytes else 0) * 8 < routed.outBytes (.tile 0 0) 3) := by
  decide +kernel

def entering (n : Nat) (dst : W32) : State :=
  { fabricW (.entry n) (vc2Load dst) with tiles := [(0, tile0), (4096, tile0)] }
def bondPkt (p : Packet) : State :=
  { fabricW (.bond 0) p with regions := [(0, { boot := .enabled, stopped := false, bond := { st := 2 } })] }
def badCrc : Packet := { vc2Load 1 with tail := 0 }

theorem witness_PacketsMoveAndAreChecked :
    (entering 0 0).pickPkt (fun g => decide (g.place = .entry 0) && (entering 0 0).delayOver 0 g.pkt &&
        ((entering 0 0).planeOpen || (entering 0 0).staysHere 0 g.pkt)) =
      some { seq := 0, place := .entry 0, pkt := vc2Load 0 } ∧
    (entering 0 0x1000).pickPkt (fun g => decide (g.place = .entry 0) && (entering 0 0x1000).delayOver 0 g.pkt &&
        ((entering 0 0x1000).planeOpen || (entering 0 0x1000).staysHere 0 g.pkt)) =
      some { seq := 0, place := .entry 0, pkt := vc2Load 0x1000 } ∧
    cModule (0 : W32) = (entering 0 0).cfg.module ∧ cKind 0 = 0 ∧ cKind 0x1000 = 0 ∧ (vc2Load 0).vc = 2 ∧
    (entering 0 0).endpointOk 0 = true ∧ (entering 0 0x1000).endpointOk 0x1000 = true ∧
    ((entering 0 0).stn 0).tstVc = [] ∧ cStation 0 = 0 ∧ cStation 0x1000 ≠ 0 ∧
    cKind (vc2Load 0).src ≠ 5 ∧ W.tileAtSite 0 0 = some 0 ∧ (W.tile 0).st = .running := by
  decide +kernel

def linked : State :=
  { fabricW (.link 0 1 1) (vc2Load 0x1000) with tiles := [(0, tile0), (4096, tile0)] }
/-- Injection has stopped and the packet's link time had begun. -/
def linkedBegun : State := { linked with fabric := { linked.fabric with injectStop := true, begun := [0] } }
def quietW : State := { linked with fabric := { linked.fabric with quiet := true } }
def bondDown : State :=
  { bondPkt (vc2Load 1) with fabric := { (bondPkt (vc2Load 1)).fabric with
      pkts := [{ seq := 0, place := .bondDn 0, pkt := vc2Load 1 }] } }
def ioPkt (n : Nat) : Packet := mkPkt { kind := kLOAD, vc := 2, dst := 0, src := coord 3 0 n 0, addr := 16 * 2 ^ 56 }
def ucieW : State := { W with links := { sites := [(30, { st := 3, jobs := [0] })] } }

theorem witness_PacketsAcrossLinks_head :
    linked.linkHead 0 1 2 = some { seq := 0, place := .link 0 1 1, pkt := vc2Load 0x1000 } := by
  unfold State.linkHead
  rw [show firstFlight _ = some { seq := 0, place := .link 0 1 1, pkt := vc2Load 0x1000 } by decide +kernel]
  have h : linked.linkRoom (linkKey 0 1) (vc2Load 0x1000) = true := by
    have e : (linked.fabric.pkts.filter fun f => f.credit == linkKey 0 1 && f.pkt.vc == (vc2Load 0x1000).vc) = [] := by decide +kernel
    have k : (vc2Load 0x1000).flits = 1 := by decide +kernel
    unfold State.linkRoom
    rw [e, k]
    simp
    omega
  simpa [Option.filter] using h

theorem witness_PacketsAcrossLinks :
    cModule (vc2Load 0x1000).dst = linked.cfg.module ∧ cKind (vc2Load 0x1000).dst = 0 ∧
    linkedBegun.fabric.planeOpen = true ∧ linkedBegun.fabric.quiet = false ∧ linkedBegun.fabric.injectStop = true ∧
    linkedBegun.pairOpen 0 1 ≠ [] ∧ linkedBegun.pickPkt (fun g => linkedBegun.fabric.begun.contains g.seq && (match g.place with
      | .link a b _ => a == 0 && b == 1
      | _ => false)) = some { seq := 0, place := .link 0 1 1, pkt := vc2Load 0x1000 } ∧ quietW.fabric.quiet = true ∧
    linked.fabric.planeOpen = true ∧ linked.fabric.injectStop = false ∧ linked.fabric.quiet = false ∧ linked.pairOpen 0 1 ≠ [] ∧
    (∀ c ∈ linked.pairOpen 0 1, (linked.stn 1).unlocked.contains c = false) ∧
    ((linked.arb (linkKey 0 1)).vc2Bytes) * 8 < 6250 * (linked.pairOpen 0 1).length ∧
    (bondPkt badCrc).bondUp 0 = true ∧
    ((bondPkt badCrc).bondBuffer 0 2).head? = some { seq := 0, place := .bond 0, pkt := badCrc } ∧ crcOk (damaged badCrc []) = false ∧
    (bondDown.rgn 0).stands = false ∧
    ((bondPkt (vc2Load 1)).bondBuffer 0 2).head? = some { seq := 0, place := .bond 0, pkt := vc2Load 1 } ∧
    0 * 8 < bondBytes ((bondPkt badCrc).rgn 0).bond.widthUp ∧ bondDown.bondDn 0 = true ∧
    bondDown.downHead 0 2 = some { seq := 0, place := .bondDn 0, pkt := vc2Load 1 } ∧
    (bondDown.rgn 0).badRegionRouter = false ∧ 0 * 8 < bondBytes (bondDown.rgn 0).bond.widthDn ∧
    crcOk (ioPkt 26) = true ∧ malformed (ioPkt 26) = false ∧ cModule (ioPkt 26).src = W.cfg.module ∧
    cStation (ioPkt 26).src = 26 ∧ (ucieW.site 30).st = 3 ∧ crcOk (ioPkt 30) = true ∧ malformed (ioPkt 30) = false ∧
    unpack (ucieW.site 30).rx (leBytes 2 0 ++ (ioPkt 30).wire) = ([ioPkt 30], some []) ∧
    cStation (ioPkt 30).src = 30 ∧ (ioPkt 30).job ∈ (ucieW.site 30).jobs ∧ kindIsRsp (ioPkt 30).kind = false ∧
    (ioPkt 30).kind ≠ kATOMIC := by
  decide +kernel

/-- W locked at an HT. -/
def atHt (h : Nat) (s : State) : State := { s with time := { ht := h, st := .locked } }

def msgPkt : Packet :=
  mkPkt { kind := kMSG, dst := 0, src := coord 0 0 1 0, addr := 0, count := 2, seq := 0, payload := [1, 1, 1, 1] }
def msgEnt : MsgEntry := { src := coord 0 0 1 0, count := 2, minHt := 0, dst := 0 }
def msgW : State := (atStation 0 { tile0 with combine := [] } msgPkt).updStn 0 fun x => { x with msgs := [msgEnt] }
def oldMsg : State := (atHt 250001 msgW).updStn 0 fun x => { x with msgs := [{ msgEnt with notify := true }] }
def heldPkt : Packet := mkPkt { kind := kSTORE, dst := coord 0 1 0 0, payload := [0, 0, 0, 0] }
def hallHeldW : State :=
  { atHt 100 W with
    cfg := { W.cfg with presence := [(1, 1)] }
    fabric := { W.fabric with
      pkts := [{ seq := 0, place := .hallHeld 100 false, pkt := heldPkt }]
      ports := [(5, { en := true, enNow := true, up := true, listed := true })] } }

theorem witness_MaintenanceTimedPacketsAndMessages : (W.stn 0).unlocked.contains 31 = false ∧
    ((W.updStn 0 fun x => { x with unlocked := [31] }).stn 0).unlocked.contains 31 = true ∧
    63000 ≤ (atHt 63000 W).ht % 64000 ∧ 63040 ≤ (atHt 63040 W).ht % 64000 ∧
    firstFlight (hallHeldW.fabric.pkts.filter fun g => (match g.place with
      | .hallHeld h _ => decide (h ≤ hallHeldW.ht)
      | _ => false) && hallHeldW.hallPortOf g.pkt == some 5) = some { seq := 0, place := .hallHeld 100 false, pkt := heldPkt } ∧
    (hallHeldW.stn 26).tstVc = [] ∧
    (oldMsg.stn 0).msgs.find? (fun e => e.got < e.count && decide ((oldMsg.fabric.msgSpan + oldMsg.fabric.ageMax) * 1000 <
      pktAge (ht32 (oldMsg.stnHt 0)) e.minHt)) = some { msgEnt with notify := true } ∧
    cKind msgEnt.dst = 0 ∧ (oldMsg.tile (destTile msgEnt.dst)).st ≠ .fenced := by
  decide +kernel

theorem witness_MessagePackets :
    msgW.takeDest 0 (fun q => q.kind == kMSG || q.kind == kGNG_PUSH) = some (flightOf 0 msgPkt) ∧ msgPkt.kind = kMSG ∧
    cKind msgPkt.dst = 0 ∧ msgW.checkMsg 0 msgPkt = .pass tileWindow ∧ wKind tileWindow = 1 ∧
    msgW.behindAtomic 0 msgPkt tileWindow (·.before (flightOf 0 msgPkt)) = false ∧ msgPkt.last = false ∧
    (((msgW.dropPkt 0).accept 0 msgPkt tileWindow).map fun u => (u.stn 0).msgs) = some [msgEnt] ∧ (msgW.stn 0).msgs = [msgEnt] ∧
    msgEnt.src = msgPkt.src ∧ msgEnt.txid = msgPkt.txid ∧ msgEnt.got + 1 < msgEnt.count ∧ msgEnt.held = none := by
  decide +kernel

def hallW (h : HallPort) (ht : Nat) : State := { atHt ht W with fabric := { W.fabric with ports := [(31, h)] } }
def hallStore : Packet := mkPkt { kind := kSTORE, dst := 0, payload := [0, 0, 0, 0] }
def rowPkt : Packet := mkPkt { kind := kGNG_ROW, dst := coord 7 0 31 0, src := coord 3 0 30 0, payload := List.replicate 32 9 }

def mapW : State := { atHt 10000 W with fabric := { W.fabric with planeOpen := true } }
def enterPort : HallPort := { enNow := true, aligned := true, readyHt := 62999 }

theorem witness_HallPortsAndGinghamMap :
    (hallW { enNow := true, up := true } 0).fabric.pkts = [] ∧ ((hallW { enNow := true, up := true } 0).hall 31).up = true ∧
    unpack (some []) (leBytes 2 0 ++ hallStore.wire) = ([hallStore], some []) ∧ ((hallW { enNow := true, up := true } 0).hall 31).rx = some [] ∧
    crcOk hallStore = true ∧ malformed hallStore = false ∧ hallStore.kind ≠ kTIME ∧
    ((hallW { enNow := true } 63000).hall 31).up = false ∧ ((hallW { enNow := true } 63000).hall 31).apr = false ∧
    (hallW { enNow := true } 63000).safe.shared = false ∧ (hallW { enNow := true } 63000).nextInterval 0 = true ∧
    ((hallW { enNow := true, los := true, apr := true } 0).hall 31).los = true ∧
    enterPort.aligned = true ∧ enterPort.los = false ∧ (hallW enterPort 63000).enterDue enterPort = true ∧
    (hallW { enNow := true } 63000).time.st ≠ .free ∧
    (atHt 10000 W).ht % 10000 = 0 ∧ (atHt 10000 W).time.st ≠ .free ∧ (mapW.fabric.planeOpen = true ∧ mapW.ht % 10000 = 0 ∧ mapW.fabric.gngPush = 0) ∧
    (atStation 0 tile0 rowPkt).takeDest 0 (fun p => p.kind == kGNG_ROW && cStation p.src == 30) =
      some (flightOf 0 rowPkt) ∧
    mget 0 ((atHt 30000 W).stn 0).gngRowHt 30 + 30000 ≤ (atHt 30000 W).ht ∧ (3 : W32).getLsbD 1 = true ∧
    (3 : W32).getLsbD 0 = true := by
  decide +kernel

/-! ## Witnesses: circuits and schedules -/

/-- A slot entry for a partition: valid, one run from item 0, to station 1, from station 0. -/
def slotWord (p : Nat) : W64 := BitVec.ofNat 64 (2 ^ 63 + p * 2 ^ 57 + 2)
/-- An item: one tile, one block from block 0, once, of the tile at 0x100. -/
def itemWord : BitVec 256 := BitVec.ofNat 256 (2 ^ 40 + 2 ^ 31 + 0x100 * 2 ^ 128)
/-- Partition 0 runs an armed schedule with one circuit on index 31, in slot 0. -/
def twillW (ht : Nat) : State :=
  { atHt ht W with
    parts := [(0, { st := .loaded, twl := .active, live := some 0, launch := some {}, tiles := [0] })]
    stations := [(0, { present := true, txTab := [(slotIndex 0 0 31, slotWord 0)], srcItems := [(0, itemWord)] }),
      (1, { present := true, rxTab := [(slotIndex 0 0 31, slotWord 0)], tgtItems := [(0, itemWord)] })]
    tiles := [(0, tile0), (4096, tile0)]
    opt := { W.opt with flightValid := true } }
def landItem : CItem := { entry := itemWord }

/-- The seal of the item, of body 5, void or not. -/
def sealW (void : Bool) : BitVec 256 := BitVec.ofNat 256 (5 + if void then 2 ^ 93 else 0)

theorem witness_CircuitsAreFedSentAndReceived : (twillW 0).time.st ≠ .free ∧ (44 : Nat) ≤ 44 ∧
    [0, 250, 500].find? (fun h => ((twillW 0).feedable 0 31 44 h).isSome) = some 0 ∧
    247 ≤ (twillW 62747).ht % 250 ∧ framePos ((twillW 62500).ht / 250 * 250 + 250) < 63000 ∧
    (twillW 62747).deepNow = false ∧
    (twillW 0).ht % 250 = 0 ∧ framePos (twillW 0).ht < 63000 ∧ (twillW 0).bursts = [] ∧
    (twillW 0).liveTx 0 (twillW 0).ht 31 = some (0, slotWord 0) ∧ (31 : Nat) ∈ circuitIndices ∧
    (twillW 9).rxSlot 1 31 0 = some (0, 0, slotWord 0) ∧ ((twillW 9).findRx 1 31 0).dark = false ∧
    landItem.first ≤ 0 ∧ 0 < landItem.seal ∧ ieKind landItem.entry = 0 ∧ ((twillW 0).tile (landItem.tile 1)).st ≠ .fenced ∧
    (({ twillW 0 with tiles := [(4096, { tile0 with st := .fenced })] } : State).tile (landItem.tile 1)).st = .fenced := by
  decide +kernel

/-- The burst has been started and its row 0 is to be decoded. -/
def litBurst : Burst :=
  { src := 0, k := 31, slotHt := 0, gear := 0, entry := slotWord 0, launched := true, blocks := [(0, 0x33)], rows := List.range 45
    done := [0] }
def litW : State := { twillW 9 with bursts := [litBurst] }
def litWord (i : Nat) : BitVec 266 :=
  (litW.settle litBurst).2.codeword ((litW.settle litBurst).1.txItems (litW.settle litBurst).2.src (litW.settle litBurst).2.entry) i ^^^
    errorMask [] i

theorem witness_CircuitRowDecode : litW.rxSlot 1 31 0 = some (0, 0, slotWord 0) ∧ litW.burstAt 1 31 0 = some litBurst ∧
    (litW.findRx 1 31 0).dark = false ∧
    (((litW.settle litBurst).1.rxItems 1 (slotWord 0)).any fun x => x.seal == 1) = true ∧ isMarked (litWord 0) = false ∧
    decodeWord (litWord 0) = .block 0x33 false ∧ (0 : Nat) / 16 = 0 := by
  decide +kernel

theorem witness_ItemStatus : landItem.seal = 1 ∧ landItem.num = 0 ∧
    (∃ i ∈ [0], landItem.first ≤ i ∧ i < landItem.seal) ∧ ¬ (∃ i ∈ [1], landItem.first ≤ i ∧ i < landItem.seal) ∧
    blockAt [] landItem.seal = none ∧ blockAt [(1, sealW true)] landItem.seal = some (sealW true) ∧
    sealFields (sealW true) ≠ sealFields (sealW true) + 1 ∧ sealVoid (sealW true) = true ∧ sealVoid (sealW false) = false ∧
    ([(0, 7)] : SMap Nat).find? (·.1 == landItem.num) = some (0, 7) ∧ tileRegion 4096 % 16 ∈ [0] ∧ tileRegion 4096 % 16 ∉ [1] := by
  decide +kernel

/-- W with one partition. -/
def partW (x : Partition) : State := { W with parts := [(0, x)] }
def stopW : State := { atHt 64000 (partW { st := .loaded, stopFrame := some 0, tiles := [0] }) with cfg := W.cfg }
def fwW : State := atHt 63900 (partW { st := .loaded, fwEn := true, tiles := [0] })
def subW : State := { atHt 63050 W with opt := { W.opt with pendingSub := [ringKey 30 0 31 15] } }

theorem witness_SchedulesAndTheirUpkeep : (twillW 64000).time.st ≠ .free ∧ framePos (twillW 64000).ht = 0 ∧
    framePos (twillW 63000).ht = 63000 ∧ (twillW 64000).ht % 64000 = 0 ∧ (twillW 64000).opt.flightValid = true ∧
    (partW { st := .loaded, twl := .loaded, launch := some {} }).part 0 = { st := .loaded, twl := .loaded, launch := some {} } ∧
    (stopW.part 0).stopFrame = some 0 ∧ 0 < frameOf stopW.ht ∧ (stopW.part 0).isLoaded = true ∧ (stopW.part 0).st ≠ .safeState ∧
    fwW.time.st ≠ .free ∧ (fwW.part 0).fwEn = true ∧ (fwW.part 0).isLoaded = true ∧ 63500 ≤ framePos fwW.ht ∧
    framePos fwW.ht ≤ 63900 ∧ (fwW.part 0).tiles = [0] ∧ (fwW.tile 0).enabled = true ∧ (fwW.tile 0).st ≠ .fenced ∧ fwW.wordDue 0 = true ∧
    0 ∈ (twillW 63000).scheduledActive ∧ 1 ∉ (twillW 63000).scheduledActive ∧
    subW.swapTime = true ∧ subW.nextInterval (subW.ring (ringKey 30 0 31 15)).failedAt = true ∧ subW.opt.pendingSub = [ringKey 30 0 31 15] ∧ subW.spareUsed 30 0 31 = false ∧
    (1 : W32).getLsbD 0 = true := by
  decide +kernel

/-! ## Witnesses: retirement, collectives, checkpoints -/

/-- 15 spare positions a channel are more than a channel's slots need. -/
def retireW (m : Mem) : State := { atHt 63000 W with mem := { m with initDone := true } }
/-- A module whose channels hold one slot each at most (RESERVE 191 for a small table). -/
def smallMem : Mem := { W.mem with reserve := 191 }

theorem witness_ChannelRetire : (0x105 : W32).getLsbD 8 = true ∧ (retireW smallMem).mem.initDone = true ∧ W.mem.initDone = false ∧ (retireW smallMem).mem.retSt ≠ 1 ∧
    (retireW smallMem).mem.retSt ≠ 2 ∧ (0x1BF : W32).toNat % 256 = 191 ∧ ((retireW smallMem).chan 5).st ≠ 2 ∧
    ((retireW smallMem).mem.slotsOf 5).length ≤ ((retireW smallMem).sparesFor 5).length := by
  refine ⟨by decide, by decide, by decide, by decide, by decide, by decide, by decide, ?_⟩
  simp only [State.sparesFor, List.length_mergeSort]
  decide +kernel

def heldRun : LoadRun := { req := { op := 3 }, phase := .applying }
def switchW : State := { retireW { W.mem with retSt := 2, moves := [(3071, 15)] } with cfg := { W.cfg with run := some heldRun } }

theorem witness_RetirementMireWindowAndScrub : (0x1BF : W32).getLsbD 8 = true ∧ 191 < (0x1C0 : W32).toNat % 256 ∧
    (retireW { W.mem with retSt := 1, moves := [(0, 15)] }).mem.retSt = 1 ∧
    (retireW { W.mem with retSt := 1, moves := [(0, 15)] }).mem.hbmPoison = [] ∧
    switchW.mem.retSt = 2 ∧ switchW.cfg.run = some heldRun ∧ heldRun.req.op = 3 ∧ heldRun.phase = .applying ∧
    switchW.inInterval = true ∧ switchW.mem.moves = [(3071, 15)] ∧ W.loadedParts = [] ∧
    Nat.max 10 (Nat.min 1000 ((10 : W32).toNat % 2048)) < W.mem.mireW ∧ adaptiveW.loadedParts ≠ [] ∧
    (1 : W32).getLsbD 0 = true ∧ W.mem.selfRefresh = false ∧
    W.retraining 191 = false ∧
    (∀ j < 8, (191 * channelBytes + 9437183 * 256) / 32 + j ∉ W.mem.hbmPoison) := by
  decide +kernel

/-- A configuration: VALID, a role, partition 0, sum of INT32, 32 elements (2 chunks), 2 groups, 4 members, its
time 1000. -/
def collCfg (root : Bool) (rootCoord : W32) : BitVec 512 :=
  BitVec.ofNat 512 (128 + (if root then 1 else 0) + 0x40 * 2 ^ 16 + 32 * 2 ^ 64 + 2 * 2 ^ 96 + 4 * 2 ^ 112 +
    rootCoord.toNat * 2 ^ 128 + 1000 * 2 ^ 320)
def collW (root : Bool) (e : CollEntry) (p : Packet) : State :=
  { atHt 30000 (atStation 0 tile0 p) with
    stations := [(0, { present := true, coll := [(5, { e with cfg := collCfg root (coord 2 0 20 5), st := .opened })] })] }
def contrib (round chunk group count : Nat) : Packet :=
  mkPkt { kind := kCONTRIB, vc := 3, red := true, dst := coord 2 0 0 5, src := 0, op := 0x40
          addr := mkCollAddr round false false false chunk count group, payload := List.replicate 64 1 }
def takes (root : Bool) (e : CollEntry) (p : Packet) : Bool :=
  let s := collW root e p
  decide (s.takeDest 0 (fun q => q.kind == kCONTRIB && (s.toRoot 0 q == root)) = some (flightOf 0 p)) &&
    cKind p.dst == 2 && cLow p.dst == 5 && ccValid (s.coll 0 5).cfg && !ccOrdered (s.coll 0 5).cfg &&
    !chunkUnfit (s.coll 0 5).cfg (chunkOf p)

theorem witness_CollectiveContributions : takes false { any := true } (contrib 0 1 1 3) = true ∧
    (chunkOf (contrib 0 1 1 3)).round = 0 ∧ mget 0 ([] : SMap Nat) 1 + (chunkOf (contrib 0 1 1 3)).count < 4 ∧
    ccMembers (collCfg false 0) = 4 ∧ (chunkOf (contrib 0 1 1 3)).chunk < ccChunks (collCfg false 0) ∧
    (chunkOf (contrib 2 1 1 3)).round ≠ 0 ∧ (chunkOf (contrib 2 1 1 3)).round ≠ (0 + 1) % 256 ∧
    takes true { any := true } (contrib 0 1 1 4) = true ∧ 1 * 4096 + 1 ∉ ({} : CollEntry).seen ∧
    (∃ k < ccChunks (collCfg true 0), k ≠ 1 ∧ 1 * 4096 + k ∉ ({} : CollEntry).seen) := by
  decide +kernel

def sentGather : State := collW false { any := true, sent := true, sentAt := 0 } addTile
def acceptPkt : Packet :=
  mkPkt { kind := kCOLL_CTRL, vc := 2, dst := coord 2 0 0 5, op := 2, payload := [0, 0] ++ leBytes 2 2 ++ leBytes 4 0 }
def lateRoot : State := collW true { any := true, oldest := 0 } addTile

theorem witness_CollectiveTimes : ccRoot (sentGather.coll 0 5).cfg = false ∧ (sentGather.coll 0 5).accepted = false ∧
    (sentGather.coll 0 5).sentAt + ccTime (sentGather.coll 0 5).cfg ≤ sentGather.ht ∧
    (sentGather.coll 0 5).sentAt + sentGather.tmoOf (ccRootCoord (sentGather.coll 0 5).cfg) ≤ sentGather.ht ∧
    (collW false {} acceptPkt).takeDest 0 (fun p => p.kind == kCOLL_CTRL && p.op == 2) = some (flightOf 0 acceptPkt) ∧
    ctrlField acceptPkt 1 1 = 0 ∧ ctrlField acceptPkt 2 2 = ccGroup (collCfg false 0) ∧ acceptPkt.job = ccJob (collCfg false 0) ∧
    ccRoot (lateRoot.coll 0 5).cfg = true ∧ (lateRoot.coll 0 5).st = .opened ∧ ccStatusAddr (lateRoot.coll 0 5).cfg = 0 ∧
    ccTime (lateRoot.coll 0 5).cfg < pktAge (ht32 (lateRoot.stnHt 0)) (lateRoot.coll 0 5).oldest := by
  decide +kernel

/-- A multicast entry: VALID, station 0, every region, cluster and tile, counter 15. -/
def mcAll : BitVec 256 :=
  BitVec.ofNat 256 (2 ^ 31 + 1 + 0xFFFFFFFFFFFF * 2 ^ 32 + 0x100 * 2 ^ 96 + (128 + 15) * 2 ^ 128)
def dataPkt : Packet :=
  mkPkt { kind := kCOLL_DATA, vc := 3, dst := coord 7 0 0 1023, src := coord 2 0 20 5, op := 0, payload := List.replicate 64 2 }
def endW : EndWait := { group := 1023, root := coord 2 0 20 5, end_ := some (St.done, 0, 30000) }
def mcW (p : Packet) : State :=
  { atHt 30000 (atStation 0 tile0 p) with
    parts := [(0, { st := .loaded, tiles := [0], mcGroups := [1023] })]
    stations := [(0, { present := true, mcast := [(1023, mcAll)], endWaits := [endW] })] }

theorem witness_CollectiveEngines : (mcW dataPkt).takeDest 0 (fun p => p.kind == kCOLL_DATA) = some (flightOf 0 dataPkt) ∧
    cKind dataPkt.dst = 7 ∧ ((mcW dataPkt).stn 0).endOf 1023 dataPkt.src (caRound dataPkt.addr) dataPkt.job = some endW ∧
    endW.passed = false ∧ (mcW dataPkt).mcTilesOf 0 1023 = [0] ∧ ((mcW dataPkt).tile 0).st ≠ .fenced ∧
    mcSram mcAll + 64 ≤ sramBytes ∧ ((mcW dataPkt).tile 0).badPartial (mcSram mcAll) 64 = none ∧
    (mcW dataPkt).takeDest 0 (fun p => p.kind == kCOLL_CTRL && p.op == 1) = none ∧
    ((mcW dataPkt).stn 0).endWaits = [endW] ∧ endW.end_ = some (St.done, 0, (mcW dataPkt).ht) ∧
    ccValid ((mcW dataPkt).coll 0 (mcGather mcAll)).cfg = false ∧ mcValid mcAll = true ∧ mcCountEn mcAll = true ∧
    ((mcW dataPkt).tile 0).descs = [] := by
  decide +kernel

/-- Partition 63, owned by port 0, at a checkpoint state. -/
def ckptW (ht : Nat) (x : Partition) : State :=
  { atHt ht W with parts := [(63, { x with st := .loaded, owner := 1, tiles := [0] })] }
/-- A window of job 0 of a kind: all rights, 1 MiB at VA 0. -/
def wideWindow (kind : Nat) : BitVec 256 := BitVec.ofNat 256 (15 * 2 ^ 60 + kind * 2 ^ 58 + 20 * 2 ^ 52)
/-- Station 26 has a window of job 0 for the area: of HBM kind, or of HOST kind. -/
def areaW (kind ht : Nat) (x : Partition) : State :=
  { ckptW ht x with stations := [(26, { present := true, windows := [(0, wideWindow kind)] })] }
def savedArea : SaveArea := { jframe := 1, gradeTiles := State.reset.dies * 4000, tiles := 1, recs := [{ pc := 16, st := .running }] }
def restoreW : State := { areaW 2 128000 { ck := .restoring, ckFrame := 2 } with saves := [savedArea] }

theorem witness_CheckpointAndResume : (0x60000001 : W32).getLsbD 0 = true ∧ bits (0x60000001 : W32).toNat 31 30 = 1 ∧
    bits (0x80000001 : W32).toNat 31 30 = 2 ∧ (ckptW 64000 { ckFrame := 1 }).entitled .port0 63 = true ∧
    ((ckptW 64000 { ckFrame := 1 }).part 63).ckFrame.toNat * 64000 ≤ (ckptW 64000 { ckFrame := 1 }).ht ∧
    (ckptW 63999 { ckFrame := 1 }).ht < ((ckptW 63999 { ckFrame := 1 }).part 63).ckFrame.toNat * 64000 ∧
    ((ckptW 64000 { ck := .armed, ckFrame := 1 }).part 63).ck = .armed ∧
    (ckptW 64000 { ck := .armed, ckFrame := 1 }).isClean 63 = true ∧
    { ckptW 64000 { ck := .armed, ckFrame := 1 } with
      tiles := [(0, { tile0 with descs := [{ stage := .ready 0 }] })] }.isClean 63 = false ∧
    ((ckptW 64000 { ck := .saving }).part 63).ckResume = none ∧
    statusOk ((ckptW 64000 { ck := .saving }).writeArea 63 0).2 = false ∧
    statusOk ((areaW 2 64000 { ck := .saving }).writeArea 63 St.done).2 = true ∧
    (areaW 0 64000 { ck := .saving }).areaPlace 63 = some (.hbm (wideWindow 0)) ∧ wPermW (wideWindow 0) = true ∧
    (areaW 0 64000 { ck := .saving }).safe.shared = false ∧
    (areaW 0 64000 { ck := .saving }).mem.hbmPoison = [] ∧
    (restoreW.part 63).ck = .restoring ∧ (restoreW.part 63).ckFrame.toNat * 64000 ≤ restoreW.ht ∧
    (restoreW.part 63).tiles = [0] ∧ (restoreW.part 63).fwEn = false ∧
    ((ckptW 128000 { ck := .saving, ckResume := some 2 }).part 63).ckResume = some 2 := by
  decide +kernel

def restoreHost : List Byte := savedArea.bytes

theorem witness_Restore : (restoreW.areaRead 63 (restoreW.areaBytes 63) restoreHost).2 = .inl restoreHost ∧
    (∃ r, (restoreW.areaOf 63 restoreHost).recs = [r]) ∧ restoreW.fits 63 (restoreW.areaOf 63 restoreHost) = true := by
  have hp : restoreW.areaPlace 63 = some (.host (wideWindow 2)) := by decide +kernel
  refine ⟨?_, ?_, ?_⟩
  · unfold State.areaRead
    rw [hp]
  · have hn : (restoreW.part 63).tiles.length = 1 := by decide
    unfold State.areaOf
    rw [hn]
    exact ⟨_, rfl⟩
  · have hd : (restoreW.areaOf 63 restoreHost).digest = savedArea.digest ∧
        (restoreW.areaOf 63 restoreHost).gradeTiles = savedArea.gradeTiles ∧
        (restoreW.areaOf 63 restoreHost).tiles = savedArea.tiles := by
      have h : headerOf (restoreHost.take 128) = headerOf savedArea.header := by
        rw [restoreHost, take_bytes]
      have k := headerOf_checked savedArea
      unfold State.areaOf
      rw [h]
      exact ⟨k.1, k.2.1.trans (by decide), k.2.2.1.trans (by decide)⟩
    unfold State.fits
    rw [hd.1, hd.2.1, hd.2.2]
    decide +kernel

/-- Without a window the area of a RESTORE cannot be read. -/
theorem witness_RestoreFails :
    ({ ckptW 128000 { ck := .restoring, ckFrame := 2 } with stations := [] }.areaRead 63 128 []).2 = .inr St.translationMiss := by
  decide +kernel

/-! ## Witnesses: hall time and clocks -/

/-- W with a time domain, and an adaptive, a strict and no partition loaded. -/
def timeW (t : TimeDom) : State := { W with time := t, boot := { W.boot with fields := [(31, .passed)] } }
def strictTime (t : TimeDom) : State := { partW { st := .loaded, strict := true, tiles := [0] } with time := t }
/-- A time word of NEXT_SYNC_HT 100,000, EPOCH_ID 7, QUALITY 1, with its CRC. -/
def timeWord : BitVec 128 :=
  let low := 100000 + 7 * 2 ^ 64 + 1 * 2 ^ 80
  BitVec.ofNat 128 (low + crc32c (leBytes 12 low) * 2 ^ 96)
def running (t : TimeDom) : TimeDom :=
  { t with pllLocked := true, word := some (200000, 0, 7), prevWord := some (100000, 0, 7), epoch := 7 }

theorem witness_HallTimeFromTheReference : (timeW {}).timeBegun = true ∧ (timeW {}).time.mode = 0 ∧ (timeW {}).time.pllLocked = false ∧
    (running {}).pllLocked = true ∧ wordOk 0 = false ∧ wordOk timeWord = true ∧
    ({ st := .locked, epoch := 7 } : TimeDom).epochOk (wordEpoch timeWord) = true ∧ wordQuality timeWord = 1 ∧
    (running {}).word = some (200000, 0, 7) ∧ (running {}).prevWord = some (100000, 0, 7) ∧
    (running {}).pulseInRun = false ∧ (200000 : Nat) = 100000 + 100000 ∧ (running {}).st = .free ∧
    (running { st := .locked, good025 := 15 }).remeasure = false ∧ 16 ≤ (running { st := .locked, good025 := 15 }).good025 + 1 ∧
    (running { ht := 200000 }).pulseOffset 200000 0 = 0 ∧ (running {}).epoch.toNat = 7 ∧
    (running { st := .holdover, reacqPending := true }).reacqPending = true ∧
    ({ st := .acquiring, lastValid := some 0, ht := 1000000 } : TimeDom).lastValid = some 0 ∧
    ((strictTime {}).part 0).isLoaded = true ∧ ((strictTime {}).part 0).strict = true ∧
    ((strictTime {}).part 0).stopFrame = none ∧ (strictTime {}).loadedParts ≠ [] := by
  decide +kernel

def returning (o : Int) : TimeDom := { st := .holdover, pllLocked := true, present := some (0, o, 0) }

theorem witness_SourceReturns : (returning 6553600000).source = some ((returning 0).epoch, 6553600000) ∧
    (psOf 6553600000).natAbs ≤ 100000000 ∧ 100000000 < (psOf 6553600066).natAbs ∧
    (returning 0).returned = false ∧ (returning 0).disagree = false ∧ (timeW (returning 0)).loadedParts = [] ∧
    (timeW (returning 0)).time.source.isSome = true ∧ (3 : W32).getLsbD 0 = true ∧ (3 : W32).getLsbD 1 = true ∧
    (1 : W32).toNat % 2 ≠ (timeW {}).time.mode := by
  decide +kernel

/-- Time ports 0 and 7 enabled on hall ports 3 and 4, which are up. -/
def fabricTime (t : TimeDom) (x y : TimePort) : State :=
  let on := fun (x : TimePort) (port : Nat) =>
    { x with cfgNow := BitVec.ofNat 32 (2 ^ 31 + port), srcNow := coord 3 9 26 0 }
  { timeW {} with
    time := { t with ports := [(0, on x 3), (7, on y 4)] }
    cfg := { W.cfg with presence := [(9, 1)] }
    fabric := { W.fabric with ports := [(3, { enNow := true, up := true }), (4, { enNow := true, up := true })] } }
def timeReply : Packet :=
  mkPkt { kind := kTIME, vc := 2, dst := coord 3 0 26 0, src := coord 3 9 26 0
          payload := [1, 0, 5, 0] ++ stampBytes 65536 ++ stampBytes 6553600 ++ stampBytes 6553600 }
def timeAsk : Packet :=
  mkPkt { kind := kTIME, vc := 2, dst := coord 3 0 26 0, src := coord 3 9 26 0
          payload := [0, 0, 0, 0] ++ stampBytes 65536 ++ List.replicate 24 0 }

theorem witness_HallTimeFromTheFabric : (fabricTime {} {} {}).timeBegun = true ∧
    (fabricTime { mode := 1, ht := 7000 } {} {}).tpEnabled 7 = true ∧ 7000 % 10000 = 1000 * 7 % 10000 ∧
    (fabricTime { mode := 1, ht := 7000, st := .locked } {} {}).planeMask (cModule ((fabricTime {} {} {}).tport 7).srcNow) ≠ 0 ∧
    inMaint 7000 = false ∧
    ((fabricTime { mode := 1, ht := 7000 } {} {}).hall (tpPort ((fabricTime {} {} {}).tport 7).cfgNow)).up = true ∧
    (fabricTime { mode := 1 } {} {}).timePktOk 3 timeReply = true ∧ nth 0 timeReply.payload 0 = 1 ∧
    nth 0 timeReply.payload 1 = 0 ∧
    timePorts.find? (fun m => (fabricTime { mode := 1 } {} {}).tpEnabled m &&
      tpPort ((fabricTime { mode := 1 } {} {}).tport m).cfgNow == 3) = some 0 ∧
    ((fabricTime {} {} {}).tport 0).history = [] ∧
    ({ mode := 1 } : TimeDom).epochOk (BitVec.ofNat 16 (leNat ((timeReply.payload.drop 2).take 2))).toNat = true ∧
    mkRat (((401 : Int) * 65536 - stampOf timeReply.payload 4) - (stampOf timeReply.payload 28 - stampOf timeReply.payload 16))
      65536 ≤ ((fabricTime {} {} {}).time.rttMax : Rat) ∧
    ((fabricTime { ht := 1000001 } { valid := true } {}).tport 0).acceptedAt + 1000000 < 1000001 ∧
    timePorts.filter (fun m => (fabricTime { mode := 1 } {} { valid := true }).tpEnabled m &&
      ((fabricTime { mode := 1 } {} { valid := true }).tport m).valid) = [7] ∧
    timePorts.filter (fun m => (fabricTime { mode := 1 } { valid := true } { valid := true }).tpEnabled m &&
      ((fabricTime { mode := 1 } { valid := true } { valid := true }).tport m).valid) = [0, 7] ∧
    apart 1 4 = false ∧ (fabricTime { serve := true } {} {}).timePktOk 3 timeAsk = true ∧
    timeAsk.dst = W.stnCoord 26 ∧ nth 0 timeAsk.payload 0 = 0 ∧
    (fabricTime {} {} {}).inInterval = true ∧
    (((fabricTime {} {} {}).tport 0).cfg == ((fabricTime {} {} {}).tport 0).cfgNow) = false := by
  decide +kernel

theorem witness_NoForeignReply : ∀ m, ((fabricTime { mode := 1 } {} { valid := true }).tport m).foreign = none := by
  intro m
  unfold fabricTime State.tport
  simp only [mget]
  split
  · rfl
  · split <;> rfl

def stnW (ht : Nat) (x : Station) : State := { atHt ht W with stations := [(30, x)] }
def rgnW (ht : Nat) (r : Region) : State := { atHt ht W with regions := [(319, r)] }

theorem witness_StationTimeAndRegionClocks : ((stnW 0 {}).stn 30).resync = false ∧
    (5 : Int) * 65536 ≠ (0 / 1000 + 1) * 1000 * 65536 + ((stnW 0 {}).stn 30).dev ∧
    (1000 : Int) * 65536 = ((((stnW 0 {}).ht / 1000 + 1) * 1000 : Nat) : Int) * 65536 + ((stnW 0 {}).stn 30).dev ∧
    ((stnW 0 { resync := true }).stn 30).resync = true ∧
    ((stnW 136 { missTicks := 16, missAt := 128 }).stn 30).missTicks = 16 ∧
    (stnW 136 { missTicks := 16, missAt := 128 }).ht / 8 = 128 / 8 + 1 ∧
    ((stnW 8000 { timeBad := true }).stn 30).missAt + 8000 ≤ (stnW 8000 { timeBad := true }).ht ∧
    ((stnW 8000 { timeBad := true }).stn 30).badWordAt = none ∧
    W.opt.flightValid = false ∧ framePos (rgnW 63040 {}).ht = 63040 ∧
    ({ boot := .enabled, stopped := false, opNext := 0 } : Region).steppable = true ∧ (0 : Nat) ≠ ({} : Region).op ∧
    ((rgnW 63640 { stepTo := some 0 }).rgn 319).stopped = true ∧ ((rgnW 63640 { stepTo := some 0 }).rgn 319).stepTo = some 0 ∧
    63640 ≤ framePos (rgnW 63640 {}).ht ∧ 63680 + 10 * (319 % 16) ≤ framePos (rgnW 63830 {}).ht ∧
    ({} : Region).retained = false ∧ ({} : Region).sdLatch = false ∧ ({} : Region).stepFailed = false ∧
    (rgnW 1000 {}).ht % 1000 = 0 ∧ (rgnW 1000 {}).time.jitFault < 61 ∧
    ({ boot := .enabled, stopped := false, jitRun := 15 } : Region).fallback = false := by
  decide +kernel

/-! ## Witnesses: launches, ownership, power, parking -/

/-- Partition 63 of port 0 with one tile. -/
def ownW (ht : Nat) (x : Partition) (y : Tile) : State :=
  { atHt ht (withTile y) with parts := [(63, { x with st := .loaded, owner := 1, tiles := [0] })] }
def dueTable : SMap LaunchRec := [(254, { st := .pending, notBefore := 6 }), (255, { st := .pending, notBefore := 5, entry := 7 })]
def idleTile : Tile := { tile0 with st := .idle, entries := [0, 8, 16, 24, 32, 40, 48, 56] }

theorem witness_LaunchesRunAndEnd : (ownW 0 {} tile0).cfg.recMode = false ∧ { ownW 0 {} tile0 with cfg := { W.cfg with recMode := true } }.cfg.recMode = true ∧
    (ownW 0 {} tile0).entitled .port0 63 = true ∧
    (mget {} ((ownW 0 {} tile0).part 63).table 255).st = .free ∧ ((ownW 0 {} tile0).part 63).autoWake = false ∧
    ([1, 0, 0, 0] : List Byte).length = 4 ∧ 0xFFFFF < 0x100000 ∧ (ownW 0 {} tile0).entitled .port1 (0xFFFFF / 0x4000) = false ∧
    ((ownW 999 { table := dueTable } idleTile).ht + 1000) % 2000 ≠ 0 ∧
    ((ownW 1000 { table := dueTable } idleTile).ht + 1000) % 2000 = 0 ∧
    firstDue (((ownW 1000 { table := dueTable } idleTile).part 63).dueRecs 2000) = some (5, 255) ∧
    ((ownW 1000 {} idleTile).part 63).standing = false ∧ ((ownW 1000 {} idleTile).tile 0).st = .idle ∧
    ((ownW 2000 { launch := some { index := 255, phase := 2000 } } idleTile).part 63).launch = some { index := 255, phase := 2000 } ∧
    ({ index := 255, phase := 2000 } : LaunchRun).phase ≤ 2000 ∧
    ((ownW 0 {} { idleTile with haltCode := some 0x10007 }).tile 0).haltCode = some 0x10007 ∧
    (∃ t ∈ ((ownW 0 {} { tile0 with st := .faulted }).part 63).tiles, ((ownW 0 {} { tile0 with st := .faulted }).tile t).st ≠ .idle) ∧
    ((ownW 0 { cqEn := true } tile0).part 63).owner = 1 ∧ (∃ y ∈ (ownW 0 {} { idleTile with haltCode := some 7 }).partTiles 63, y.haltCode = some 7) ∧
    (((ownW 0 {} tile0).part 63).ck = .armed → (ownW 0 {} tile0).ht + 1000 ≠ ((ownW 0 {} tile0).part 63).ckFrame.toNat * 64000) ∧
    ((ownW 0 { cqEn := true } tile0).part 63).cqWp = ((ownW 0 { cqEn := true } tile0).part 63).cqRp ∧
    ({ firstAcq := some 0, ht := 100000000 } : TimeDom).firstAcq = some 0 ∧ 0 + 100000000 ≤ 100000000 := by
  decide +kernel

def claimedW : State := ((ownW 0 {} tile0).updPart 63 fun x => { x with owner := 2, claimAt := some 0 })
def handOffW : State := { atHt 63000 W with cfg := { W.cfg with fw := .takeover, paused := true } }

theorem witness_OwnershipOfPartitions : (ownW 0 {} tile0).handOff = false ∧ handOffW.handOff = true ∧
    (ownW 0 {} tile0).claimTie .port1 63 = false ∧ claimedW.claimTie .port0 63 = true ∧ (W.part 63).owner = 0 ∧ ((ownW 0 { expired := true } tile0).part 63).expired = true ∧
    Who.owner .port1 ≠ 1 ∧ ((ownW 0 {} tile0).part 63).owner ≠ 0 ∧ ((ownW 0 {} tile0).part 63).expired = false ∧
    ((ownW 0 {} tile0).part 63).owner = Who.owner .port0 ∧
    (ownW 0 {} tile0).boot.osc < ((ownW 0 {} tile0).part 63).leaseAt + (ownW 0 {} tile0).leaseMs * 1000000 ∧
    ({ ownW 0 {} tile0 with boot := { osc := 300000000 } }.part 63).leaseAt + 300 * 1000000 ≤ 300000000 := by
  decide +kernel

def hotW (ht : Nat) (r : Region) : State :=
  { atHt ht (withTile tile0) with
    parts := [(0, { st := .loaded, adaptive := true, tiles := [0] })]
    regions := [(0, { r with boot := .enabled })] }

theorem witness_PowerAndHeat : (hotW 1000 {}).time.st ≠ .free ∧ (hotW 1000 {}).ht % 1000 = 0 ∧ (hotW 999 {}).ht % 1000 ≠ 0 ∧
    (15 : Nat) < 16 ∧ (hotW 10000 { allot := 20 }).ht % 10000 = 0 ∧ (hotW 9999 {}).ht % 10000 ≠ 0 ∧
    (hotW 10000 { allot := 20 }).isAdaptive 0 = true ∧ W.isAdaptive 0 = false ∧ (0 : Nat) < (hotW 0 {}).dies ∧
    (0 : Nat) = 0 * 16 + 0 ∧ (hotW 250000 {}).ht % 250000 = 8000 * 0 ∧ (hotW 250001 {}).ht % 250000 ≠ 8000 * 0 ∧
    (hotW 200000 {}).ht % 250000 = 8000 * 25 ∧ (hotW 466000 {}).ht % 250000 = 216000 ∧ ((hotW 0 {}).rgn 0).boot ≠ .off ∧ ((hotW 0 {}).rgn 0).boot ≠ .enabling ∧
    ((hotW 0 {}).rgn 0).tstT.getLsbD 31 = false ∧ ((hotW 0 {}).rgn 0).firstRead = none ∧ (9 : Rat) < 10 ∧
    ((hotW 0 { firstRead := some 0 }).rgn 0).firstRead = some 0 ∧ ((hotW 0 { firstRead := some 0 }).rgn 0).firstRead ≠ none ∧
    0 + 10000000 ≤ (hotW 10000000 {}).ht ∧ true ≠ (hotW 0 {}).power.compatNow ∧ (hotW 250000 {}).ht % 250000 = 0 ∧
    ((hotW 0 {}).stn 30).tstBaseT.getLsbD 31 = false := by
  decide +kernel

theorem witness_ShutDownAndLimit : ((hotW 0 {}).rgn 0).sdLatch = false ∧ (115 : Rat) ≤ ((hotW 0 { tMeas := 115 }).rgn 0).tMeas ∧
    ((hotW 0 { tMeas := 114 }).rgn 0).tMeas < 115 ∧ ((hotW 0 { sdLatch := true }).rgn 0).sdLatch = true ∧
    (0x80000000 : W32).getLsbD 31 = true ∧ ((hotW 0 { tMeas := 79 }).rgn 0).tMeas < 80 ∧
    (80 : Rat) ≤ ((hotW 0 { tMeas := 80 }).rgn 0).tMeas ∧ (13000 : Nat) < 13001 ∧ (12499 : Nat) < 12500 ∧
    ({ inputLimit := true, belowSince := some 0 } : Power).belowSince = some 0 ∧ 0 + 10000000 ≤ 10000000 := by
  decide +kernel

def parkedTile : Tile := { tile0 with st := .retention }
def wakingW : State :=
  { atHt 0 (withTile parkedTile) with
    parts := [(0, { st := .loaded, parkSt := 3, tiles := [0] })]
    regions := [(0, { boot := .enabled, retained := true })] }

theorem witness_ParkingAndWaking : (ownW 0 {} idleTile).entitled .port0 63 = true ∧
    ((ownW 0 {} idleTile).part 63).parkSt = 0 ∧ ((ownW 0 { parkSt := 3 } idleTile).part 63).parkSt = 3 ∧ ((ownW 0 { parkSt := 2 } idleTile).part 63).parkSt = 2 ∧ (ownW 63040 { parkSt := 1 } idleTile).nextInterval ((ownW 63040 { parkSt := 1 } idleTile).part 63).parkHt = true ∧
    (ownW 0 {} idleTile).entitled .port1 63 = false ∧ wakingW.ht % 1000 = 0 ∧ wakingW.power.lastWake = none ∧
    ({ lastWake := some 1 } : Power).lastWake ≠ none ∧ (ownW 0 {} idleTile).parkable 63 = true ∧
    (ownW 0 { launch := some {} } idleTile).parkable 63 = false ∧ (1 : W32).getLsbD 0 = true ∧ (2 : W32).getLsbD 0 = false ∧
    ((ownW 63040 { parkSt := 1 } idleTile).part 63).parkSt = 1 ∧ 63040 ≤ framePos (ownW 63040 {} idleTile).ht ∧
    ((ownW 0 {} idleTile).tile 0).st = .idle ∧ wakingW.wakingRegions.head? = some 0 ∧
    framePos (ownW 0 { parkSt := 3 } parkedTile).ht = 0 ∧ ((ownW 0 {} parkedTile).tile 0).st = .retention ∧
    ((ownW 0 {} parkedTile).rgn (tileRegion 0)).retained = false ∧ ((ownW 0 {} parkedTile).rgn (tileRegion 0)).stopped = false := by
  decide +kernel

/-! ## Witnesses: optical control, die links -/

def optW (ht : Nat) (o : Optics) : State := { atHt ht W with opt := o }
def oscW (osc : Nat) (s : State) : State := { s with boot := { s.boot with osc := osc } }
def hotRing : Ring := { pt := 511, heater := 16000, limitSince := some 0 }
def ringOf (key : Nat) (r : Ring) : Optics := { rings := [(key, r)] }
def splitW (osc since : Nat) : State := { optW 0 { splitSince := [(991, since)] } with boot := { W.boot with osc := osc } }
def calW (ht : Nat) (d : DeepSt) : State := optW ht { deep := d, rings := [(33727, { eta := 50 })] }

theorem witness_RingsSweepsAndDeepCalibration : (30 : Nat) < 31 ∧ 30 * 1088 ≤ 33727 ∧ 33727 < (30 + 1) * 1088 ∧
    (optW 10000 (ringOf 33727 hotRing)).loopCount % 10000 = 0 ∧ (optW 10000 (ringOf 33727 hotRing)).pilotPaused 33727 = false ∧
    (100 : Int).natAbs ≤ 100 ∧ 100 < (-101 : Int).natAbs ∧ mget 0 (splitW 10000000 1).opt.splitSince (30 * 32 + 31) = 1 ∧
    (1 : Nat) ≠ 2 ^ 80 ∧ 1 + 10000000 ≤ (splitW 10000000 1).boot.osc + 1 ∧ (33727 : Nat) < 33728 ∧
    ((optW 10000000 (ringOf 33727 hotRing)).ring 33727).failed = false ∧
    (oscW 10000000 (optW 0 (ringOf 33727 hotRing))).ringCause ((optW 10000000 (ringOf 33727 hotRing)).ring 33727) 1 = true ∧
    ((optW 0 (ringOf 33727 { failed := true })).ring 33727).failed = true ∧
    (optW 63800 { recalNext := 1983 }).recalNow = true ∧ (optW 63800 { recalNext := 1983 }).opt.deep = .idle ∧
    (optW 63800 { recalNext := 1983 }).time.st ≠ .free ∧ 63800 ≤ framePos (optW 63800 { recalNext := 1983 }).ht ∧
    (optW 63800 { recalNext := 1983 }).opt.sweptFrame ≠ some (frameOf (optW 63800 { recalNext := 1983 }).ht) ∧
    (optW 63800 { recalNext := 1983 }).opt.switchNow.contains (1983 % 32) = false ∧
    (optW 63800 { recalNext := 1983 }).opt.subNow.contains 1983 = false ∧
    (optW 63800 { recalNext := 1983 }).opt.dark.getLsbD (1983 % 32) = false ∧ (16 : Nat) < 17 ∧
    ((optW 63800 { recalNext := 1983 }).ring (1983 * 17 + 16)).failed = false ∧ (1 : W32).getLsbD 0 = true ∧
    (optW 0 {}).loadedParts = [] ∧ (partW { st := .loaded }).loadedParts ≠ [] ∧ framePos (calW 0 .requested).ht = 0 ∧
    (calW 0 .requested).opt.deep = .requested ∧ (calW 38000000 (.running 0)).opt.deep = .running 0 ∧
    0 + 38000000 ≤ (calW 38000000 (.running 0)).ht ∧ ((calW 0 .idle).ring 33727).hold = 0 ∧ ((calW 0 .idle).ring 33727).holdTable = 0 ∧
    ((calW 0 .idle).ring 33727).failed = false ∧ ({} : DeepRead).found = true ∧
    (33727 : Nat) / 544 % 2 = 1 ∧ (33000 : Nat) / 544 % 2 = 0 ∧ (calW 40000000 (.applied 0)).opt.deep = .applied 0 ∧
    0 + 40000000 ≤ (calW 40000000 (.applied 0)).ht ∧ framePos (calW 40000000 (.applied 0)).ht = 0 ∧
    (optW 0 { deepStartup := true }).opt.deepStartup = true ∧ (optW 0 {}).safe.exiting = false := by
  decide +kernel

def laserW (x sp : Laser) : State := optW 63050 { lasers := [(5, x), (39, sp)] }
def litLaser : Laser := { st := .active, index := 5, lit := true }

/-- Of a reference of 100 mW, 90 mW is -0.46 dB, and 10 mW is -10 dB. -/
def faded (power : Nat) : Int := (litLaser.read power (dbRatio power 100000 - 0) 0).meanDb
def lateLaser (x sp : Laser) : State := { oscW 40000000 (laserW x sp) with opt := { (laserW x sp).opt with flightValid := true } }

theorem witness_FadeReadings : 100 * litLaser.p0 = 100000 ∧ litLaser.readDue 0 = true ∧ faded 90000 = -46 ∧ faded 100000 = 0 ∧
    faded 80000 = -97 ∧ faded 50000 = -301 ∧ faded 10000 = -1000 ∧
    ({ litLaser with readAt := some 1 } : Laser).readDue 1000000 = false := by
  decide +kernel

theorem witness_LasersAndSpares : ((laserW litLaser {}).laser 5).lit = true ∧ ((laserW litLaser {}).laser 5).st = .active ∧
    mget 0 (laserW litLaser {}).tst.fades 5 = 0 ∧
    ((laserW litLaser {}).laser 5).bias < ((laserW litLaser {}).laser 5).limit ∧ ((laserW litLaser {}).laser 5).spare = none ∧
    ((laserW { litLaser with spare := some 39 } { st := .locked }).laser 5).spare = some 39 ∧ (39 : Nat) ≠ 5 ∧
    ((laserW litLaser { st := .locked }).laser 39).st = .locked ∧ ((laserW litLaser {}).laser 39).lit = false ∧
    ((laserW litLaser { st := .warming }).laser 39).st = .warming ∧
    ((laserW litLaser { st := .warming }).laser 39).since + 40000000 ≤
      ({ laserW litLaser { st := .warming } with boot := { osc := 40000000 } } : State).boot.osc ∧
    (lateLaser { litLaser with spare := some 39 } { st := .warming }).spareOwner 39 = some 5 ∧
    (lateLaser { litLaser with spare := some 39 } { st := .warming }).beforePlane = false ∧
    (laserW { litLaser with st := .failed, spare := some 39 } { st := .warming }).beforePlane = true ∧
    ((laserW { litLaser with st := .failed, spare := some 39 } { st := .warming }).laser 5).st = .failed ∧
    (laserW litLaser { st := .warming }).boot.osc < ((laserW litLaser { st := .warming }).laser 39).since + 40000000 ∧
    (laserW { litLaser with spare := some 39, switchDue := some 0 } { st := .locked }).switchDue 5 = some 5 ∧
    (laserW litLaser {}).maySwitch = true ∧ ((laserW litLaser {}).laser 5).index = 5 ∧ (laserW litLaser {}).time.st ≠ .free ∧
    (0x2702 : W32).getLsbD 1 = true ∧ bits (0x2702 : W32).toNat 13 8 = 39 ∧ bits (0x502 : W32).toNat 13 8 = 5 ∧
    (laserW { litLaser with spare := some 39 } { st := .locked }).spareLocked 5 = true ∧
    (laserW litLaser {}).spareLocked 5 = false := by
  decide +kernel

/-- A default laser asks for no spare and has none; so no laser of `laserW` does but those of its list. -/
theorem witness_NoLaserAsks (l : Nat) : (laserDefault l).asked = none ∧ (laserDefault l).spare = none := by
  unfold laserDefault
  split <;> exact ⟨rfl, rfl⟩

def bondW (ht : Nat) (b : BondPort) : State := { atHt ht W with regions := [(319, { boot := .clocked, bond := b })] }
def siteW (ht : Nat) (x : Site) : State := { atHt ht W with links := { sites := [(30, x)] } }
def goodDecl : BitVec 512 :=
  BitVec.ofNat 512 (1 + 7 * 256 ^ 2 + 30 * 256 ^ 6 + 1 * 256 ^ 7 + 2 * 256 ^ 8 + 4096 * 256 ^ 16 + 1 * 256 ^ 18 + 12 * 256 ^ 23)
def all528 : BitVec 528 := BitVec.allOnes 528

theorem witness_DieLinks : 63100 ≤ framePos (bondW 63100 {}).ht ∧
    framePos (bondW 63700 {}).ht ≤ 63700 ∧ (bondW 63100 {}).time.st ≠ .free ∧
    ((bondW 63100 { st := 2 }).bond 319).checkFrame ≠ some (frameOf (bondW 63100 {}).ht) ∧
    ((bondW 63900 { st := 2 }).bond 319).lateFrame ≠ some (frameOf (bondW 63900 {}).ht) ∧ (527 : Nat) < 528 ∧
    ((bondW 0 { st := 1 }).bond 319).upFail.getLsbD 527 = false ∧
    ((bondW 0 { upFail := all528 }).bond 319).upFail.getLsbD 527 = true ∧ ((bondW 0 { st := 2 }).bond 319).st = 2 ∧
    63900 ≤ framePos (bondW 63900 {}).ht ∧ all528 &&& ~~~(1 : BitVec 528) ≠ all528 ∧
    ((bondW 0 { st := 1 }).bond 319).retryAt = none ∧ ((bondW 0 {}).rgn 319).boot = .clocked ∧
    ((bondW 0 { st := 1 }).bond 319).ends.mismatch = true ∧ ((bondW 0 { mismatches := 2 }).bond 319).mismatches = 2 ∧
    ((bondW 0 { retryAt := some 0 }).bond 319).retryAt = some 0 ∧ ((bondW 0 { st := 2 }).bond 319).mismatches < 2 ∧ 0 ≤ (bondW 0 {}).boot.osc ∧
    ((siteW 0 { st := 2 }).site 30).st = 2 ∧
    (siteW 0 { st := 2, expected := true, expVendor := 7 }).declCause 30 goodDecl = 0 ∧
    (siteW 0 { st := 2 }).declCause 30 goodDecl = 6 ∧ (siteW 0 { st := 2 }).declCause 30 0 = 1 ∧
    ((siteW 1000 { st := 3, decl := goodDecl }).site 30).st = 3 ∧
    1 ≤ declField ((siteW 1000 { st := 3, decl := goodDecl }).site 30).decl 7 1 ∧
    (siteW 1000 { st := 3, decl := goodDecl }).stnHt 30 % 1000 = 0 ∧ (27 : Nat) ≤ 30 ∧ (191 : Nat) < 192 ∧
    ({ atHt 63100 W with links := { retrainNext := 191 } } : State).links.retrainNext = 191 ∧
    W.links.retrainFrame ≠ some (frameOf 63100) ∧ ((siteW 0 { st := 1 }).site 30).st = 1 ∧
    ((siteW 0 { st := 1 }).site 30).retryAt = none ∧ ((siteW 0 { retryAt := some 0 }).site 30).retryAt = some 0 ∧
    (W.stack 11).cattrip = false ∧ (1 : W32).getLsbD 0 = true := by
  decide +kernel

/-- Either hash can be received: two different ones exist. -/
theorem witness_Hashes (h : BitVec 64) : ∃ k : BitVec 64, k ≠ h := ⟨h + 1, by simp⟩

/-! ## Witnesses: the loader, presence and firmware, start-up -/

def goWord (op : Nat) : W32 := BitVec.ofNat 32 (2 ^ 31 + op * 2 ^ 28 + 63 * 2 ^ 22 + 19 * 2 ^ 17 + 15 * 2 ^ 13)
def loadW (ht : Nat) (c : Machine.Config) (x : Partition) (y : Tile) : State :=
  { atHt ht (withTile y) with cfg := c, parts := [(63, { x with tiles := [0] })] }
def unloadReq : Req := { who := 2, op := 1, partition := 63 }
def regionReq : Req := { who := 2, op := 2 }
def runOf (r : Req) (ph : ReqSt) : LoadRun := { req := r, phase := ph, scope := [63], stops := [63], stopAt := [(63, 64000)] }
def runW (ht : Nat) (l : LoadRun) (x : Partition) (y : Tile) : State := loadW ht { run := some l } x y

theorem witness_LoaderRequests : (goWord 3).getLsbD 31 = true ∧ bits (goWord 3).toNat 30 28 = 3 ∧ bits (goWord 0).toNat 30 28 = 0 ∧
    (W.reqr 2).st.busy = false ∧ W.handOff = false ∧ handOffW.handOff = true ∧ (runOf unloadReq .checking).isLoad 2 = false ∧
    (runOf unloadReq .checking).isLoad 3 = false ∧ (runOf regionReq .applying).isLoad 2 = false ∧
    ({ W with cfg := { reqs := [(0, { st := .resuming })] } } : State).reqr 0 = { st := .resuming } ∧
    ReqSt.busy .resuming = true ∧ (loadW 0 { queue := [unloadReq] } {} tile0).cfg.run = none ∧
    (loadW 0 { queue := [unloadReq] } {} tile0).nextReq = some unloadReq ∧ unloadReq.op = 1 ∧
    ((loadW 0 {} { st := .loaded } tile0).part 63).isLoaded = true ∧ (loadW 0 {} { st := .loaded } tile0).mayLoad 2 63 = true ∧
    ((loadW 0 {} {} tile0).part 63).isLoaded = false ∧
    (runW 0 (runOf unloadReq .checking) { st := .loaded } tile0).scopeOf (runOf unloadReq .checking) = [63] ∧
    ((runW 0 (runOf unloadReq .checking) { st := .loaded } tile0).part 63).ck ≠ .saving ∧
    (runOf unloadReq .quiescing).stopAt.find? (·.1 == 63) = some (63, 64000) ∧ 63 ∉ (runOf unloadReq .quiescing).stopped ∧
    63 ∉ (runOf unloadReq .quiescing).lost ∧ 64000 ≤ (runW 64000 (runOf unloadReq .quiescing) {} tile0).ht ∧
    ((runW 0 (runOf unloadReq .quiescing) {} tile0).part 63).tiles = [0] ∧ (W.tile 0).descs = [] ∧
    (runOf unloadReq .applying).late = false ∧ (loadW 0 {} { st := .loaded } tile0).mayLoad 1 63 = false ∧
    ({ who := 2, op := 0, partition := 63 } : Req).len = 0 ∧
    (runW 64000 { runOf unloadReq .quiescing with stopped := [63], deadline := 64000 } {} tile0).drained
      { runOf unloadReq .quiescing with stopped := [63], deadline := 64000 } = true ∧
    (runOf unloadReq .quiescing).lost = [] ∧ (runOf unloadReq .quiescing).img = none ∧
    (runOf unloadReq .applying).phase = .applying ∧ (runOf regionReq .applying).req.op = 2 ∧
    resumeBoundary 62999 ≤ 64000 ∧ resumeBoundary 63000 = 128000 ∧
    ({ runOf regionReq .resuming with applyEnd := some 62999 } : LoadRun).applyEnd = some 62999 ∧
    ({ st := .applying } : Partition).st ≠ .safeState ∧ ({ st := .applying } : Partition).isLoaded = true ∧
    ({} : Partition).holdFrom = none ∧ tile0.unplaced = false := by
  decide +kernel

def fmCoord0 : W32 := coord 3 7 26 0
def presPkt (seq base : Nat) : Packet :=
  mkPkt { kind := kPRESENCE, dst := coord 3 0 26 0, src := fmCoord0, payload := leBytes 8 seq ++ leBytes 2 base ++ leBytes 2 1 ++
    [0, 0, 0, 0] ++ [0x0F, 0, 0, 0] }
def presW (p : Packet) : State :=
  { W with cfg := { W.cfg with fmCoord := fmCoord0 }, fabric := { W.fabric with pkts := [flightOf 26 p] } }
def recW : State := { W with cfg := { recMode := true, recState := 0 } }
def recWord : W32 := BitVec.ofNat 32 (2 ^ 30 + 8192)

theorem witness_PresenceFirmwareAndRecovery :
    (presW (presPkt 1 4095)).takeDest 26 (fun p => p.kind == kPRESENCE) = some (flightOf 26 (presPkt 1 4095)) ∧
    (presW (presPkt 1 4095)).presenceOk (presPkt 1 4095) = true ∧ (presenceFields (presPkt 1 4095)).2.2.length = 1 ∧
    (presW (presPkt 0 4095)).takeDest 26 (fun p => p.kind == kPRESENCE) = some (flightOf 26 (presPkt 0 4095)) ∧
    (presW (presPkt 0 4095)).presenceOk (presPkt 0 4095) = false ∧ 8 * 511 + 7 ≠ W.cfg.module ∧ Who.isFw .core1 = true ∧
    Who.isFw .port0 = false ∧ recWord.getLsbD 30 = true ∧ recW.cfg.recMode = true ∧ recW.cfg.recState ≠ 2 ∧
    (5 : W32).getLsbD 30 = false ∧ W.handOff = false ∧
    ({ atHt 63000 W with cfg := { fw := .takeover, paused := true } } : State).handOff = true ∧
    resumeBoundary ({ fwReadyHt := 62999 } : Machine.Config).fwReadyHt ≤ 64000 ∧ ({ ht := 64000, st := .locked } : TimeDom).ht % 64000 = 0 := by
  decide +kernel

theorem witness_FirmwareStates : ∃ c d e : Machine.Config, c.fw = .standbyPrep ∧ d.fw = .takeover ∧ d.paused = true ∧
    d.staged = some (1, 2, 0) ∧ e.fw = .flashing ∧ d.reverting = false ∧ ({ d with reverting := true } : Machine.Config).reverting = true ∧ ({ d with paused := false } : Machine.Config).fw = .takeover :=
  ⟨{ fw := .standbyPrep }, { fw := .takeover, paused := true, staged := some (1, 2, 0) }, { fw := .flashing }, by decide⟩

def bootW (b : Boot) : State := { W with boot := b }
def passedTo (n : Nat) (x : FieldSt) : SMap FieldSt := (List.range n).map fun f => (f, x)
def enableW (ht : Nat) (r : Region) : State := { atHt ht W with boot := { e := some 0 }, regions := [(319, r)] }
def allUngated : List Nat := List.range 16

theorem witness_StartUpSteps : (bootW { mode := .powerOff }).boot.failOff = false ∧ (bootW {}).booting = true ∧
    (bootW {}).boot.p1 = none ∧ (bootW {}).boot.steps = 0 ∧ (bootW {}).cfg.flashFw.2 = (bootW {}).cfg.fwDigest ∧
    ({ flashFw := (1, 2) } : Machine.Config).flashFw.2 ≠ ({} : Machine.Config).fwDigest ∧
    (bootW { p1 := some 0, osc := 62000000, fields := passedTo 31 .passed }).booting = true ∧
    (bootW { fields := passedTo 31 .passed }).field 31 = .off ∧ 0 + 2000000 * 31 ≤ 62000000 ∧
    (∀ f < 31, (bootW { fields := passedTo 31 .passed }).field f ≠ .off) ∧
    (bootW { fields := passedTo 32 .testing }).field 31 = .testing ∧ (19 : Nat) < (bootW {}).dies ∧
    (bootW { fields := passedTo 26 .passed }).field 25 = .passed ∧ 25 ∉ (bootW {}).boot.hbmTrained ∧
    25 ∈ (bootW { hbmTrained := [25] }).boot.hbmTrained ∧ 20 + (192 * channelBytes - 1) / channelBytes / 32 = 25 ∧
    ((bootW {}).chan ((192 * channelBytes - 1) / channelBytes)).st ≠ 2 ∧
    (bootW { p1 := some 0, osc := 63500000, fields := [(31, .passed)] }).mayStart 0 = true ∧
    ({ W with opt := { lasers := [(31, { st := .active, index := 31, started := true })] } } : State).laser 31 =
      { st := .active, index := 31, started := true } ∧ W.cfg.moduleLoaded = false ∧ W.stage = [] ∧
    319 ∈ (enableW 1276000 {}).bootRegions ∧ (enableW 1276000 {}).enableReached 319 0 = true ∧
    (enableW 1276000 {}).enableReached 319 1 = false ∧ ((enableW 1276000 {}).rgn 319).boot = .off ∧
    (enableW 1279750 { boot := .enabling, ungated := List.range 15 }).enableReached 319 (250 * 15) = true ∧
    (List.range 15).length < 16 ∧ allUngated.length = 16 ∧ (enableW 1280000 {}).enableReached 319 4000 = true ∧
    ((enableW 0 { boot := .clocked }).rgn 319).boot = .clocked := by
  decide +kernel

/-- The lower regions have started when the last one does. -/
def lastRegionW : State :=
  { enableW 1276000 {} with regions := (List.range 319).map fun k => (k, { boot := .enabled }) }
theorem witness_LowerRegions : (∀ k ∈ lastRegionW.bootRegions, k < 319 → (lastRegionW.rgn k).boot ≠ .off) ∧
    (lastRegionW.rgn 319).boot = .off ∧ 319 ∈ lastRegionW.bootRegions := by
  decide +kernel

/-! ## Witnesses: safe state and board, hosts, side-band, Peat and the test block -/

def safeW (x : Safe) : State := { W with safe := x }
def peatRec (n : Nat) : PeatRec := { seq := n, code := 0xE001, data := [1, 2, 3, 4, 5, 6, 7, 8] }
def heldPeat : State := { W with evt := { buf := [peatRec 1], next := 2, unread := [1] } }
def offW (m : RunMode) : State := { W with boot := { mode := m } }

theorem witness_SafeStateAndBoardEvents : W.safe.shared = false ∧
    (safeW { shared := true, exiting := true }).safe.exiting = true ∧ (63 : Nat) < 64 ∧
    ({ W with parts := [(63, { st := .loaded })] }.part 63).isLoaded = true ∧
    ({ W with cfg := { shadow := true } } : State).cfg.shadow = true ∧ W.cfg.shadow = false ∧ (1 : W32).getLsbD 0 = true ∧
    Who.isFw .core0 = true ∧ Who.isFw .port1 = false ∧ W.loadedParts = [] ∧ W.anyLatch = false ∧
    ({ W with parts := [(63, { st := .safeState })] }).loadedParts ≠ [] ∧
    ({ W with regions := [(319, { sdLatch := true })] }).anyLatch = true ∧
    (safeW { shared := true, exiting := true, relit := true }).safe.relit = true ∧ heldPeat.boot.mode ≠ .powerOff ∧
    heldPeat.boot.mode ≠ .held ∧ heldPeat.evt.flush = none ∧ heldPeat.evt.erasing = false ∧ heldPeat.evt.sets.length < 16 ∧
    heldPeat.evt.unwritten heldPeat.evt.next ≠ [] ∧ W.evt.unwritten W.evt.next = [] ∧ W.safe.trig.getLsbD 4 = false ∧
    W.evt.buf = [] ∧ (offW .powerOff).boot.mode = .powerOff ∧ (offW .held).boot.mode = .held ∧ (offW .held).evt.flush = none := by
  decide +kernel

def portW (q : Port) : State := { W with ports := [(1, q)] }
def donePart (st : Byte) (bs : List Byte) : Bar2Part := { status := some st, data := bs }
def readWith (p : Bar2Part) : Bar2Read := { addr := 252, len := 4, entered := true, parts := [p] }

theorem witness_PciePortsAndHostMemory : W.boot.mode ≠ .powerOff ∧ W.boot.mode ≠ .held ∧
    ((portW { up := true }).port 1).up = true ∧ 2 ^ 34 - 4 + ([1, 2, 3, 4] : List Byte).length ≤ 2 ^ W.fused.bar2Log2 ∧
    W.opt.deepRuns = false ∧ ({ deep := .running 0 } : Optics).deepRuns = true ∧ (4 : Nat) ≤ 4096 ∧
    512 < (List.replicate 513 (0 : Byte)).length ∧ ((portW { reqs := [{ tag := 7 }, { tag := 8 }] }).port 1).reqs =
      [{ tag := 7, covers := [] }, { tag := 8, covers := [] }] ∧ (7 : Nat) ≠ 8 ∧ 0 < ([1, 2, 3, 4] : List Byte).length ∧ (2 ^ 34 - 4) % 256 + ([1, 2, 3, 4] : List Byte).length ≤ 256 ∧
    ((portW { up := true }).port 1).reads = [] ∧ ((portW { up := true }).port 1).writes = [] ∧ (W.port 1).up = false ∧
    ((portW { reads := [readWith (donePart St.done [9])] }).port 1).reads = [readWith { donePart St.done [9] with
      status := some St.done, data := [9] }] ∧
    ((portW { reads := [readWith (donePart St.translationMiss [])] }).port 1).reads =
      [readWith { donePart 0 [] with status := some St.translationMiss }] ∧
    ((portW { up := true, bme := true, unflushed := [{}] }).port 1).unacked = true ∧
    ((portW { up := true, bme := true, unflushed := [{}] }).port 1).refusal = none ∧
    ((portW { up := true, bme := true, unflushed := [{}] }).port 1).reqsFull = false ∧
    ((portW { reqs := [{ tag := 7, pkt := some {} }] }).port 1).reqs = [{ tag := 7, pkt := some {} }] := by
  decide +kernel

def mctpW : State := { W with boot := { mode := .failed, osc := 20000000 }, evt := heldPeat.evt }
def spdmW (c : Spdm) : State := { portW { up := true } with sec := { spdm := [(1, c)] } }

theorem witness_SidebandSpdmAndJtag : mctpW.mctpRuns = true ∧ (1 : BitVec 8) ≠ 0 ∧ (1 : BitVec 8) ≠ 0xFF ∧ (19 : Nat) ≤ 19 ∧
    0x3FFFFFC % 4 = 0 ∧ 0x3FFFFFC < 0x4000000 ∧
    mctpW.evt.buf.find? (fun e => e.seq == (peatRec 1).seq) = some (peatRec 1) ∧ W.mctpRuns = false ∧
    (spdmW {}).spdmUp .port1 = true ∧ ((spdmW { version := true }).conn .port1).version = true ∧
    ((spdmW {}).conn .port1).version = false ∧ ((spdmW { caps := true }).conn .port1).caps = true ∧
    ((spdmW { algs := true }).conn .port1).algs = true ∧ ({ sha3 := false } : AlgOffer).sha3 = false ∧
    ({ vendor := true } : MctpMsg).vendor = true ∧ ({ W with board := { resetLow := true } } : State).board.resetLow = true ∧
    W.board.resetLow = false ∧ ((spdmW {}).conn .port1).algs = false := by
  decide +kernel

def tstW (osc : Nat) (x : Tst) : State := { W with boot := { osc := osc }, tst := x }
def prodW : State := { tstW 0 {} with parts := [(63, { st := .loaded, production := true })] }

theorem witness_PeatAndTheTestBlock : ({ offered := [peatRec 0] } : Peat).offered = peatRec 0 :: [] ∧
    ({} : Peat).buf.length < 32512 ∧ (peatRec 0).code / 4096 = 14 ∧
    mget [] ({ stages := [(19, [peatRec 0])] } : Peat).stages 19 = peatRec 0 :: [] ∧
    mget 0 ({ stages := [(19, [peatRec 0])] } : Peat).stageLost 19 = 0 ∧ (atHt 10000000 W).windowCount % 10000000 = 0 ∧
    W.evt.supp = [] ∧ (7 : W32).getLsbD 0 = true ∧ (7 : W32).getLsbD 1 = true ∧ (7 : W32).getLsbD 2 = true ∧
    W.evt.flush = none ∧ heldPeat.evt.unwritten heldPeat.evt.next ≠ [] ∧
    ({ flush := some { upTo := 2 } } : Peat).flush = some { upTo := 2 } ∧ ({ upTo := 2 } : FlushRun).cause = 0 ∧
    ({ upTo := 2 } : FlushRun).clearAfter = false ∧ ({ upTo := 2 } : FlushRun).eraseAfter = false ∧ W.evt.after = 0 ∧
    W.evt.erasing = false ∧ ({ erasing := true } : Peat).flushWait = none ∧ W.stage = [] ∧
    (0x3C1F : W32).toNat % 65536 = 0x3C1F ∧ (0xC3E0 : W32).toNat % 65536 = 0xC3E0 ∧
    (tstW 1000000 { key1 := some (.port1, 0) }).tst.key1 = some (.port1, 0) ∧
    (tstW 1000000 {}).boot.osc ≤ 0 + 1000000 ∧ 0 + 1000000 < (tstW 1000001 {}).boot.osc ∧ W.prodLock = false ∧
    prodW.prodLock = true ∧ (tstW 0 { unlocked := true }).tst.unlocked = true ∧ (30 : Nat) < 31 ∧
    (tstW 0 {}).tst.unlocked = false := by
  decide +kernel

/-- Full buffers: of the general part, and of the places of block 0xE too. -/
theorem witness_FullBuffers (r : PeatRec) : 32512 ≤ (List.replicate 32512 r).length ∧ (List.replicate 32512 r).length < 32768 ∧
    32768 ≤ (List.replicate 32768 r).length ∧ ({ code := 0x1001 } : PeatRec).code / 4096 ≠ 14 := by
  simp only [List.length_replicate]
  decide

/-! ## Worked examples of the manual -/

/-- R63: counter c3 of tile 7.12.3.5.9 is at 0x283_594C. -/
theorem test_counter_address : ({ W with tiles := [(tileKey 12 3 89, { tile0 with c := [(3, 0xABCD)] })] }).regValue .port0 0x283594C =
    0xABCD := by
  decide +kernel

/-- R319: the clock state 0x44 of region 3 of die 12 is read at 0x290_3300. -/
theorem test_clock_register : ({ W with regions := [(12 * 16 + 3, { boot := .enabled, locked := true, opNext := 1, op := 0 })]
    }).regValue .port0 0x2903300 = 0x44 := by
  decide +kernel

/-- R349: region 5 of die 7 with STATE 2, STEPS 1 and THROTTLE_SEEN is read at 0x1F0_5404. -/
theorem test_thermal_register : ({ W with regions := [(7 * 16 + 5, { boot := .enabled, n := 1, x := 1 / 2, throttleSeen := true })]
    }).regValue .port0 0x1F05404 = 0x212 := by
  decide +kernel

/-- R148: the flight from station 12 to station 22 is DST2 of 0x03F_8194. -/
theorem test_flight_register : (W.regValue .port0 0x3F8194 = 0) ∧
    ({ W with opt := { flights := [(12 * 32 + 22, 0x74)] } }).regValue .port0 0x3F8194 = 0x740000 := by
  decide +kernel

/-- R220: L(12, 22) of station 12's map is bits [23:16] of 0x051_3188. -/
theorem test_gingham_register : ({ W with stations := [(12, { gngShown := [(394, 5)] })] }).regValue .port0 0x513188 = 0x50000 := by
  decide +kernel

/-- R372: OPT_COEF_DATA5 of receive line 4 on waveguide 20 at station 7. -/
theorem test_coefficient_register : ({ W with opt := { coefSel := 0x3E840000, rings :=
    [(ringKey 7 1 20 4, { offTgt := 18, pt := -13 })] } }).regValue .port0 0x300034 = 0xFFF30012 := by
  decide +kernel

/-- R181: the coordinate of tile 7.12.3.5.9. -/
theorem test_tile_coordinate : coord 0 7 12 (3 * 256 + 89) = 0xEC359 := by decide

/-- R77: 1.1 to E4M3 by SR, with the element's bits 0x3A7F and 0xD000. -/
theorem test_stochastic_rounding : (encodeNum 3 2 0x3A7F (decodeNum 0 0x3F8CCCCD)).1 = 0x39 ∧
    (encodeNum 3 2 0xD000 (decodeNum 0 0x3F8CCCCD)).1 = 0x38 := by
  decide +kernel

/-- R79: a block whose largest input is 5.3, and one with 7.9, to E2M1. -/
theorem test_mx_block : mxBlock 7 0 [decodeNum 0 0x40A9999A, decodeNum 0 0x40FCCCCD] [0, 0] = (0x7F, [7, 7], 0) := by
  decide +kernel

/-- R201: of two candidates of cost 20 and 40 the cheaper is taken, wherever the count starts. -/
theorem test_best_route : ∀ start < 31, bestVia (fun m => if m = 5 then some 20 else if m = 9 then some 40 else none) start =
    some 5 := by
  decide +kernel

/-- R83: the MXFP4 by MXFP8 block: sum 6.25, folded into 100.0, and delivered with the row scale. -/
theorem test_block_fold : ([(7, 0x40), (0xB, 0x48), (1, 0xA8), (5, 0x20)] : List (Nat × Nat)).foldl
      (fun (o : OpenSum) p => o.addProd (decodeNum 7 p.1) (decodeNum 3 p.2)) {} = { sum := 25 * 2 ^ 264 } ∧
    foldElem 0x42C80000 (scaledPart { sum := 25 * 2 ^ 264 } true true 0x7C 0x7F) = (0x42C99000, 0) ∧
    deliver 0 0 false 0x42C99000 (some 0x3E99999A) = (0x41F1E001, 0) := by
  decide +kernel

/-- R92: FX64 conversions with e = -40. -/
theorem test_fx64 : toFx64 (-40) (.fin false 3 (-1)) = (1649267441664, 0, false) ∧
    toFx64 (-40) (.fin false 3 (-42)) = (1, 0, false) ∧ toFx64 (-40) (.fin false 1 (-41)) = (0, 0, false) ∧
    toFx64 (-40) (.fin true 5 (-41)) = (-2, 0, false) ∧
    toFx64 (-40) (.fin false 1 30) = (9223372036854775807, 0, true) := by
  decide +kernel

/-- R122: the MMV with n = 215 runs for 29 cycles. -/
theorem test_mmv_cycles : ceilDiv (mmvBytes 7 215) 128 = 29 := by decide

/-- R228, R230: MPA 0x4_0012_3480 lies on channel 99 at 156,617,088. -/
theorem test_hbm_place : ({} : Mem).key 0x400123480 = 99 * channelBytes + 156617088 ∧
    ({} : Mem).channelOf 0x400123480 = 99 ∧ channelStation 99 = 23 ∧ ({} : Mem).slots = 3056 := by
  decide +kernel

/-- R282: a save at J = 126 goes on at frame 80,000 with an offset of 5,111,936,000 ns. -/
theorem test_job_time : jobTime { joff := 5111936000 } 5120000380 = 126 * 64000 + 380 := by decide

/-- R299: two ports at +0.5 and +0.8 ns give +0.65 ns; +0.5 and +4.0 ns give no estimate. -/
theorem test_time_estimate : combine [(0, 1 / 2), (1, 4 / 5)] = (some (13 / 20), []) ∧
    combine [(0, 1 / 2), (1, 4)] = (none, []) := by
  decide +kernel

/-- R329: the floor of 7.08 W at 85 °C and the grant of 1,386 tokens. -/
theorem test_grant : ({} : Power).floorAt 0 85 = 177 / 25 ∧
    (hotW 1000 { op := 0, allot := 2927 / 100, tEff := 85 }).grantOf 0 = 1386 := by
  constructor
  · decide +kernel
  · have h : (hotW 1000 { op := 0, allot := 2927 / 100, tEff := 85 }).isAdaptive 0 = true := by decide +kernel
    unfold State.grantOf State.runningAdaptive
    rw [h]
    decide +kernel

/-- R432: region 3 of station 12 is enabled at E + 780 µs. -/
theorem test_region_enable : ({ W with boot := { e := some 1000 } }).enableAt (12 * 16 + 3) = some 781000 := by decide +kernel

end Sys2Proof.Tests
end

section
/-! SUPPORT. R9: the halves of 64-bit pairs that requesters have staged, and the writes of PKT_GNG_ADDR. -/

namespace Sys2Proof.Machine

/-! ## The first entry of a key -/

section
variable {α : Type}

theorem find?_key_cons (a : Nat) (x : α) (m : SMap α) (k : Nat) :
    ((a, x) :: m : SMap α).find? (·.1 == k) = if k = a then some (a, x) else m.find? (·.1 == k) := by
  by_cases h : k = a
  · simp [h]
  · simp [h, Ne.symm h]

theorem find?_minsert (m : SMap α) (k k' : Nat) (v : α) :
    (minsert m k v).find? (·.1 == k') = if k' = k then some (k, v) else m.find? (·.1 == k') := by
  induction m with
  | nil => exact find?_key_cons k v [] k'
  | cons p m ih =>
    obtain ⟨a, x⟩ := p
    rcases lt_trichotomy k a with hlt | rfl | hgt
    · simp only [minsert, hlt, if_true, find?_key_cons]
    · simp only [minsert, lt_irrefl, if_true, if_false, find?_key_cons]
      split <;> rfl
    · have hne : a ≠ k := hgt.ne
      simp only [minsert, hgt.not_gt, hne.symm, if_false, find?_key_cons, ih]
      by_cases hk : k' = a
      · simp only [hk, hne, if_true, if_false]
      · simp only [hk, if_false]

theorem find?_merase_same (m : SMap α) (k : Nat) : (merase m k).find? (·.1 == k) = none := by
  simp [merase]

end

/-! ## Staging a LO half -/

/-- R9: a requester and the address of a LO word determine the key of the staged half. -/
theorem stageKey_inj {w w' : Who} {lo lo' : Nat} (hlo : lo < 2 ^ 32) (hlo' : lo' < 2 ^ 32) :
    w'.slot * 2 ^ 32 + lo' = w.slot * 2 ^ 32 + lo ↔ w'.slot = w.slot ∧ lo' = lo := by
  omega

theorem State.staged_stageLo (s : State) (w w' : Who) {lo lo' : Nat} (v : W32) (hlo : lo < 2 ^ 32)
    (hlo' : lo' < 2 ^ 32) :
    (s.stageLo w lo v).staged w' lo' = if w'.slot = w.slot ∧ lo' = lo then some v else s.staged w' lo' := by
  simp only [State.staged, State.stageLo, find?_minsert, stageKey_inj hlo hlo']
  split <;> rfl

theorem State.staged_merase_same (s : State) (w : Who) (lo : Nat) :
    { s with stage := merase s.stage (w.slot * 2 ^ 32 + lo) }.staged w lo = none := by
  simp only [State.staged, find?_merase_same, Option.map_none]

/-! ## Applying a HI half -/

theorem ofNat_hi_lo_eq_append (hi lo : W32) : BitVec.ofNat 64 (hi.toNat * 2 ^ 32 + lo.toNat) = hi ++ lo := by
  apply BitVec.eq_of_toNat_eq
  rw [BitVec.toNat_append, ← Nat.shiftLeft_add_eq_or_of_lt lo.isLt, Nat.shiftLeft_eq, BitVec.toNat_ofNat,
    Nat.mod_eq_of_lt (by omega)]

theorem State.hiWrite_of_staged {s : State} {w : Who} {lo : Nat} {l : W32} (h : s.staged w lo = some l) (old : W64)
    (v : W32) :
    s.hiWrite w lo old v = ({ s with stage := merase s.stage (w.slot * 2 ^ 32 + lo) }, v ++ l) := by
  obtain ⟨p, hp, rfl⟩ := Option.map_eq_some_iff.mp h
  simp only [State.hiWrite, hp, ofNat_hi_lo_eq_append]

theorem State.hiWrite_of_not_staged {s : State} {w : Who} {lo : Nat} (h : s.staged w lo = none) (old : W64) (v : W32) :
    s.hiWrite w lo old v = (s, v ++ old.setWidth 32) := by
  have hp := Option.map_eq_none_iff.mp h
  simp only [State.hiWrite, hp, ← ofNat_hi_lo_eq_append, BitVec.toNat_setWidth]

theorem State.pairWrite_hi {s t : State} {w : Who} {lo : Nat} {old x : W64} {v : W32}
    (hx : s.hiWrite w lo old v = (t, x)) (put : State → W64 → State) : s.pairWrite w lo true v old put = put t x := by
  simp only [State.pairWrite, if_true, hx]

/-! ## PKT_GNG_ADDR (0x500018, 0x50001C) -/

theorem State.mapped_of_up {s : State} (h : s.boot.mode = .up) (a : Nat) : s.mapped a = true := by
  simp only [State.mapped, h]

theorem State.regWrite_of_up {s : State} {w : Who} {a : Nat} (hw : w ≠ .sideband) (h : s.boot.mode = .up)
    (ha : a % 4 = 0) (v : W32) : s.regWrite w a 4 v = s.regAct w a v := by
  simp [State.regWrite, hw, ha, State.mapped_of_up h]

theorem exec_regLoWriteStage_gngAddr {s : State} {w : Who} (hw : w ≠ .sideband) (h : s.boot.mode = .up) (v : W32) :
    exec (.regLoWriteStage w 0x500018 v) s = .next (s.stageLo w 0x500018 v) := by
  have hact : s.regWrite w 0x500018 4 v = s.regAct w 0x500018 v := State.regWrite_of_up hw h rfl v
  calc exec (.regLoWriteStage w 0x500018 v) s = .next (s.regWrite w 0x500018 4 v) := rfl
    _ = .next (s.stageLo w 0x500018 v) := by rw [hact]; rfl

theorem exec_regHiWriteApply_gngAddr {s t : State} {w : Who} {v : W32} {x : W64} (hw : w ≠ .sideband)
    (h : s.boot.mode = .up) (hx : s.hiWrite w 0x500018 s.fabric.gngAddr v = (t, x)) :
    exec (.regHiWriteApply w 0x50001C v) s = .next { t with fabric := { t.fabric with gngAddr := x } } := by
  have hact : s.regWrite w 0x50001C 4 v = s.regAct w 0x50001C v := State.regWrite_of_up hw h rfl v
  calc exec (.regHiWriteApply w 0x50001C v) s = .next (s.regWrite w 0x50001C 4 v) := rfl
    _ = .next (s.pairWrite w 0x500018 true v s.fabric.gngAddr fun s x =>
        { s with fabric := { s.fabric with gngAddr := x } }) := by rw [hact]; rfl
    _ = .next { t with fabric := { t.fabric with gngAddr := x } } := by rw [State.pairWrite_hi hx]

/-- Settles O8 (R9), from what a write of either half does: LO stages under a key of its own, HI takes the staged half
and erases its entry, or keeps the low word. -/
theorem pairIsWrittenByHi : Obligations.PairIsWrittenByHi := by
  intro s w v hw hup
  refine ⟨⟨_, exec_regLoWriteStage_gngAddr hw hup v, ?_, fun w' lo hlo hne => ?_, rfl⟩, fun l hl => ?_,
    fun hnone => ?_⟩
  · simp [State.staged_stageLo]
  · rw [State.staged_stageLo s w w' v (by decide) hlo, if_neg (by tauto)]
  · exact ⟨_, exec_regHiWriteApply_gngAddr hw hup (State.hiWrite_of_staged hl _ v), rfl,
      State.staged_merase_same s w 0x500018, rfl⟩
  · exact exec_regHiWriteApply_gngAddr hw hup (State.hiWrite_of_not_staged hnone _ v)

end Sys2Proof.Machine
end

section
/-! SUPPORT. R22: the scalar registers of a tile, and the frame of a retired instruction. -/

namespace Sys2Proof.Machine

theorem Tile.rs_ws_same (x : Tile) {r : Nat} (v : W64) (h : r ≠ 0) : (x.ws r v).rs r = v := by
  rw [Tile.rs_ws, if_pos ⟨rfl, h⟩]

theorem Tile.rs_ws_ne (x : Tile) {r k : Nat} (v : W64) (h : k ≠ r) : (x.ws r v).rs k = x.rs k := by
  rw [Tile.rs_ws, if_neg fun hk => h hk.1]

/-- A write to a scalar register changes no other field of the tile. -/
theorem Tile.ws_frame (x : Tile) (r : Nat) (v : W64) : { x.ws r v with s := x.s } = x := by
  by_cases h : r = 0
  · subst h; rfl
  · simp only [Tile.ws, if_neg h]

/-- A retired instruction changes nothing outside the table of tiles, in which `State.tile_ran_ne` speaks of the other
tiles. -/
theorem State.ran_frame (s : State) (t : Nat) (unit : Option ExecUnit) (occ : Nat) (g : Tile → Tile) :
    { s.ran t unit occ g with tiles := s.tiles } = s := rfl

/-- Settles O11 (R22), from what a scalar register reads after a write and from the frame of a retired instruction. -/
theorem registersOfATile : Obligations.RegistersOfATile := by
  refine ⟨fun x r k v => ?_, fun s t u unit occ g => ?_⟩
  · exact ⟨Tile.rs_zero _, Tile.ws_zero x v, Tile.rs_ws_same x v, Tile.rs_ws_ne x v, Tile.ws_frame x r v⟩
  · exact ⟨State.tile_ran s t unit occ g, Tile.issued_pc _ unit occ, State.tile_ran_ne s unit occ g,
      State.ran_frame s t unit occ g⟩

end Sys2Proof.Machine
end

section
/-! SUPPORT. R403: what a step can do to the signer fuses. -/

namespace Sys2Proof.Machine

/-- R403: `t` has the signer fuses of `s`, or one slot more is enrolled, or one live slot is revoked beside another
live one. -/
inductive KeyStep (s t : State) : Prop
  | same (h : ∀ n, t.key n = s.key n)
  | enrol (slot : Nat) (hash : BitVec 256) (free : (s.key slot).enrolled = false)
      (h : ∀ n, t.key n = if n = slot then { s.key slot with hash := hash, enrolled := true } else s.key n)
  | revoke (slot other : Nat) (live : (s.key slot).live = true) (ne : other ≠ slot) (stays : (s.key other).live = true)
      (h : ∀ n, t.key n = if n = slot then { s.key slot with revoked := true } else s.key n)

theorem key_congr {s t : State} (h : t.cfg.keys = s.cfg.keys) (n : Nat) : t.key n = s.key n := by
  simp only [State.key, h]

/-- States with equal fuses take the same steps of them. -/
theorem KeyStep.congr {s s' t t' : State} (h : KeyStep s t) (hs : s.cfg.keys = s'.cfg.keys)
    (ht : t'.cfg.keys = t.cfg.keys) : KeyStep s' t' := by
  have es := key_congr hs
  have et := key_congr ht
  cases h with
  | same h => exact .same fun n => by rw [et, h, es]
  | enrol slot hash free h => exact .enrol slot hash (by rw [← es]; exact free) fun n => by rw [et, h, es, es]
  | revoke slot other live ne stays h =>
    exact .revoke slot other (by rw [← es]; exact live) ne (by rw [← es]; exact stays) fun n => by rw [et, h, es, es]

/-- R403: an allowed key operation enrols a slot that is not enrolled, or revokes a live one beside another. -/
theorem State.applyKey_keyStep {s : State} {i : Image} (h : s.keyOpOk i = true) : KeyStep s (s.applyKey i) := by
  have hk := s.applyKey_key i
  unfold State.keyOpOk at h
  rcases hop : i.keyOp with _ | ⟨op, slot, rsvd, hash⟩
  · simp [hop] at h
  · simp only [hop] at h hk
    by_cases h1 : op = 1
    · simp only [h1, if_true] at h hk
      refine .enrol slot hash ?_ hk
      simp only [Bool.and_eq_true, Bool.not_eq_true'] at h
      exact h.2.2
    · simp only [h1, if_false] at h hk
      simp only [Bool.and_eq_true, List.any_eq_true, bne_iff_ne, ne_eq] at h
      obtain ⟨_, _, ⟨⟨_, live⟩, _⟩, other, _, ne, stays⟩ := h
      exact .revoke slot other live ne stays hk

/-- R403: every step, of a command or of time alone, is one of these. -/
theorem step_keyStep {s t : State} (h : step s = .next t) : KeyStep s t := by
  cases hp : s.pending with
  | nil =>
    simp only [step, hp, Host.Outcome.next.injEq] at h
    subst h
    exact .same (key_congr s.tick_keeps.2.2.2)
  | cons c cs =>
    obtain ⟨u, hu, hk⟩ := exec_keys c { s with pending := cs }
    simp only [step, hp, hu, Host.Outcome.next.injEq] at h
    subst h
    rcases hk with hk | ⟨v, i, hv, hok, hw⟩
    · exact .same (key_congr hk.2.2.2)
    · exact (State.applyKey_keyStep hok).congr hv.2.2.2 hw.2.2.2

/-- Settles O4, from the three things that a step can do to the fuses: none clears a slot. -/
theorem signerFusesAreNeverCleared : Obligations.SignerFusesAreNeverCleared := by
  intro s t hst n
  cases step_keyStep hst with
  | same h => rw [h]; exact ⟨fun he => ⟨he, rfl⟩, id⟩
  | enrol slot hash free h =>
    rw [h]
    split
    · next hn => subst hn; exact ⟨fun he => absurd (free.symm.trans he) Bool.false_ne_true, id⟩
    · exact ⟨fun he => ⟨he, rfl⟩, id⟩
  | revoke slot other live ne stays h =>
    rw [h]
    split
    · next hn => subst hn; exact ⟨fun he => ⟨he, rfl⟩, fun _ => rfl⟩
    · exact ⟨fun he => ⟨he, rfl⟩, id⟩

/-- Settles O5: a new slot is not revoked, for no slot that is not enrolled is; and beside a revoked slot another one is
live. -/
theorem theLastSignerStays : Obligations.TheLastSignerStays := by
  rintro s t ⟨hrev, hlive⟩ hst
  cases step_keyStep hst with
  | same h => simpa only [State.signersOk, h] using And.intro hrev hlive
  | enrol slot hash free h =>
    have hnew : (s.key slot).revoked = false := by
      by_contra hr
      exact absurd (free.symm.trans (hrev slot (by simpa using hr))) Bool.false_ne_true
    refine ⟨fun n hn => ?_, fun _ => ⟨slot, ?_⟩⟩
    · rw [h] at hn ⊢
      split
      · rfl
      · next hne => rw [if_neg hne] at hn; exact hrev n hn
    · rw [h, if_pos rfl]
      simp [KeySlot.live, hnew]
  | revoke slot other live ne stays h =>
    refine ⟨fun n hn => ?_, fun _ => ⟨other, by rw [h, if_neg ne]; exact stays⟩⟩
    rw [h] at hn ⊢
    split
    · exact (Bool.and_eq_true_iff.1 live).1
    · next hne => rw [if_neg hne] at hn; exact hrev n hn

/-- Settles O6: at reset no slot is enrolled and every memory is empty. -/
theorem resetMeetsTheInvariants : Obligations.ResetMeetsTheInvariants := by
  have hkey : ∀ n, State.reset.key n = {} := fun _ => rfl
  refine ⟨⟨fun n h => ?_, fun ⟨n, h⟩ => ?_⟩, ⟨rfl, fun _ => rfl⟩, rfl⟩ <;> simp [hkey] at h

end Sys2Proof.Machine
end

section
/-! SUPPORT. What every step answers: the command at the front, or a nanosecond. -/

namespace Sys2Proof.Machine

/-- Settles O1: a step is the effect of the command at the front, by definition. -/
theorem stepRunsTheFrontCommand : Obligations.StepRunsTheFrontCommand := fun _ _ _ => rfl

/-- Settles O3, from the two things that a command can do: nothing to what it names, or a key operation, which
changes the signer fuses alone of it. -/
theorem everyCommandHasANextState : Obligations.EveryCommandHasANextState := by
  intro c s
  obtain ⟨t, ht, hk | ⟨u, i, hu, _, hw⟩⟩ := exec_keys c s
  · exact ⟨t, ht, hk.few⟩
  · have hi := u.applyKey_few i
    exact ⟨t, ht, hw.1.trans (hi.1.trans hu.1), hw.2.1.trans (hi.2.1.trans hu.2.1),
      hw.2.2.1.trans (hi.2.2.trans hu.2.2.1)⟩

/-! ## One nanosecond -/

/-- R287: one step of the slew is within 42,949 units, towards 0, and takes all that is no larger. -/
theorem slewStep_bounds (w : Int) : (slewStep w).natAbs ≤ 42949 ∧ (w - slewStep w).natAbs ≤ w.natAbs ∧
    (w.natAbs ≤ 42949 → w - slewStep w = 0) := by
  unfold slewStep clampAbs
  split
  · omega
  · split <;> omega

/-- The module's own count takes every unit of the oscillator's time. -/
theorem Boot.tick_total (b : Boot) (units : Nat) :
    (b.tick units).osc * 2 ^ 32 + (b.tick units).oscFrac = b.osc * 2 ^ 32 + b.oscFrac + units := by
  simp only [Boot.tick]
  omega

/-- Settles O2, from what a nanosecond changes of time, of the own count and of each tile. -/
theorem idleStepPassesOneNanosecond : Obligations.IdleStepPassesOneNanosecond := by
  intro s hp
  obtain ⟨htime, hboot, hframe⟩ := s.tick_frame
  obtain ⟨hstep, hshrink, hall⟩ := slewStep_bounds s.time.slew
  refine ⟨s.tick, by simp only [step, hp], s.tick_keeps.1.trans hp, ?_, ?_, ?_, ?_, ?_, ?_, fun k hk => ?_,
    fun k hk hi hf hd => ?_, hframe⟩
  · rw [htime]; rfl
  · rw [htime]
    simpa only [TimeDom.tick, sub_sub_cancel] using hstep
  · rw [htime]; exact hshrink
  · rw [htime]; exact hall
  · rw [hboot]; rfl
  · rw [hboot]; exact Boot.tick_total _ _
  · rw [s.tick_tile_idle k hk]; exact s.tile_tickCounts k
  · rw [s.tick_tile_illegal k hk hi hf hd]
    exact ⟨(Tile.faulted_keeps _ _).1, (Tile.faulted_keeps _ _).2.1⟩

end Sys2Proof.Machine
end

section
/-! SUPPORT. R6 to R9: reads and writes of the register space of BAR0. -/

namespace Sys2Proof.Machine

/-! ## A read of LO -/

/-- The entry of a key that the table does not list is the default. -/
theorem mget_of_find?_none {α : Type} (d : α) {m : SMap α} {k : Nat} (h : (m.find? (·.1 == k)) = none) :
    mget d m k = d := by
  refine mget_absent d m k fun hk => ?_
  obtain ⟨p, hp, rfl⟩ := List.mem_map.1 hk
  simpa using List.find?_eq_none.1 h p hp

/-- R8: the latches after a read of LO: HI under the address of LO, and with TIM_HT_LO the fraction. -/
theorem State.readLatch_of_isLo {s : State} {a : Nat} (hm : s.mapped a = true) (hlo : s.isLo a = true) (w : Who) :
    ∃ m, s.readLatch w a = { s with latch := m } ∧ ∀ (d : W32) (k : Nat), mget d m k =
      if a = 0x100000 ∧ k = w.slot * 2 ^ 32 + 0x100008 then BitVec.ofNat 32 s.time.frac.toNat
      else if k = w.slot * 2 ^ 32 + a then BitVec.ofNat 32 (s.live w (a + 4)) else mget d s.latch k := by
  refine ⟨_, by simp only [State.readLatch, hm, hlo]; rfl, fun d k => ?_⟩
  by_cases ha : a = 0x100000
  · simp only [ha, if_true, true_and, mget_minsert]
  · simp only [ha, if_false, false_and, mget_minsert]

/-- R8: what a requester reads at the HI word of a pair. -/
theorem State.regValue_hi {s : State} {a : Nat} (hm : s.mapped (a + 4) = true) (hlo : s.isLo a = true) (w : Who) :
    s.regValue w (a + 4) = mget (BitVec.ofNat 32 (s.live w (a + 4))) s.latch (w.slot * 2 ^ 32 + a) := by
  simp [State.regValue, hm, hlo]

/-- Settles O7, from what a read of LO latches and from what a read of HI answers. -/
theorem readOfLoLatchesHi : Obligations.ReadOfLoLatchesHi := by
  intro s w a ha hlt hm hlo
  refine ⟨?_, fun hnone hhi => ?_⟩
  · obtain ⟨m, hread, hget⟩ := State.readLatch_of_isLo hm hlo w
    have hexec : exec (.regLoReadLatch w ⟨a, 4⟩) s =
        .next (State.emit { s with latch := m } (.regRead w a (s.regValue w a))) := by
      simp only [← hread]
      exact congrArg Host.Outcome.next (if_pos ⟨ha, rfl⟩)
    refine ⟨_, hexec, rfl, fun u hu hmu hlu => ?_, fun w' b d hw hb => ?_, rfl⟩
    · rw [State.regValue_hi hmu hlu, hu]
      refine (hget _ _).trans ?_
      rw [if_neg (by omega), if_pos rfl]
    · refine (hget d _).trans ?_
      rw [if_neg (by omega), if_neg (by omega)]
  · rw [State.regValue_hi hhi hlo, mget_of_find?_none _ hnone]

/-! ## Writes by access type -/

/-- R442: what a write that has another size or alignment, or is of an unmapped address, or neither, does. -/
theorem State.regWrite_misfit {s : State} {w : Who} {a size : Nat} (hw : w ≠ .sideband) (h : size ≠ 4 ∨ a % 4 ≠ 0)
    (v : W32) : s.regWrite w a size v = s.portErr w := by
  rw [State.regWrite, if_neg hw, if_pos h]

/-- R62: the window of a die's tiles holds 256 bytes for each. -/
theorem State.dieReg_tile {s : State} {d r k o : Nat} (hd : d < s.dies) (hr : r < 16) (hk : k < 256) (ho : o < 256) :
    s.dieReg (0x1000000 + d * 0x200000 + r * 0x10000 + k * 0x100 + o) = .tile (tileKey d r k) o := by
  have hslot : slotIn (0x1000000 + d * 0x200000 + r * 0x10000 + k * 0x100 + o) 0x1000000 0x200000 s.dies =
      some (d, r * 0x10000 + k * 0x100 + o) := by
    have hin : 0x1000000 ≤ 0x1000000 + d * 0x200000 + r * 0x10000 + k * 0x100 + o ∧
        0x1000000 + d * 0x200000 + r * 0x10000 + k * 0x100 + o < 0x1000000 + 0x200000 * s.dies := by omega
    have hd : (0x1000000 + d * 0x200000 + r * 0x10000 + k * 0x100 + o - 0x1000000) / 0x200000 = d := by omega
    have ho : (0x1000000 + d * 0x200000 + r * 0x10000 + k * 0x100 + o - 0x1000000) % 0x200000 =
        r * 0x10000 + k * 0x100 + o := by omega
    rw [slotIn, if_pos hin, hd, ho]
  have h1 : (r * 0x10000 + k * 0x100 + o) / 0x10000 = r := by omega
  have h2 : (r * 0x10000 + k * 0x100 + o) / 0x100 % 256 = k := by omega
  have h3 : (r * 0x10000 + k * 0x100 + o) % 0x100 = o := by omega
  have h4 : r * 0x10000 + k * 0x100 + o < 0x100000 := by omega
  rw [State.dieReg, hslot]
  dsimp only
  rw [if_pos h4, h1, h2, h3]

/-- A write in the die window is a write of a tile's or a region's register. -/
theorem State.regAct_die (s : State) (w : Who) {a : Nat} (ha : 0x1000000 ≤ a) (v : W32) :
    s.regAct w a v = match s.dieReg a with
      | .tile t r => s.wrTile t r v
      | .region k r => s.wrRegion a k r v
      | .none => s := by
  have h16 : 16 ≤ a / 0x100000 := by omega
  unfold State.regAct
  dsimp only
  generalize a / 0x100000 = n at h16
  obtain ⟨n, rfl⟩ := Nat.exists_eq_add_of_le' h16
  rfl

/-- Settles O9, from what a register write does at an address of each access type. -/
theorem registerWriteByAccessType : Obligations.RegisterWriteByAccessType := by
  intro s v hup
  refine ⟨fun a size h => ⟨?_, ?_⟩, fun a size => rfl, fun w hw => ⟨?_, ?_, ?_, fun d r k hd hr hk => ?_⟩⟩
  · exact congrArg Host.Outcome.next (State.regWrite_misfit (s := s) (w := .port1) (by decide) h v)
  · exact congrArg Host.Outcome.next (if_neg (by tauto))
  all_goals
    have hgo : ∀ a, a % 4 = 0 → exec (.regWrite w a {} v) s = .next (s.regAct w a v) := fun a ha =>
      congrArg Host.Outcome.next (State.regWrite_of_up hw hup ha v)
    refine (hgo _ (by omega)).trans (congrArg Host.Outcome.next ?_)
  · rfl
  · rfl
  · rfl
  · rw [s.regAct_die w (by omega), State.dieReg_tile hd hr hk (by omega)]
    rfl

/-! ## Module reset -/

/-- Settles O10: the state after module reset is written out in the model, part by part. -/
theorem moduleResetResets : Obligations.ModuleResetResets := fun s =>
  ⟨s.moduleReset .boot, rfl, rfl, rfl, rfl, rfl, rfl, rfl, rfl, rfl, rfl, rfl, rfl, rfl, rfl, rfl, rfl, rfl, rfl, rfl,
    rfl, rfl, rfl, rfl, rfl⟩

end Sys2Proof.Machine
end

section
/-! SUPPORT. R99, R102: scalar arithmetic. -/

namespace Sys2Proof.Machine

/-- The two's-complement value of the low bits is that of the bit vector. -/
theorem sext_eq_toInt {w : Nat} (hw : w ≠ 0) (v : Nat) : sext w v = (BitVec.ofNat w v).toInt := by
  obtain ⟨w, rfl⟩ := Nat.exists_eq_succ_of_ne_zero hw
  rw [BitVec.toInt_eq_toNat_cond, BitVec.toNat_ofNat]
  simp only [sext, Nat.succ_sub_one]
  have hp : 2 ^ w.succ = 2 * 2 ^ w := Nat.pow_succ'
  by_cases h : v % 2 ^ w.succ < 2 ^ w
  · rw [if_pos h, if_pos (by omega)]
  · rw [if_neg h, if_neg (by omega)]
    push_cast
    rfl

/-- R99: the immediate is IMM32, sign-extended. -/
theorem immW_eq (f : Fields) : immW f = f.low.signExtend 64 := by
  rw [immW, Fields.imm, sext_eq_toInt (by decide), BitVec.ofNat_toNat, BitVec.setWidth_eq, BitVec.signExtend]

/-- R102: an immediate below 64 is its own shift amount. -/
theorem immW_shift {f : Fields} (h : f.low.toNat < 64) : (immW f).toNat % 64 = f.low.toNat := by
  have hs : sext 32 f.low.toNat = (f.low.toNat : Int) := by
    rw [sext, Nat.mod_eq_of_lt (by omega)]
    exact if_pos (by omega)
  rw [immW, Fields.imm, hs, BitVec.ofInt_natCast, BitVec.toNat_ofNat]
  omega

/-- The truth of a proposition as a register value. -/
theorem boolW_decide (p : Prop) [Decidable p] : boolW (decide p) = if p then 1 else 0 := by
  by_cases h : p <;> simp [boolW, h]

section
variable {s : State} {t : Nat} {f : Fields}

/-- A three-register instruction writes the operation of the values that a and b have before. -/
theorem State.alu_ran (h : s.canIssue t f none [f.dn, f.an, f.bn]) (hl : rForm usesDAB f = true)
    (op : W64 → W64 → W64) :
    s.alu t f op = s.ran t none 1 (·.ws f.dn (op ((s.tile t).rs f.an) ((s.tile t).rs f.bn))) :=
  State.issue_ran h hl (by simp)

/-- An instruction with an immediate writes the operation of a and the immediate. -/
theorem State.aluI_ran (h : s.canIssue t f none [f.dn, f.an]) (hl : iForm usesDA f = true) {ok : Bool}
    (hok : ok = true) (op : W64 → W64 → W64) :
    s.aluI t f ok op = s.ran t none 1 (·.ws f.dn (op ((s.tile t).rs f.an) (f.low.signExtend 64))) := by
  refine State.issue_ran h (by rw [hl, hok]; rfl) ?_
  rw [immW_eq, Tile.issued_rs]

/-- A shift by an immediate shifts by its low six bits, the only ones it has. -/
theorem State.shiftI_ran (h : s.canIssue t f none [f.dn, f.an]) (hl : iForm usesDA f = true) (hlt : f.low.toNat < 64)
    {op : W64 → W64 → W64} {sh : W64 → Nat → W64} (hop : ∀ a b, op a b = sh a (b.toNat % 64)) :
    s.aluI t f (shiftImmOk f) op = s.ran t none 1 (·.ws f.dn (sh ((s.tile t).rs f.an) f.low.toNat)) := by
  rw [State.aluI_ran h hl (by simpa [shiftImmOk] using hlt), hop, ← immW_eq, immW_shift hlt]

end

/-- Settles O12: each form writes its own operation. -/
theorem scalarArithmeticResults : Obligations.ScalarArithmeticResults := by
  intro s t f h hl a b
  have go : ∀ op : W64 → W64 → W64, (.next (s.alu t f op) : Res) = .next (s.ran t none 1 (·.ws f.dn (op a b))) :=
    fun op => next_congr (State.alu_ran h hl op)
  refine ⟨go _, go _, go _, go _, go _, go _, go _, go _, go _, go _, go _, (go sltW).trans ?_, (go sltuW).trans ?_,
    go _, go _⟩
  · rw [sltW, boolW_decide]
  · rw [sltuW, boolW_decide]

/-- Settles O13: the immediate is sign-extended, and a shift takes it as its amount. -/
theorem scalarImmediateResults : Obligations.ScalarImmediateResults := by
  intro s t f
  refine ⟨fun h hl => ?_, fun h hl => ?_⟩
  · intro a i
    have go : ∀ op : W64 → W64 → W64,
        (.next (s.aluI t f true op) : Res) = .next (s.ran t none 1 (·.ws f.dn (op a i))) :=
      fun op => next_congr (State.aluI_ran h hl rfl op)
    refine ⟨go _, go _, go _, go _, go _, (go sltW).trans ?_, (go sltuW).trans ?_, go _, fun hlt => ?_⟩
    · rw [sltW, boolW_decide]
    · rw [sltuW, boolW_decide]
    · exact ⟨next_congr (State.shiftI_ran h hl hlt fun _ _ => rfl),
        next_congr (State.shiftI_ran h hl hlt fun _ _ => rfl), next_congr (State.shiftI_ran h hl hlt fun _ _ => rfl)⟩
  · exact next_congr (State.issue_ran h hl (by rw [immW_eq]))

end Sys2Proof.Machine
end

section
/-! SUPPORT. R28, R31, R32, R103: scalar memory, control and system instructions, and where they fault. -/

namespace Sys2Proof.Machine

/-! ## Loads and stores -/

section
variable {s : State} {t : Nat} {f : Fields}

/-- A scalar load that fits writes its bytes, zero- or sign-extended. -/
theorem State.ldS_ran (h : s.canIssue t f none [f.dn, f.an]) (hl : iForm usesDA f = true) {n : Nat}
    (hn : effAddr f (s.tile t) % n = 0 ∧ effAddr f (s.tile t) + n ≤ 262144 ∧
      (s.tile t).badWord (effAddr f (s.tile t)) n = none) (signed : Bool) :
    s.ldS t f n signed = s.ran t none 1 fun y => (y.noteCorr (effAddr f (s.tile t)) n).ws f.dn
      (if signed then BitVec.ofInt 64 (sext (8 * n) (leNat ((s.tile t).rmem (effAddr f (s.tile t)) n)))
        else BitVec.ofNat 64 (leNat ((s.tile t).rmem (effAddr f (s.tile t)) n))) := by
  obtain ⟨ha, hr, hb⟩ := hn
  refine State.issue_ran h hl ?_
  rw [effAddr_issued, Tile.load_ok ha hr (by rw [Tile.issued_badWord]; exact hb), Tile.issued_rmem]

/-- Settles O14: the loads are one function of the width and the extension. -/
theorem scalarLoadResults : Obligations.ScalarLoadResults := by
  intro s t f h hl x a fits u e
  have zero : ∀ n, fits n → (.next (s.ldS t f n false) : Res) = .next (s.ran t none 1 (u n)) := fun n hn =>
    next_congr (State.ldS_ran h hl hn false)
  have sign : ∀ n, 0 < n → fits n → (.next (s.ldS t f n true) : Res) = .next (s.ran t none 1 (e n)) := fun n h0 hn => by
    rw [State.ldS_ran h hl hn true, sext_eq_toInt (by omega)]
    rfl
  exact ⟨zero 1, zero 2, zero 4, zero 8, sign 1 (by decide), sign 2 (by decide), sign 4 (by decide)⟩

/-- A scalar store that fits writes the low bytes of b. -/
theorem State.stS_ran (h : s.canIssue t f none [f.an, f.bn]) (hl : iForm { a := true, b := true } f = true) {n : Nat}
    (ha : effAddr f (s.tile t) % n = 0) (hr : effAddr f (s.tile t) + n ≤ 262144)
    (hb : (s.tile t).badPartial (effAddr f (s.tile t)) n = none) :
    s.stS t f n = s.ran t none 1 (·.wmem (effAddr f (s.tile t)) (leBytes n ((s.tile t).rs f.bn).toNat)) := by
  refine State.issue_ran h hl ?_
  rw [effAddr_issued, Tile.issued_rs, Tile.store_ok ha (by rw [leBytes_length]; exact hr)
    (by rw [leBytes_length, Tile.issued_badPartial]; exact hb)]

end

@[simp] theorem Tile.wmem_rs (x : Tile) (a : Nat) (bs : List Byte) (r : Nat) : (x.wmem a bs).rs r = x.rs r := by
  simp [Tile.rs]

@[simp] theorem Tile.wmem_rv (x : Tile) (a : Nat) (bs : List Byte) (r : Nat) : (x.wmem a bs).rv r = x.rv r := by
  simp [Tile.rv]

/-- Settles O15: the stores are one function of the width, and what they leave is what a write of SRAM leaves. -/
theorem scalarStoresAndTheirFrame : Obligations.ScalarStoresAndTheirFrame := by
  intro s t f h hl x a stores
  have go : ∀ c n, exec c s = .next (s.stS t f n) → stores c n := by
    intro c n hc ha hr hb
    rw [State.stS_ran h hl ha hr hb] at hc
    have hlen := leBytes_length n (x.rs f.bn).toNat
    refine ⟨_, hc, rfl, ?_, fun b hout => ?_, fun r => ?_, fun r => ?_, ?_⟩ <;> rw [State.tile_ran]
    · have hw := Tile.rmem_wmem (x.issued none 1) a (leBytes n (x.rs f.bn).toNat)
      rwa [hlen] at hw
    · rw [Tile.wmem_out _ _ _ _ (by rw [hlen]; exact hout), Tile.issued_sram]
    · rw [Tile.wmem_rs, Tile.issued_rs]
    · rw [Tile.wmem_rv, Tile.issued_rv]
    · rw [Tile.wmem_flags, hlen]
      simp only [Tile.notePart, Tile.noteSoft_flags]
      rfl
  exact ⟨go _ 1 rfl, go _ 2 rfl, go _ 4 rfl, go _ 8 rfl⟩

/-! ## Branches, jumps and system instructions -/

/-- The instruction that an issued tile has passed stands where its program counter stood. -/
@[simp] theorem Tile.issued_here (x : Tile) (u : Option ExecUnit) (occ : Nat) : (x.issued u occ).here = x.pc := by
  simp [Tile.here]

/-- A conditional branch goes to its own address plus imm, modulo 2^64, where its condition holds. -/
theorem State.br_ran {s : State} {t : Nat} {f : Fields} (h : s.canIssue t f none [f.an, f.bn])
    (hl : iForm { a := true, b := true } f = true) (ha : f.low.toNat % 8 = 0) (c : W64 → W64 → Bool) (p : Prop)
    [Decidable p] (hc : c ((s.tile t).rs f.an) ((s.tile t).rs f.bn) = decide p) :
    s.br t f c = s.ran t none 1 fun y =>
      if p then { y with pc := ((((s.tile t).pc : Int) + f.imm) % 2 ^ 64).toNat } else y := by
  refine State.issue_ran h (by rw [hl, immAligned, ha]; rfl) ?_
  simp only [Tile.issued_rs, Tile.issued_here, hc, decide_eq_true_eq, Tile.jump, trunc]

/-- Settles O16: the six branches are one function of their condition, and the two jumps leave the return address. -/
theorem branchesAndJumps : Obligations.BranchesAndJumps := by
  intro s t f x a b to_
  refine ⟨fun h hl ha => ?_, fun h hl ha => next_congr ?_, fun h hl ha => next_congr ?_⟩
  · have go := fun (c : W64 → W64 → Bool) (p : Prop) [Decidable p] (hc : c a b = decide p) =>
      next_congr (State.br_ran h hl ha c p hc)
    exact ⟨go _ _ rfl, go _ _ (by by_cases hab : a = b <;> simp [hab]), go _ _ rfl, go _ _ rfl, go _ _ rfl, go _ _ rfl⟩
  · refine State.issue_ran h (by rw [hl, immAligned, ha]; rfl) ?_
    simp only [Tile.issued_here, Tile.jump, trunc]
    rfl
  · refine State.issue_ran h hl ?_
    have hb : effAddr f x < 2 ^ 64 := by
      have h := Int.emod_lt_of_pos (((x.rs f.an).toNat : Int) + f.imm) (b := 2 ^ 64) (by decide)
      have h' := Int.emod_nonneg (((x.rs f.an).toNat : Int) + f.imm) (b := 2 ^ 64) (by decide)
      simp only [effAddr, trunc]
      omega
    have hj : trunc 64 (effAddr f x : Int) = effAddr f x := by
      simp only [trunc]
      omega
    simp only [effAddr_issued, Tile.issued_here, Tile.jump]
    rw [if_neg (by simpa using ha), hj]

/-- R34, R103: the flags that IMM16 names. -/
theorem flclrMask_eq (xbit : Bool) (n : Nat) :
    flclrMask xbit n = BitVec.ofNat 32 n <<< (if xbit then 16 else 0) := by
  cases xbit with
  | false => simp [flclrMask]
  | true =>
    apply BitVec.eq_of_toNat_eq
    simp [flclrMask, Nat.shiftLeft_eq]

/-- Settles O17: RDSYS reads the system value of its imm, and the others have their one effect. -/
theorem systemInstructions : Obligations.SystemInstructions := by
  intro s t f x
  refine ⟨fun h hl => ?_, fun h => ⟨fun hl => ?_, fun hl => ?_, fun hl => ?_, fun hl => ?_⟩⟩
  · intro reads
    have go : ∀ n v, n ≤ 6 → s.sysValue t (x.issued none 1) n = v → reads n v := fun n v hn hv hf =>
      next_congr (State.issue_ran h (by simp [hl, hf, hn]) (by rw [hf, hv]))
    refine ⟨go 0 _ (by decide) rfl, go 1 _ (by decide) rfl, go 2 _ (by decide) ?_, go 3 _ (by decide) rfl,
      go 4 _ (by decide) rfl, go 5 _ (by decide) rfl, go 6 _ (by decide) ?_⟩ <;>
    exact (BitVec.ofNat_toNat _ _)
  · exact next_congr (State.issue_ran h hl rfl)
  · exact next_congr (State.issue_ran h hl rfl)
  · exact next_congr (State.issue_ran h hl rfl)
  · refine next_congr (State.issue_ran h hl ?_)
    rw [Tile.w1cFlags, flclrMask_eq]

/-! ## Faults -/

/-- R25: a tile that has faulted with a cause at the instruction of `x`, its registers those of `x`. -/
def Tile.stoppedAt (y x : Tile) (k : Cause) : Prop :=
  y.st = .faulted ∧ y.cause = k ∧ y.pc = x.pc ∧ y.s = x.s ∧ y.v = x.v

/-- R25: where the program counter and the registers are those of `x`, a fault stops the tile at its instruction. -/
theorem Tile.faulted_stoppedAt {y x : Tile} (hp : y.pc = x.pc) (hs : y.s = x.s) (hv : y.v = x.v) (k : Cause) :
    (y.faulted k).stoppedAt x k := by
  obtain ⟨h1, h2, h3, h4, h5⟩ := y.faulted_keeps k
  exact ⟨h1, h2, h3.trans hp, h4.trans hs, h5.trans hv⟩

theorem State.tileFault_stoppedAt (s : State) (t : Nat) (k : Cause) :
    ((s.tileFault t k).tile t).stoppedAt (s.tile t) k := by
  rw [State.tile_tileFault]
  exact Tile.faulted_stoppedAt rfl rfl rfl k

/-- R25: a register-file parity error that an instruction meets as it may issue. -/
theorem State.issue_regParity {s : State} {t : Nat} {f : Fields} {unit : Option ExecUnit} {occ : Nat}
    {sregs : List Nat} {run : Tile → TEff} (h1 : s.issuing t = true) (h2 : (s.tile t).fetchOk = true)
    (h3 : (s.tile t).ready unit sregs = true) (h4 : f.regParity = true) :
    s.issue t f unit occ sregs true run = s.tileFault t .regParity := by
  rw [State.issue_cases, h1, h2, h3, h4]
  simp

/-- R32: an effect that has met an uncorrectable word stops its tile with SRAM_UNCORR. -/
theorem State.putEff_uncorr_stoppedAt (s : State) (t : Nat) (x : Tile) (w : Nat) :
    ((s.putEff t { tile := x, fault := .sramUncorr, unc := some w }).tile t).stoppedAt x .sramUncorr := by
  have h : (s.putEff t { tile := x, fault := .sramUncorr, unc := some w }).tile t = x.faulted .sramUncorr :=
    (State.tile_tileFault _ _ _).trans (congrArg (·.faulted .sramUncorr) (State.tile_setTile_same s t x))
  rw [h]
  exact Tile.faulted_stoppedAt rfl rfl rfl _

/-- Settles O18, from the fault that the issue of an instruction, or its load, ends in. -/
theorem tileFaults : Obligations.TileFaults := by
  intro s t f hi x faults
  have stops : ∀ {c k u}, exec c s = .next u → (u.tile t).stoppedAt x k → faults c k := fun hc hu => ⟨_, hc, hu⟩
  refine ⟨fun hf => ?_, fun hf hl => ?_, fun hf hl hr hp => ?_, fun h hl => ⟨fun ha => ?_, fun ha hr => ?_,
    fun w ha hr hw => ?_⟩⟩
  · exact stops (next_congr (State.issue_range hi hf)) (s.tileFault_stoppedAt t _)
  · refine stops (next_congr ?_) (s.tileFault_stoppedAt t _)
    rw [hl]
    exact State.issue_illegal hi hf
  · refine stops (next_congr ?_) (s.tileFault_stoppedAt t _)
    rw [hl]
    exact State.issue_regParity hi hf hr hp
  · refine stops rfl ?_
    rw [State.ldS, State.issue_bad h hl (c := .misaligned) (y := x.issued none 1) (by decide)
      (by rw [effAddr_issued, Tile.load, if_pos ha]), Tile.issued_unissued]
    exact Tile.faulted_stoppedAt rfl rfl rfl _
  · refine stops rfl ?_
    rw [State.ldS, State.issue_bad h hl (c := .range) (y := x.issued none 1) (by decide)
      (by rw [effAddr_issued, Tile.load, if_neg (by simpa using ha)]; exact if_pos hr), Tile.issued_unissued]
    exact Tile.faulted_stoppedAt rfl rfl rfl _
  · have hrun : (x.issued none 1).load (effAddr f (x.issued none 1)) 4 4 (fun x bs => x.ws f.dn
        (if false = true then BitVec.ofInt 64 (sext (8 * 4) (leNat bs)) else BitVec.ofNat 64 (leNat bs))) =
        TEff.uncorr (x.issued none 1) w := by
      rw [effAddr_issued, Tile.load, if_neg (by simpa using ha), if_neg (by rw [sramBytes]; omega),
        Tile.issued_badWord, hw]
    refine stops rfl ?_
    rw [State.ldS, State.issue_fault h hl (by rw [hrun]; exact nofun), hrun]
    exact State.putEff_uncorr_stoppedAt s t _ w

end Sys2Proof.Machine
end

section
/-! SUPPORT. R70: the elements of a vector register. -/

namespace Sys2Proof.Machine

/-- A list no longer than a piece is one piece. -/
theorem chunks_one {α : Type} {n : Nat} {l : List α} (h0 : l ≠ []) (h : l.length ≤ n) : chunks n l = [l] := by
  obtain ⟨a, l, rfl⟩ := List.exists_cons_of_ne_nil h0
  simp only [chunks, List.length_cons, chunksAux, List.take_of_length_le h, List.drop_of_length_le h]
  cases l.length <;> rfl

/-- R70: the elements of one register are written to it alone. -/
theorem Tile.putLanes_one {x : Tile} {fmt r : Nat} {cs : List Nat} (h0 : 0 < fmtLanes fmt)
    (hlen : cs.length = fmtLanes fmt) :
    x.putLanes fmt r cs = x.wv r (BitVec.ofNat 1024 (packCodes (fmtWidth fmt) cs)) := by
  rw [Tile.putLanes, chunks_one (List.ne_nil_of_length_pos (hlen ▸ h0)) hlen.le]
  rfl

/-- Settles O19: the packed codes fit the register, and each reads back as written. -/
theorem vectorRegisterPacking : Obligations.VectorRegisterPacking := by
  intro x fmt r cs hfmt hlen hcs
  obtain ⟨hw, h0, hfits⟩ := fmt_fits fmt hfmt
  have hlt := packCodes_lt (fmtWidth fmt) cs
  rw [hlen] at hlt
  have hval : (BitVec.ofNat 1024 (packCodes (fmtWidth fmt) cs)).toNat = packCodes (fmtWidth fmt) cs := by
    rw [BitVec.toNat_ofNat, Nat.mod_eq_of_lt (lt_of_lt_of_le hlt (Nat.pow_le_pow_right (by decide) hfits))]
  rw [Tile.putLanes_one h0 hlen]
  refine ⟨?_, ?_, fun k hk => ?_, rfl⟩
  · refine List.ext_getElem (by simp [Tile.lanes, laneCodes, hlen]) fun i h1 h2 => ?_
    have hb : fmtWidth fmt * i + fmtWidth fmt - 1 + 1 - fmtWidth fmt * i = fmtWidth fmt := by omega
    simp only [Tile.lanes, laneCodes, List.getElem_map, List.getElem_range, Tile.rv_wv, if_true, hval, bits, hb]
    rw [packCodes_get _ _ _ h2, Nat.mod_eq_of_lt (hcs _ (List.getElem_mem h2))]
  · rw [Tile.rv_wv, if_pos rfl, hval]
    exact hlt
  · rw [Tile.rv_wv, if_neg hk]

end Sys2Proof.Machine
end

section
/-! SUPPORT. R27, R70 to R80, R105 to R107: the vector unit. -/

namespace Sys2Proof.Machine

/-- Settles O20: lane arithmetic is one function of the operation and of the lanes of the second operand, and what the
model computes of the issued tile is what the statement writes out. -/
theorem vectorArithmeticResults : Obligations.VectorArithmeticResults := by
  intro s t f w lane results vec scal
  refine ⟨fun h hl => ?_, fun h hl => ?_, fun h hl => next_congr (State.vec_ran h hl rfl)⟩
  · have go : ∀ fop iop, (.next (s.vv t f fop iop) : Res) = .next (s.ran t (some .vector) 1 (results fop iop vec)) :=
      fun fop iop => next_congr (State.vec_ran h hl rfl)
    exact ⟨go _ _, go _ _, go _ _⟩
  · have go : ∀ fop iop, (.next (s.vs t f fop iop) : Res) = .next (s.ran t (some .vector) 1 (results fop iop scal)) :=
      fun fop iop => next_congr (State.vec_ran h hl rfl)
    exact ⟨go _ _, go _ _⟩

/-- A reduction writes the result of the tree over the lanes of a, with the flags of its adds. -/
theorem State.vRed_ran {s : State} {t : Nat} {u : Uses} {f : Fields} (h : s.canIssue t f (some .vector) [f.dn])
    (hl : (rForm { u with b := false } f && laneOk f && redFmt f.fa) = true) (op : Nat → Nat → Nat × W32) :
    s.vRed t u f op = s.ran t (some .vector) 2 fun y =>
      let r := treeReduce op (Nat.log2 (fmtLanes f.fa)) ((s.tile t).lanes f.fa f.an)
      (y.ws f.dn (if f.fa = 10 then BitVec.ofInt 64 (sext 32 r.1) else BitVec.ofNat 64 r.1)).orFlags r.2 := by
  refine State.vec_ran h hl ?_
  rw [Tile.issued_lanes]

/-- Settles O21: comparisons and selections are one function of the operation, and so are the bitwise operations and
the reductions. -/
theorem vectorSelectionsAndReductions : Obligations.VectorSelectionsAndReductions := by
  intro s t f x ran each float i cmp
  refine ⟨fun h hl => ?_, fun h hl => next_congr (State.vec_ran h hl ?_), fun h hl => ?_,
    fun h hl => next_congr (State.vec_ran h hl ?_), ?_⟩
  · have go : ∀ op, (.next (s.vPick t f op) : Res) = each (op f.fa) := fun op =>
      next_congr (State.vec_ran h hl (by simp only [Tile.issued_lanes]; rfl))
    exact ⟨go _, go _, go _, go _, go _⟩
  · simp only [Tile.issued_lanes]
    rfl
  · have go : ∀ op, (.next (s.vBits t f op) : Res) = ran 1 (·.wv f.dn (op (x.rv f.an) (x.rv f.bn))) := fun op =>
      next_congr (State.vec_ran h hl (by simp only [Tile.issued_rv]; rfl))
    exact ⟨go _, go _, go _⟩
  · simp only [Tile.issued_rs]
    rfl
  · intro reduced h
    exact ⟨fun hl => next_congr (State.vRed_ran h hl _), fun hl => ⟨next_congr (State.vRed_ran h hl _),
      next_congr (State.vRed_ran h hl _)⟩⟩

/-- A vector register has 128 bytes. -/
theorem vregBytes_length (v : VReg) : (vregBytes v).length = 128 := leBytes_length _ _

/-- Settles O22: each instruction's effect on the issued tile is the one that the statement writes out. -/
theorem vectorMemoryAndConversion : Obligations.VectorMemoryAndConversion := by
  intro s t f x ran a
  refine ⟨fun h hl ha hr hb => next_congr (State.issue_ran h hl ?_), fun h hl ha hr hb => ⟨next_congr
    (State.issue_ran h hl ?_), fun y b hout => ?_⟩, fun h hl => next_congr (State.vec_ran h hl rfl),
    fun h hl => next_congr (State.vec_ran h hl rfl), fun h hl => next_congr (State.vec_ran h hl rfl), fun hl => ?_,
    fun h hl => next_congr (State.vec_ran h hl ?_)⟩
  · rw [effAddr_issued, Tile.load_ok ha hr (by rw [Tile.issued_badWord]; exact hb), Tile.issued_rmem]
    rfl
  · rw [effAddr_issued, Tile.issued_rv, Tile.store_ok ha (by rw [vregBytes_length]; exact hr)
      (by rw [vregBytes_length, Tile.issued_badPartial]; exact hb)]
    rfl
  · exact Tile.wmem_out _ _ _ _ (by rw [leBytes_length]; exact hout)
  · have hl' : (rForm { d := true, a := true, fa := true, imm16 := true } f && laneIdxOk f) = true := by
      rw [laneIdxOk, ← Bool.and_assoc]
      exact hl
    refine ⟨fun h => next_congr (State.vec_ran h hl' ?_), fun h => next_congr (State.vec_ran h hl' ?_)⟩
    · rw [Tile.issued_lanes]
    · rw [Tile.issued_lanes, Tile.issued_rs]
  · rw [Tile.issued_lanes, Tile.issued_rs]
    rfl

end Sys2Proof.Machine
end

section
/-! SUPPORT. R42, R43, R81 to R89, R108 to R112: the matrix unit, special functions and random bits. -/

namespace Sys2Proof.Machine

/-- R108: the scales of an MRD are those of the registers before it. -/
theorem mrdScale_issued (f : Fields) (x : Tile) (u : Option ExecUnit) (occ : Nat) :
    mrdScale f (x.issued u occ) = mrdScale f x := by
  funext k
  simp only [mrdScale, Tile.issued_lanes, Tile.issued_groupLanes]

/-- Settles O23: what an instruction reads of the issued tile is what the tile had before it. -/
theorem matrixResults : Obligations.MatrixResults := by
  intro s t f x ran put
  refine ⟨fun h => ⟨fun hl => next_congr (State.issue_ran h hl ?_), fun hl => next_congr (State.issue_ran h hl ?_),
    fun hl => next_congr (State.issue_ran h hl rfl), fun hl => next_congr (State.issue_ran h hl ?_),
    fun hl => next_congr (State.issue_ran h hl ?_), fun hl => next_congr (State.issue_ran h hl ?_)⟩,
    fun h hl => ?_⟩
  · simp only [Tile.issued_rm, Tile.issued_lanes]
    rfl
  · simp only [Tile.issued_rm]
    rfl
  · simp only [Tile.issued_rm, Tile.issued_rv]
    rfl
  · simp only [Tile.issued_rm, mrdScale_issued]
    rfl
  · simp only [Tile.issued_rm, Tile.issued_groupLanes]
    rfl
  · intro n a sc hr hb
    refine next_congr (State.issue_ran h hl ?_)
    simp only [Tile.issued_rs, Tile.issued_lanes]
    rw [Tile.load_ok (Nat.mod_one _) hr (by rw [Tile.issued_badWord]; exact hb)]
    simp only [Tile.issued_rmem, Tile.noteCorr_rm, Tile.issued_rm]
    rfl

/-- R43: stream 2 advances by its draw counter. -/
theorem Tile.advance_two {x : Tile} {n : Nat} {d : W64} (h : x.draw2 + BitVec.ofNat 64 n = d) :
    x.advance 2 n = { x with draw2 := d } := by
  subst h
  rfl

@[simp] theorem Tile.wv_draw2 (x : Tile) (r : Nat) (v : VReg) : (x.wv r v).draw2 = x.draw2 := rfl

/-- Settles O24: the special functions are one function of the lanes of a, and the blocks drawn are those of the
counter of stream 2. -/
theorem specialFunctionsAndRandomBits : Obligations.SpecialFunctionsAndRandomBits := by
  intro s t f x ran seed block
  have hseed : ∀ occ, s.seedOf (x.issued (some .special) occ) = seed := fun occ => by
    rw [State.seedOf, Tile.issued_partition]
  refine ⟨fun h => ⟨fun hl => ?_, fun hl => next_congr (State.issue_ran h hl ?_)⟩,
    fun h hl => next_congr (State.issue_ran h hl ?_)⟩
  · intro lanes
    have go : ∀ fn, (.next (s.special t f fn) : Res) = lanes fn := fun fn =>
      next_congr (State.issue_ran h hl (by rw [Tile.issued_lanes]))
    exact ⟨go _, go _, go _, go _, go _⟩
  · have hblock : (fun i => philox seed ((x.issued (some .special) 2).draw2 + BitVec.ofNat 64 i) 2
        (x.issued (some .special) 2).logical) = block := by rw [Tile.issued_draw2, Tile.issued_logical]
    rw [hseed, Tile.peekBlocks_two, hblock]
    exact congrArg (fun y => ({ tile := y } : TEff)) (Tile.advance_two (by rw [Tile.wv_draw2, Tile.issued_draw2]; rfl))
  · rw [hseed, Tile.peekBlocks_two_one, Tile.issued_draw2, Tile.issued_logical, List.headD_cons]
    exact congrArg (fun y => ({ tile := y } : TEff)) (Tile.advance_two (by rw [Tile.ws_draw2, Tile.issued_draw2]; rfl))

end Sys2Proof.Machine
end

section
/-! SUPPORT. Waits, fences and energy tokens (R117 to R121, R329, R330). -/

namespace Sys2Proof.Machine

/-- R118: half the range of a counter lies ahead of its target. -/
theorem reached_eq (v t : W32) : reached v t = decide ((v - t).toNat < 2 ^ 31) :=
  decide_eq_decide.mpr ⟨fun h => Nat.lt_succ_of_le h, fun h => Nat.le_of_lt_succ h⟩

/-- R117: a tile that waits stands at the instruction it has just issued. -/
theorem Tile.waitOn_issued (x : Tile) (w : Wait) :
    (x.issued none 1).waitOn w = { x.issued none 1 with pc := x.pc, st := .waiting, wait := some w } := by
  rw [Tile.waitOn, Tile.issued_here]

/-- The wait of a waiting tile whose clock runs and whose partition does not stand. -/
theorem State.waitOf_waiting {s : State} {t : Nat} (hst : (s.tile t).st = .waiting)
    (hclk : (s.rgn (tileRegion t)).stopped = false) (hp : (s.part (s.tile t).partition).standing = false) :
    s.waitOf t = (s.tile t).wait := by
  simp [State.waitOf, hst, hclk, hp]

/-- R120: the kinds that a FENCE names. -/
theorem fenceCovers_iff {imm : Nat} (h : imm ≤ 2) (kind : Nat) : fenceCovers imm kind = true ↔
    if imm = 0 then 2 ≤ kind ∧ kind ≤ 5 else if imm = 1 then kind = 0 else True := by
  have hi : imm = 0 ∨ imm = 1 ∨ imm = 2 := by omega
  obtain rfl | rfl | rfl := hi <;> simp [fenceCovers]

/-- R119: the job time of a tile that issues is that of its partition. -/
theorem State.tileJobTime_issued (s : State) (t : Nat) (x : Tile) (u : Option ExecUnit) (occ : Nat) :
    s.tileJobTime t (x.issued u occ) = jobTime (s.part x.partition) (s.stnHt (tileStation t)) := by
  rw [State.tileJobTime, Tile.issued_partition]

/-- An effect that is chosen by a condition is the choice of the effect. -/
theorem TEff.tile_ite {p q : Prop} [Decidable p] [Decidable q] {a b y : Tile} {g k : Tile → Tile} (h : p ↔ q)
    (ha : a = g y) (hb : b = k y) : ({ tile := if p then a else b } : TEff) = { tile := (if q then g else k) y } := by
  subst ha hb
  by_cases hq : q
  · rw [if_pos hq, if_pos (h.mpr hq)]
  · rw [if_neg hq, if_neg (mt h.mp hq)]

/-- Settles O25: each wait passes or stands by its condition, and its release tests the same condition. -/
theorem waitsOnCountersJobTimeAndFences : Obligations.WaitsOnCountersJobTimeAndFences := by
  intro s t f x ran waits passes target jt covered
  refine ⟨fun h hl => next_congr (State.issue_ran h hl ?_), fun h hl => next_congr (State.issue_ran h hl ?_),
    fun h hl => ?_, fun hst hclk hp => ?_⟩
  · refine TEff.tile_ite ?_ rfl ?_
    · rw [reached_eq, BitVec.ofNat_toNat, Tile.issued_rs]
      exact decide_eq_true_iff
    · rw [BitVec.ofNat_toNat, Tile.issued_rs, Tile.waitOn_issued]
  · refine TEff.tile_ite (Iff.of_eq ?_) ?_ ?_
    · rw [Tile.issued_rs, State.tileJobTime_issued]
    · rw [Tile.issued_rs, State.tileJobTime_issued]
    · rw [Tile.issued_rs, Tile.waitOn_issued]
  · have himm : f.imm16 ≤ 2 := of_decide_eq_true (Bool.and_eq_true_iff.mp hl).2
    have hcov : ∀ k, fenceCovers f.imm16 k = true ↔ covered k := fenceCovers_iff himm
    refine ⟨fun hnone => next_congr (State.issue_ran h hl ?_), fun d hd hk =>
      ⟨(x.descs.filter fun e => fenceCovers f.imm16 e.kind).map (·.id), ?_, next_congr (State.issue_ran h hl ?_)⟩⟩
    · have hnil : (x.descs.filter fun e => fenceCovers f.imm16 e.kind) = [] :=
        List.filter_eq_nil_iff.mpr fun d hd hc => hnone d hd ((hcov _).mp hc)
      change ({ tile := if (List.map (·.id) (x.descs.filter fun e => fenceCovers f.imm16 e.kind)).isEmpty then _ else _ } : TEff) = _
      rw [hnil]
      rfl
    · exact List.mem_map.mpr ⟨d, List.mem_filter.mpr ⟨hd, (hcov _).mpr hk⟩, rfl⟩
    · have hne : (List.map (·.id) (x.descs.filter fun e => fenceCovers f.imm16 e.kind)).isEmpty = false :=
        List.isEmpty_eq_false_iff_exists_mem.mpr
          ⟨d.id, List.mem_map.mpr ⟨d, List.mem_filter.mpr ⟨hd, (hcov _).mpr hk⟩, rfl⟩⟩
      exact congrArg (fun y => ({ tile := y } : TEff))
        ((if_neg (Bool.eq_false_iff.mp hne)).trans (Tile.waitOn_issued _ _))
  · have hw : s.waitOf t = x.wait := State.waitOf_waiting hst hclk hp
    refine ⟨fun c v hx hr => ?_, fun v d hx hr => ?_, fun ids hx hr => ?_⟩
    · refine congrArg Host.Outcome.next ?_
      rw [hw, hx]
      exact if_pos (by rw [reached_eq]; exact decide_eq_true hr)
    · refine congrArg Host.Outcome.next ?_
      rw [hw, hx]
      exact if_pos hr
    · refine congrArg Host.Outcome.next ?_
      rw [hw, hx]
      exact if_pos (List.all_eq_true.mpr fun d hd => by simpa using hr d hd)

/-! ## Energy tokens -/

/-- A tile that can issue a legal instruction without registers runs it now. -/
theorem State.runsNow_of_canIssue {s : State} {t : Nat} {f : Fields} {legal : Bool} (h : s.canIssue t f none [])
    (hl : legal = true) : s.runsNow t f legal = true := by
  obtain ⟨h1, h2, h3, h4⟩ := h
  simp [State.runsNow, h1, h2, h3, h4, hl]

/-- The low half of an immediate, as a number. -/
theorem bits_low_half (n : Nat) : bits n 15 0 = n % 65536 := by
  simp [bits]

/-- The high half of a word, as a number. -/
theorem bits_high_half (v : W32) : bits v.toNat 31 16 = v.toNat / 65536 := by
  have := v.isLt
  simp only [bits]
  omega

/-- R121: what an EBLK or an EWAIT makes of its tile and its cluster. -/
theorem State.energy_next {s : State} {t : Nat} {f : Fields} {legal : Bool} (h : s.canIssue t f none [])
    (hl : legal = true) (cost : Nat) (x₀ x₁ : Tile → Tile) (pass : Bool)
    (hp : pass = (!s.adaptiveTile t || s.affords t cost)) :
    (if s.runsNow t f legal && s.adaptiveTile t && pass then
        (s.issue t f none 1 [] legal fun x => { tile := if pass then x₀ x else x₁ x }).spend t cost
      else s.issue t f none 1 [] legal fun x => { tile := if pass then x₀ x else x₁ x }) =
      if s.adaptiveTile t = false then s.ran t none 1 x₀
      else if s.affords t cost = true then (s.ran t none 1 x₀).spend t cost else s.ran t none 1 x₁ := by
  have go : ∀ g : Tile → Tile, (s.issue t f none 1 [] legal fun x => { tile := g x }) = s.ran t none 1 g :=
    fun g => State.issue_ran h hl rfl
  rw [State.runsNow_of_canIssue h hl, hp]
  cases s.adaptiveTile t with
  | false => simp [go]
  | true => cases s.affords t cost <;> simp [go]

/-- R121 EBLK, where it may issue. -/
theorem exec_eblk {s : State} {t : Nat} {f : Fields} (h : s.canIssue t f none []) (hl : iForm {} f = true) :
    exec (.eblk t f) s = .next (
      if s.adaptiveTile t = false then s.ran t none 1 id
      else if s.affords t (f.low.toNat % 65536) = true then (s.ran t none 1 id).spend t (f.low.toNat % 65536)
      else s.ran t none 1 fun y => { y with
        pc := (((s.tile t).pc + 8 * sext 16 (f.low.toNat / 65536)) % 2 ^ 64).toNat }) := by
  rw [← bits_low_half, ← bits_high_half]
  refine congrArg Host.Outcome.next ((State.energy_next h hl _ id
    (fun y => y.jump (y.here + 8 * sext 16 (bits f.low.toNat 31 16))) _ rfl).trans ?_)
  rw [State.ran, State.ran, State.ran, Tile.issued_here]
  rfl

/-- R121 EWAIT, where it may issue. -/
theorem exec_ewait {s : State} {t : Nat} {f : Fields} (h : s.canIssue t f none [])
    (hl : rForm { imm16 := true } f = true) :
    exec (.ewait t f) s = .next (
      if s.adaptiveTile t = false then s.ran t none 1 id
      else if s.affords t f.imm16 = true then (s.ran t none 1 id).spend t f.imm16
      else s.ran t none 1 fun y => { y with
        pc := (s.tile t).pc, st := .waiting, wait := some (.tokens f.imm16 (s.rgn (tileRegion t)).cycles) }) := by
  refine congrArg Host.Outcome.next ((State.energy_next h hl _ id
    (fun y => y.waitOn (.tokens f.imm16 (s.rgn (tileRegion t)).cycles)) _ rfl).trans ?_)
  rw [State.ran, State.ran, State.ran, Tile.waitOn_issued]

/-- Settles O26: a cluster that can pay gives the cost, and one that cannot lets the instruction branch or wait. -/
theorem energyBlocksAndTokens : Obligations.EnergyBlocksAndTokens := by
  intro s t f x ran adaptive paid cost off
  have hne : ∀ {b : Bool}, b = false → ¬ b = true := fun h => by simp [h]
  refine ⟨fun h hl => ?_, fun h hl => ?_, fun k need since hw hg hb hs => next_congr ?_⟩
  · have key := exec_eblk h hl
    exact ⟨fun ha => key.trans (congrArg _ (if_pos ha)),
      fun ha hp => key.trans (congrArg _ ((if_neg (ne_false_of_eq_true ha)).trans (if_pos hp))),
      fun ha hp => key.trans (congrArg _ ((if_neg (ne_false_of_eq_true ha)).trans (if_neg (hne hp))))⟩
  · have key := exec_ewait h hl
    exact ⟨fun ha => key.trans (congrArg _ (if_pos ha)),
      fun ha hp => key.trans (congrArg _ ((if_neg (ne_false_of_eq_true ha)).trans (if_pos hp))),
      fun ha hp => key.trans (congrArg _ ((if_neg (ne_false_of_eq_true ha)).trans (if_neg (hne hp))))⟩
  · dsimp only
    rw [hw]
    exact if_pos (by simp [hg, hs, Region.costOf, hb])

end Sys2Proof.Machine
end

section
/-! SUPPORT. The issue of a descriptor (R35 to R38, R114, R115). -/

namespace Sys2Proof.Machine

/-- R35, R115: the descriptor that DMA, or DMAJ where `job`, reads at an address. -/
def Tile.readDesc (x : Tile) (a : Nat) (job : Bool) : Desc :=
  let w := fun i => BitVec.ofNat 64 (leNat (x.rmem (a + 8 * i) 8))
  let d : Desc := { id := x.nextId, addr := a, w0 := w 0, w1 := w 1, w2 := w 2, w3 := w 3 }
  { d with jobRelease := if job && d.timed then some d.releaseHt else none }

@[simp] theorem Tile.readDesc_noteCorr (x : Tile) (b n a : Nat) (job : Bool) :
    (x.noteCorr b n).readDesc a job = x.readDesc a job := by
  simp only [Tile.readDesc, Tile.noteCorr_rmem, Tile.noteCorr_nextId]

/-- The release instant of a descriptor, in hall time. -/
def State.releaseOf (s : State) (x : Tile) (d : Desc) (job : Bool) : W32 :=
  if job then d.releaseHt + BitVec.ofNat 32 (s.part x.partition).joff.toNat else d.releaseHt

/-- R38: a call of DMA at an address whose 32 bytes can be read issues the descriptor there. -/
theorem State.issueDesc_read (s : State) (t : Nat) (job : Bool) (x : Tile) {a : Nat} (ha : a % 32 = 0)
    (hr : a + 32 ≤ 262144) (hb : x.badWord a 32 = none) :
    s.issueDesc t job x a =
      let d := x.readDesc a job
      let y := { x.noteCorr a 32 with nextId := x.nextId + 1 }
      if descOk d = false then TEff.bad (x.noteCorr a 32) .badDescriptor
      else if s.descRefused x t d = true then
        { tile := ({ y with descs := x.descs ++ [d] }).complete d St.notPermitted }
      else { tile := { y with descs := x.descs ++ [y.firstStage d (s.releaseOf x d job) (s.stnHt (tileStation t))] } } := by
  rw [State.issueDesc, if_neg (by simpa using ha), if_neg (by simpa [sramBytes] using hr), hb]
  have hd := x.readDesc_noteCorr a 32 a job
  rw [← hd]
  have hp := x.noteCorr_partition a 32
  have hi := x.noteCorr_nextId a 32
  have hq : s.descRefused x t ((x.noteCorr a 32).readDesc a job) =
      s.descRefused { x.noteCorr a 32 with nextId := (x.noteCorr a 32).nextId + 1 } t ((x.noteCorr a 32).readDesc a job) := by
    simp only [State.descRefused, State.contribOk, State.contribFits, hp]
  dsimp only [State.releaseOf]
  rw [← hp, hq, ← hi, ← x.noteCorr_descs a 32]
  generalize x.noteCorr a 32 = z
  exact if_congr (Iff.of_eq (Bool.not_eq_true' _)) rfl rfl

/-- R38, R39, R513: the first stage of a descriptor without an entry. -/
theorem Tile.firstStage_eq (x : Tile) {d : Desc} (ha : d.agent = false) (hs : d.shared = false) (release : W32) (ht : Nat) :
    x.firstStage d release ht = { d with
      stage := if d.timed && older (ht32 ht) release then .held release
        else if d.kind = 0 then .copying 0
        else if decide (x.ownAgents < 8) && !x.entryWaited then .ready ht else .waitEntry ht
      agent := !(d.timed && older (ht32 ht) release) && d.kind != 0 && (decide (x.ownAgents < 8) && !x.entryWaited) } := by
  unfold Tile.firstStage Tile.seekAgent notReleased
  cases h1 : d.timed && older (ht32 ht) release with
  | true => simp [ha]
  | false =>
    by_cases h2 : d.kind = 0
    · simp [h2, ha]
    · cases h3 : decide (x.ownAgents < 8) && !x.entryWaited with
      | true => simp [h2, hs]
      | false => simp [h2, ha]

/-- R38, R114: DMA and DMAJ issue where the table has room. -/
theorem State.dmaIssue_room {s : State} {t : Nat} (f : Fields) (job : Bool) (h : (s.tile t).descs.length < 256) :
    s.dmaIssue t f job = s.issue t f none 1 [f.an] (iForm { a := true } f)
      fun x => s.issueDesc t job x (effAddr f x) :=
  if_neg (by simp [Nat.not_le.mpr h])

/-- Settles O27: the three ends of `issueDesc`, for DMA and for DMAJ alike. -/
theorem descriptorIssueAndCounters : Obligations.DescriptorIssueAndCounters := by
  intro s t f x a w now own joff issued
  refine ⟨fun h hl hn ha hr hb => ?_, fun h hl => next_congr (State.issue_ran h hl ?_),
    fun h hl => next_congr (State.issue_ran h hl ?_)⟩
  · have hrun := fun job => s.issueDesc_read t job (x.issued none 1) ha hr (by rw [Tile.issued_badWord]; exact hb)
    have go : ∀ c job, exec c s = .next (s.dmaIssue t f job) → issued c job := by
      intro c job hc
      rw [State.dmaIssue_room f job hn] at hc
      refine ⟨fun hok hno => ⟨_, hc, ?_⟩, fun hok hyes => ⟨_, hc, ?_⟩, fun hok => ⟨_, hc, ?_⟩⟩
      · have hrun' := (hrun job).trans ((if_neg (ne_false_of_eq_true hok)).trans
          (if_neg (ne_true_of_eq_false hno)))
        rw [Tile.firstStage_eq _ rfl rfl] at hrun'
        rw [State.issue_ran (g := fun _ => _) h hl hrun', State.tile_ran]
        refine ⟨?_, by simp, by simp, by simp; rfl⟩
        simp only [Tile.ownAgents, Tile.entryWaited, Tile.noteCorr_descs]
        rfl
      · have hrun' := (hrun job).trans ((if_neg (ne_false_of_eq_true hok)).trans
          (if_pos hyes))
        rw [State.issue_ran (g := fun _ => _) h hl hrun', State.tile_ran]
        refine ⟨(Tile.complete_rc _ _ _).trans ?_, (Tile.complete_failCnt _ _ _ (by decide)).trans ?_, Tile.complete_status _ _ _⟩
        · simp [Tile.rc]
          rfl
        · simp
          rfl
      · rw [State.issue_bad h hl (c := .badDescriptor) (by decide) ((hrun job).trans (if_pos hok))]
        obtain ⟨h1, h2, h3, -, -⟩ := Tile.faulted_keeps (((x.issued none 1).noteCorr a 32).unissued x) .badDescriptor
        exact ⟨h1, h2, h3⟩
    exact ⟨go _ _ rfl, go _ _ rfl⟩
  · rw [Tile.issued_rs, BitVec.ofNat_toNat]
  · rw [BitVec.ofNat_toNat]
    rfl

end Sys2Proof.Machine
end

section
/-! SUPPORT. The token sampler (R44 to R47, R122). -/

namespace Sys2Proof.Machine

@[simp] theorem Tile.ws_rmem (x : Tile) (r : Nat) (v : W64) (a n : Nat) : (x.ws r v).rmem a n = x.rmem a n := by
  unfold Tile.ws
  split <;> rfl

@[simp] theorem Tile.ws_flags (x : Tile) (r : Nat) (v : W64) : (x.ws r v).flags = x.flags := by
  unfold Tile.ws
  split <;> rfl

@[simp] theorem Tile.ws_sampler (x : Tile) (r : Nat) (v : W64) : (x.ws r v).sampler = x.sampler := by
  unfold Tile.ws
  split <;> rfl

/-- R46: the sampler's result where its destination can be written. -/
theorem Tile.sampWrite_ok {x : Tile} {dst : Nat} {bs : List Byte} (sd v : Nat) (ha : dst % 8 = 0)
    (hr : dst + bs.length ≤ 262144) (hb : x.badPartial dst bs.length = none) :
    x.sampWrite sd dst bs v = { tile := (x.wmem dst bs).ws sd (BitVec.ofNat 64 v) } := by
  rw [Tile.sampWrite, Tile.store_ok ha hr hb]
  rfl

/-- R45: the end of the sampler's work at a tile whose clock runs. -/
theorem exec_sampleDone {s : State} {t : Nat} {r : SampRun} (hr : (s.tile t).sampler = some r) (hg : s.gated t = false)
    {y : Tile} (hy : (s.tile t).sampled (s.seedOf (s.tile t)) r = { tile := y }) :
    exec (.sampleDone t) s = .next (s.setTile t y) := by
  refine next_congr ?_
  rw [hr]
  refine (if_neg (ne_true_of_eq_false hg)).trans ?_
  rw [hy, State.putEff_tile]

/-- The pairs of a list of candidates, 8 bytes each. -/
theorem length_pairs (l : List Cand) : ((l.map fun c => leBytes 4 c.1 ++ leBytes 4 c.2).flatten).length = 8 * l.length := by
  simp [List.length_flatten, Function.comp_def, Nat.mul_comm]

/-- R45: the sampler in mode 1, where its input can be read. -/
theorem Tile.sampled_mode1 {x : Tile} {seed : W64} {r : SampRun} (hrej : (sampPar r.block).rejected = false)
    (hm : (sampPar r.block).mode = 1) (hsrc : (sampPar r.block).src % 64 = 0)
    (hin : (sampPar r.block).src + (sampPar r.block).inBytes ≤ 262144)
    (hbad : x.badWord (sampPar r.block).src (sampPar r.block).inBytes = none) :
    let p := sampPar r.block
    let cs : List (Cand × W32) := p.cands p.adjusted.2.2.1 (x.rmem p.src p.inBytes)
    let best : List Cand := topCands p.adjusted.1 (cs.map fun c : Cand × W32 => c.1)
    x.sampled seed r = ((({ x with sampler := none }).noteCorr p.src p.inBytes).orFlags
      (p.adjusted.2.2.2 ||| orAll (cs.map fun c : Cand × W32 => c.2))).sampWrite r.sd p.dst
        ((best.map fun c : Cand => leBytes 4 c.1 ++ leBytes 4 c.2).flatten) best.length := by
  intro p cs best
  have hb : ({ x with sampler := none }).badWord p.src p.inBytes = none := hbad
  have hx : (({ x with sampler := none } : Tile).noteCorr p.src p.inBytes).rmem p.src p.inBytes = x.rmem p.src p.inBytes :=
    Tile.noteCorr_rmem _ _ _ _ _
  rw [Tile.sampled]
  refine (if_neg (ne_true_of_eq_false hrej)).trans ((if_neg (not_not_intro hsrc)).trans
    ((if_neg (Nat.not_lt.mpr hin)).trans ?_))
  rw [hb]
  refine (if_pos hm).trans ?_
  dsimp only
  rw [hx]
  rfl

/-- Settles O28: SAMPLE stalls or loads the block, and the end of the work writes its result once. -/
theorem tokenSampler : Obligations.TokenSampler := by
  intro s t f x a
  refine ⟨fun hi hf hl hs => next_congr (if_pos ?_), fun h hl hs ha hr hb => next_congr ?_, fun r hs hg => ?_⟩
  · rw [show (s.tile t).sampler.isSome = true from hs, hi, show (s.tile t).fetchOk = true from hf, hl]
    rfl
  · refine (if_neg ?_).trans (State.issue_ran h hl ?_)
    · rw [show (s.tile t).sampler = none from hs]
      exact Bool.false_ne_true
    · rw [effAddr_issued, Tile.load_ok ha hr (by rw [Tile.issued_badWord]; exact hb), Tile.issued_rmem]
  · refine ⟨fun hrej ha hr hb => ?_, fun hrej hm hsrc hin hbad ha hr hb => ?_⟩
    · have hrun : x.sampled (s.seedOf x) r = _ := (if_pos hrej).trans
        (Tile.sampWrite_ok (bs := leBytes 4 0xFFFFFFFF ++ leBytes 4 0) r.sd 0xFFFFFFFF ha hr hb)
      refine ⟨_, exec_sampleDone hs hg hrun, ?_⟩
      rw [State.tile_setTile_same]
      refine ⟨?_, ?_, ?_, fun hsd => Tile.rs_ws_same _ _ hsd⟩
      · rw [Tile.ws_rmem]
        exact Tile.rmem_wmem _ _ (leBytes 4 0xFFFFFFFF ++ leBytes 4 0)
      · rw [Tile.ws_flags, Tile.wmem_flags]
        simp only [Tile.notePart, Tile.noteSoft_flags]
        rfl
      · rw [Tile.ws_sampler, Tile.wmem_sampler]
        rfl
    · have hlen := length_pairs (topCands (sampPar r.block).adjusted.1 (((sampPar r.block).cands
        (sampPar r.block).adjusted.2.2.1 (x.rmem (sampPar r.block).src (sampPar r.block).inBytes)).map (·.1)))
      have hrun := (Tile.sampled_mode1 (seed := s.seedOf x) hrej hm hsrc hin hbad).trans
        (Tile.sampWrite_ok r.sd _ ha (hlen.symm ▸ hr) (hlen.symm ▸ (Tile.noteCorr_badPartial _ _ _ _ _).trans hb))
      refine ⟨_, exec_sampleDone hs hg hrun, ?_⟩
      rw [State.tile_setTile_same, Tile.ws_rmem]
      refine ⟨?_, fun hsd => Tile.rs_ws_same _ _ hsd⟩
      exact (congrArg (Tile.rmem _ _) hlen.symm).trans (Tile.rmem_wmem _ _ _)

end Sys2Proof.Machine
end

section
/-! SUPPORT. The commands of the DMA engine at a descriptor of a known stage (R38 to R40, R308, R513). -/

namespace Sys2Proof.Machine

section
variable {s : State} {t : Nat} {d : Desc} (hd : (s.tile t).desc d.id = some d)
include hd

/-- R308: LOCAL_COPY_LINE moves nothing while the region's clock is stopped. -/
theorem exec_localCopyLine_stands {n : Nat} (h : d.stage = .copying n) (hst : (s.rgn (tileRegion t)).stands = true) :
    exec (.localCopyLine t d.id) s = .next s := by
  refine next_congr ?_
  rw [hd]
  dsimp only
  rw [h]
  exact if_pos hst

/-- R513 LOCAL_COPY_LINE at a descriptor that copies and meets no uncorrectable word. -/
theorem exec_localCopyLine {n : Nat} {y : Tile} (h : d.stage = .copying n)
    (hst : (s.rgn (tileRegion t)).stands = false) (hy : (s.tile t).copyLine d n = (y, none)) :
    exec (.localCopyLine t d.id) s = .next (s.setTile t y) := by
  refine next_congr ?_
  rw [hd]
  dsimp only
  rw [h]
  refine (if_neg (ne_true_of_eq_false hst)).trans ?_
  rw [hy]

/-- LOCAL_COPY_LINE changes nothing at a descriptor that is held. -/
theorem exec_localCopyLine_held {r : W32} (h : d.stage = .held r) : exec (.localCopyLine t d.id) s = .next s := by
  refine next_congr ?_
  rw [hd]
  dsimp only
  rw [h]

/-- R38, R310 TIMED_RELEASE at a held descriptor. -/
theorem exec_timedRelease {r : W32} (h : d.stage = .held r) : exec (.timedRelease t d.id) s = .next (
    if notReleased (ht32 (s.stnHt (tileStation t))) r || (s.part (s.tile t).partition).standing ||
        (s.rgn (tileRegion t)).stands then s
    else if d.kind = 0 then s.setTile t ((s.tile t).setDesc { d with stage := .copying 0 })
    else s.setTile t ((s.tile t).setDesc ((s.tile t).seekAgent d (s.stnHt (tileStation t))))) := by
  refine next_congr ?_
  rw [hd]
  dsimp only
  rw [h]

/-- TIMED_RELEASE changes nothing at a descriptor that copies. -/
theorem exec_timedRelease_copying {n : Nat} (h : d.stage = .copying n) : exec (.timedRelease t d.id) s = .next s := by
  refine next_congr ?_
  rw [hd]
  dsimp only
  rw [h]

/-- R40 DESC_COMPLETE at an ended descriptor. -/
theorem exec_descComplete {st : Byte} (h : d.stage = .ended st) :
    exec (.descComplete t d.id) s = .next (s.setTile t ((s.tile t).complete d st)) := by
  refine next_congr ?_
  rw [hd]
  dsimp only
  rw [h]

end

@[simp] theorem readBytes_length (m : SMap Byte) (a n : Nat) : (readBytes m a n).length = n := by
  simp [readBytes]

@[simp] theorem Tile.rmem_length (x : Tile) (a n : Nat) : (x.rmem a n).length = n := readBytes_length _ _ _

/-- R513: a destination line whose source and destination hold no uncorrectable word. -/
theorem Tile.copyLine_ok {x : Tile} {d : Desc} {n : Nat}
    (hs : x.badWord (d.local_ + copyStart d n) (copyEnd d n - copyStart d n) = none)
    (hd : x.badPartial (d.remote + copyStart d n) (copyEnd d n - copyStart d n) = none) :
    x.copyLine d n = (((x.noteCorr (d.local_ + copyStart d n) (copyEnd d n - copyStart d n)).wmem
      (d.remote + copyStart d n) (x.rmem (d.local_ + copyStart d n) (copyEnd d n - copyStart d n))).setDesc
        { d with stage := if copyLines d ≤ n + 1 then .ended St.done else .copying (n + 1) }, none) := by
  rw [Tile.copyLine]
  dsimp only
  rw [hs, hd]
  rfl

/-- Settles O29: each command at a descriptor of its stage. -/
theorem descriptorProgress : Obligations.DescriptorProgress := by
  intro s t d x now staged
  have due : ∀ {r}, older (ht32 now) r = false → (s.part x.partition).standing = false →
      (s.rgn (tileRegion t)).stands = false →
      ¬ (notReleased (ht32 now) r || (s.part x.partition).standing || (s.rgn (tileRegion t)).stands) = true :=
    fun hr hp hst => by simp [notReleased, hr, hp, hst]
  refine ⟨fun hst hd h => ?_, fun hst hd => ⟨fun n h => ?_, fun r h hr hp => ⟨fun hk => ?_, fun hk ho hw => ?_⟩,
    fun st h => ?_⟩, fun r since hw => ?_⟩
  · obtain ⟨r, h⟩ | ⟨n, h⟩ := h
    · exact ⟨(exec_timedRelease hd h).trans (next_congr (if_pos (by rw [hst, Bool.or_true]))), exec_localCopyLine_held hd h⟩
    · exact ⟨exec_timedRelease_copying hd h, exec_localCopyLine_stands hd h hst⟩
  · intro o k hb hp
    have hlen : (x.rmem (d.local_ + o) k).length = k := x.rmem_length _ _
    refine ⟨_, exec_localCopyLine hd h hst (Tile.copyLine_ok hb hp), ?_⟩
    rw [State.tile_setTile_same]
    refine ⟨?_, fun b hb => ?_, ?_⟩
    · exact (congrArg (Tile.rmem _ _) hlen.symm).trans (Tile.rmem_wmem _ _ _)
    · exact (Tile.wmem_out _ _ _ _ (by rw [hlen]; exact hb)).trans (congrArg (mget 0 · b) (Tile.noteCorr_sram _ _ _))
    · simp only [Tile.setDesc, Tile.wmem_descs, Tile.noteCorr_descs]
      rfl
  · exact (exec_timedRelease hd h).trans (next_congr ((if_neg (due hr hp hst)).trans (if_pos hk)))
  · refine (exec_timedRelease hd h).trans (next_congr ((if_neg (due hr hp hst)).trans ((if_neg hk).trans ?_)))
    rw [Tile.seekAgent, if_pos (by rw [hw, decide_eq_true ho]; rfl)]
  · refine ⟨_, exec_descComplete hd h, ?_⟩
    rw [State.tile_setTile_same]
    exact ⟨x.complete_rc d st, x.complete_status d st, x.complete_descs d st, x.complete_flags d st, x.complete_out d st⟩
  · refine next_congr ?_
    rw [hw]
    by_cases ho : x.ownAgents < 8
    · refine (if_pos ho).trans ?_
      rw [decide_eq_false (Nat.not_le.mpr ho)]
    · refine (if_neg ho).trans ?_
      rw [decide_eq_true (Nat.not_lt.mp ho)]

end Sys2Proof.Machine
end

section
/-! SUPPORT. Injection of items and their timeouts (R184, R191, R204, R240, R243). -/

namespace Sys2Proof.Machine

@[simp] theorem State.tile_putPkt (s : State) (pl : Place) (p : Packet) (t : Nat) : (s.putPkt pl p).tile t = s.tile t := rfl

@[simp] theorem Tile.afterPacket_sram (x : Tile) (a n : Nat) (d : Desc) (fl : W32) (b : Bool) :
    (x.afterPacket a n d fl b).sram = x.sram := x.noteCorr_sram a n

theorem Tile.afterPacket_txid (x : Tile) (a n : Nat) (d : Desc) (fl : W32) :
    (x.afterPacket a n d fl true).txid = x.txid + 1 := rfl

/-- R184, R191: the first ready item of a VC goes where no response of the tile waits, or where it has PRI. -/
theorem exec_dmaInject_item {s : State} {t vc : Nat} {d : Desc} (hst : (s.rgn (tileRegion t)).stands = false)
    (hd : s.nextItem t vc = some d) (hr : s.tileRsp t vc = none ∨ d.pri = true) :
    exec (.dmaInject t vc) s = .next (s.injectItem t vc d) := by
  refine next_congr ((if_neg (ne_true_of_eq_false hst)).trans ?_)
  rw [hd]
  cases h : s.tileRsp t vc with
  | none => rfl
  | some f => exact if_pos (hr.resolve_left (by rw [h]; exact nofun))

/-- R240, R243: ITEM_TIMEOUT at an item whose timeout has passed. -/
theorem exec_itemTimeout {s : State} {t : Nat} {d : Desc} (hd : (s.tile t).desc d.id = some d)
    (ha : (s.tile t).awaitsRsp d = true) (ht : d.lastHt + d.tmo ≤ s.ht) :
    exec (.itemTimeout t d.id) s = .next (
      if d.kind = 4 && d.resend && !d.retry && (s.tile t).st != .fenced then
        s.setTile t ((s.tile t).setDesc { d with retry := true, sentPkts := 0, stage := .ready s.ht })
      else s.setTile t ((s.tile t).endDesc d.id (if d.retry then St.outcomeUnknown else St.timeout))) := by
  refine next_congr ?_
  rw [hd]
  exact if_neg (by simp [ha, Nat.not_lt.mpr ht])

/-- R204: MSG_SPAN_TIMEOUT at a message that has overrun its span. -/
theorem exec_msgSpanTimeout {s : State} {t r : Nat} {d : Desc} (hd : (s.tile t).desc d.id = some d)
    (h : d.stage = .ready r) (hs : s.spanOver d = true) :
    exec (.msgSpanTimeout t d.id) s = .next (s.setTile t ((s.tile t).endDesc d.id St.timeout)) := by
  refine next_congr ?_
  rw [hd]
  dsimp only
  rw [h]
  exact if_pos hs

/-- R32, R184: the packet that an item sends where its bytes hold no uncorrectable word, and its tile afterwards. -/
theorem State.injectPkt_sendable {s : State} {t : Nat} {d : Desc}
    (hb : (s.tile t).badWord d.local_ (if d.kind = 1 || d.again then 0 else descLocalBytes d) = none) :
    let x := s.tile t
    let o := s.openItem t x d
    let sl := packetSlice d d.sentPkts
    let c := s.itemPayload o (if d.again then d.opnd else x.rmem (d.local_ + sl.1) sl.2)
    s.injectPkt t d = (s.setTile t (x.afterPacket (d.local_ + sl.1) (if d.again then 0 else sl.2)
      (s.afterPacket o c.1 c.2.2) c.2.1 (d.sentPkts == 0 && !d.retry))).putPkt (.router (s.tileRouter t) 0)
        (s.nextPacket t x o c.1 c.2.2) := by
  intro x o sl c
  rw [State.injectPkt]
  dsimp only
  rw [hb]

/-- R37: a STORE item's packet is all its bytes. -/
theorem packetSlice_store {d : Desc} (hk : d.kind = 2) (k : Nat) : packetSlice d k = (0, d.len) := by
  simp only [packetSlice, hk]

/-- R37: the first packet of a STORE item is the bytes at its LOCAL_ADDR, under the tile's next TXID. -/
theorem State.injectPkt_store {s : State} {t : Nat} {d : Desc} (hk : d.kind = 2) (hop : d.op ≠ 0x48)
    (hsent : d.sentPkts = 0) (hretry : d.retry = false) (hb : (s.tile t).badWord d.local_ d.len = none) :
    ∃ e fl, s.injectPkt t d =
      (s.setTile t ((s.tile t).afterPacket d.local_ d.len e fl true)).putPkt (.router (s.tileRouter t) 0)
        (s.descPacket t (s.tile t) { d with txid := (s.tile t).txid } 0 (ht32 (s.stnHt (tileStation t)))
          ((s.tile t).rmem d.local_ d.len) false) := by
  have hag : d.again = false := by rw [Desc.again, hretry]; rfl
  have hlen : (if (decide (d.kind = 1) || d.again) = true then 0 else descLocalBytes d) = d.len := by
    simp [hag, hk, descLocalBytes]
  have hopen : s.openItem t (s.tile t) d = { d with
      txid := (s.tile t).txid, firstHt := s.ht, issueHt := ht32 (s.stnHt (tileStation t)), tmo := s.itemTmo d } := by
    rw [State.openItem, hsent, hretry]
    rfl
  have hpay : ∀ raw, s.itemPayload (s.openItem t (s.tile t) d) raw = (raw, 0, false) := fun raw => by
    rw [hopen]
    exact if_neg fun h => hop (eq_of_beq (Bool.and_eq_true_iff.mp h).1)
  refine ⟨s.afterPacket (s.openItem t (s.tile t) d) ((s.tile t).rmem d.local_ d.len) false, 0,
    (State.injectPkt_sendable (by rw [hlen]; exact hb)).trans ?_⟩
  rw [hpay, hag, packetSlice_store hk, hsent, hretry, State.nextPacket, hopen]
  simp only [hsent, hretry]
  rfl

/-- Settles O30: the first ready item goes, and a timeout ends its item. -/
theorem itemInjectionAndTimeouts : Obligations.ItemInjectionAndTimeouts := by
  intro s t d x
  refine ⟨fun vc hst hd hr hk hop hroom hsent hretry hbad => ?_, fun hd ha ht => ⟨fun hres => ?_, fun hno => ?_⟩,
    fun r hd h hk hsent hspan => exec_msgSpanTimeout hd h ?_⟩
  · obtain ⟨e, fl, he⟩ := State.injectPkt_store hk hop hsent hretry hbad
    refine ⟨_, (exec_dmaInject_item hst hd hr).trans (next_congr ((if_pos ?_).trans he)), rfl, ?_⟩
    · rw [packetSlice_store hk, if_neg (by simp [hop])]
      exact hroom
    · rw [State.tile_putPkt, State.tile_setTile_same]
      exact ⟨Tile.afterPacket_txid _ _ _ _ _, Tile.afterPacket_sram _ _ _ _ _ _⟩
  · exact (exec_itemTimeout hd ha ht).trans (next_congr (if_pos (by simpa [and_assoc] using hres)))
  · exact (exec_itemTimeout hd ha ht).trans (next_congr (if_neg (by simpa [and_assoc] using hno)))
  · simp [State.spanOver, hk, hsent, hspan]

end Sys2Proof.Machine
end

section
/-! SUPPORT. Housekeeping of a tile (R23, R24, R33, R56, R57, R64, R512). -/

namespace Sys2Proof.Machine

/-- Bits that have been set are set. -/
theorem orAnd_self {w : Nat} (a b : BitVec w) : (a ||| b) &&& b = b := by
  ext i hi
  simpa using Or.inr

@[simp] theorem State.tile_recTile (s : State) (code t : Nat) (bs : List Byte) (u : Nat) :
    (s.recTile code t bs).tile u = s.tile u := rfl

/-- R33: a pass of the scrubber over a line without an uncorrectable word. -/
theorem State.scrubStep_ok {s : State} {t : Nat} {stale : Bool} (hst : (s.tile t).st ≠ .retention)
    (hclk : (s.rgn (tileRegion t)).stopped = false) (hb : (s.tile t).badWord ((s.tile t).scrub * 64) 64 = none) :
    s.scrubStep t stale = s.setTile t ((s.tile t).scrubOne stale) := by
  refine (if_neg (by simp [hst, hclk])).trans ?_
  rw [hb]

/-- Settles O31, housekeeping command by command. -/
theorem tileHousekeeping : Obligations.TileHousekeeping := by
  intro s t x
  refine ⟨fun a parity hi hlo hhi hb => ?_, fun v => rfl, fun c stale hc hst hclk hb => ?_, fun w v hv ha hr => ?_,
    fun hd he hst => ?_, fun w v hv => next_congr (if_pos hv)⟩
  · have hrun : exec (.ibufMissFill t a parity) s =
        .next (s.setTile t (if parity then (x.fill a).orFlags fIBUF_PAR else x.fill a)) := by
      refine next_congr ((if_neg (by simp [hi])).trans ((if_neg (by
        simp [show (s.tile t).fetchLo ≤ a from hlo, show a < (s.tile t).fetchHi from hhi])).trans ?_))
      rw [hb]
    refine ⟨_, hrun, ?_⟩
    rw [State.tile_setTile_same]
    have hbuf : mget {} (x.fill a).ibuf (a / 64 % 256) =
        { line := a / 64, data := BitVec.ofNat 512 (leNat (x.rmem (a / 64 * 64) 64)) } := mget_mset_same _ _ _ _
    cases parity with
    | false => exact ⟨hbuf, nofun, x.noteCorr_pc _ _⟩
    | true => exact ⟨hbuf, fun _ => orAnd_self _ _, x.noteCorr_pc _ _⟩
  · refine ⟨s.setTile t (x.scrubOne stale), ?_, ?_⟩
    · obtain rfl | rfl := hc <;> exact next_congr (State.scrubStep_ok hst hclk hb)
    · rw [State.tile_setTile_same]
      refine ⟨rfl, x.noteCorr_sram _ _, ?_⟩
      simp only [Tile.scrubOne, Tile.noteCorr_soft]
  · have hrun : exec (.fenceReq w t v) s = .next (s.setTile t { x.startFencing .fencing with fenceReq := true }) := by
      refine next_congr ((if_neg (by simp [show bit v.toNat 0 = true from hv])).trans ((if_neg (by simp [ha])).trans
        (if_neg ?_)))
      rw [show (s.tile t).st = .running from hr]
      decide
    refine ⟨_, hrun, ?_⟩
    rw [State.tile_setTile_same]
    exact ⟨rfl, rfl, rfl⟩
  · refine ⟨_, next_congr (if_pos ?_), ?_⟩
    · rw [show (s.tile t).draining = true from hd, show (s.tile t).descs = [] from he]
      obtain h | h := hst <;> rw [show (s.tile t).st = _ from h] <;> rfl
    · rw [State.tile_recTile, State.tile_setTile_same]
      exact ⟨rfl, rfl⟩

end Sys2Proof.Machine
end

section
/-! SUPPORT. Requests at their target station (R226, R231, R233, R254). -/

namespace Sys2Proof.Machine

/-! ## What a load reads where no entry is open and no word is poisoned -/

theorem mergedBytes_nil (a : Nat) (bs : List Byte) : mergedBytes [] a bs = bs :=
  List.zipIdx_map_fst 0 bs

theorem unreadable_nil (cs : List Combine) (w base a n : Nat) : unreadable cs [] w base a n = none := by
  simp [unreadable]

/-! ## The commands at a request that their station takes -/

section
variable {s : State} {n : Nat} {f : Flight}

theorem exec_loadApply_refused (ht : s.takeDest n (fun q => q.kind == kLOAD) = some f) {st : Byte} {code : Nat}
    (hc : s.checkReq n f.pkt = .refuse st code) :
    exec (.loadApply n) s = .next (s.refuseReq n f (.refuse st code)) := by
  refine next_congr ?_
  rw [ht]
  dsimp only
  rw [hc]

theorem exec_storeAccept_refused (ht : s.takeDest n (fun q => q.kind == kSTORE) = some f) {st : Byte} {code : Nat}
    (hc : s.checkReq n f.pkt = .refuse st code) :
    exec (.storeAccept n) s = .next (s.refuseReq n f (.refuse st code)) := by
  refine next_congr ?_
  rw [ht]
  dsimp only
  rw [hc]

theorem exec_atomicApply_refused (hw : (s.stn n).atomicWait = [])
    (ht : s.takeDest n (fun q => q.kind == kATOMIC) = some f) {st : Byte} {code : Nat}
    (hc : s.checkReq n f.pkt = .refuse st code) :
    exec (.atomicApply n) s = .next (s.refuseReq n f (.refuse st code)) := by
  refine next_congr ?_
  rw [hw]
  dsimp only
  rw [ht]
  dsimp only
  rw [hc]

/-- R231: a load through a window of kind 1 reads a tile. -/
theorem exec_loadApply_tile (ht : s.takeDest n (fun q => q.kind == kLOAD) = some f) {w : BitVec 256}
    (hc : s.checkReq n f.pkt = .pass w) (hk : wKind w = 1) :
    exec (.loadApply n) s =
      .next ((s.dropPkt f.seq).loadTile n f.pkt (winAddr w f.pkt.va) (Packet.span f.pkt)) := by
  refine next_congr ?_
  rw [ht]
  dsimp only
  rw [hc]
  simp only [hk]

/-- R231: a load through a window of kind 0 reads module memory, unless the channel is in its retrain. -/
theorem exec_loadApply_hbm (ht : s.takeDest n (fun q => q.kind == kLOAD) = some f) {w : BitVec 256}
    (hc : s.checkReq n f.pkt = .pass w) (hk : wKind w = 0)
    (hr : s.retraining (s.mem.channelOf (winAddr w f.pkt.va)) = false) :
    exec (.loadApply n) s =
      .next ((s.dropPkt f.seq).loadHbm n f.pkt (winAddr w f.pkt.va) (Packet.span f.pkt)) := by
  refine next_congr ?_
  rw [ht]
  dsimp only
  rw [hc]
  dsimp only
  rw [hk]
  exact if_neg (ne_true_of_eq_false hr)

/-- R233: a store through a window of kind 1 that waits for no atomic is accepted where its entries have room. -/
theorem exec_storeAccept_tile (ht : s.takeDest n (fun q => q.kind == kSTORE) = some f) {w : BitVec 256}
    (hc : s.checkReq n f.pkt = .pass w) (hk : wKind w = 1) (hb : s.behindAtomic n f.pkt w (·.before f) = false)
    {u : State} (hu : s.accept n f.pkt w = some u) : exec (.storeAccept n) s = .next (u.dropPkt f.seq) := by
  refine next_congr ?_
  rw [ht]
  dsimp only
  rw [hc]
  dsimp only
  rw [hk, hb, hu]
  rfl

end

/-- R231: a load of a tile without open entries and without poisoned words. -/
theorem State.loadTile_clean {s : State} {n : Nat} {p : Packet} (a k : Nat)
    (hc : (s.tile (destTile p.dst)).combine = []) (hp : (s.tile (destTile p.dst)).poison = []) :
    s.loadTile n p a k = (s.setTile (destTile p.dst) ((s.tile (destTile p.dst)).noteCorr a k)).replyAt n p St.done
      ((s.tile (destTile p.dst)).rmem a k) := by
  rw [State.loadTile, hc, hp, unreadable_nil, mergedBytes_nil]

/-- R231: a load of module memory without open entries and without poisoned words. -/
theorem State.loadHbm_clean {s : State} {n : Nat} {p : Packet} (a k : Nat)
    (hc : (s.stn n).combine = []) (hp : s.mem.hbmPoison = []) :
    s.loadHbm n p a k = (s.hbmCorr a k).answer n p St.done (s.mem.read a k) := by
  rw [State.loadHbm, hc, hp, unreadable_nil, mergedBytes_nil]

/-- R233: a store of one line opens the first entry of its tile. -/
theorem combineAll_first {limit ht : Nat} (hl : 0 < limit) (p : Packet) (l : Nat) (bs : SMap Byte) :
    combineAll limit ht p [] [(l, bs)] = some ([{ line := l, opened := ht, stores := [(p, St.done, bs)] }], 0) := by
  simp [combineAll, combineOne, hl]

/-- R233: a store of one line of a tile is accepted where the tile has no entry. -/
theorem State.accept_first {s : State} {n : Nat} {p : Packet} {w : BitVec 256} {l : Nat} {bs : SMap Byte}
    (hk : wKind w = 1) (hd : cKind p.dst = 0) (hcs : (s.tile (destTile p.dst)).combine = [])
    (hl : linePieces (winAddr w p.va) p.payload = [(l, bs)]) :
    s.accept n p w = some ((s.updTile (destTile p.dst) fun x =>
      { x with combine := [{ line := l, opened := s.ht, stores := [(p, St.done, bs)] }] }).updStn n fun x =>
        { x with merge := (x.merge + 0) % 2 ^ 32 }) := by
  rw [State.accept, hd, hk, if_neg (by decide), if_neg (by decide), if_neg (by decide), State.combineOf, if_pos hd, hcs, hl]
  dsimp only
  rw [combineAll_first (by decide)]
  dsimp only
  rw [State.setCombine, if_pos hd]

/-- Settles O32, command by command. -/
theorem requestsAtTheirTargetStation : Obligations.RequestsAtTheirTargetStation := by
  intro s n f p taken gone
  refine ⟨fun st code hc => ⟨fun ht => exec_loadApply_refused ht hc, fun ht => exec_storeAccept_refused ht hc,
    fun hw ht => exec_atomicApply_refused hw ht hc⟩, fun w hc => ⟨fun ht hk hcs hp => ?_, fun ht hk hcs hp hr => ?_,
    fun l bs ht hk hd hcs hb hl => ?_⟩⟩
  · exact (exec_loadApply_tile ht hc hk).trans (next_congr (State.loadTile_clean _ _ hcs hp))
  · exact (exec_loadApply_hbm ht hc hk hr).trans (next_congr (State.loadHbm_clean _ _ hcs hp))
  · refine ⟨_, exec_storeAccept_tile ht hc hk hb (State.accept_first hk hd hcs hl), ?_⟩
    have htile : ∀ (u : State) (g : Station → Station), ((u.updStn n g).dropPkt f.seq).tile (destTile p.dst) =
        u.tile (destTile p.dst) := fun _ _ => rfl
    rw [htile, State.updTile, State.tile_setTile_same]
    exact ⟨rfl, rfl, rfl⟩

end Sys2Proof.Machine
end

section
/-! SUPPORT. The bytes of a combining entry: one store's bytes written word by word are its bytes (R233, R234). -/

namespace Sys2Proof.Machine

/-- The bytes of a store lie side by side from an offset. -/
def Sided (bs : SMap Byte) : Prop := ∃ a, bs.map (·.1) = List.range' a bs.length

/-- The offsets of one word among offsets that lie side by side lie side by side. -/
theorem filter_word_range' (j a n : Nat) : ∃ b m, (List.range' a n).filter (fun k => k / 8 == j) = List.range' b m := by
  have key : (List.range' a n).filter (fun k => k / 8 == j) =
      List.range' (max a (8 * j)) (min (a + n) (8 * j + 8) - max a (8 * j)) := by
    induction n generalizing a with
    | zero =>
      rw [show min (a + 0) (8 * j + 8) - max a (8 * j) = 0 by omega]
      rfl
    | succ n ih =>
      rw [List.range'_succ, List.filter_cons, ih]
      by_cases h : a / 8 = j
      · rw [if_pos (beq_iff_eq.mpr h), show min (a + (n + 1)) (8 * j + 8) - max a (8 * j) =
          (min (a + 1 + n) (8 * j + 8) - max (a + 1) (8 * j)) + 1 by omega, List.range'_succ,
          show max a (8 * j) = a by omega, show max (a + 1) (8 * j) = a + 1 by omega]
      · rw [if_neg (by simpa using h)]
        by_cases hl : a < 8 * j
        · rw [show max a (8 * j) = max (a + 1) (8 * j) by omega, show a + (n + 1) = a + 1 + n by omega]
        · rw [show min (a + 1 + n) (8 * j + 8) - max (a + 1) (8 * j) = 0 by omega,
            show min (a + (n + 1)) (8 * j + 8) - max a (8 * j) = 0 by omega]
          rfl
  exact ⟨_, _, key⟩

theorem Sided.wordBytes {bs : SMap Byte} (h : Sided bs) (j : Nat) : Sided (wordBytes 8 j bs) := by
  obtain ⟨a, ha⟩ := h
  obtain ⟨b, m, hf⟩ := filter_word_range' j a bs.length
  have hk : (Machine.wordBytes 8 j bs).map (·.1) = List.range' b m := by
    rw [← hf, ← ha, List.filter_map]
    rfl
  refine ⟨b, ?_⟩
  have hl := congrArg List.length hk
  rw [List.length_map, List.length_range'] at hl
  rw [hk, hl]

/-- The byte that one word's bytes give an offset. -/
theorem find?_wordBytes (w j k : Nat) (bs : SMap Byte) :
    (wordBytes w j bs).find? (·.1 == k) = if k / w = j then bs.find? (·.1 == k) else none := by
  rw [wordBytes, List.find?_filter]
  by_cases h : k / w = j
  · rw [if_pos h]
    refine congrArg (List.find? · bs) (funext fun b => ?_)
    by_cases hb : b.1 = k
    · simp [hb, h]
    · simp [hb]
  · rw [if_neg h, List.find?_eq_none]
    intro b _ hb
    simp only [decide_eq_true_eq, beq_iff_eq] at hb
    exact h (hb.2 ▸ hb.1)

/-- Bytes that lie side by side, written from the first one's place in a line at `l`. -/
theorem mget_writeBytes_sided (m : SMap Byte) (l a : Nat) (bs : SMap Byte)
    (h : bs.map (·.1) = List.range' a bs.length) (q : Nat) :
    mget 0 (writeBytes m (l + a) (bs.map (·.2))) q =
      if l ≤ q then ((bs.find? (·.1 == q - l)).map (·.2)).getD (mget 0 m q) else mget 0 m q := by
  induction bs generalizing m a with
  | nil => simp [writeBytes]
  | cons b bs ih =>
    rw [List.map_cons, List.length_cons, List.range'_succ, List.cons_eq_cons] at h
    obtain ⟨hb, hbs⟩ := h
    rw [List.map_cons, writeBytes, Nat.add_assoc, ih _ _ hbs]
    by_cases hq : l ≤ q
    · rw [if_pos hq, if_pos hq, List.find?_cons]
      by_cases he : q = l + a
      · have hno : bs.find? (·.1 == q - l) = none := by
          rw [List.find?_eq_none]
          intro e he' hk
          have hmem : e.1 ∈ List.range' (a + 1) bs.length := hbs ▸ List.mem_map_of_mem he'
          rw [List.mem_range'_1] at hmem
          have := eq_of_beq hk
          omega
        rw [hno, hb, beq_iff_eq.mpr (show a = q - l by omega), he, mget_mset_same]
        rfl
      · rw [hb, beq_eq_false_iff_ne.mpr (show a ≠ q - l by omega), mget_mset_ne _ _ _ he]
    · rw [if_neg hq, if_neg hq, mget_mset_ne _ _ _ (by omega)]

/-! ## One store written to a tile's line -/

/-- The byte that a store gives an address of a line, and the byte that stood there where it gives none. -/
def storeByte (line : Nat) (bs : SMap Byte) (q : Nat) (old : Byte) : Byte :=
  if line * 64 ≤ q then ((bs.find? (·.1 == q - line * 64)).map (·.2)).getD old else old

/-- One word of a store, written. -/
theorem wmem_wordBytes {bs ws : SMap Byte} (hs : Sided bs) {j : Nat} {b : Nat × Byte} (hw : wordBytes 8 j bs = b :: ws)
    (x : Tile) (line q : Nat) :
    mget 0 (x.wmem (line * 64 + b.1) ((b :: ws).map (·.2))).sram q =
      if line * 64 ≤ q ∧ (q - line * 64) / 8 = j then storeByte line bs q (mget 0 x.sram q) else mget 0 x.sram q := by
  obtain ⟨a, ha⟩ := hs.wordBytes j
  have hb : b.1 = a := by
    rw [hw, List.map_cons, List.length_cons, List.range'_succ, List.cons_eq_cons] at ha
    exact ha.1
  rw [hw] at ha
  have hmem := mget_writeBytes_sided x.sram (line * 64) a (b :: ws) ha q
  rw [← hw, find?_wordBytes] at hmem
  rw [← hw, hb]
  refine hmem.trans ?_
  by_cases hq : line * 64 ≤ q
  · rw [if_pos hq]
    by_cases hj : (q - line * 64) / 8 = j
    · rw [if_pos hj, if_pos ⟨hq, hj⟩, storeByte, if_pos hq]
    · rw [if_neg hj, if_neg fun h => hj h.2]
      rfl
  · rw [if_neg hq, if_neg fun h => hq h.1]

/-- A word without bytes of the store. -/
theorem storeByte_of_nil {bs : SMap Byte} {j line q : Nat} (hw : wordBytes 8 j bs = []) (hq : line * 64 ≤ q)
    (hj : (q - line * 64) / 8 = j) (old : Byte) : storeByte line bs q old = old := by
  have h := find?_wordBytes 8 j (q - line * 64) bs
  rw [hw, if_pos hj] at h
  rw [storeByte, if_pos hq, ← h]
  rfl

/-- R31: word `j` of a store, written to the tile or refused. -/
def storeWord (bad : List Nat) (line : Nat) (bs : SMap Byte) (acc : Tile × List Nat) (j : Nat) : Tile × List Nat :=
  match wordBytes 8 j bs with
  | [] => acc
  | b :: _ =>
    if line * 8 + j ∈ bad && (wordBytes 8 j bs).length != 8 then (acc.1, acc.2 ++ [line * 8 + j])
    else (acc.1.wmem (line * 64 + b.1) ((wordBytes 8 j bs).map (·.2)), acc.2)

theorem Tile.applyStore_words (x : Tile) (bad : List Nat) (line : Nat) (bs : SMap Byte) :
    x.applyStore bad line bs = (List.range 8).foldl (storeWord bad line bs) (x, []) := rfl

section
variable {bs : SMap Byte} (hs : Sided bs)
include hs

/-- Outside its own word a word of a store changes no byte. -/
theorem storeWord_out (bad : List Nat) (acc : Tile × List Nat) {line j q : Nat}
    (hq : ¬ (line * 64 ≤ q ∧ (q - line * 64) / 8 = j)) :
    mget 0 (storeWord bad line bs acc j).1.sram q = mget 0 acc.1.sram q := by
  unfold storeWord
  cases hw : wordBytes 8 j bs with
  | nil => rfl
  | cons b ws =>
    dsimp only
    split
    · rfl
    · exact (wmem_wordBytes hs hw acc.1 line q).trans (if_neg hq)

/-- A word of a store that meets no uncorrectable word gives its bytes. -/
theorem storeWord_in (acc : Tile × List Nat) {line j q : Nat} (hq : line * 64 ≤ q ∧ (q - line * 64) / 8 = j) :
    mget 0 (storeWord [] line bs acc j).1.sram q = storeByte line bs q (mget 0 acc.1.sram q) := by
  unfold storeWord
  cases hw : wordBytes 8 j bs with
  | nil => exact (storeByte_of_nil hw hq.1 hq.2 _).symm
  | cons b ws => exact (wmem_wordBytes hs hw acc.1 line q).trans (if_pos hq)

/-- R31, R234: outside its line a store changes no byte, whatever words it is refused in. -/
theorem Tile.applyStore_out (x : Tile) (bad : List Nat) {line q : Nat} (hq : q / 64 ≠ line) :
    mget 0 (x.applyStore bad line bs).1.sram q = mget 0 x.sram q := by
  rw [Tile.applyStore_words]
  refine List.foldlRecOn _ _ (motive := fun acc : Tile × List Nat => mget 0 acc.1.sram q = mget 0 x.sram q) rfl ?_
  intro acc hacc j hj
  have hj8 : j < 8 := List.mem_range.mp hj
  exact (storeWord_out hs bad acc (by omega)).trans hacc

/-- R31, R234: in its line a store that meets no uncorrectable word gives its bytes. -/
theorem Tile.applyStore_in (x : Tile) {line q : Nat} (hq : q / 64 = line) :
    mget 0 (x.applyStore [] line bs).1.sram q = storeByte line bs q (mget 0 x.sram q) := by
  have key : ∀ n, mget 0 ((List.range n).foldl (storeWord [] line bs) (x, [])).1.sram q =
      if (q - line * 64) / 8 < n then storeByte line bs q (mget 0 x.sram q) else mget 0 x.sram q := by
    intro n
    induction n with
    | zero => rfl
    | succ n ih =>
      rw [List.range_succ, List.foldl_append, List.foldl_cons, List.foldl_nil]
      by_cases hn : (q - line * 64) / 8 = n
      · rw [storeWord_in hs _ ⟨by omega, hn⟩, ih, if_neg (by omega), if_pos (by omega)]
      · rw [storeWord_out hs _ _ fun h => hn h.2, ih]
        exact if_congr (by omega) rfl rfl
  exact (key 8).trans (if_pos (by omega))

end

/-- A store that meets no uncorrectable word is refused nowhere. -/
theorem Tile.applyStore_refused (x : Tile) (line : Nat) (bs : SMap Byte) : (x.applyStore [] line bs).2 = [] := by
  rw [Tile.applyStore_words]
  refine List.foldlRecOn _ _ (motive := fun acc : Tile × List Nat => acc.2 = []) rfl fun acc hacc j _ => ?_
  unfold storeWord
  cases wordBytes 8 j bs with
  | nil => exact hacc
  | cons b ws => exact hacc

/-- A store changes SRAM alone of what the entry's end looks at. -/
theorem Tile.applyStore_combine (x : Tile) (bad : List Nat) (line : Nat) (bs : SMap Byte) :
    (x.applyStore bad line bs).1.combine = x.combine := by
  rw [Tile.applyStore_words]
  refine List.foldlRecOn _ _ (motive := fun acc : Tile × List Nat => acc.1.combine = x.combine) rfl fun acc hacc j _ => ?_
  unfold storeWord
  cases wordBytes 8 j bs with
  | nil => exact hacc
  | cons b ws =>
    dsimp only
    split
    · exact hacc
    · exact (Tile.noteSoft_combine _ _).trans hacc

end Sys2Proof.Machine
end

section
/-! SUPPORT. A combining entry written to its tile or to module memory, and its stores answered (R232 to R234). -/

namespace Sys2Proof.Machine

/-! ## Answers and the sweep of messages -/

@[simp] theorem State.tile_replyAt (s : State) (n : Nat) (p : Packet) (st : Byte) (bs : List Byte) (k : Nat) :
    (s.replyAt n p st bs).tile k = s.tile k := by
  unfold State.replyAt
  split <;> rfl

@[simp] theorem State.stn_replyAt (s : State) (n : Nat) (p : Packet) (st : Byte) (bs : List Byte) (k : Nat) :
    (s.replyAt n p st bs).stn k = s.stn k := by
  unfold State.replyAt
  split <;> rfl

/-- What a tile holds has no part in its station's answer. -/
theorem State.replyAt_setTile_fabric (s : State) (t : Nat) (x : Tile) (n : Nat) (p : Packet) (st : Byte) (bs : List Byte) :
    ((s.setTile t x).replyAt n p st bs).fabric = (s.replyAt n p st bs).fabric := by
  unfold State.replyAt
  rw [State.rgn_setTile]
  split <;> rfl

/-- R205: a station without messages has none to go on with. -/
theorem State.msgSweep_nil {s : State} {n : Nat} (h : (s.stn n).msgs = []) : s.msgSweep n = s := by
  simp [State.msgSweep, h]

theorem State.updMsg_nil {s : State} {n : Nat} (h : (s.stn n).msgs = []) (src : W32) (txid : BitVec 24)
    (f : MsgEntry → MsgEntry) : ((s.updMsg n src txid f).stn n).msgs = [] := by
  simp [State.updMsg, State.updStn, h]

/-! ## The stores of a written entry, answered -/

/-- R232, R234: a store whose entry is written waits for its other lines, is answered, or is a message's packet. -/
theorem State.storeWritten_cases (s : State) (n : Nat) (p : Packet) (st : Byte) :
    (∃ cs, cs.map (·.line) = (s.combineOf n p.dst).map (·.line) ∧ s.storeWritten n p st = s.setCombine n p.dst cs) ∨
      s.storeWritten n p st = s.replyAt n p st [] ∨ ∃ f, s.storeWritten n p st = s.updMsg n p.src p.txid f := by
  unfold State.storeWritten
  split
  · dsimp only
    split
    · refine .inl ⟨_, ?_, rfl⟩
      rw [List.map_map]
      rfl
    · exact .inr (.inl rfl)
  · exact .inr (.inr ⟨_, rfl⟩)

/-- R232: what answering a store of a tile's entry leaves alone. -/
theorem State.storeWritten_tile (s : State) (n : Nat) {p : Packet} (st : Byte) (hd : cKind p.dst = 0) :
    (∀ k, k ≠ destTile p.dst → (s.storeWritten n p st).tile k = s.tile k) ∧
      ((s.storeWritten n p st).tile (destTile p.dst)).sram = (s.tile (destTile p.dst)).sram ∧
      ((s.storeWritten n p st).tile (destTile p.dst)).combine.map (·.line) =
        (s.tile (destTile p.dst)).combine.map (·.line) ∧
      ((s.stn n).msgs = [] → ((s.storeWritten n p st).stn n).msgs = []) := by
  obtain ⟨cs, hcs, h⟩ | h | ⟨f, h⟩ := s.storeWritten_cases n p st
  · rw [h, State.setCombine, if_pos hd]
    rw [State.combineOf, if_pos hd] at hcs
    refine ⟨fun k hk => State.tile_setTile_ne _ _ hk, ?_, ?_, id⟩
    · rw [State.updTile, State.tile_setTile_same]
    · rw [State.updTile, State.tile_setTile_same]
      exact hcs
  · rw [h]
    exact ⟨fun k _ => s.tile_replyAt .., congrArg Tile.sram (s.tile_replyAt ..),
      congrArg (fun x : Tile => x.combine.map (·.line)) (s.tile_replyAt ..), fun hm => by rw [State.stn_replyAt, hm]⟩
  · rw [h]
    exact ⟨fun _ _ => rfl, rfl, rfl, fun hm => State.updMsg_nil hm ..⟩

/-- R232: what answering a store of an entry of module memory leaves alone. -/
theorem State.storeWritten_hbm (s : State) (n : Nat) {p : Packet} (st : Byte) (hd : cKind p.dst ≠ 0) :
    (∀ k, (s.storeWritten n p st).tile k = s.tile k) ∧
      ((s.storeWritten n p st).stn n).combine.map (·.line) = (s.stn n).combine.map (·.line) ∧
      ((s.stn n).msgs = [] → ((s.storeWritten n p st).stn n).msgs = []) := by
  obtain ⟨cs, hcs, h⟩ | h | ⟨f, h⟩ := s.storeWritten_cases n p st
  · rw [h, State.setCombine, if_neg hd]
    rw [State.combineOf, if_neg hd] at hcs
    refine ⟨fun k => rfl, ?_, fun hm => ?_⟩
    · rw [State.updStn, State.stn_setStn_same]
      exact hcs
    · rw [State.updStn, State.stn_setStn_same]
      exact hm
  · rw [h]
    exact ⟨fun k => s.tile_replyAt .., congrArg (fun x : Station => x.combine.map (·.line)) (s.stn_replyAt ..),
      fun hm => by rw [State.stn_replyAt, hm]⟩
  · rw [h]
    refine ⟨fun _ => rfl, ?_, fun hm => State.updMsg_nil hm ..⟩
    simp [State.updMsg, State.updStn]

/-- The lines of a table determine which lines are open in it. -/
theorem lines_ne {l : Nat} {cs ds : List Combine} (h : cs.map (·.line) = ds.map (·.line)) (hd : ∀ e ∈ ds, e.line ≠ l) :
    ∀ e ∈ cs, e.line ≠ l := by
  intro e he
  have hm : e.line ∈ ds.map (·.line) := h ▸ List.mem_map_of_mem he
  obtain ⟨d, hds, hde⟩ := List.mem_map.mp hm
  exact hde ▸ hd d hds

/-! ## An entry of a tile -/

/-- R233, R234: one store of an entry written to its tile, with what is to be answered. -/
def entryStore (t : Nat) (bad : List Nat) (line : Nat) (acc : State × List (Packet × Byte))
    (st : Packet × Byte × SMap Byte) : State × List (Packet × Byte) :=
  let (x, refused) := (acc.1.tile t).applyStore bad line st.2.2
  let x := refused.foldl Tile.noteUncorr x
  let s := refused.foldl (fun s w => s.recTile 0x6001 t (leBytes 4 (w * 8))) (acc.1.setTile t x)
  (s, acc.2 ++ [(st.1, worseStatus st.2.1 (if refused.isEmpty then St.done else St.poisoned))])

/-- The entries of a tile without those of a line. -/
def Tile.withoutLine (x : Tile) (line : Nat) : Tile := { x with combine := x.combine.filter fun d => d.line != line }

theorem State.writeTileEntry_stores (s : State) (t : Nat) (c : Combine) :
    s.writeTileEntry t c =
      (c.stores.foldl (entryStore t (s.tile t).poison c.line) (s.updTile t (·.withoutLine c.line), [])).2.foldl
        (fun s r => s.storeWritten (tileStation t) r.1 r.2)
        (c.stores.foldl (entryStore t (s.tile t).poison c.line) (s.updTile t (·.withoutLine c.line), [])).1 := rfl

/-- R31: what the words that a store is refused in leave alone. -/
theorem noteUncorrs_keep (ws : List Nat) (x : Tile) :
    (ws.foldl Tile.noteUncorr x).sram = x.sram ∧ (ws.foldl Tile.noteUncorr x).combine = x.combine :=
  ⟨foldl_same Tile.sram Tile.noteUncorr (fun _ _ => rfl) ws x,
    foldl_same Tile.combine Tile.noteUncorr (fun _ _ => rfl) ws x⟩

theorem recTiles_keep (t : Nat) (ws : List Nat) (s : State) :
    let u := ws.foldl (fun s w => s.recTile 0x6001 t (leBytes 4 (w * 8))) s
    (∀ k, u.tile k = s.tile k) ∧ u.stations = s.stations :=
  ⟨fun k => foldl_same (fun s : State => s.tile k) (fun s w => s.recTile 0x6001 t (leBytes 4 (w * 8))) (fun _ _ => rfl) ws s,
    foldl_same State.stations (fun s w => s.recTile 0x6001 t (leBytes 4 (w * 8))) (fun _ _ => rfl) ws s⟩

/-- What one store of an entry leaves alone. -/
theorem entryStore_keep (t : Nat) (bad : List Nat) (line : Nat) (acc : State × List (Packet × Byte))
    (st : Packet × Byte × SMap Byte) :
    (∀ k, k ≠ t → (entryStore t bad line acc st).1.tile k = acc.1.tile k) ∧
      ((entryStore t bad line acc st).1.tile t).combine = (acc.1.tile t).combine ∧
      ((entryStore t bad line acc st).1.tile t).sram = ((acc.1.tile t).applyStore bad line st.2.2).1.sram ∧
      (entryStore t bad line acc st).1.stations = acc.1.stations ∧
      ∃ b, (entryStore t bad line acc st).2 = acc.2 ++ [(st.1, b)] := by
  obtain ⟨h1, h2⟩ := noteUncorrs_keep ((acc.1.tile t).applyStore bad line st.2.2).2
    ((acc.1.tile t).applyStore bad line st.2.2).1
  obtain ⟨h3, h4⟩ := recTiles_keep t ((acc.1.tile t).applyStore bad line st.2.2).2 (acc.1.setTile t
    (((acc.1.tile t).applyStore bad line st.2.2).2.foldl Tile.noteUncorr ((acc.1.tile t).applyStore bad line st.2.2).1))
  have ht := (h3 t).trans (State.tile_setTile_same _ _ _)
  exact ⟨fun k hk => (h3 k).trans (State.tile_setTile_ne _ _ hk),
    (congrArg Tile.combine ht).trans (h2.trans (Tile.applyStore_combine ..)), (congrArg Tile.sram ht).trans h1, h4, _, rfl⟩

/-- What the stores of an entry leave alone. -/
theorem entryStores_keep (t : Nat) (bad : List Nat) (line : Nat) (l : List (Packet × Byte × SMap Byte))
    (acc : State × List (Packet × Byte)) :
    (∀ k, k ≠ t → (l.foldl (entryStore t bad line) acc).1.tile k = acc.1.tile k) ∧
      ((l.foldl (entryStore t bad line) acc).1.tile t).combine = (acc.1.tile t).combine ∧
      (l.foldl (entryStore t bad line) acc).1.stations = acc.1.stations ∧
      ∀ r ∈ (l.foldl (entryStore t bad line) acc).2, r ∈ acc.2 ∨ ∃ st ∈ l, r.1 = st.1 := by
  induction l generalizing acc with
  | nil => exact ⟨fun _ _ => rfl, rfl, rfl, fun _ h => .inl h⟩
  | cons st l ih =>
    obtain ⟨h1, h2, -, h4, b, h5⟩ := entryStore_keep t bad line acc st
    obtain ⟨i1, i2, i3, i4⟩ := ih (entryStore t bad line acc st)
    refine ⟨fun k hk => (i1 k hk).trans (h1 k hk), i2.trans h2, i3.trans h4, fun r hr => ?_⟩
    obtain hr | ⟨e, he, hre⟩ := i4 r hr
    · rw [h5, List.mem_append, List.mem_singleton] at hr
      obtain hr | hr := hr
      · exact .inl hr
      · exact .inr ⟨st, List.mem_cons_self, by rw [hr]⟩
    · exact .inr ⟨e, List.mem_cons_of_mem _ he, hre⟩

/-- R234: outside its line an entry changes no byte. -/
theorem entryStores_out {t : Nat} {bad : List Nat} {line q : Nat} (hq : q / 64 ≠ line)
    {l : List (Packet × Byte × SMap Byte)} (hl : ∀ st ∈ l, Sided st.2.2) (acc : State × List (Packet × Byte)) :
    mget 0 ((l.foldl (entryStore t bad line) acc).1.tile t).sram q = mget 0 (acc.1.tile t).sram q := by
  refine List.foldlRecOn _ _ (motive := fun a : State × List (Packet × Byte) =>
    mget 0 (a.1.tile t).sram q = mget 0 (acc.1.tile t).sram q) rfl fun a ha st hst => ?_
  obtain ⟨-, -, h3, -, -⟩ := entryStore_keep t bad line a st
  rw [h3, Tile.applyStore_out (hl st hst) _ _ hq, ha]

/-- R233: the byte that a store gives an address, over the one that those before it give. -/
def overlayStep (q : Nat) (acc : Option Byte) (st : Packet × Byte × SMap Byte) : Option Byte :=
  ((st.2.2.find? (·.1 == q % 64)).map (·.2)).or acc

theorem overlay_one (c : Combine) (q : Nat) :
    overlay [c] q = if q / 64 = c.line then c.stores.foldl (overlayStep q) none else none := by
  unfold overlay
  by_cases h : q / 64 = c.line
  · rw [if_pos h, List.find?_cons_of_pos (by simp [h])]
    refine congrArg (fun f => List.foldl f none c.stores) (funext fun acc => funext fun st => ?_)
    unfold overlayStep
    cases st.2.2.find? (·.1 == q % 64) <;> rfl
  · rw [if_neg h, List.find?_cons_of_neg (by simpa using Ne.symm h)]
    rfl

/-- R233: in its line each byte is the last that the entry's stores give it. -/
theorem entryStores_in {t line q : Nat} (hq : q / 64 = line) {l : List (Packet × Byte × SMap Byte)}
    (hl : ∀ st ∈ l, Sided st.2.2) (old : Byte) (acc : State × List (Packet × Byte)) (o : Option Byte)
    (ho : mget 0 (acc.1.tile t).sram q = o.getD old) :
    mget 0 ((l.foldl (entryStore t [] line) acc).1.tile t).sram q = (l.foldl (overlayStep q) o).getD old := by
  induction l generalizing acc o with
  | nil => exact ho
  | cons st l ih =>
    refine ih (fun e he => hl e (List.mem_cons_of_mem _ he)) _ _ ?_
    obtain ⟨-, -, h3, -, -⟩ := entryStore_keep t [] line acc st
    rw [h3, Tile.applyStore_in (hl st List.mem_cons_self) _ hq, ho, storeByte, if_pos (by omega),
      show q - line * 64 = q % 64 by omega, overlayStep]
    cases st.2.2.find? (·.1 == q % 64) <;> rfl

/-- R233: an entry due at a station's tiles is one of a tile of the station. -/
theorem State.dueTileEntry_station {s : State} {n t : Nat} {c : Combine} (h : s.dueTileEntry n = some (t, c)) :
    tileStation t = n := by
  have key : ∀ t c, s.dueTileEntry n = some (t, c) → tileStation t = n := by
    unfold State.dueTileEntry
    refine List.foldlRecOn _ _ (motive := fun o : Option (Nat × Combine) => ∀ t c, o = some (t, c) → tileStation t = n)
      nofun fun acc hacc e _ => ?_
    split
    · next he =>
      split
      · rintro t c ⟨⟩
        exact he
      · split
        · rintro t c ⟨⟩
          exact he
        · exact hacc
      · exact hacc
    · exact hacc
  exact key t c h

/-- What writing an entry of a tile leaves alone, and that the entry is gone. -/
theorem State.writeTileEntry_keep (s : State) {t : Nat} {c : Combine}
    (hc : ∀ st ∈ c.stores, cKind st.1.dst = 0 ∧ destTile st.1.dst = t)
    (hm : (s.stn (tileStation t)).msgs = []) :
    (∀ k, k ≠ t → (s.writeTileEntry t c).tile k = s.tile k) ∧
      (∀ e ∈ ((s.writeTileEntry t c).tile t).combine, e.line ≠ c.line) ∧
      ((s.writeTileEntry t c).stn (tileStation t)).msgs = [] ∧
      ((s.writeTileEntry t c).tile t).sram = ((c.stores.foldl (entryStore t (s.tile t).poison c.line)
        (s.updTile t (·.withoutLine c.line), [])).1.tile t).sram := by
  rw [State.writeTileEntry_stores]
  obtain ⟨h1, h2, h3, h4⟩ := entryStores_keep t (s.tile t).poison c.line c.stores (s.updTile t (·.withoutLine c.line), [])
  have hs0 : (s.updTile t (·.withoutLine c.line)).tile t = (s.tile t).withoutLine c.line := State.tile_setTile_same _ _ _
  refine List.foldlRecOn _ _ (motive := fun u : State => (∀ k, k ≠ t → u.tile k = s.tile k) ∧
    (∀ e ∈ (u.tile t).combine, e.line ≠ c.line) ∧ (u.stn (tileStation t)).msgs = [] ∧
    (u.tile t).sram = ((c.stores.foldl (entryStore t (s.tile t).poison c.line)
      (s.updTile t (·.withoutLine c.line), [])).1.tile t).sram)
    ⟨fun k hk => (h1 k hk).trans (State.tile_setTile_ne _ _ hk), ?_, ?_, rfl⟩ fun u hu r hr => ?_
  · rw [h2, hs0]
    intro e he
    simpa using (List.mem_filter.mp he).2
  · exact (congrArg (fun m => (mget ({} : Station) m (tileStation t)).msgs) h3).trans hm
  · obtain ⟨u1, u2, u3, u4⟩ := hu
    obtain hr | ⟨st, hst, hrst⟩ := h4 r hr
    · exact absurd hr List.not_mem_nil
    · obtain ⟨hk, ht⟩ := hrst ▸ hc st hst
      obtain ⟨w1, w2, w3, w4⟩ := u.storeWritten_tile (tileStation t) r.2 hk
      rw [ht] at w1 w2 w3
      exact ⟨fun k hk => (w1 k hk).trans (u1 k hk), lines_ne w3 u2, w4 u3, w2.trans u4⟩

/-- R233, R234: an entry of one STORE that meets no uncorrectable word and has no other line is answered DONE. -/
theorem State.writeTileEntry_one {s : State} {t : Nat} {c : Combine} {p : Packet} {bs : SMap Byte}
    (hp : (s.tile t).poison = []) (hc : c.stores = [(p, St.done, bs)]) (hk : p.kind = kSTORE) (hd : cKind p.dst = 0)
    (ht : destTile p.dst = t)
    (hno : ∀ e ∈ (s.tile t).combine, e.line ≠ c.line → ∀ x ∈ e.stores, sameReq x.1 p = false) :
    (s.writeTileEntry t c).fabric = (s.replyAt (tileStation t) p St.done []).fabric := by
  have hone : entryStore t [] c.line (s.updTile t (·.withoutLine c.line), []) (p, St.done, bs) =
      ((s.updTile t (·.withoutLine c.line)).setTile t
        (((s.updTile t (·.withoutLine c.line)).tile t).applyStore [] c.line bs).1, [(p, St.done)]) := by
    rw [entryStore]
    dsimp only
    rw [Tile.applyStore_refused]
    rfl
  have hcs : ((s.updTile t (·.withoutLine c.line)).setTile t
      (((s.updTile t (·.withoutLine c.line)).tile t).applyStore [] c.line bs).1).combineOf (tileStation t) p.dst =
      (s.tile t).combine.filter fun d => d.line != c.line := by
    rw [State.combineOf, if_pos hd, ht, State.tile_setTile_same, Tile.applyStore_combine, State.updTile,
      State.tile_setTile_same]
    rfl
  rw [State.writeTileEntry_stores, hp, hc, List.foldl_cons, List.foldl_nil, hone, List.foldl_cons, List.foldl_nil,
    State.storeWritten, if_pos (by rw [hk]; rfl)]
  dsimp only
  rw [hcs, if_neg]
  · rw [State.replyAt_setTile_fabric, State.updTile, State.replyAt_setTile_fabric]
  · simp only [List.any_eq_true, List.mem_filter, not_exists]
    rintro e ⟨⟨he, hl⟩, x, hx, hsame⟩
    rw [hno e he (by simpa using hl) x hx] at hsame
    exact Bool.false_ne_true hsame

/-! ## An entry of module memory -/

/-- R233, R234: one store of an entry written to module memory, with what is to be answered. -/
def hbmStore (bad : List Nat) (line : Nat) (acc : State × List (Packet × Byte)) (st : Packet × Byte × SMap Byte) :
    State × List (Packet × Byte) :=
  let (m, refused) := acc.1.mem.applyStore bad line st.2.2
  let s := refused.foldl State.hbmUncorr { acc.1 with mem := m }
  (s, acc.2 ++ [(st.1, worseStatus st.2.1 (if refused.isEmpty then St.done else St.poisoned))])

/-- The entries of a station without those of a line. -/
def Station.withoutLine (x : Station) (line : Nat) : Station := { x with combine := x.combine.filter fun d => d.line != line }

theorem State.writeHbmEntry_stores (s : State) (n : Nat) (c : Combine) :
    s.writeHbmEntry n c =
      (c.stores.foldl (hbmStore s.mem.hbmPoison c.line) (s.updStn n (·.withoutLine c.line), [])).2.foldl
        (fun s r => s.storeWritten n r.1 r.2)
        (c.stores.foldl (hbmStore s.mem.hbmPoison c.line) (s.updStn n (·.withoutLine c.line), [])).1 := rfl

/-- What the stores of an entry of module memory leave alone. -/
theorem hbmStores_keep (bad : List Nat) (line : Nat) (l : List (Packet × Byte × SMap Byte))
    (acc : State × List (Packet × Byte)) (ha : acc.2 = []) :
    (l.foldl (hbmStore bad line) acc).1.tiles = acc.1.tiles ∧
      (l.foldl (hbmStore bad line) acc).1.stations = acc.1.stations ∧
      ∀ r ∈ (l.foldl (hbmStore bad line) acc).2, ∃ st ∈ l, r.1 = st.1 := by
  refine List.foldlRecOn _ _ (motive := fun a : State × List (Packet × Byte) => a.1.tiles = acc.1.tiles ∧
    a.1.stations = acc.1.stations ∧ ∀ r ∈ a.2, ∃ st ∈ l, r.1 = st.1) ⟨rfl, rfl, by rw [ha]; nofun⟩ fun a ha st hst => ?_
  obtain ⟨a1, a2, a3⟩ := ha
  refine ⟨(foldl_same State.tiles State.hbmUncorr (fun _ _ => rfl) _ _).trans a1,
    (foldl_same State.stations State.hbmUncorr (fun _ _ => rfl) _ _).trans a2, fun r hr => ?_⟩
  obtain hr | hr := List.mem_append.mp hr
  · exact a3 r hr
  · exact ⟨st, hst, by rw [List.mem_singleton.mp hr]⟩

/-- What writing an entry of module memory leaves alone, and that the entry is gone. -/
theorem State.writeHbmEntry_keep (s : State) {n : Nat} {c : Combine} (hc : ∀ st ∈ c.stores, cKind st.1.dst ≠ 0)
    (hm : (s.stn n).msgs = []) :
    (∀ k, (s.writeHbmEntry n c).tile k = s.tile k) ∧ (∀ e ∈ ((s.writeHbmEntry n c).stn n).combine, e.line ≠ c.line) ∧
      ((s.writeHbmEntry n c).stn n).msgs = [] := by
  rw [State.writeHbmEntry_stores]
  obtain ⟨h1, h2, h3⟩ := hbmStores_keep s.mem.hbmPoison c.line c.stores (s.updStn n (·.withoutLine c.line), []) rfl
  have hs0 : ∀ u : State, u.stations = (s.updStn n (·.withoutLine c.line)).stations → u.stn n = (s.stn n).withoutLine c.line :=
    fun u hu => (congrArg (fun m => mget ({} : Station) m n) hu).trans (State.stn_setStn_same _ _ _)
  refine List.foldlRecOn _ _ (motive := fun u : State => (∀ k, u.tile k = s.tile k) ∧
    (∀ e ∈ (u.stn n).combine, e.line ≠ c.line) ∧ (u.stn n).msgs = [])
    ⟨fun k => congrArg (fun m => mget ({} : Tile) m k) h1, ?_, ?_⟩ fun u hu r hr => ?_
  · rw [hs0 _ h2]
    intro e he
    simpa using (List.mem_filter.mp he).2
  · rw [hs0 _ h2]
    exact hm
  · obtain ⟨u1, u2, u3⟩ := hu
    obtain ⟨st, hst, hrst⟩ := h3 r hr
    obtain ⟨w1, w2, w3⟩ := u.storeWritten_hbm n r.2 (hrst ▸ hc st hst)
    exact ⟨fun k => (w1 k).trans (u1 k), lines_ne w2 u2, w3 u3⟩

/-! ## The command -/

/-- Settles O33: the entry leaves its table, its stores give their bytes one after another, and each is answered. -/
theorem combiningEntryIsWritten : Obligations.CombiningEntryIsWritten := by
  intro s n due
  refine ⟨fun t c hdue htile hst hm => ?_, fun c hdue htile hst hm => ?_, fun hdue htile => next_congr ?_⟩
  · obtain rfl := State.dueTileEntry_station htile
    have hsided : ∀ st ∈ c.stores, Sided st.2.2 := fun st h => (hst st h).2.2.1
    obtain ⟨h1, h2, h3, h4⟩ := s.writeTileEntry_keep (c := c) (fun st h => ⟨(hst st h).1, (hst st h).2.1⟩) hm
    have hs0 : ∀ b, mget 0 ((s.updTile t (·.withoutLine c.line)).tile t).sram b = mget 0 (s.tile t).sram b := fun b => by
      rw [State.updTile, State.tile_setTile_same]
      rfl
    refine ⟨s.writeTileEntry t c, next_congr ?_, h2, fun hp b => ?_, fun p bs hp hc hk hno => ?_, fun b hb => ?_, h1⟩
    · rw [show oldestDue s.ht _ = none from hdue, htile]
      exact State.msgSweep_nil h3
    · rw [h4, hp, overlay_one]
      by_cases hb : b / 64 = c.line
      · rw [if_pos hb]
        exact entryStores_in hb hsided _ _ none (hs0 b)
      · rw [if_neg hb]
        exact (entryStores_out hb hsided _).trans (hs0 b)
    · obtain ⟨hd, ht, -⟩ := hst (p, St.done, bs) (hc ▸ List.mem_cons_self)
      exact State.writeTileEntry_one hp hc hk hd ht hno
    · rw [h4]
      exact (entryStores_out hb hsided _).trans (hs0 b)
  · obtain ⟨h1, h2, h3⟩ := s.writeHbmEntry_keep hst hm
    refine ⟨s.writeHbmEntry n c, next_congr ?_, h2, h1⟩
    rw [show oldestDue s.ht _ = some c from hdue]
    cases hd : s.dueTileEntry n with
    | none => exact State.msgSweep_nil h3
    | some e => exact (if_pos (htile _ _ hd)).trans (State.msgSweep_nil h3)
  · rw [show oldestDue s.ht _ = none from hdue, htile]

end Sys2Proof.Machine
end

section
/-! SUPPORT. Atomics and the Mire (R235 to R237, R242 to R247). -/

namespace Sys2Proof.Machine

/-- R235: the operations without a prior value, by their code. -/
theorem atomicReturns_eq (op : Byte) (l : List Byte) :
    (if atomicReturns op.toNat then l else []) = if op = 1 ∨ op = 10 ∨ op = 11 then [] else l := by
  have hb : ∀ k : Byte, op = k ↔ op.toNat = k.toNat := fun k => BitVec.toNat_eq
  by_cases h : op = 1 ∨ op = 10 ∨ op = 11
  · rw [if_pos h, if_neg]
    simpa [atomicReturns, hb, or_iff_not_imp_left] using h
  · rw [if_neg h, if_pos]
    simpa [atomicReturns, hb, not_or, and_assoc] using h

/-- R236, R244, R246 ATOMIC_APPLY at an atomic that its station takes and that no line holds back. -/
theorem exec_atomicApply {s u : State} {n : Nat} {f : Flight} {w : BitVec 256} (hw : (s.stn n).atomicWait = [])
    (ht : s.takeDest n (fun q => q.kind == kATOMIC) = some f) (hc : s.checkReq n f.pkt = .pass w)
    (hl : s.lineOpen n f.pkt w = false) (hu : (s.dropPkt f.seq).atomicDecide n f.pkt w = some u) :
    exec (.atomicApply n) s = .next u := by
  refine next_congr ?_
  rw [hw]
  dsimp only
  rw [ht]
  dsimp only
  rw [hc]
  refine (if_neg (ne_true_of_eq_false hl)).trans ?_
  rw [hu]

/-- R244: an atomic that the Mire knows is answered from its entry. -/
theorem State.atomicDecide_known {s : State} {n : Nat} {p : Packet} {e : MireEnt} (w : BitVec 256)
    (h : ((s.stn n).mire.find? fun e => e.src == p.src && e.txid == p.txid) = some e) :
    s.atomicDecide n p w = some ((s.updStn n fun x => { x with replay := (x.replay + 1) % 2 ^ 32 }).answer n p
      St.replayed e.result) := by
  rw [State.atomicDecide, h]

/-- R244: an atomic that the Mire does not know, and that is not stale, is applied where an entry is free. -/
theorem State.atomicDecide_run {s : State} {n : Nat} {p : Packet} (w : BitVec 256)
    (h : ((s.stn n).mire.find? fun e => e.src == p.src && e.txid == p.txid) = none)
    (hs : s.atomicStale n p = false) (hf : (s.stn n).mire.length < 65536) :
    s.atomicDecide n p w = some (s.atomicRun n p w) := by
  have hfull : (s.stn n).mireFull = false := decide_eq_false (Nat.not_le.mpr hf)
  rw [State.atomicDecide, h]
  dsimp only
  rw [hs, hfull]
  rfl

/-- R236: the atomic of a tile without an uncorrectable word in its range. -/
theorem State.atomicRun_tile {s : State} {n : Nat} {p : Packet} {w : BitVec 256} (hk : wKind w = 1)
    (hb : (s.tile (destTile p.dst)).badWord (winAddr w p.va) (Packet.width p) = none) :
    let a := winAddr w p.va
    let x := s.tile (destTile p.dst)
    let prior := x.rmem a (Packet.width p)
    let back := if p.op = 1 ∨ p.op = 10 ∨ p.op = 11 then [] else prior
    let y := if Packet.width p = 4 then x else x.noteCorr a (Packet.width p)
    s.atomicRun n p w = ((s.setTile (destTile p.dst) ((y.wmem a (atomicNew p prior).1).orFlags
      (atomicNew p prior).2)).mireInsert n p back).replyAt n p St.done back := by
  intro a x prior back y
  have hy : y.rmem a (Packet.width p) = prior := by
    by_cases h4 : Packet.width p = 4
    · rw [show y = x from if_pos h4]
    · rw [show y = x.noteCorr a (Packet.width p) from if_neg h4, Tile.noteCorr_rmem]
  rw [State.atomicRun, if_pos hk]
  dsimp only
  rw [hb]
  dsimp only
  rw [hy, atomicReturns_eq]

/-- R235: a compare-and-swap writes its second operand where the first is the prior value, and the prior value back
where it is not. -/
theorem atomicNew_cas {p : Packet} (h : p.op = 6) (prior : List Byte) :
    atomicNew p prior =
      (if p.payload.take (Packet.width p) = prior then p.payload.drop (Packet.width p) else prior, 0) := by
  rw [atomicNew, h]
  rfl

/-- Settles O34: ATOMIC_APPLY decides by the Mire, and each of the other commands is one filter. -/
theorem atomicsAreAppliedOnce : Obligations.AtomicsAreAppliedOnce := by
  intro s n f w p gone known a t x k prior back
  refine ⟨fun hw ht hc hl => ⟨fun e hk => exec_atomicApply hw ht hc hl (State.atomicDecide_known w hk),
    fun hk hs hf hkind hb => ?_⟩, fun old v => ⟨rfl, rfl, rfl, rfl, rfl⟩, fun h he => ?_, fun h he => ?_, rfl,
    fun e he => next_congr ?_, _, rfl, fun e => ?_⟩
  · exact (exec_atomicApply hw ht hc hl (State.atomicDecide_run w hk hs hf)).trans
      (next_congr (State.atomicRun_tile hkind hb))
  · rw [atomicNew_cas h, if_pos he]
  · rw [atomicNew_cas h, if_neg he]
  · rw [he]
    rfl
  · rw [List.mem_filter]
    simp [imp_iff_not_or]

end Sys2Proof.Machine
end

section
/-! SUPPORT. Responses at a tile's station (R40, R210, R231, R232, R235). -/

namespace Sys2Proof.Machine

section
variable {s : State} {n kind dk : Nat} {f : Flight} {tile : State → Nat → Desc → Packet → State}
  {host : State → Nat → Packet → State} (ht : s.takeDest n (fun q => q.kind == kind) = some f)
  (hd : cKind f.pkt.dst = 0)
include ht hd

/-- A response whose item its tile still has. -/
theorem State.rspArrive_item (hst : (s.tile (destTile f.pkt.dst)).st ≠ .fenced) {d : Desc}
    (hi : (s.tile (destTile f.pkt.dst)).itemOf dk f.pkt.txid = some d) :
    s.rspArrive n kind dk tile host = tile (s.dropPkt f.seq) (destTile f.pkt.dst) d f.pkt := by
  rw [State.rspArrive, ht]
  dsimp only
  rw [hd]
  refine (if_neg fun h => hst (eq_of_beq h)).trans ?_
  rw [show ((s.dropPkt f.seq).tile (destTile f.pkt.dst)).itemOf dk f.pkt.txid = some d from hi]

/-- R210: a response to a fenced tile is late. -/
theorem State.rspArrive_fenced (hst : (s.tile (destTile f.pkt.dst)).st = .fenced) :
    s.rspArrive n kind dk tile host = (s.dropPkt f.seq).lateRsp n := by
  rw [State.rspArrive, ht]
  dsimp only
  rw [hd]
  exact if_pos (beq_iff_eq.mpr hst)

end

/-- R32, R231: data that covers no uncorrectable word in part is written before its item ends. -/
theorem State.landData_ok {s : State} {t : Nat} {d : Desc} (st : Byte) {bs : List Byte} (hl : bs.length = d.len)
    (hb : (s.tile t).badPartial d.local_ d.len = none) :
    s.landData t d st bs = s.setTile t (((s.tile t).wmem d.local_ bs).endDesc d.id st) := by
  rw [State.landData, hl, hb]

/-- Settles O35: each response ends its item, its data written first. -/
theorem responsesEndTheirItem : Obligations.ResponsesEndTheirItem := by
  intro s n f p t gone x taken late ends hd
  refine ⟨fun d hst => ⟨fun ht hi => ?_, fun ht hi => next_congr (State.rspArrive_item ht hd hst hi), fun ht hi => ?_,
    fun ht hi => next_congr (State.rspArrive_item ht hd hst hi)⟩, fun hst =>
      ⟨fun ht => next_congr (State.rspArrive_fenced ht hd hst), fun ht => next_congr (State.rspArrive_fenced ht hd hst),
        fun ht => next_congr (State.rspArrive_fenced ht hd hst), fun ht => next_congr (State.rspArrive_fenced ht hd hst)⟩⟩
  · have go : exec (.loadRspArrive n) s = .next (gone.loadLand t d p) :=
      next_congr (State.rspArrive_item ht hd hst hi)
    refine ⟨fun h => go.trans (next_congr (if_pos h)),
      fun h hl => go.trans (next_congr ((if_neg (not_not_intro h)).trans (if_pos hl))),
      fun h hl hb => go.trans (next_congr ((if_neg (not_not_intro h)).trans ((if_neg (not_not_intro hl)).trans
        ((State.landData_ok (s := gone) _ hl hb).trans ?_))))⟩
    rw [h]
    rfl
  · have go : exec (.atomicRspArrive n) s = .next (gone.atomicLand t d p) :=
      next_congr (State.rspArrive_item ht hd hst hi)
    refine ⟨fun h => go.trans (next_congr (if_pos (by rw [h]; rfl))),
      fun h hr hl hb => go.trans (next_congr ((if_neg (by rw [h]; decide)).trans ((if_neg ?_).trans
        (State.landData_ok (s := gone) _ hl hb))))⟩
    rw [hr]
    exact not_not_intro hl

end Sys2Proof.Machine
end

section
/-! SUPPORT. Packets on their way: a packet of VC 2 in its output's turn, and the steps it takes (R190 to R208). -/

namespace Sys2Proof.Machine

/-! ## The turn of VC 2 (R195) -/

theorem flits_ne_zero (p : Packet) : p.flits ≠ 0 := by
  rw [Packet.flits, Packet.bytes, ceilDiv]
  omega

/-- R195: the bytes of VC2 in a window, of which a new one starts with none. -/
theorem Arb.enter_vc2Bytes (a : Arb) (w : Nat) : (a.enter w).vc2Bytes = if a.window = w then a.vc2Bytes else 0 := by
  unfold Arb.enter
  split <;> rfl

/-- R195: VC2 goes while it has link time left in the window. -/
theorem Arb.pick_vc2 {a : Arb} {w bytes : Nat} {head : Nat → Nat} {size : Nat} (hh : head 2 ≠ 0)
    (hs : (if a.window = w then a.vc2Bytes else 0) * 8 < bytes) :
    a.pick w bytes head size = some (2, { a.enter w with vc2Bytes := (a.enter w).vc2Bytes + size }) :=
  if_pos ⟨hh, by rw [Arb.enter_vc2Bytes]; exact hs⟩

/-! ## Received packets -/

theorem damaged_nil (p : Packet) : damaged p [] = p := rfl

/-- R186, R208: a sound packet is received. -/
theorem State.receive_sound {s : State} {n : Nat} {p : Packet} {k : State → State} (hc : crcOk p = true)
    (hm : malformed p = false) : s.receive n p k = k s := by
  rw [State.receive, hc, hm]
  rfl

/-- R54, R208: a sound packet crosses to a place that is not faulty. -/
theorem State.crossTo_sound {s : State} {n : Nat} {f : Flight} {pl : Place} (hb : s.placeBad pl = false)
    (hc : crcOk f.pkt = true) (hm : malformed f.pkt = false) :
    s.crossTo n f pl = (s.dropPkt f.seq).putVia pl f.pkt f.via := by
  refine (if_neg (ne_true_of_eq_false (show (s.dropPkt f.seq).placeBad pl = false from ?_))).trans ?_
  · cases pl <;> exact hb
  · cases pl with
    | router r i => exact State.receive_sound hc hm
    | _ => rfl

/-! ## Routers (R50, R195, R264) -/

/-- R264: a packet that is not for a gather of this module merges with none. -/
theorem State.mergeWith_none {s : State} {pl : Place} {f : Flight} (h : s.toGather f.pkt = false) (l : List Flight) :
    s.mergeWith pl f l = (f, []) := by
  refine List.foldlRecOn l _ (motive := fun acc : Flight × List Flight => acc = (f, [])) rfl ?_
  rintro _ rfl q _
  exact if_neg (by simp [h])

theorem State.toGather_kind {s : State} {p : Packet} (h : cKind p.dst ≠ 2) : s.toGather p = false := by
  simp [State.toGather, h]

/-- R50: a router of a die forwards where it is not faulty, has power and does not stand. -/
theorem exec_routerForward {s : State} {r : Router} {port vc : Nat} (hr : r ≠ .station26) (hb : s.routerBad r = false)
    (hp : (s.rgn (routerRegion r)).boot ≠ .off) (hs : (s.rgn (routerRegion r)).stands = false) :
    exec (.routerForward r port vc) s = .next (s.forward r port vc) := by
  have hno : ¬ (s.routerBad r || (s.rgn (routerRegion r)).boot == .off || (s.rgn (routerRegion r)).stands) = true := by
    simp [hb, hp, hs]
  cases r with
  | station26 => exact absurd rfl hr
  | _ => exact next_congr (if_neg hno)

/-- R195: the packet of VC 2 that a router sends in its turn. -/
theorem State.forward_vc2 {s : State} {r : Router} {port : Nat} {f : Flight} (hc : s.candidate r port 2 = some f)
    (hg : s.toGather f.pkt = false)
    (hs : (if (s.arb (routerKey r * 32 + port)).window = s.ht / 1000 then (s.arb (routerKey r * 32 + port)).vc2Bytes
      else 0) * 8 < s.outBytes r port) :
    ∃ a, s.forward r port 2 = (((s.setArb (routerKey r * 32 + port) a).updStn (routerStation r) fun x =>
      { x with collMerge := (x.collMerge + 0) % 2 ^ 32 }).crossTo (routerStation r) f (portLeads r port)) := by
  rw [State.forward]
  dsimp only
  split
  · next v a g hv hg' =>
    obtain rfl : f = g := Option.some.inj (hc.symm.trans hg')
    have h2 := (Arb.pick_vc2 (by simp only [hc]; exact flits_ne_zero _) hs).symm.trans hv
    obtain ⟨rfl, -⟩ := Prod.mk.inj (Option.some.inj h2)
    refine ⟨a, (if_neg (by simp)).trans ?_⟩
    rw [State.mergeWith_none hg]
    rfl
  · next h => exact (h 2 _ f (Arb.pick_vc2 (by simp only [hc]; exact flits_ne_zero _) hs) hc).elim

/-! ## Links and bond ports (R190, R194, R195) -/

/-- R195: an output sends the packet of VC 2 that is offered, in its turn. -/
theorem State.sendTurn_vc2 {s : State} {key bytes : Nat} {q : Nat → Option Flight} {f : Flight} (hq : q 2 = some f)
    (hs : (if (s.arb key).window = s.ht / 1000 then (s.arb key).vc2Bytes else 0) * 8 < bytes)
    (send : State → Flight → State) : ∃ a, s.sendTurn key bytes q send = send (s.setArb key a) f := by
  have hh : ∀ h : Nat → Nat, h 2 = f.pkt.flits → h 2 ≠ 0 := fun h he => he ▸ flits_ne_zero _
  rw [State.sendTurn]
  split
  · next hn => exact nomatch (Arb.pick_vc2 (hh _ (by simp only [hq])) hs).symm.trans hn
  · next v a hv =>
    obtain ⟨rfl, -⟩ := Prod.mk.inj (Option.some.inj ((Arb.pick_vc2 (hh _ (by simp only [hq])) hs).symm.trans hv))
    rw [hq]
    exact ⟨a, rfl⟩

/-- R195: the link time of a packet of VC 2 that has credit begins in its turn. -/
theorem State.linkTurn_vc2 {s : State} {src dst : Nat} {f : Flight} (ho : s.pairOpen src dst ≠ [])
    (hl : s.linkHead src dst 2 = some f)
    (hs : (if (s.arb (linkKey src dst)).window = s.ht / 1000 then (s.arb (linkKey src dst)).vc2Bytes else 0) * 8 <
      6250 * (s.pairOpen src dst).length) : ∃ a, s.linkTurn src dst = some (f, a) := by
  have hh : ∀ h : Nat → Nat, h 2 = f.pkt.flits → h 2 ≠ 0 := fun h he => he ▸ flits_ne_zero _
  rw [State.linkTurn, if_neg (by simpa using ho)]
  split
  · next hn => exact nomatch (Arb.pick_vc2 (hh _ (by simp only [hl])) hs).symm.trans hn
  · next v a hv =>
    obtain ⟨rfl, -⟩ := Prod.mk.inj (Option.some.inj ((Arb.pick_vc2 (hh _ (by simp only [hl])) hs).symm.trans hv))
    rw [hl]
    exact ⟨a, rfl⟩

/-! ## Stations (R194, R200, R226) -/

/-- R226: a packet for a tile of this module that has come to its station. -/
theorem State.arriveAt_tile {s : State} {n : Nat} {p : Packet} {via : Option Nat} (hm : cModule p.dst = s.cfg.module)
    (hk : cKind p.dst = 0) :
    s.arriveAt n p via = s.putPkt (if s.goesDown p then .bondDn (s.downPort p) else .dest n) p := by
  rw [State.arriveAt, if_neg (by simp [hm]), if_neg (by simp [hk])]
  split <;> rfl

/-- R488: a station without settings of the test block lets a packet leave as it is. -/
theorem State.perturb_unset {s : State} {n : Nat} (h : (s.stn n).tstVc = []) (p : Packet) :
    s.perturb n p = (s, some p) := by
  have hv : mget 0 (s.stn n).tstVc p.vc = 0 := by rw [h]; rfl
  have h0 : s.tstHit 0 = (s, false) := if_pos rfl
  rw [State.perturb, hv, show tstDrop 0 = 0 from rfl, show tstCorrupt 0 = 0 from rfl, h0]
  dsimp only
  rw [if_neg Bool.false_ne_true, h0]
  rfl

/-- R200: the route of a packet of VC 2 is direct. -/
theorem State.startTo_direct {s : State} {n d : Nat} {p : Packet} (hv : p.vc = 2) (ht : (s.stn n).tstVc = []) :
    s.startTo n d p none = s.putVia (.link n d d) p none := by
  have hdir : s.alwaysDirect p = true := by simp [State.alwaysDirect, hv]
  rw [State.startTo, State.route, if_pos hdir]
  dsimp only
  rw [State.launchTo, State.perturb_unset ht]
  rfl

/-- R226: the last station of a packet for a tile of this module whose endpoint is there. -/
theorem State.enterCheck_tile {s : State} {n : Nat} {p : Packet} (hm : cModule p.dst = s.cfg.module)
    (hk : cKind p.dst = 0) (he : s.endpointOk p.dst = true) : s.enterCheck n p = (s, some (cStation p.dst)) := by
  rw [State.enterCheck]
  cases kindIsRsp p.kind <;> simp [hm, hk, he]

/-- R194, R200: a packet of this module's tiles at its entering station. -/
theorem State.inject_tile {s : State} {n : Nat} {f : Flight} (hm : cModule f.pkt.dst = s.cfg.module)
    (hk : cKind f.pkt.dst = 0) (hsrc : cKind f.pkt.src ≠ 5) (he : s.endpointOk f.pkt.dst = true) :
    s.inject n f = if cStation f.pkt.dst = n then (s.dropPkt f.seq).arriveAt n f.pkt f.via
      else (s.dropPkt f.seq).startTo n (cStation f.pkt.dst) f.pkt f.via := by
  have hno : (s.dropPkt f.seq).noteInjected f.pkt = s.dropPkt f.seq := if_neg (by simp [hsrc])
  rw [State.inject]
  dsimp only
  rw [if_neg (by simp [State.heldBar2, hsrc]), hno, if_neg (by simp [hk]),
    State.enterCheck_tile (s := s.dropPkt f.seq) hm hk he]

/-- R143, R208: a sound packet for a tile of this module crosses the link to its last station. -/
theorem State.carry_tile {s : State} {src dst : Nat} {f : Flight} (hf : f.place = .link src dst dst)
    (hm : cModule f.pkt.dst = s.cfg.module) (hk : cKind f.pkt.dst = 0) (hc : crcOk f.pkt = true)
    (hw : malformed f.pkt = false) (hl : ∀ c ∈ s.pairOpen src dst, (s.stn dst).unlocked.contains c = false) :
    s.carry src dst f [] = ((s.dropPkt f.seq).putPkt
      (if s.goesDown f.pkt then .bondDn (s.downPort f.pkt) else .dest dst) f.pkt).holdCredit (linkKey src dst)
        s.fabric.seq := by
  have hno : ((s.dropPkt f.seq).pairOpen src dst).any (fun c => ((s.dropPkt f.seq).stn dst).unlocked.contains c) = false :=
    List.any_eq_false.mpr fun c h => ne_true_of_eq_false (hl c h)
  rw [State.carry]
  rw [hno, damaged_nil, if_neg Bool.false_ne_true, State.receive_sound hc hw, hf]
  refine congrArg (State.holdCredit · (linkKey src dst) s.fabric.seq) ((if_pos rfl).trans ?_)
  exact State.arriveAt_tile (s := s.dropPkt f.seq) hm hk

/-- The places that a packet keeps a link's credit at. -/
theorem holdCredit_pkts (s : State) (link since : Nat) :
    (s.holdCredit link since).fabric.pkts = s.fabric.pkts.map fun g => match g.place with
      | .entry _ => g
      | _ => if since ≤ g.seq then { g with credit := link } else g := by
  refine congrArg (fun h => List.map h s.fabric.pkts) (funext fun g => ?_)
  cases g.place <;> rfl

/-- R184, R389: a sound packet that ends in a chiplet's stream, from its own coordinate and of an admitted job. -/
theorem State.recvStream_one {s : State} {n : Nat} {data : List Byte} {p : Packet} {rest : Option (List Byte)}
    (hst : (s.site n).st = 3) (hun : unpack (s.site n).rx data = ([p], rest)) (hc : crcOk p = true)
    (hw : malformed p = false) (hm : cModule p.src = s.cfg.module) (hn : cStation p.src = n)
    (hjob : p.job ∈ (s.site n).jobs) (hrsp : kindIsRsp p.kind = false) (hat : p.kind ≠ kATOMIC) :
    s.recvStream n data =
      (s.setSite n { s.site n with rx := rest }).putPkt (.entry n) (setIssue p (ht32 (s.stnHt n))) := by
  rw [State.recvStream, hun, List.foldl_cons, List.foldl_nil, State.recvChiplet, State.site_setSite_same,
    if_neg (not_not_intro hst), State.receive_sound hc hw]
  dsimp only
  rw [if_neg (by simp [hm, hn, hjob]), hrsp, if_neg Bool.false_ne_true, if_neg (by simpa using hat)]
  rfl

/-- R54: which tile stands at a site has nothing to do with the faults of its region. -/
theorem State.tileAtSite_updRgn (s : State) (rk site : Nat) {g : Region → Region} (h1 : ∀ x, (g x).spareMap = x.spareMap)
    (h2 : ∀ x, (g x).spares = x.spares) : (s.updRgn rk g).tileAtSite rk site = s.tileAtSite rk site := by
  simp only [State.tileAtSite, State.updRgn, State.rgn_setRgn_same, Region.siteOf, h1, h2]

/-- R25: a fault of the router island at a running tile's site. -/
theorem State.islandFault_running {s : State} {rk site t : Nat} (h : s.tileAtSite rk site = some t)
    (hr : (s.tile t).st = .running) : s.islandFault rk site = s.tileFault t .router := by
  rw [State.islandFault, h]
  exact if_neg (by rw [hr]; decide)

/-- Settles O36: each hop of a packet of VC 2, the packets that come in from outside, and the faults of routers. -/
theorem packetsMoveAndAreChecked : Obligations.PacketsMoveAndAreChecked := by
  intro s f p movedVia share sound
  refine ⟨fun r port hr hb hp hst hc hk hpl hs hsh => ?_, fun n hpick hm hk hsrc hv he hvia htst => ⟨fun hn => ?_, fun hn => ?_⟩,
    fun src dst hf hm hk hopen hquiet hne hlock hs hcase => ?_, fun src dst errs h => next_congr (if_pos ?_),
    fun r hup hhead hsh => ⟨fun errs hbad => ?_, fun hs => ?_⟩, fun r hdn hst hhead hbad hs hsh => ?_,
    fun hs hm hstn => next_congr ?_, fun n data rest hst hun hs hm hstn hjob hrsp hat => next_congr ?_,
    fun rk => ⟨_, rfl, ?_, fun g => ?_⟩, fun rk site t hat hrun => ?_⟩
  · obtain ⟨a, ha⟩ := State.forward_vc2 hc (State.toGather_kind hk) hsh
    exact ⟨_, (exec_routerForward hr hb hp hst).trans (next_congr (ha.trans (State.crossTo_sound
      (by cases h : portLeads r port <;> rw [h] at hpl <;> exact hpl) hs.1 hs.2))), rfl, rfl⟩
  · refine ⟨_, next_congr (Eq.trans ?_ (State.arriveAt_tile (s := s.dropPkt f.seq) (n := n) (via := f.via) hm hk)), ?_⟩
    · rw [hpick]
      exact (State.inject_tile hm hk hsrc he).trans (if_pos hn)
    · rfl
  · refine ⟨_, next_congr (Eq.trans ?_ (State.startTo_direct (s := s.dropPkt f.seq) hv htst)), rfl⟩
    rw [hpick]
    refine (State.inject_tile hm hk hsrc he).trans ((if_neg hn).trans ?_)
    rw [hvia]
  · have hgo : ¬ (!s.fabric.planeOpen || s.fabric.quiet) = true := by simp [hopen, hquiet]
    obtain ⟨hstop, hl, hsh⟩ | ⟨hstop, hpick⟩ := hcase
    · obtain ⟨a, ha⟩ := State.linkTurn_vc2 hne hl hsh
      refine ⟨_, next_congr ((if_neg hgo).trans ((if_neg (by simp [hstop])).trans (Eq.trans ?_
        (State.carry_tile (s := s.setArb (linkKey src dst) a) hf hm hk hs.1 hs.2 hlock)))), holdCredit_pkts _ _ _⟩
      rw [ha]
    · refine ⟨_, next_congr ((if_neg hgo).trans ((if_pos hstop).trans (Eq.trans ?_
        (State.carry_tile (s := s) hf hm hk hs.1 hs.2 hlock)))), holdCredit_pkts _ _ _⟩
      exact congrArg (fun o : Option Flight => match o with | none => s | some f => s.carry src dst f []) hpick
  · obtain h | h := h <;> simp [h]
  · obtain ⟨a, ha⟩ := State.sendTurn_vc2 (key := 2 ^ 29 + r) (q := fun v => (s.bondBuffer r v).head?) hhead hsh _
    refine ⟨_, next_congr ((if_neg (by simp [hup])).trans (ha.trans (if_pos (by rw [hbad]; rfl)))), rfl, ?_⟩
    exact congrArg Station.pktCrc (State.stn_setStn_same _ _ _)
  · obtain ⟨a, ha⟩ := State.sendTurn_vc2 (key := 2 ^ 29 + r) (q := fun v => (s.bondBuffer r v).head?) hhead hsh _
    exact ⟨_, next_congr ((if_neg (by simp [hup])).trans (ha.trans (State.receive_sound hs.1 hs.2))), rfl⟩
  · obtain ⟨a, ha⟩ := State.sendTurn_vc2 (key := 2 ^ 29 + 2 ^ 10 + r) hhead hsh _
    exact ⟨_, next_congr ((if_neg (by simp [hdn, hst])).trans (ha.trans (State.crossTo_sound hbad hs.1 hs.2))), rfl⟩
  · refine (State.receive_sound hs.1 hs.2).trans (if_neg ?_)
    simp [hm, hstn]
  · exact State.recvStream_one hst hun hs.1 hs.2 hm hstn hjob hrsp hat
  · exact congrArg Region.badRegionRouter (State.rgn_setRgn_same _ _ _)
  · refine List.mem_filter.trans (and_congr_right fun _ => ?_)
    cases g.place with
    | router q i => simp
    | _ => simp
  · have hsite := (State.tileAtSite_updRgn { s with fabric := { s.fabric with
        pkts := s.fabric.pkts.filter fun f => match f.place with
          | .router q _ => decide (q ≠ .tile rk site)
          | _ => true } } rk site (g := fun g => { g with badTileRouters := addSorted site g.badTileRouters })
      (fun _ => rfl) (fun _ => rfl)).trans hat
    refine ⟨_, next_congr (State.islandFault_running hsite hrun), ?_⟩
    rw [State.tile_tileFault]
    obtain ⟨h1, h2, -, h4, -⟩ := (s.tile t).faulted_keeps .router
    exact ⟨h1, h2, h4⟩

end Sys2Proof.Machine
end
section
/-! SUPPORT. Maintenance, timed packets and messages (R136, R143, R172, R204 to R207, R358). -/

namespace Sys2Proof.Machine

/-! ## Maintenance (R143) -/

/-- R391: the sites that become present touch nothing of the fabric. -/
theorem State.presentSites_fabric (s : State) : s.presentSites.fabric = s.fabric := by
  refine foldl_same State.fabric _ (fun s n => ?_) [27, 28, 29, 30] s
  split <;> rfl

/-- R143: the marking of the packets whose link time has begun leaves the idle pattern alone. -/
theorem State.markBegun_quiet (s : State) : s.markBegun.fabric.quiet = s.fabric.quiet := by
  unfold State.markBegun
  split
  · rfl
  · refine foldl_same (fun s : State => s.fabric.quiet) _ (fun u f => ?_) s.fabric.pkts s
    split
    · split
      · split <;> rfl
      · rfl
    · rfl

/-! ## Held packets (R172) -/

theorem State.chargeHall_keeps (s : State) (port : Nat) (p : Packet) :
    (s.chargeHall port p).out = s.out ∧ (s.chargeHall port p).fabric.pkts = s.fabric.pkts ∧
      (s.chargeHall port p).stations = s.stations := by
  unfold State.chargeHall
  split <;> exact ⟨rfl, rfl, rfl⟩

/-- R172: a packet leaves on its hall port as it is where station 26 has no settings of the test block. -/
theorem State.leaveHall_unset {s : State} (h : (s.stn 26).tstVc = []) (port : Nat) (p : Packet) :
    s.leaveHall port p = s.emit (.hallTx port p) := by
  rw [State.leaveHall, State.perturb_unset h]

/-! ## Messages (R204 to R207) -/

/-- R205: the only message of a station, not yet whole, waits for its other packets. -/
theorem State.msgSweep_waiting {s : State} {n : Nat} {e : MsgEntry} (h : (s.stn n).msgs = [e]) (hg : e.got < e.count) :
    s.msgSweep n = s := by
  have hstep : s.msgStep n e = s := if_pos (by simp [hg])
  simp [State.msgSweep, h, hstep]

/-- R206: a packet is counted in the entry of its message. -/
theorem State.msgCount_only {s : State} {n : Nat} {p : Packet} {e : MsgEntry} (h : (s.stn n).msgs = [e])
    (hs : e.src = p.src) (ht : e.txid = p.txid) (st : Byte) (held : Option Packet) :
    ((s.msgCount n p st held).stn n).msgs = [{ e with
      got := e.got + 1
      minHt := if older p.issueHt e.minHt then p.issueHt else e.minHt
      status := worseStatus e.status st
      held := held.orElse fun _ => e.held }] := by
  rw [State.msgCount, State.updMsg, State.updStn, State.stn_setStn_same, h, List.map_cons, List.map_nil,
    if_pos (by simp [hs, ht])]

/-- R205: a packet of a message in progress that is accepted is counted. -/
theorem State.msgArrive_accepted {s s' : State} {n : Nat} {f : Flight} {e : MsgEntry} {w : BitVec 256}
    (hk : f.pkt.kind = kMSG) (hc : s.checkMsg n f.pkt = .pass w) (hl : f.pkt.last = false)
    (hb : s.behindAtomic n f.pkt w (·.before f) = false) (ha : (s.dropPkt f.seq).accept n f.pkt w = some s')
    (he : (s.stn n).msgOf f.pkt = some e) :
    s.msgArrive n f = (s'.msgCount n f.pkt St.done none).msgSweep n := by
  rw [State.msgArrive, hc]
  dsimp only
  rw [he, Option.isNone_some, Bool.false_and, if_neg Bool.false_ne_true, if_neg Bool.false_ne_true,
    if_neg (by rw [hl, hk]; simp [kMSG, kGNG_PUSH]), if_neg (by simp [hb]), ha]

/-- R165, R205: what a failed event of a message counts at its tile. -/
theorem Tile.countEvent_fail {x : Tile} (h : x.st ≠ .fenced) (c : Nat) :
    (x.countEvent c true).rc c = x.rc c + 1 ∧ (x.countEvent c true).failCnt = satInc 65535 x.failCnt := by
  rw [Tile.countEvent, if_neg fun hb => h (eq_of_beq hb)]
  exact ⟨mget_mset_same _ _ _ _, rfl⟩

/-- R207: what is left of an entry's expiry in the tables of its station and of its tile. -/
theorem State.endChip_keeps (s : State) (n : Nat) (e : MsgEntry) :
    (s.endChip n e).stations = s.stations ∧ (s.endChip n e).tiles = s.tiles := by
  unfold State.endChip
  split <;> exact ⟨rfl, rfl⟩

/-- R207: the state once an entry is freed and counted, before its tile and Peat hear of it. -/
def State.msgFreed (s : State) (n : Nat) (e : MsgEntry) : State :=
  ((s.dropMsg n e.src e.txid).endChip n e).updStn n fun x => { x with msgExp := satInc 65535 x.msgExp }

theorem State.msgFreed_stn (s : State) (n : Nat) (e : MsgEntry) :
    ((s.msgFreed n e).stn n).msgExp = satInc 65535 (s.stn n).msgExp ∧
      ((s.msgFreed n e).stn n).msgs = (s.stn n).msgs.filter fun g => !(g.src == e.src && g.txid == e.txid) := by
  have h : ((s.dropMsg n e.src e.txid).endChip n e).stn n = (s.dropMsg n e.src e.txid).stn n :=
    congrArg (fun m => mget ({} : Station) m n) (State.endChip_keeps _ n e).1
  rw [State.msgFreed, State.updStn, State.stn_setStn_same, h, State.dropMsg, State.updStn, State.stn_setStn_same]
  exact ⟨rfl, rfl⟩

theorem State.msgFreed_tile (s : State) (n : Nat) (e : MsgEntry) (t : Nat) : (s.msgFreed n e).tile t = s.tile t :=
  congrArg (fun m => mget ({} : Tile) m t) (State.endChip_keeps (s.dropMsg n e.src e.txid) n e).2

/-- R207: the failed event of a freed entry is counted at its tile. -/
def State.msgFailed (s : State) (n : Nat) (e : MsgEntry) : State :=
  if e.notify && cKind e.dst == 0 then (s.msgFreed n e).updTile (destTile e.dst) fun x => x.countEvent e.ctr true
  else s.msgFreed n e

theorem State.msgFailed_stn (s : State) (n : Nat) (e : MsgEntry) (k : Nat) :
    (s.msgFailed n e).stn k = (s.msgFreed n e).stn k := by
  unfold State.msgFailed
  split <;> rfl

/-- R207 MSG_ENTRY_EXPIRE at an entry that has outlived its span. -/
theorem exec_msgEntryExpire {s : State} {n : Nat} {e : MsgEntry}
    (he : ((s.stn n).msgs.find? fun e => e.got < e.count && decide ((s.fabric.msgSpan + s.fabric.ageMax) * 1000 <
      pktAge (ht32 (s.stnHt n)) e.minHt)) = some e) :
    exec (.msgEntryExpire n) s = .next ((s.msgFailed n e).recStn 0x5003 ((s.msgFailed n e).partOfJob e.job) n
      (leBytes 4 e.src.toNat ++ leBytes 4 e.txid.toNat)) := by
  refine next_congr ?_
  dsimp only
  rw [he]
  rfl

/-- Settles O37, command by command. -/
theorem maintenanceTimedPacketsAndMessages : Obligations.MaintenanceTimedPacketsAndMessages := by
  intro s n
  refine ⟨fun c hc => next_congr ?_, fun c hc => ⟨_, rfl, ?_⟩, fun c => ⟨_, rfl, ?_⟩,
    fun h => ⟨_, next_congr (if_pos (decide_eq_true h)), ?_⟩, fun h => ⟨_, next_congr (if_pos h), rfl, rfl⟩,
    fun port f hf htst => ?_, fun f e w s' ht hk hd hc hw hl hb ha hm' hm hsrc htx hg hh => ?_, fun e he => ?_⟩
  · exact congrArg (s.setStn n) (if_neg (ne_true_of_eq_false hc))
  · exact (State.stn_setStn_same _ _ _).trans (if_pos hc)
  · rw [State.updStn, State.stn_setStn_same]
    refine ⟨by simp, fun k hk => ?_⟩
    simp [hk]
  · rw [State.presentSites_fabric]
    exact ⟨rfl, s.markBegun_quiet⟩
  · obtain ⟨h1, h2, h3⟩ := s.chargeHall_keeps port f.pkt
    refine ⟨((s.chargeHall port f.pkt).dropPkt f.seq).emit (.hallTx port f.pkt), next_congr ?_, ?_, ?_⟩
    · dsimp only
      split
      · next h => exact nomatch hf.symm.trans h
      · next g h =>
        obtain rfl : f = g := Option.some.inj (hf.symm.trans h)
        refine State.leaveHall_unset ?_ port f.pkt
        exact (congrArg (fun m => (mget ({} : Station) m 26).tstVc) h3).trans htst
    · exact congrArg (· ++ [Out.hallTx port f.pkt]) h1
    · exact congrArg (List.filter fun g => g.seq != f.seq) h2
  · have hfind : (s.stn n).msgOf f.pkt = some e := by
      rw [Station.msgOf, hm, List.find?_cons_of_pos (by simp [hsrc, htx])]
    have hcount := State.msgCount_only (p := f.pkt) hm' hsrc htx St.done none
    refine ⟨_, next_congr (Eq.trans ?_ (State.msgSweep_waiting hcount hg)), hcount⟩
    rw [show s.takeDest n _ = some f from ht]
    exact State.msgArrive_accepted hk hc hl hb ha hfind
  · obtain ⟨h1, h2⟩ := s.msgFreed_stn n e
    refine ⟨_, exec_msgEntryExpire he, ?_, fun g => ?_, fun hn hd hst => ?_⟩
    · exact (congrArg Station.msgExp (s.msgFailed_stn n e n)).trans h1
    · rw [show (((s.msgFailed n e).recStn 0x5003 ((s.msgFailed n e).partOfJob e.job) n
        (leBytes 4 e.src.toNat ++ leBytes 4 e.txid.toNat)).stn n).msgs = _ from
          (congrArg Station.msgs (s.msgFailed_stn n e n)).trans h2, List.mem_filter]
      simp [imp_iff_not_or]
    · have htile : (s.msgFailed n e).tile (destTile e.dst) = (s.tile (destTile e.dst)).countEvent e.ctr true := by
        rw [State.msgFailed, if_pos (by simp [hn, hd]), State.updTile, State.tile_setTile_same, s.msgFreed_tile]
      obtain ⟨h3, h4⟩ := Tile.countEvent_fail hst e.ctr
      exact ⟨(congrArg (·.rc e.ctr) htile).trans h3, (congrArg Tile.failCnt htile).trans h4⟩

end Sys2Proof.Machine
end

section
/-! SUPPORT. Hall ports (R211 to R213, R219, R369). -/

namespace Sys2Proof.Machine

@[simp] theorem State.hall_recStn (s : State) (code : Nat) (p : Option Nat) (n : Nat) (bs : List Byte) (k : Nat) :
    (s.recStn code p n bs).hall k = s.hall k := rfl

/-- R213, R249: hashing the queued packets anew touches no port. -/
theorem State.rehash_hall (s : State) (n : Nat) : s.rehash.hall n = s.hall n := by
  refine foldl_same (fun s : State => s.hall n) _ (fun s f => ?_) s.fabric.pkts s
  cases f.place with
  | hall m =>
    dsimp only
    split
    · unfold State.bounce
      split <;> rfl
    · rfl
    · split
      · rfl
      · unfold State.queueHall
        dsimp only
        split <;> rfl
  | hallHeld g b =>
    dsimp only
    split
    · unfold State.bounce
      split <;> rfl
    · rfl
  | _ => rfl

/-- R249: no packet waits for a hall port, and none is hashed anew. -/
theorem State.rehash_none {s : State}
    (h : ∀ f ∈ s.fabric.pkts, ∀ m g b, f.place ≠ .hall m ∧ f.place ≠ .hallHeld g b) : s.rehash = s := by
  refine List.foldlRecOn _ _ (motive := fun u : State => u = s) rfl ?_
  rintro _ rfl f hf
  cases hp : f.place with
  | hall m => exact absurd hp (h f hf m 0 false).1
  | hallHeld g b => exact absurd hp (h f hf 0 g b).2
  | _ => rfl

/-- R213: a port that has signal and alignment is due at the first interval that begins after both. -/
theorem State.enterDue_now {s : State} (hf : s.time.st ≠ .free) : s.nextInterval s.ht = false := by
  have hno : (s.time.st == .free) = false := beq_eq_false_iff_ne.mpr hf
  rw [State.nextInterval, hno, Bool.false_or]
  refine Bool.eq_false_iff.mpr fun h => ?_
  obtain ⟨h1, h2⟩ := Bool.and_eq_true_iff.mp h
  have h3 : 63000 ≤ s.ht % 64000 := of_decide_eq_true h1
  have h4 : s.ht < s.ht / 64000 * 64000 + 63000 := of_decide_eq_true h2
  omega

/-- R213: nothing new is sensed at a port that had signal and alignment already. -/
theorem HallPort.sense_same {h : HallPort} (hl : h.los = false) (ha : h.aligned = true) (ht : Nat) :
    h.sense ht true true = h := by
  obtain ⟨⟩ := h
  simp_all [HallPort.sense]

end Sys2Proof.Machine
end

section
/-! SUPPORT. The Gingham map (R214, R215). -/

namespace Sys2Proof.Machine

/-- Updates at the keys `k i` of a list, no two equal. -/
theorem foldl_mupd_ne {src : Nat} (k : Nat → Nat) (v : Nat → Nat → Nat) (hk : ∀ i j, k i = k j → i = j)
    (l : List Nat) (hl : l.Nodup) (m : SMap Nat) (j : Nat) (hj : j ≠ src) :
    mget 0 (l.foldl (fun g i => if i = src then g else mupd 0 g (k i) (v i)) m) (k j) =
      if j ∈ l then v j (mget 0 m (k j)) else mget 0 m (k j) := by
  induction l generalizing m with
  | nil => rfl
  | cons a l ih =>
    obtain ⟨ha, hl⟩ := List.nodup_cons.mp hl
    rw [List.foldl_cons, ih hl]
    by_cases hja : j = a
    · subst hja
      rw [if_neg ha, if_pos List.mem_cons_self, if_neg hj, mupd, mget_mset_same]
    · have hstep : mget 0 (if a = src then m else mupd 0 m (k a) (v a)) (k j) = mget 0 m (k j) := by
        split
        · rfl
        · exact mget_mset_ne _ _ _ fun h => hja (hk _ _ h)
      rw [hstep]
      exact if_congr (by simp [hja]) rfl rfl

/-- R488: what the test block does to a packet touches nothing of the fabric. -/
theorem State.perturb_fabric (s : State) (n : Nat) (p : Packet) : (s.perturb n p).1.fabric = s.fabric := by
  have hit : ∀ (s : State) (k : Nat), (s.tstHit k).1.fabric = s.fabric := fun s k => by
    unfold State.tstHit
    split <;> rfl
  unfold State.perturb
  dsimp only
  split
  · exact hit _ _
  · split
    · exact (hit _ _).trans (hit _ _)
    · exact (hit _ _).trans (hit _ _)

/-- R214, R216: what the sample of the map leaves of the fabric: how many samples there were, and each how many a push goes. -/
def sampleCount (s : State) : Nat × Nat := (s.fabric.samples, s.fabric.gngPush)

theorem State.launchTo_samples (s : State) (src d : Nat) (p : Packet) (via : Option Nat) :
    sampleCount (s.launchTo src d p via) = sampleCount s := by
  have h := s.perturb_fabric src p
  unfold State.launchTo
  split
  · next u hu =>
    rw [hu] at h
    exact congrArg (fun x : Fabric => (x.samples, x.gngPush)) h
  · next u q hu =>
    rw [hu] at h
    exact (show _ = sampleCount u from rfl).trans (congrArg (fun x : Fabric => (x.samples, x.gngPush)) h)

/-- R215: sending the rows leaves the count alone. -/
theorem State.sendRow_samples (s : State) (src : Nat) : sampleCount (s.sendRow src) = sampleCount s := by
  refine foldl_same sampleCount _ (fun u d => ?_) dataStations s
  split
  · rfl
  · exact u.launchTo_samples ..

/-- R214, R220: sampling a row and showing a map leave the count alone. -/
theorem State.showMap_samples (s : State) (n : Nat) : sampleCount ((s.showMap n).sampleRow n) = sampleCount s := by
  have h : sampleCount (s.showMap n) = sampleCount s := by
    unfold State.showMap
    dsimp only
    split <;> rfl
  exact h

/-- R214, R216: one sample over a list of stations. -/
def State.sampleOver (l : List Nat) (s : State) : State :=
  let s := l.foldl (fun s n => (s.showMap n).sampleRow n) s
  let n := s.fabric.samples + 1
  let s := { s with fabric := { s.fabric with samples := n } }
  let s := l.foldl State.sendRow s
  if s.fabric.gngPush ≠ 0 ∧ n % s.fabric.gngPush = 0 then s.gngPush else s

/-- R214: one sample more, where none is pushed. -/
theorem State.sampleOver_samples (l : List Nat) {s : State} (hg : s.fabric.gngPush = 0) :
    (s.sampleOver l).fabric.samples = s.fabric.samples + 1 := by
  have h1 : sampleCount (l.foldl (fun s n => (s.showMap n).sampleRow n) s) = sampleCount s :=
    foldl_same sampleCount (fun s n => (s.showMap n).sampleRow n) (fun u n => u.showMap_samples n) l s
  have h2 : ∀ u : State, sampleCount (l.foldl State.sendRow u) = sampleCount u :=
    foldl_same sampleCount State.sendRow (fun u n => u.sendRow_samples n) l
  rw [State.sampleOver]
  generalize l.foldl (fun s n => (s.showMap n).sampleRow n) s = u at h1 ⊢
  dsimp only
  have h3 := h2 { u with fabric := { u.fabric with samples := u.fabric.samples + 1 } }
  obtain ⟨h4, h5⟩ := Prod.mk.inj h1
  obtain ⟨h6, h7⟩ := Prod.mk.inj h3
  rw [if_neg fun hc => hc.1 (h7.trans (h5.trans hg)), h6]
  exact congrArg (· + 1) h4

/-- R214 GNG_SAMPLE at its instant. -/
theorem exec_gngSample {s : State} (ht : s.ht % 10000 = 0) (hf : s.time.st ≠ .free) (hp : s.fabric.planeOpen = true) :
    exec .gngSample s = .next (s.sampleOver dataStations) :=
  next_congr (if_neg (by simp [ht, hf, hp]))

/-- R214: the own row of a station after a sample. -/
theorem State.sampleRow_level (s : State) {n d : Nat} (hd : d < 31) (hne : d ≠ n) :
    mget 0 ((s.sampleRow n).stn n).gng (31 * n + d) =
      (7 * mget 0 (s.stn n).gng (31 * n + d) + s.occupancy n d + 4) / 8 := by
  rw [State.sampleRow, State.updStn, State.stn_setStn_same]
  refine (foldl_mupd_ne (fun d => 31 * n + d) (fun d l => (7 * l + nth 0 ((List.range 31).map fun d =>
    if d = n then 0 else s.occupancy n d) d + 4) / 8) (fun _ _ h => Nat.add_left_cancel h) _ List.nodup_range _ d hne).trans ?_
  rw [if_pos (List.mem_range.mpr hd), nth, List.getD_eq_getElem _ _ (by simpa using hd), List.getElem_map,
    List.getElem_range, if_neg hne]

/-- Every port of a list set anew, once each. -/
theorem foldl_setHall (g : HallPort → HallPort) (l : List Nat) (hl : l.Nodup) (s : State) (k : Nat) :
    (l.foldl (fun s n => s.setHall n (g (s.hall n))) s).hall k = if k ∈ l then g (s.hall k) else s.hall k := by
  induction l generalizing s with
  | nil => rfl
  | cons a l ih =>
    obtain ⟨ha, hl⟩ := List.nodup_cons.mp hl
    rw [List.foldl_cons, ih hl]
    by_cases hk : k = a
    · subst hk
      rw [if_neg ha, if_pos List.mem_cons_self, State.hall_setHall_same]
    · rw [State.hall_setHall_ne _ _ hk]
      exact if_congr (by simp [hk]) rfl rfl

/-- R215 GNG_ROW_RECEIVE at a row that its station takes. -/
theorem exec_gngRowReceive {s : State} {n src : Nat} {f : Flight}
    (h : s.takeDest n (fun p => p.kind == kGNG_ROW && cStation p.src == src) = some f) :
    exec (.gngRowReceive n src) s = .next ((s.dropPkt f.seq).updStn n fun x => { x with
      gng := (List.range 31).foldl (fun g j => mset 0 g (31 * src + j) (nth 0 f.pkt.payload j).toNat) x.gng
      gngRowHt := mset 0 x.gngRowHt src s.ht
      gngSample := mset 0 x.gngSample src ((fullHt (s.stnHt n) f.pkt.issueHt + 5000) / 10000 * 10000)
      gngStale := x.gngStale.filter (· != src) }) := by
  refine next_congr ?_
  rw [h]

theorem mem_dataStations {n : Nat} (hn : n < 31) : n ∈ dataStations := List.mem_range.mpr hn

theorem dataStations_nodup : dataStations.Nodup := List.nodup_range

theorem State.gngRestart_samples (s : State) : s.gngRestart.fabric.samples = 0 := by
  unfold State.gngRestart
  generalize dataStations = l
  exact foldl_same (fun s : State => s.fabric.samples) (fun s n => s.updStn n fun x => { x with gng := [], gngShown := [] })
    (fun _ _ => rfl) l _

/-- R214: the restart empties every map. -/
theorem State.gngRestart_stn (s : State) {n : Nat} (hn : n < 31) : (s.gngRestart.stn n).gng = [] := by
  have hm := mem_dataStations hn
  have hd := dataStations_nodup
  unfold State.gngRestart
  generalize dataStations = l at hm hd ⊢
  dsimp only
  rw [foldl_updStn (fun _ x => { x with gng := [], gngShown := [] }) l hd, if_pos hm]

/-- R217: the counters of a station, cleared. -/
def Station.cleared (x : Station) : Station :=
  { x with discAge := 0, discFmt := 0, discNoent := 0, msgExp := 0, lateRsp := 0, adapt := 0 }

/-- R217: the counters of a hall port, cleared. -/
def HallPort.cleared (x : HallPort) : HallPort := { x with rsCorr := 0, rsUncorr := 0, disc := 0, down := 0 }

theorem State.pktClear_folds (s : State) : s.pktClear =
    hallPorts.foldl (fun s n => s.setHall n (s.hall n).cleared)
      (dataStations.foldl (fun s n => s.updStn n Station.cleared) s) := rfl

theorem State.pktClear_stn (s : State) {n : Nat} (hn : n < 31) : s.pktClear.stn n = (s.stn n).cleared := by
  have hm := mem_dataStations hn
  have hd := dataStations_nodup
  rw [State.pktClear_folds]
  generalize dataStations = l at hm hd ⊢
  generalize hallPorts = m
  exact (foldl_same (fun s : State => s.stn n) (fun s n => s.setHall n (s.hall n).cleared) (fun _ _ => rfl) m _).trans
    ((foldl_updStn (fun _ => Station.cleared) l hd s n).trans (if_pos hm))

theorem State.pktClear_hall (s : State) {n : Nat} (hn : n < 32) : s.pktClear.hall n = (s.hall n).cleared := by
  have hm : n ∈ hallPorts := List.mem_range.mpr hn
  have hd : hallPorts.Nodup := List.nodup_range
  rw [State.pktClear_folds]
  generalize dataStations = l
  generalize hallPorts = m at hm hd ⊢
  have h := foldl_same (fun s : State => s.hall n) (fun s k => s.updStn k Station.cleared) (fun _ _ => rfl) l s
  exact (foldl_setHall HallPort.cleared m hd _ n).trans ((if_pos hm).trans (congrArg HallPort.cleared h))

/-- Settles O38, command by command. -/
theorem hallPortsAndGinghamMap : Obligations.HallPortsAndGinghamMap := by
  intro s n h
  refine ⟨fun data pkts rest hen hun => ?_, fun data p rest hen hup hun hc hw hk => ?_, fun hen hup => ?_,
    fun hen hup hapr hsafe => ⟨fun hlos hal hdue => ?_, fun hlos hf => ?_⟩, fun hint hnone => ?_,
    fun hen hlos => next_congr (if_pos ?_), fun hen hapr hsafe => next_congr ?_,
    fun ht hf hp hg => ⟨_, exec_gngSample ht hf hp, State.sampleOver_samples _ hg⟩,
    fun d hn hd hne => s.sampleRow_level hd hne, fun src f j ht hj => ?_, fun src hne hst => next_congr (if_pos ⟨hne, hst⟩),
    fun w v hv hn => ?_, fun w v hv hn => ?_⟩
  · have hrun : exec (.hallCodewordReceive n .uncorrectable data) s = .next (s.setHall n { h with
        rx := none
        disc := satAdd 65535 h.disc ((unpack h.rx data).1.length + b2n ((unpack h.rx data).2.any fun part => !part.isEmpty))
        rsUncorr := satInc 65535 h.rsUncorr
        uncorrHt := (h.uncorrHt.filter fun t => s.ht < t + 1000) ++ [s.ht] }) :=
      next_congr (if_neg (by simp [show (s.hall n).enNow = true from hen]))
    refine ⟨_, hrun, ?_⟩
    rw [State.hall_setHall_same, hun]
    refine ⟨rfl, rfl, ?_, rfl⟩
    cases rest with
    | none => rfl
    | some part => cases part <;> rfl
  · refine next_congr ((if_neg (by simp [show (s.hall n).enNow = true from hen])).trans ?_)
    dsimp only
    rw [show unpack (s.hall n).rx data = _ from hun, if_neg (by simp [show (s.hall n).up = true from hup])]
    rw [List.foldl_cons, List.foldl_nil, State.hallPkt, if_neg (by simp [hc]), if_neg (by simp [hw]),
      if_neg (by simpa using hk)]
    rfl
  · refine ⟨_, next_congr ((if_neg (by simp [show (s.hall n).enNow = true from hen])).trans
      ((if_neg (by simp [show (s.hall n).up = true from hup])).trans (if_pos (.inl rfl)))), ?_⟩
    rw [State.rehash_hall, State.hall_recStn, State.hall_setHall_same]
    exact ⟨rfl, Bool.or_true _, rfl⟩
  · have hs : (s.hall n).sense s.ht true true = h := HallPort.sense_same hlos hal _
    have hno : ¬ (!(s.hall n).enNow || s.safe.shared || (s.hall n).up) = true := by
      simp [show (s.hall n).enNow = true from hen, hsafe, show (s.hall n).up = false from hup]
    have hno' : ¬ (!true || !true || (s.hall n).apr || !s.enterDue ((s.hall n).sense s.ht true true)) = true := by
      rw [hs, hdue, show (s.hall n).apr = false from hapr]
      decide
    refine ⟨_, next_congr ((if_neg hno).trans (if_neg hno')), ?_⟩
    rw [hs]
    have hst : ∀ u : State, u = (s.setHall n { h with up := true, listed := s.time.st == .free, uncorrHt := [] }).recStn
        0x5006 none 26 [BitVec.ofNat 8 n] → (if s.time.st == .free then u.rehash else u).hall n =
          { h with up := true, listed := s.time.st == .free, uncorrHt := [] } := by
      rintro u rfl
      split
      · rw [State.rehash_hall]
        exact State.hall_setHall_same _ _ _
      · exact State.hall_setHall_same _ _ _
    rw [hst _ rfl]
    exact ⟨rfl, hlos, hal⟩
  · have hs : (s.hall n).sense s.ht true true = { h with los := false, aligned := true, readyHt := s.ht } := by
      rw [HallPort.sense, show (s.hall n).los = true from hlos]
      rfl
    have hno : ¬ (!(s.hall n).enNow || s.safe.shared || (s.hall n).up) = true := by
      simp [show (s.hall n).enNow = true from hen, hsafe, show (s.hall n).up = false from hup]
    refine next_congr ((if_neg hno).trans ((if_pos ?_).trans (congrArg (s.setHall n) hs)))
    rw [hs, State.enterDue, State.enterDue_now hf]
    simp
  · have hre : ∀ x, (s.setHall n x).rehash = s.setHall n x := fun x => State.rehash_none hnone
    refine next_congr ((if_neg (by simp [show s.nextInterval (s.hall n).cfgHt = true from hint])).trans ?_)
    rw [hre, hre, hre]
    by_cases hen : h.en = true
    · have h1 : ¬ (!(s.hall n).en) = true := by simp [show (s.hall n).en = true from hen]
      have h2 : ¬ h.en = false := by simp [hen]
      by_cases hc : h.enNow = true ∨ s.safe.shared = true
      · exact (if_neg h1).trans ((if_pos (by simpa using hc)).trans
          (congrArg (s.setHall n) ((if_neg h2).trans (if_pos hc)).symm))
      · exact (if_neg h1).trans ((if_neg (by simpa using hc)).trans
          (congrArg (s.setHall n) ((if_neg h2).trans (if_neg hc)).symm))
    · have hen' : h.en = false := Bool.eq_false_iff.mpr hen
      exact (if_pos (by simp [show (s.hall n).en = false from hen'])).trans (congrArg (s.setHall n) (if_pos hen').symm)
  · simp [show (s.hall n).enNow = true from hen, show (s.hall n).los = true from hlos]
  · refine (if_pos ?_).trans (congrArg (s.setHall n) ?_)
    · simp [show (s.hall n).enNow = true from hen, show (s.hall n).apr = true from hapr, hsafe]
    · rw [HallPort.sense]
      cases (s.hall n).los <;> cases (s.hall n).aligned <;> rfl
  · refine ⟨_, exec_gngRowReceive ht, ?_⟩
    rw [State.updStn, State.stn_setStn_same]
    refine ⟨?_, by simp, mget_mset_same _ _ _ _⟩
    exact foldl_mset 0 (fun j => 31 * src + j) (fun j => (nth 0 f.pkt.payload j).toNat)
      (fun _ _ h => Nat.add_left_cancel h) _ List.nodup_range _ j (List.mem_range.mpr hj)
  · exact ⟨_, next_congr (if_pos hv), s.gngRestart_samples, s.gngRestart_stn hn⟩
  · refine ⟨_, next_congr (if_pos hv), ?_⟩
    rw [s.pktClear_stn hn, s.pktClear_hall (by omega)]
    exact ⟨rfl, rfl, rfl, rfl, rfl, rfl, rfl, rfl, rfl, rfl, rfl⟩

end Sys2Proof.Machine
end
section
/-! SUPPORT. Ownership of partitions (O48). -/

namespace Sys2Proof.Machine

/-- R452: a partition that changes its owner closes its queue and holds a fresh lease. -/
theorem State.setOwner_part (s : State) {p n : Nat} (h : (s.part p).owner ≠ n) :
    (s.setOwner p n).part p =
      { s.part p with owner := n, expired := false, leaseAt := s.boot.osc, cqEn := false } := by
  unfold State.setOwner State.updPart
  dsimp only
  rw [if_neg h, State.part_record, State.part_setPart_same, State.part_setPart_same]

/-- R452: a claim that is taken. -/
theorem State.claimNow_taken (s : State) {w : Who} {p : Nat} (hw : Who.owner w ≠ 0)
    (hn : (s.part p).owner ≠ Who.owner w)
    (h : (s.part p).owner = 0 ∨ (s.part p).expired = true ∨ s.claimTie w p = true) :
    (s.claimNow w p).part p = { s.part p with
      owner := Who.owner w, expired := false, leaseAt := s.boot.osc, cqEn := false
      claimAt := if w = .port1 then some s.boot.osc else none } := by
  unfold State.claimNow
  dsimp only
  rw [if_neg hw, if_neg hn, if_pos h]
  unfold State.updPart
  rw [State.part_setPart_same, s.setOwner_part hn]

theorem State.claimTie_iff (s : State) (w : Who) (p : Nat) : s.claimTie w p = true ↔
    w = .port0 ∧ (s.part p).owner = 2 ∧ (s.part p).claimAt = some s.boot.osc := by
  simp [State.claimTie, and_assoc]

/-- R417: outside a hand-off a command of OWN runs at once. -/
theorem State.ownReq_now {s : State} (h : s.handOff = false) (w : Who) (c p : Nat) :
    s.ownReq w c p = s.ownNow w c p := if_neg (ne_true_of_eq_false h)

theorem State.ownReq_held {s : State} (h : s.handOff = true) (w : Who) (c p : Nat) :
    s.ownReq w c p = s.holdReq (.own w c p) := if_pos h

theorem execLeaseExpire_unless {s : State} {p : Nat} (h : ¬ (s.handOff = false ∧ (s.part p).owner ≠ 0 ∧
      (s.part p).expired = false ∧ (s.part p).leaseAt + s.leaseMs * 1000000 ≤ s.boot.osc)) :
    exec (.leaseExpire p) s = .next s := next_congr (if_neg h)

/-- Settles O48: in a hand-off every command of OWN is held; outside one each is decided by whether its port owns the
partition, and a claim besides by whether the lease has run out or two claims tie. -/
theorem ownershipOfPartitions : Obligations.OwnershipOfPartitions := by
  intro s p x
  refine ⟨fun w hoff hw => ?_, fun w hoff => ?_, fun hoff ho he => ⟨fun ht => ?_, fun ht => ?_⟩⟩
  · have hw0 : Who.owner w ≠ 0 := by rcases hw with rfl | rfl <;> decide
    have run : ∀ c, s.ownReq w c p = s.ownNow w c p := fun c => State.ownReq_now hoff w c p
    refine ⟨fun hfree hne => ?_, fun h0 he hne ht => ?_, fun ht => ?_, fun ho => ⟨?_, ?_, ?_⟩, fun hne => ⟨?_, ?_⟩⟩
    · refine ⟨_, next_congr (run 2), ?_⟩
      change ((s.claimNow w p).part p).owner = _ ∧ ((s.claimNow w p).part p).expired = _ ∧
        ((s.claimNow w p).part p).leaseAt = _ ∧ ((s.claimNow w p).part p).cqEn = _
      rw [s.claimNow_taken hw0 hne (hfree.imp_right .inl)]
      exact ⟨rfl, rfl, rfl, rfl⟩
    · refine next_congr ((run 2).trans ?_)
      refine (if_neg hw0).trans ((if_neg hne).trans (if_neg ?_))
      rintro (h | h | h)
      · exact h0 h
      · exact absurd h (ne_true_of_eq_false he)
      · exact absurd h (ne_true_of_eq_false ht)
    · obtain ⟨rfl, h2, -⟩ := (s.claimTie_iff w p).mp ht
      refine ⟨_, next_congr (run 2), ?_⟩
      change ((s.claimNow .port0 p).part p).owner = _ ∧ ((s.claimNow .port0 p).part p).leaseAt = _
      rw [s.claimNow_taken hw0 (by rw [h2]; decide) (.inr (.inr ht))]
      exact ⟨rfl, rfl⟩
    · exact next_congr ((run 2).trans ((if_neg hw0).trans (if_pos ho)))
    · exact next_congr ((run 1).trans (if_pos ⟨hw0, ho⟩))
    · refine ⟨_, next_congr ((run 3).trans (if_pos ⟨hw0, ho⟩)), ?_⟩
      rw [s.setOwner_part (ho.trans_ne hw0)]
      exact ⟨rfl, rfl⟩
    · exact next_congr ((run 1).trans (if_neg fun h => hne h.2))
    · exact next_congr ((run 3).trans (if_neg fun h => hne h.2))
  · refine ⟨next_congr (State.ownReq_held hoff w 2 p), next_congr (State.ownReq_held hoff w 1 p),
      next_congr (State.ownReq_held hoff w 3 p), execLeaseExpire_unless fun h => ?_⟩
    exact absurd h.1 (ne_false_of_eq_true hoff)
  · exact execLeaseExpire_unless fun h => absurd h.2.2.2 (Nat.not_le_of_lt ht)
  · exact next_congr (if_pos ⟨hoff, ho, he, ht⟩)

end Sys2Proof.Machine
end

section
/-! SUPPORT. Retirement of HBM3E channels, the Mire window, the memory counters and the scrub (O41). -/

namespace Sys2Proof.Machine

/-- R250: the spares that a retirement of channel `c` may take suffice. -/
def State.retireFits (s : State) (c : Nat) : Prop := (s.mem.slotsOf c).length ≤ (s.sparesFor c).length

/-- The state whose table marks channel `c` retired and gives its slots their spares (R252). -/
def State.retiredEmpty (s : State) (c : Nat) : State :=
  let moves := (s.mem.slotsOf c).zip (s.sparesFor c)
  { s.setChan c { s.chan c with st := 2 } with mem := { (s.setChan c { s.chan c with st := 2 }).mem with
      slotMap := moves.foldl (fun t p => mset (factoryPlace p.1) t p.1 p.2) s.mem.slotMap
      claimed := s.mem.claimed ++ moves.map (·.2) } }

theorem State.retireEmpty_fits {s : State} {c : Nat} (h : s.retireFits c) : s.retireEmpty c = some (s.retiredEmpty c) :=
  if_neg (Nat.not_lt_of_le h)

theorem State.retireEmpty_unfit {s : State} {c : Nat} (h : ¬ s.retireFits c) : s.retireEmpty c = none :=
  if_pos (Nat.lt_of_not_le h)

/-- A retirement is refused (R250). -/
def State.retireNo (s : State) : State := { s with mem := { s.mem with retRefused := true } }

/-- R252: before the initialisation a write names a channel that can be retired. -/
theorem State.retireEarly_fits {s : State} {c : Nat} (hc : c ≤ 191) (hst : (s.chan c).st ≠ 2) (h : s.retireFits c) :
    s.retireEarly c = { s.retiredEmpty c with mem := { (s.retiredEmpty c).mem with
      retSt := 3, retRefused := false, retDone := ((s.retiredEmpty c).mem.slotsOf c).length, retCh := c, retPoison := 0
      flashRetired := addOnce c s.mem.flashRetired } } := by
  unfold State.retireEarly
  rw [if_neg (by simp [hst]; omega), State.retireEmpty_fits h]
  rfl

theorem State.retireEarly_refused {s : State} {c : Nat} (h : 191 < c ∨ (s.chan c).st = 2 ∨ ¬ s.retireFits c) :
    s.retireEarly c = s.retireNo := by
  unfold State.retireEarly
  by_cases hc : (191 < c || (s.chan c).st == 2) = true
  · exact if_pos hc
  · have hfit : ¬ s.retireFits c := fun hf => by simp at hc; grind
    rw [if_neg hc, State.retireEmpty_unfit hfit]
    rfl

/-- R250: the state in which a retirement of channel `c` has begun. -/
def State.retireStarted (s : State) (c : Nat) : State :=
  let moves := (s.mem.slotsOf c).zip (s.sparesFor c)
  let t := s.setChan c { s.chan c with st := 1 }
  { t with mem := { t.mem with
    retSt := 1, retRefused := false, retDone := 0, retCh := c, retPoison := 0
    moves := moves, claimed := s.mem.claimed ++ moves.map (·.2) } }

/-- R250: once memory is initialised a write that can be taken starts the copy. -/
theorem State.retire_starts {s : State} {v : W32} (h8 : v.getLsbD 8 = true) (hi : s.mem.initDone = true)
    (h1 : s.mem.retSt ≠ 1) (h2 : s.mem.retSt ≠ 2) (hc : v.toNat % 256 ≤ 191) (hst : (s.chan (v.toNat % 256)).st ≠ 2)
    (h : s.retireFits (v.toNat % 256)) : s.retire v = s.retireStarted (v.toNat % 256) := by
  have hb : bit v.toNat 8 = true := h8
  unfold State.retire
  dsimp only
  rw [if_neg (by rw [hb]; decide), if_neg (by rw [hi]; decide), if_neg (by simp [h1, h2, hst]; omega),
    if_neg (Nat.not_lt_of_le h)]
  rfl

theorem State.retire_early {s : State} {v : W32} (h8 : v.getLsbD 8 = true) (hi : s.mem.initDone = false) :
    s.retire v = s.retireEarly (v.toNat % 256) := by
  have hb : bit v.toNat 8 = true := h8
  unfold State.retire
  dsimp only
  rw [hb, hi, if_neg (by decide), if_pos (by decide)]

theorem State.retire_refused {s : State} {v : W32} (h8 : v.getLsbD 8 = true)
    (h : (s.mem.initDone = true ∧ (s.mem.retSt = 1 ∨ s.mem.retSt = 2)) ∨ 191 < v.toNat % 256 ∨
      (s.chan (v.toNat % 256)).st = 2 ∨ ¬ s.retireFits (v.toNat % 256)) :
    s.retire v = s.retireNo := by
  cases hi : s.mem.initDone with
  | false =>
    rw [State.retire_early h8 hi]
    exact State.retireEarly_refused (h.resolve_left fun h => absurd h.1 (ne_true_of_eq_false hi))
  | true =>
    have hb : bit v.toNat 8 = true := h8
    unfold State.retire
    dsimp only
    rw [if_neg (by rw [hb]; decide), if_neg (by rw [hi]; decide)]
    by_cases hc : (s.mem.retSt = 1 || s.mem.retSt = 2 || 191 < v.toNat % 256 || (s.chan (v.toNat % 256)).st == 2) = true
    · exact if_pos hc
    · have hfit : ¬ s.retireFits (v.toNat % 256) := fun hf => by simp at hc; grind
      exact (if_neg hc).trans (if_pos (Nat.lt_of_not_le hfit))

theorem mem_addOnce {α : Type} [DecidableEq α] (a : α) (l : List α) : a ∈ addOnce a l := by
  unfold addOnce
  split
  · assumption
  · simp

/-- R251: a copy of slots without unreadable lines leaves none, and the tables stand. -/
theorem Mem.copySlot_clean (m : Mem) (slot new : Nat) (h : m.hbmPoison = []) :
    (m.copySlot slot new).2 = [] ∧ (m.copySlot slot new).1.hbmPoison = [] := by
  unfold Mem.copySlot
  dsimp only
  rw [h]
  exact ⟨rfl, rfl⟩

theorem Mem.copySlot_slotMap (m : Mem) (slot new : Nat) : (m.copySlot slot new).1.slotMap = m.slotMap := rfl

/-- The slots of `moves` copied one after another, and the count of unreadable lines (R251). -/
def Mem.copySlots (m : Mem) (moves : List (Nat × Nat)) : Mem × Nat :=
  moves.foldl (fun acc p => ((acc.1.copySlot p.1 p.2).1, acc.2 + (acc.1.copySlot p.1 p.2).2.length)) (m, 0)

theorem Mem.copySlots_slotMap (m : Mem) (moves : List (Nat × Nat)) : (m.copySlots moves).1.slotMap = m.slotMap := by
  unfold Mem.copySlots
  exact List.foldlRecOn moves _ (motive := fun a : Mem × Nat => a.1.slotMap = m.slotMap) rfl
    fun a ha p _ => (a.1.copySlot_slotMap p.1 p.2).trans ha

theorem Mem.copySlots_clean (m : Mem) (moves : List (Nat × Nat)) (h : m.hbmPoison = []) :
    (m.copySlots moves).2 = 0 ∧ (m.copySlots moves).1.hbmPoison = [] := by
  unfold Mem.copySlots
  refine List.foldlRecOn moves _ (motive := fun a : Mem × Nat => a.2 = 0 ∧ a.1.hbmPoison = []) ⟨rfl, h⟩ ?_
  rintro a ⟨h0, hp⟩ p -
  obtain ⟨hl, hq⟩ := a.1.copySlot_clean p.1 p.2 hp
  exact ⟨by rw [h0, hl]; rfl, hq⟩

/-- The state as the reads of a copy leave it (R230, R251): words counted and recorded. -/
def State.copyRead (s : State) : State :=
  let read := fun l : List Nat => l.filter fun w => s.mem.moves.any fun p =>
    decide (hbmKeyAt (s.mem.slotPlace p.1) 0 0 ≤ w * 32) &&
      decide (w * 32 < hbmKeyAt (s.mem.slotPlace p.1) 0 0 + positionBytes)
  (read s.mem.hbmPoison).foldl State.hbmUncorr
    (s.setChan s.mem.retCh { s.chan s.mem.retCh with
      corr := satAdd 4294967295 (s.chan s.mem.retCh).corr (read s.mem.hbmSoft).length })

theorem State.copyRead_keeps (s : State) : s.copyRead.mem.slotMap = s.mem.slotMap ∧
    s.copyRead.mem.hbmPoison = s.mem.hbmPoison ∧ s.copyRead.mem.moves = s.mem.moves :=
  ⟨foldl_same (fun s : State => s.mem.slotMap) State.hbmUncorr (fun _ _ => rfl) _ _,
    foldl_same (fun s : State => s.mem.hbmPoison) State.hbmUncorr (fun _ _ => rfl) _ _,
    foldl_same (fun s : State => s.mem.moves) State.hbmUncorr (fun _ _ => rfl) _ _⟩

/-- R251 RETIRE_COPY_DONE of a running copy. -/
theorem exec_retireCopyDone {s : State} (h : s.mem.retSt = 1) :
    exec .retireCopyDone s = .next { s.copyRead with mem := { (s.copyRead.mem.copySlots s.copyRead.mem.moves).1 with
      retSt := 2, retRefused := false, retDone := s.copyRead.mem.moves.length
      retPoison := Nat.min 255 (s.copyRead.mem.copySlots s.copyRead.mem.moves).2 } } :=
  next_congr (if_neg (not_not_intro h))

/-- R251: the one slot that is switched reads at its new place. -/
theorem slotPlace_mset (m : Mem) (slot new k : Nat) :
    ({ m with slotMap := mset (factoryPlace slot) m.slotMap slot new } : Mem).slotPlace k =
      if k = slot then new else m.slotPlace k := by
  unfold Mem.slotPlace
  by_cases h : k = slot
  · subst h
    rw [if_pos rfl]
    exact mget_mset_same _ _ _ _
  · rw [if_neg h]
    change mget (factoryPlace k) (mset (factoryPlace slot) m.slotMap slot new) k = mget (factoryPlace k) m.slotMap k
    unfold mset
    split
    · rw [mget_merase, if_neg h]
    · rw [mget_minsert, if_neg h]

/-- R251: the state whose tables have taken the new mapping. -/
def State.retireSwitched (s : State) : State :=
  let t := s.setChan s.mem.retCh { s.chan s.mem.retCh with st := 2 }
  ({ t with mem := { t.mem with
      slotMap := t.mem.moves.foldl (fun t (p : Nat × Nat) => mset (factoryPlace p.1) t p.1 p.2) t.mem.slotMap
      moves := [], retSt := 3, retRefused := false, flashRetired := addOnce s.mem.retCh t.mem.flashRetired } }).recStn
    0x6005 none (channelStation s.mem.retCh) [BitVec.ofNat 8 s.mem.retCh, BitVec.ofNat 8 t.mem.retPoison]

/-- R251 RETIRE_SWITCH while HOLD_HBM applies in a held interval. -/
theorem exec_retireSwitch {s : State} {run : LoadRun} (h2 : s.mem.retSt = 2) (hr : s.cfg.run = some run)
    (ho : run.req.op = 3) (hp : run.phase = .applying) (hi : s.inInterval = true) :
    exec .retireSwitch s = .next s.retireSwitched := by
  refine next_congr ?_
  rw [hr]
  dsimp only
  rw [ho, hp, if_neg]
  · rfl
  · rintro (h | h | h)
    · exact h h2
    · exact absurd h (by decide)
    · exact absurd hi (ne_true_of_eq_false h)

theorem clampTo_eq {lo hi : Nat} (h : lo ≤ hi) (v : Nat) : clampTo lo hi v = Nat.max lo (Nat.min hi v) := by
  unfold clampTo
  change _ = max lo (min hi v)
  split
  · omega
  · split <;> omega

/-- R253: the counters of a station cleared. -/
def Station.memCleared (x : Station) : Station :=
  { x with miss := 0, perm := 0, replay := 0, unknown := 0, staleAtomic := 0, merge := 0, mireWait := 0 }

/-- R253: the counters of a channel cleared. -/
def Channel.cleared (x : Channel) : Channel := { x with uncorr := 0, corr := 0 }

theorem foldl_setChan (g : Channel → Channel) (l : List Nat) (hl : l.Nodup) (s : State) (k : Nat) :
    (l.foldl (fun s n => s.setChan n (g (s.chan n))) s).chan k = if k ∈ l then g (s.chan k) else s.chan k := by
  induction l generalizing s with
  | nil => rfl
  | cons a l ih =>
    obtain ⟨ha, hd⟩ := List.nodup_cons.mp hl
    rw [List.foldl_cons, ih hd]
    by_cases hk : k = a
    · subst hk
      rw [if_neg ha, if_pos List.mem_cons_self, State.chan_setChan_same]
    · rw [State.chan_setChan_ne _ _ hk]
      exact if_congr (by simp [hk]) rfl rfl

theorem State.memClear_folds (s : State) : s.memClear =
    (List.range 192).foldl (fun s c => s.setChan c (s.chan c).cleared)
      (dataStations.foldl (fun s n => s.updStn n Station.memCleared) s) := rfl

theorem State.memClear_stn (s : State) {n : Nat} (hn : n < 31) : s.memClear.stn n = (s.stn n).memCleared := by
  have hm := mem_dataStations hn
  have hd := dataStations_nodup
  rw [State.memClear_folds]
  generalize dataStations = l at hm hd ⊢
  generalize List.range 192 = m
  exact (foldl_same (fun s : State => s.stn n) (fun s c => s.setChan c (s.chan c).cleared) (fun _ _ => rfl) m _).trans
    ((foldl_updStn (fun _ => Station.memCleared) l hd s n).trans (if_pos hm))

theorem State.memClear_chan (s : State) {k : Nat} (hk : k < 192) : s.memClear.chan k = (s.chan k).cleared := by
  have hm : k ∈ List.range 192 := List.mem_range.mpr hk
  have hd : (List.range 192).Nodup := List.nodup_range
  rw [State.memClear_folds]
  generalize dataStations = l
  generalize List.range 192 = m at hm hd ⊢
  have hs : ∀ t : State, (l.foldl (fun s n => s.updStn n Station.memCleared) t).chan k = t.chan k :=
    fun t => foldl_same (fun s : State => s.chan k) (fun s n => s.updStn n Station.memCleared) (fun _ _ => rfl) l t
  rw [foldl_setChan Channel.cleared m hd, if_pos hm, hs]

/-- The 32-byte words of a line of a channel (R230). -/
def lineWords (c line : Nat) : List Nat := (List.range 8).map fun j => (c * channelBytes + line * 256) / 32 + j

/-- R230: the state that a scrub leaves which meets no uncorrectable word. -/
def State.scrubbed (s : State) (c line : Nat) : State :=
  let soft := (lineWords c line).filter (· ∈ s.mem.hbmSoft)
  let t := s.setChan c { s.chan c with corr := satAdd 4294967295 (s.chan c).corr soft.length }
  { t with mem := { t.mem with hbmSoft := s.mem.hbmSoft.filter fun w => !soft.contains w } }

/-- R230: a scrub that meets no uncorrectable word writes back the words that it corrects. -/
theorem exec_hbmScrub_clean {s : State} {c line : Nat} (hc : c ≤ 191) (hl : line < 9437184)
    (hr : s.mem.selfRefresh = false) (ht : s.retraining c = false)
    (hp : ∀ j < 8, (c * channelBytes + line * 256) / 32 + j ∉ s.mem.hbmPoison) :
    exec (.hbmScrub c line) s = .next (s.scrubbed c line) := by
  have hnone : (lineWords c line).filter (· ∈ s.mem.hbmPoison) = [] := by
    refine List.filter_eq_nil_iff.mpr fun w hw => ?_
    obtain ⟨j, hj, rfl⟩ := List.mem_map.mp hw
    simpa using hp j (List.mem_range.mp hj)
  refine next_congr ((if_neg ?_).trans ?_)
  · rintro (h | h | h | h)
    · omega
    · omega
    · exact absurd h (ne_true_of_eq_false hr)
    · exact absurd h (ne_true_of_eq_false ht)
  · exact congrArg (List.foldl State.hbmUncorr (s.scrubbed c line)) hnone

theorem State.scrubbed_chan (s : State) (c line : Nat) : (s.scrubbed c line).chan c = { s.chan c with
    corr := satAdd 4294967295 (s.chan c).corr ((lineWords c line).filter (· ∈ s.mem.hbmSoft)).length } :=
  State.chan_setChan_same s c _

theorem State.scrubbed_soft (s : State) (c line k : Nat) :
    k ∈ (s.scrubbed c line).mem.hbmSoft ↔ k ∈ s.mem.hbmSoft ∧ k ∉ lineWords c line := by
  change k ∈ s.mem.hbmSoft.filter _ ↔ _
  rw [List.mem_filter]
  simp
  tauto

theorem execMemCntClr_set {s : State} {w : Who} {v : W32} (h : v.getLsbD 0 = true) :
    exec (.memCntClr w v) s = .next s.memClear := next_congr (if_pos h)

/-- Settles O41: each of MEM_RETIRE's outcomes is one lemma about `State.retire`; the copy counts, the switch writes one
entry of the slot table, and the scrub drops from the soft words those that it read. -/
theorem retirementMireWindowAndScrub : Obligations.RetirementMireWindowAndScrub := by
  intro s w v c moves fits
  refine ⟨fun h8 hi h1 h2 hc hst hf => ?_, fun h8 hi hc hst hf => ?_, fun h8 h => next_congr (State.retire_refused h8 h),
    fun h => ?_, fun run slot new h2 hr ho hp hi hm => ?_, fun hl => ?_, fun hlt hl => ?_, fun n k h0 hn hk => ?_,
    fun ch line hc hl hr ht hp => ?_⟩
  · refine ⟨_, next_congr (State.retire_starts h8 hi h1 h2 hc hst hf), rfl, rfl, rfl, ?_, fun k hk => ?_, rfl⟩
    · exact congrArg Channel.st (State.chan_setChan_same s c { s.chan c with st := 1 })
    · exact State.chan_setChan_ne s { s.chan c with st := 1 } hk
  · refine ⟨_, next_congr ((State.retire_early h8 hi).trans (State.retireEarly_fits hc hst hf)), rfl, rfl, ?_,
      fun k hk => ?_, mem_addOnce _ _, rfl⟩
    · exact congrArg Channel.st (State.chan_setChan_same s c { s.chan c with st := 2 })
    · exact State.chan_setChan_ne s { s.chan c with st := 2 } hk
  · obtain ⟨hmap, hpoison, hmoves⟩ := s.copyRead_keeps
    refine ⟨_, exec_retireCopyDone h, rfl, congrArg List.length hmoves, (Mem.copySlots_slotMap _ _).trans hmap,
      fun hclean => ?_⟩
    obtain ⟨hz, hq⟩ := Mem.copySlots_clean s.copyRead.mem s.copyRead.mem.moves (hpoison.trans hclean)
    exact ⟨(congrArg (Nat.min 255) hz).trans (by decide), hq⟩
  · have hmap : s.retireSwitched.mem.slotMap = mset (factoryPlace slot) s.mem.slotMap slot new := by
      change s.mem.moves.foldl _ s.mem.slotMap = _
      rw [hm]
      rfl
    have hplace : ∀ k, s.retireSwitched.mem.slotPlace k = if k = slot then new else s.mem.slotPlace k := by
      intro k
      rw [← slotPlace_mset s.mem slot new k]
      unfold Mem.slotPlace
      rw [hmap]
    refine ⟨_, exec_retireSwitch h2 hr ho hp hi, rfl, rfl, (hplace slot).trans (if_pos rfl),
      fun k hk => (hplace k).trans (if_neg hk), ?_, mem_addOnce _ _⟩
    exact congrArg Channel.st (State.chan_setChan_same s s.mem.retCh { s.chan s.mem.retCh with st := 2 })
  · refine ⟨_, next_congr (if_pos (by simp [hl])), clampTo_eq (by decide) _⟩
  · rw [← clampTo_eq (by decide)] at hlt
    exact ⟨_, next_congr (if_neg (by simp [hl]; exact hlt)), rfl⟩
  · exact ⟨_, execMemCntClr_set h0, s.memClear_stn hn, s.memClear_chan hk⟩
  · refine ⟨_, exec_hbmScrub_clean hc hl hr ht hp, ?_, fun k => ?_, rfl⟩
    · exact congrArg Channel.corr (s.scrubbed_chan ch line)
    · exact s.scrubbed_soft ch line k

end Sys2Proof.Machine
end

section
/-! SUPPORT. What changes a partition, and what leaves it (O40). -/

namespace Sys2Proof.Machine

@[simp] theorem State.part_updPart_same (s : State) (k : Nat) (f : Partition → Partition) :
    (s.updPart k f).part k = f (s.part k) := State.part_setPart_same s k _

theorem State.part_updPart_ne (s : State) {k p : Nat} (f : Partition → Partition) (h : p ≠ k) :
    (s.updPart k f).part p = s.part p := State.part_setPart_ne s _ h

/-- What an update leaves of a partition is left of every partition. -/
theorem State.part_updPart_view {γ : Type} (g : Partition → γ) (s : State) (k p : Nat) (f : Partition → Partition)
    (h : ∀ x, g (f x) = g x) : g ((s.updPart k f).part p) = g (s.part p) := by
  by_cases hk : p = k
  · subst hk
    rw [State.part_updPart_same, h]
  · rw [State.part_updPart_ne s f hk]

theorem foldl_updPart (g : Nat → Partition → Partition) (l : List Nat) (hl : l.Nodup) (s : State) (k : Nat) :
    (l.foldl (fun s n => s.updPart n (g n)) s).part k = if k ∈ l then g k (s.part k) else s.part k := by
  induction l generalizing s with
  | nil => rfl
  | cons a l ih =>
    obtain ⟨ha, hd⟩ := List.nodup_cons.mp hl
    rw [List.foldl_cons, ih hd]
    by_cases hk : k = a
    · subst hk
      rw [if_neg ha, if_pos List.mem_cons_self, State.part_updPart_same]
    · rw [State.part_updPart_ne _ _ hk]
      exact if_congr (by simp [hk]) rfl rfl

theorem mem_allParts {p : Nat} (h : p < 64) : p ∈ allParts := List.mem_range.mpr h

theorem allParts_nodup : allParts.Nodup := List.nodup_range

@[simp] theorem State.bounce_parts (s : State) (station : Nat) (p : Packet) (st : Byte) :
    (s.bounce station p st).parts = s.parts := by
  unfold State.bounce
  split <;> rfl

theorem State.endHall_parts (s : State) (p : Nat) (st : Byte) : (s.endHall p st).parts = s.parts := by
  unfold State.endHall
  refine foldl_same State.parts _ (fun _ _ => ?_) _ s
  exact State.bounce_parts _ _ _ _

@[simp] theorem State.sendMsix_parts (s : State) (n v : Nat) : (s.sendMsix n v).parts = s.parts := by
  unfold State.sendMsix
  split <;> rfl

theorem State.evtMsix_parts (s : State) (code n : Nat) : (s.evtMsix code n).parts = s.parts := by
  unfold State.evtMsix
  dsimp only
  split
  · exact State.sendMsix_parts _ _ _
  · rfl

theorem State.enterRec_parts (s : State) (r : PeatRec) : (s.enterRec r).parts = s.parts :=
  (State.evtMsix_parts _ _ _).trans (State.evtMsix_parts _ _ _)

theorem State.safeFlush_parts (s : State) : s.safeFlush.parts = s.parts :=
  foldl_same State.parts State.enterRec State.enterRec_parts s.evt.offered { s with evt := { s.evt with offered := [] } }

/-! ## The boundary (R161) -/

/-- The partition without the energies that its gears have used (R327). -/
def Partition.unmetered (x : Partition) : Partition := { x with energy := [], overCnt := 0 }

/-- R161: what the boundary makes of a partition does not rest on the measured energies. -/
theorem Partition.boundary_unmetered {x y : Partition} (h : y.unmetered = x.unmetered) :
    y.boundary.gear = x.gearNext ∧ y.boundary.live = (if x.arms then some x.gearNext else none) ∧
      y.boundary.twl = (if x.twl = .stopping then .loaded else x.twl) := by
  have hgear : y.gearNext = x.gearNext :=
    show y.unmetered.gearNext = x.unmetered.gearNext from congrArg _ h
  have harms : y.arms = x.arms :=
    show y.unmetered.arms = x.unmetered.arms from congrArg _ h
  have htwl : y.twl = x.twl :=
    show y.unmetered.twl = x.unmetered.twl from congrArg _ h
  refine ⟨hgear, ?_, ?_⟩
  · change (if y.arms = true then some y.gearNext else none) = _
    rw [harms, hgear]
  · change (if (y.twl == .stopping) = true then TwlSt.loaded else y.twl) = _
    rw [htwl]
    exact if_congr beq_iff_eq rfl rfl

theorem State.gearFrame_unmetered (s : State) (q p : Nat) :
    ((s.gearFrame q).part p).unmetered = (s.part p).unmetered := by
  unfold State.gearFrame
  split
  · rfl
  · refine foldl_same (fun s : State => (s.part p).unmetered) _ (fun b d => ?_) _ _
    dsimp only
    split
    · rw [State.recDie, State.part_record,
        State.part_updPart_view Partition.unmetered _ q p (fun x => { x with overCnt := satInc 65535 x.overCnt }) (fun _ => rfl)]
      exact State.part_updPart_view _ _ _ _ _ fun _ => rfl
    · exact State.part_updPart_view _ _ _ _ _ fun _ => rfl

theorem State.powerBoundary_unmetered (s : State) (p : Nat) :
    (s.powerBoundary.part p).unmetered = (s.part p).unmetered := by
  unfold State.powerBoundary
  generalize allParts = l
  exact foldl_same (fun s : State => (s.part p).unmetered) State.gearFrame (fun b q => b.gearFrame_unmetered q p) l s

theorem State.commitGears_part (s : State) (p : Nat) : s.commitGears.part p = s.part p := by
  unfold State.commitGears
  refine foldl_same (fun s : State => s.part p) _ (fun _ _ => ?_) _ s
  rfl

theorem State.blendTrims_part (s : State) (p : Nat) : s.blendTrims.part p = s.part p := by
  unfold State.blendTrims
  generalize allLasers = l
  split
  · rfl
  · exact foldl_same (fun s : State => s.part p) (fun s l => s.setLaser l (s.laser l).blend) (fun _ _ => rfl) l _

/-- R249: hashing the queued packets anew writes packets and a gather's planes alone. -/
theorem State.rehash_same {γ : Type} (g : State → γ)
    (hf : ∀ (s : State) pk sq, g { s with fabric := { s.fabric with pkts := pk, seq := sq } } = g s)
    (hs : ∀ (s : State) n x, g (s.setStn n x) = g s) (s : State) : g s.rehash = g s := by
  have hb : ∀ (s : State) n pk st, g (s.bounce n pk st) = g s := by
    intro s n pk st
    unfold State.bounce
    split
    · exact hf s _ _
    · rfl
  have hq : ∀ (s : State) n pk via, g (s.queueHall n pk via) = g s := by
    intro s n pk via
    refine (hf _ _ _).trans ?_
    dsimp only
    split
    · exact hs s _ _
    · rfl
  have hd : ∀ (s : State) n, g (s.dropPkt n) = g s := fun s n => hf s _ _
  refine foldl_same g _ (fun s f => ?_) s.fabric.pkts s
  cases f.place with
  | hall m =>
    dsimp only
    split
    · exact (hb _ _ _ _).trans (hd _ _)
    · exact hd _ _
    · split
      · rfl
      · exact (hq _ _ _ _).trans (hd _ _)
  | hallHeld _ _ =>
    dsimp only
    split
    · exact (hb _ _ _ _).trans (hd _ _)
    · rfl
  | _ => rfl

/-- The partition, and whether packets may start (R143). -/
def State.partOpen (s : State) (p : Nat) : Partition × Bool × Bool := (s.part p, s.fabric.injectStop, s.fabric.quiet)

/-- R213: the listing of the ports leaves the partitions and opens no plane. -/
theorem State.listPorts_partOpen (s : State) (p : Nat) : s.listPorts.partOpen p = s.partOpen p := by
  unfold State.listPorts
  generalize hallPorts = l
  split
  · refine (State.rehash_same (State.partOpen · p) (fun _ _ _ => rfl) (fun _ _ _ => rfl) _).trans ?_
    exact foldl_same (State.partOpen · p) (fun s n => s.setHall n { s.hall n with listed := (s.hall n).up })
      (fun _ _ => rfl) l s
  · rfl

/-- The parts that the frame's boundary leaves (R161). -/
def State.atBoundary (s : State) : State :=
  (allParts.foldl (fun s p => s.updPart p Partition.boundary) s.powerBoundary).commitGears.opticsBoundary

theorem State.atBoundary_part (s : State) {p : Nat} (hp : p < 64) :
    s.atBoundary.part p = (s.powerBoundary.part p).boundary := by
  have hm := mem_allParts hp
  have hd := allParts_nodup
  unfold State.atBoundary
  generalize allParts = l at hm hd ⊢
  refine (State.blendTrims_part _ p).trans ((State.commitGears_part _ p).trans ?_)
  rw [foldl_updPart (fun _ => Partition.boundary) l hd, if_pos hm]

/-- The state that the boundary opens the packet plane in (R143). -/
def State.opened (s : State) : State :=
  { s with fabric := { s.fabric with injectStop := false, quiet := false, begun := [] } }

theorem State.opened_part (s : State) (p : Nat) : s.opened.part p = s.part p := rfl

theorem State.listPorts_part (s : State) (p : Nat) : s.listPorts.part p = s.part p :=
  congrArg Prod.fst (s.listPorts_partOpen p)

/-- R143: the plane is open once the ports are listed. -/
theorem State.opened_listPorts (s : State) : s.opened.listPorts.fabric.injectStop = false ∧
    s.opened.listPorts.fabric.quiet = false :=
  ⟨congrArg (·.2.1) (s.opened.listPorts_partOpen 0), congrArg (·.2.2) (s.opened.listPorts_partOpen 0)⟩

/-- R161 FRAME_BOUNDARY at a boundary of job time. -/
theorem exec_frameBoundary {s : State} (ht : s.time.st ≠ .free) (hf : framePos s.ht = 0) :
    exec .frameBoundary s = .next s.atBoundary.opened.listPorts :=
  next_congr (if_neg fun h => h.elim ht fun h => h hf)

/-! ## The choice of gears (R325) -/

theorem State.putThermal_part (s : State) (k : Nat) (r : Region) (p : Nat) : (s.putThermal k r).part p = s.part p := by
  unfold State.putThermal
  dsimp only
  split <;> rfl

theorem State.noteStepDown_part (s : State) (k : Nat) (r : Region) (p : Nat) : (s.noteStepDown k r).part p = s.part p := by
  unfold State.noteStepDown
  split <;> rfl

theorem State.chooseRegion_part (s : State) (k p : Nat) : (s.chooseRegion k).part p = s.part p := by
  unfold State.chooseRegion
  dsimp only
  split
  · exact State.putThermal_part _ _ _ _
  · exact (State.putThermal_part _ _ _ _).trans (State.noteStepDown_part _ _ _ _)

theorem State.chooseRegions_part (s : State) (l : List Nat) (p : Nat) : (l.foldl State.chooseRegion s).part p = s.part p :=
  foldl_same (fun s : State => s.part p) State.chooseRegion (fun b k => b.chooseRegion_part k p) l s

theorem State.putThermal_time (s : State) (k : Nat) (r : Region) : (s.putThermal k r).time = s.time := by
  unfold State.putThermal
  dsimp only
  split <;> rfl

theorem State.noteStepDown_time (s : State) (k : Nat) (r : Region) : (s.noteStepDown k r).time = s.time := by
  unfold State.noteStepDown
  split <;> rfl

theorem State.chooseRegion_time (s : State) (k : Nat) : (s.chooseRegion k).time = s.time := by
  unfold State.chooseRegion
  dsimp only
  split
  · exact State.putThermal_time _ _ _
  · exact (State.putThermal_time _ _ _).trans (State.noteStepDown_time _ _ _)

theorem State.chooseRegions_ht (s : State) (l : List Nat) : (l.foldl State.chooseRegion s).ht = s.ht :=
  congrArg TimeDom.ht (foldl_same State.time State.chooseRegion State.chooseRegion_time l s)

theorem State.setNextGears_part (s : State) {ps : List Nat} (hd : ps.Nodup) (c : GearChoice) (p : Nat) :
    (s.setNextGears ps c).part p =
      if p ∈ ps then { s.part p with gearNext := mget 0 c.gears p } else s.part p :=
  foldl_updPart (fun p x => { x with gearNext := mget 0 c.gears p }) ps hd s p

theorem State.noteOverCommit_part (s : State) (d : Option Nat) (p : Nat) : (s.noteOverCommit d).part p = s.part p := by
  unfold State.noteOverCommit
  cases d with
  | none => rfl
  | some d =>
    dsimp only
    split <;> rfl

theorem State.noteOverCommit_over (s : State) (d : Option Nat) : (s.noteOverCommit d).power.overCommit = d.isSome := by
  unfold State.noteOverCommit
  rfl

theorem State.setAllotments_keeps (s : State) (ds : List Nat) (c : GearChoice) (p : Nat) :
    (s.setAllotments ds c).part p = s.part p ∧
      (s.setAllotments ds c).power.overCommit = s.power.overCommit := by
  unfold State.setAllotments
  constructor
  · refine foldl_same (fun s : State => s.part p) _ (fun b d => ?_) ds s
    refine (foldl_same (fun s : State => s.part p) _ (fun _ _ => ?_) _ _).trans ?_ <;> rfl
  · refine foldl_same (fun s : State => s.power.overCommit) _ (fun b d => ?_) ds s
    refine (foldl_same (fun s : State => s.power.overCommit) _ (fun _ _ => ?_) _ _).trans ?_ <;> rfl

theorem State.scheduledActive_nodup (s : State) : s.scheduledActive.Nodup := allParts_nodup.filter _

/-- R325: the budgets of the dies after the gears 0 (the passes start here). -/
def State.zeroGears (s : State) : GearChoice :=
  s.scheduledActive.foldl s.takeZero { avail := (List.range s.dies).map fun d => (d, s.dieAvail d) }

/-- R325: the gears that the passes end with. -/
def State.chosenGears (s : State) (frame : Nat) : GearChoice :=
  s.raisePasses (((List.range 64).map fun q => (frame + q) % 64).filter fun p => s.scheduledActive.contains p) 4 s.zeroGears

/-- R325: the choice, made on the regions' new step counts. -/
def State.gearsChosen (s : State) (frame : Nat) : State :=
  ((s.setNextGears s.scheduledActive (s.chosenGears frame)).noteOverCommit
    ((List.range s.dies).find? fun d => s.zeroGears.left d < 0)).setAllotments (List.range s.dies) (s.chosenGears frame)

/-- R325 GEAR_CHOICE at 63,000. -/
theorem exec_gearChoice {s : State} (ht : s.time.st ≠ .free) (hf : framePos s.ht = 63000) :
    exec .gearChoice s = .next ((allRegions.foldl State.chooseRegion s).gearsChosen (frameOf (allRegions.foldl State.chooseRegion s).ht)) :=
  next_congr (if_neg fun h => h.elim ht fun h => h hf)

theorem State.gearsChosen_part (s : State) (frame p : Nat) : (s.gearsChosen frame).part p =
    if p ∈ s.scheduledActive then { s.part p with gearNext := mget 0 (s.chosenGears frame).gears p } else s.part p :=
  (State.setAllotments_keeps _ _ _ p).1.trans ((State.noteOverCommit_part _ _ p).trans
    (s.setNextGears_part s.scheduledActive_nodup _ p))

theorem State.gearsChosen_over (s : State) (frame : Nat) : (s.gearsChosen frame).power.overCommit = true ↔
    ∃ d < s.dies, s.zeroGears.left d < 0 := by
  have h : (s.gearsChosen frame).power.overCommit =
      ((List.range s.dies).find? fun d => s.zeroGears.left d < 0).isSome :=
    (State.setAllotments_keeps _ _ _ 0).2.trans (State.noteOverCommit_over _ _)
  rw [h, List.find?_isSome]
  simp

/-! ## Activation, stop and the frame word -/

theorem State.checkEntry_same {γ : Type} (g : State → γ) (h : ∀ (s : State) e, g { s with evt := e } = g s)
    (s : State) (station idx : Nat) (e : W64) : g (s.checkEntry station idx e) = g s := by
  unfold State.checkEntry
  generalize dataStations = l
  dsimp only
  split
  · rfl
  · refine foldl_same g _ (fun b d => ?_) _ s
    split
    · exact h _ _
    · rfl

/-- R144: a check of circuits writes records alone. -/
theorem State.checkCircuits_same {γ : Type} (g : State → γ) (h : ∀ (s : State) e, g { s with evt := e } = g s)
    (s : State) (p : Option Nat) : g (s.checkCircuits p) = g s := by
  unfold State.checkCircuits
  generalize dataStations = l
  refine foldl_same g _ (fun b st => ?_) l s
  refine foldl_same g _ (fun c e => ?_) _ b
  exact State.checkEntry_same g h _ _ _ _

/-- R161, R173: a partition whose schedule becomes active. -/
def Partition.activated (x : Partition) (frame : Nat) : Partition :=
  let y := { x with twl := .active, actFrame := BitVec.ofNat 64 frame }
  { y with live := if y.arms then some y.gear else none, everArmed := y.everArmed || y.arms }

/-- R173 TWILL_ACTIVATE of a schedule that may become active. -/
theorem exec_twillActivate {s : State} {p : Nat} (hf : s.time.st ≠ .free) (hb : s.ht % 64000 = 0)
    (ht : (s.part p).twl = .loaded) (hst : (s.part p).st = .loaded) (hv : s.opt.flightValid = true)
    (hs : (s.part p).strict = true → s.time.uncertain = false) :
    exec (.twillActivate p) s = .next ((s.checkCircuits (some p)).updPart p
      fun y => y.activated (frameOf (s.checkCircuits (some p)).ht)) := by
  refine next_congr (if_neg ?_)
  rintro (h | h | h | h | h | ⟨h, h'⟩)
  · exact hf h
  · exact h hb
  · exact h ht
  · exact h hst
  · exact absurd hv (ne_true_of_eq_false h)
  · exact absurd h' (ne_true_of_eq_false (hs h))

theorem State.part_flushed (s : State) (p : Nat) (f : Partition → Partition) (st : Byte) :
    (((s.updPart p f).endHall p st).safeFlush).part p = f (s.part p) := by
  unfold State.part
  rw [State.safeFlush_parts, State.endHall_parts]
  exact State.part_updPart_same s p f

/-- R470, R471: what a partition is after it enters the safe state. -/
theorem State.enterNow_part (s : State) (p n : Nat) : ∃ y : Partition, (s.enterNow p n).part p =
    y.intoSafe n (if n = 9 then St.timeLost else St.safeState) :=
  ⟨_, State.part_flushed _ _ _ _⟩

/-- R469: trigger 9 of one partition outside the safe state. -/
theorem State.trigger_lost {s : State} {p : Nat} (hl : (s.part p).isLoaded = true) (hs : (s.part p).st ≠ .safeState) :
    ∃ t : State, s.trigger [p] 9 = t.enterNow p 9 := by
  let s0 : State := { s with safe := { s.safe with trig := s.safe.trig ||| BitVec.ofNat 10 (2 ^ 9) } }
  have hf : [p].filter (fun p => (s0.part p).isLoaded) = [p] := List.filter_eq_self.mpr fun q hq => by
    rw [List.mem_singleton.mp hq]
    exact hl
  have he : s0.enterSafe p 9 = (s0.triggerRec p 9).enterNow p 9 := by
    unfold State.enterSafe
    dsimp only
    rw [if_neg (by rw [show (s0.part p).isLoaded = true from hl]; decide), if_neg (show ¬ (s0.part p).st = .safeState from hs)]
  refine ⟨s0.triggerRec p 9, ?_⟩
  unfold State.trigger
  dsimp only
  rw [if_neg (by simp)]
  change List.foldl (fun s p => s.enterSafe p 9) s0 ([p].filter fun p => (s0.part p).isLoaded) = _
  rw [hf]
  exact he

theorem exec_twillStopTime {s : State} {p f : Nat} (hf : (s.part p).stopFrame = some f) (hlt : f < frameOf s.ht) :
    exec (.twillStopTime p) s = .next (s.trigger [p] 9) := by
  refine next_congr ?_
  rw [hf]
  exact if_pos hlt

/-- R171: the frame word written to one tile of the partition. -/
def State.wordTo (s : State) (p addr : Nat) (t : Nat) : State :=
  if (s.tile t).enabled && (s.tile t).st != .fenced && s.wordDue t then
    s.updTile t fun y => y.wmem addr (s.frameWord p)
  else s

theorem exec_frameWordWrite {s : State} {p : Nat} (hf : s.time.st ≠ .free) (he : (s.part p).fwEn = true)
    (hl : (s.part p).isLoaded = true) (h1 : 63500 ≤ framePos s.ht) (h2 : framePos s.ht ≤ 63900) :
    exec (.frameWordWrite p) s = .next ((s.part p).tiles.foldl (fun u t => u.wordTo p (s.part p).fwAddr t) s) := by
  refine next_congr (if_neg ?_)
  rintro (h | h | h | h | h)
  · exact hf h
  · exact absurd he (ne_true_of_eq_false h)
  · exact absurd hl (ne_true_of_eq_false h)
  · omega
  · omega

theorem State.frameWord_length (s : State) (p : Nat) : (s.frameWord p).length = 16 := by
  simp [State.frameWord, frameBytes]

/-- While frame words are written only tiles change, and no tile's state. -/
def State.Worded (s u : State) (t : Nat) : Prop :=
  (∃ ts, u = { s with tiles := ts }) ∧ (u.tile t).enabled = (s.tile t).enabled ∧ (u.tile t).st = (s.tile t).st

theorem State.wordTo_cases (s : State) (p addr a t : Nat) :
    (s.wordTo p addr a).tile t = s.tile t ∨ t = a ∧ (s.wordTo p addr a).tile t = (s.tile t).wmem addr (s.frameWord p) := by
  unfold State.wordTo
  split
  · by_cases h : t = a
    · subst h
      exact .inr ⟨rfl, State.tile_setTile_same _ _ _⟩
    · exact .inl (State.tile_setTile_ne _ _ h)
  · exact .inl rfl

theorem State.Worded.step {s u : State} {t : Nat} (h : s.Worded u t) (p addr a : Nat) : s.Worded (u.wordTo p addr a) t := by
  obtain ⟨⟨ts, hu⟩, he, hs⟩ := h
  refine ⟨?_, ?_⟩
  · subst hu
    unfold State.wordTo
    split
    · exact ⟨_, rfl⟩
    · exact ⟨ts, rfl⟩
  · rcases u.wordTo_cases p addr a t with ht | ⟨-, ht⟩ <;> rw [ht]
    · exact ⟨he, hs⟩
    · unfold Tile.wmem Tile.notePart Tile.noteSoft
      dsimp only
      split <;> exact ⟨he, hs⟩

theorem State.Worded.word {s u : State} {t : Nat} (h : s.Worded u t) (p : Nat) : u.frameWord p = s.frameWord p := by
  obtain ⟨⟨ts, rfl⟩, -, -⟩ := h
  rfl

theorem Tile.rmem_frameWord (x : Tile) (s : State) (p addr : Nat) :
    (x.wmem addr (s.frameWord p)).rmem addr 16 = s.frameWord p := by
  have h := x.rmem_wmem addr (s.frameWord p)
  rwa [State.frameWord_length] at h

/-- R171: a tile that holds its frame word keeps it. -/
theorem State.Worded.kept {s u : State} {t : Nat} (h : s.Worded u t) {p addr : Nat}
    (hr : (u.tile t).rmem addr 16 = s.frameWord p) (a : Nat) :
    ((u.wordTo p addr a).tile t).rmem addr 16 = s.frameWord p := by
  rcases u.wordTo_cases p addr a t with ht | ⟨-, ht⟩ <;> rw [ht]
  · exact hr
  · rw [← h.word p]
    exact Tile.rmem_frameWord _ _ _ _

/-- R171: a tile that is due its frame word gets it. -/
theorem State.Worded.here {s u : State} {t : Nat} (h : s.Worded u t) (he : (s.tile t).enabled = true)
    (hs : (s.tile t).st ≠ .fenced) (hw : s.wordDue t = true) (p addr : Nat) :
    ((u.wordTo p addr t).tile t).rmem addr 16 = s.frameWord p := by
  have hword := h.word p
  obtain ⟨⟨ts, hu⟩, he', hs'⟩ := h
  have hdue : u.wordDue t = true := by
    subst hu
    exact hw
  have hcond : ((u.tile t).enabled && (u.tile t).st != .fenced && u.wordDue t) = true := by
    rw [he', hs', he, hdue]
    simpa using hs
  unfold State.wordTo
  rw [if_pos hcond, ← hword]
  exact (congrArg (Tile.rmem · addr 16) (State.tile_setTile_same _ _ _)).trans (Tile.rmem_frameWord _ _ _ _)

/-- R171: each tile that is due its frame word holds it at the end. -/
theorem State.wordsTo {s : State} {t : Nat} (he : (s.tile t).enabled = true) (hs : (s.tile t).st ≠ .fenced)
    (hw : s.wordDue t = true) (p addr : Nat) (l : List Nat) (ht : t ∈ l) (u : State) (hu : s.Worded u t) :
    ((l.foldl (fun u t => u.wordTo p addr t) u).tile t).rmem addr 16 = s.frameWord p := by
  induction l generalizing u with
  | nil => exact absurd ht List.not_mem_nil
  | cons a l ih =>
    rw [List.foldl_cons]
    by_cases hl : t ∈ l
    · exact ih hl _ (hu.step p addr a)
    · obtain rfl := (List.mem_cons.mp ht).resolve_right hl
      exact (List.foldlRecOn l (fun u t => u.wordTo p addr t)
        (motive := fun v : State => s.Worded v t ∧ (v.tile t).rmem addr 16 = s.frameWord p)
        ⟨hu.step p addr t, hu.here he hs hw p addr⟩
        fun v hv a _ => ⟨hv.1.step p addr a, hv.1.kept hv.2 a⟩).2

/-! ## Substitution and the counters (R144, R177) -/

theorem ringKey_parts {station wg line : Nat} (hw : wg < 32) (hl : line < 16) :
    ringKey station 0 wg line % 17 = line ∧ ringKey station 0 wg line / 17 % 32 = wg ∧
      ringKey station 0 wg line / 544 % 2 = 0 ∧ ringKey station 0 wg line / 1088 = station := by
  unfold ringKey
  omega

/-- R144: line 16 of a source's waveguide, taken for a line. -/
theorem State.takeSpare_source (s : State) (station wg line : Nat) :
    ((s.takeSpare station 0 wg line).stn station).spareTx = (s.stn station).spareTx ||| BitVec.ofNat 32 (2 ^ wg) ∧
      mget 0 ((s.takeSpare station 0 wg line).stn station).spareLine wg = line + 1 := by
  unfold State.takeSpare State.updStn
  dsimp only
  rw [State.stn_setStn_same, if_pos rfl]
  refine ⟨rfl, ?_⟩
  change mget 0 (mset 0 (s.stn station).spareLine (0 * 32 + wg) (line + 1)) wg = line + 1
  rw [Nat.zero_mul, Nat.zero_add, mget_mset_same]

/-- R144: a ring of a circuit's waveguide at its source gives way to line 16. -/
theorem State.substitute_source {s : State} {station wg line : Nat} (h4 : 4 ≤ wg) (hw : wg < 32) (hl : line < 16)
    (hs : s.spareUsed station 0 wg = false) :
    s.substitute (ringKey station 0 wg line) = State.takeSpare { s with opt := { s.opt with
      pendingSub := s.opt.pendingSub.filter (· != ringKey station 0 wg line) } } station 0 wg line := by
  obtain ⟨h1, h2, h3, h5⟩ := ringKey_parts (station := station) hw hl
  unfold State.substitute
  dsimp only
  rw [h1, h2, h3, h5, if_neg (by omega), if_neg (by omega)]
  exact if_neg (ne_true_of_eq_false hs)

/-- R177: the schedule's counters of a station, cleared. -/
def Station.twlCleared (x : Station) : Station := { x with twlTx := 0, twlRx := 0, sealFail := 0, voided := 0 }

theorem State.twlClear_stn (s : State) {n : Nat} (hn : n < 31) : s.twlClear.stn n = (s.stn n).twlCleared := by
  have hm := mem_dataStations hn
  have hd := dataStations_nodup
  unfold State.twlClear
  generalize dataStations = l at hm hd ⊢
  exact (foldl_updStn (fun _ => Station.twlCleared) l hd s n).trans (if_pos hm)

/-- R144, R361: the state after the substitution of one ring, before the circuits are checked. -/
def State.swapped (s : State) (key : Nat) : State :=
  let t := s.substitute key
  if t.time.st = .free then t
  else { t with opt := { t.opt with subNow := t.opt.subNow ++ ([key].map substituted).flatten } }

theorem exec_ringSubstitute {s : State} {key : Nat} (ht : s.swapTime = true) (hp : s.opt.pendingSub = [key])
    (hn : s.nextInterval (s.ring key).failedAt = true) :
    exec .ringSubstitute s = .next ((s.swapped key).checkCircuits none) := by
  have hd : s.substitutable = [key] := by
    unfold State.substitutable
    rw [hp]
    refine List.filter_eq_self.mpr fun q hq => ?_
    rw [List.mem_singleton.mp hq]
    exact hn
  refine next_congr ?_
  dsimp only
  rw [hd, ht]
  rfl

theorem State.swapped_keeps (s : State) (key n : Nat) : (s.swapped key).stn n = (s.substitute key).stn n ∧
    (s.swapped key).opt.pendingSub = (s.substitute key).opt.pendingSub := by
  unfold State.swapped
  dsimp only
  split <;> exact ⟨rfl, rfl⟩

/-- Settles O40: the boundary's and the choice's folds are read off at one partition, and each other command is one
lemma. -/
theorem schedulesAndTheirUpkeep : Obligations.SchedulesAndTheirUpkeep := by
  intro s p hp x
  refine ⟨fun hf hb => ?_, fun hf hb => ?_, fun hf hb ht hst hv hs => ?_, fun f hf hlt hl hs => ?_,
    fun hf he hl h1 h2 => ?_, fun station wg line ht hn hst h4 hw hl hp hs => ?_, fun w station v h => next_congr (if_pos h),
    fun w v station h hst => ⟨_, next_congr (if_pos h), s.twlClear_stn hst⟩, fun w v => rfl⟩
  · obtain ⟨hgear, hlive, htwl⟩ := Partition.boundary_unmetered (s.powerBoundary_unmetered p)
    obtain ⟨hinject, hquiet⟩ := s.atBoundary.opened_listPorts
    refine ⟨_, exec_frameBoundary hf hb, ?_⟩
    rw [State.listPorts_part, State.opened_part, s.atBoundary_part hp]
    exact ⟨hgear, hlive, htwl, hinject, hquiet⟩
  · intro s1
    have hs1 : allRegions.foldl State.chooseRegion s = s1 := rfl
    clear_value s1
    intro c0 c
    have hrun := exec_gearChoice hf hb
    have hkeep : s1.part p = x := hs1 ▸ s.chooseRegions_part allRegions p
    have hht : s1.ht = s.ht := hs1 ▸ s.chooseRegions_ht allRegions
    rw [hs1, hht] at hrun
    refine ⟨_, hrun, fun hm => ?_, fun hm => ?_, s1.gearsChosen_over _⟩
    · rw [State.gearsChosen_part, if_pos hm]
      rfl
    · rw [State.gearsChosen_part, if_neg hm, hkeep]
  · have hkeep : (s.checkCircuits (some p)).part p = x := State.checkCircuits_same (·.part p) (fun _ _ => rfl) s _
    have hht : (s.checkCircuits (some p)).ht = s.ht := State.checkCircuits_same State.ht (fun _ _ => rfl) s _
    refine ⟨_, exec_twillActivate hf hb ht hst hv hs, ?_⟩
    rw [State.part_updPart_same, hkeep, hht]
    refine ⟨rfl, rfl, fun hla hsa hsf => if_pos ?_⟩
    change ((TwlSt.active == .active) && x.launch.isSome && x.st != .safeState && !x.standing && x.stopFrame.isNone) = true
    rw [hla, hsa, hsf, hst]
    rfl
  · obtain ⟨t, ht⟩ := State.trigger_lost hl hs
    obtain ⟨y, hy⟩ := t.enterNow_part p 9
    refine ⟨_, exec_twillStopTime hf hlt, ?_⟩
    rw [ht, hy]
    exact ⟨rfl, rfl, rfl, rfl⟩
  · refine ⟨_, exec_frameWordWrite hf he hl h1 h2, fun t ht hen hfe hdue => ?_⟩
    exact State.wordsTo hen hfe hdue p _ _ ht s ⟨⟨s.tiles, rfl⟩, rfl, rfl⟩
  · refine ⟨_, exec_ringSubstitute ht hp hn, ?_⟩
    have hst : ((s.swapped (ringKey station 0 wg line)).checkCircuits none).stn station = _ :=
      State.checkCircuits_same (·.stn station) (fun _ _ => rfl) _ _
    have hopt : ((s.swapped (ringKey station 0 wg line)).checkCircuits none).opt = _ :=
      State.checkCircuits_same State.opt (fun _ _ => rfl) _ _
    obtain ⟨hk1, hk2⟩ := s.swapped_keeps (ringKey station 0 wg line) station
    rw [hst, hopt, hk1, hk2, State.substitute_source h4 hw hl hs, hp]
    obtain ⟨htx, hline⟩ := State.takeSpare_source { s with opt := { s.opt with
      pendingSub := [ringKey station 0 wg line].filter (· != ringKey station 0 wg line) } } station wg line
    exact ⟨htx, hline, show [_].filter _ = _ by simp⟩

end Sys2Proof.Machine
end

section
/-! SUPPORT. Parking and waking (R344, O50). -/

namespace Sys2Proof.Machine

theorem minsert_minsert {α : Type} (m : SMap α) (k : Nat) (x y : α) : minsert (minsert m k x) k y = minsert m k y := by
  induction m with
  | nil => simp [minsert]
  | cons e m ih =>
    simp only [minsert]
    split
    · simp [minsert]
    · split
      · simp [minsert]
      · rename_i h1 h2
        simp only [minsert, if_neg h1, if_neg h2, ih]

theorem merase_minsert {α : Type} (m : SMap α) (k : Nat) (x : α) : merase (minsert m k x) k = merase m k := by
  unfold merase
  induction m with
  | nil => simp [minsert]
  | cons e m ih =>
    simp only [minsert]
    split
    · simp
    · split
      · rename_i h
        subst h
        simp
      · rw [List.filter_cons, List.filter_cons, ih]

/-- An entry that is listed and then written again is only written again. -/
theorem mset_mset {α : Type} [DecidableEq α] {d : α} (m : SMap α) (k : Nat) {x : α} (y : α) (h : x ≠ d) :
    mset d (mset d m k x) k y = mset d m k y := by
  unfold mset
  rw [if_neg h]
  split
  · exact merase_minsert m k x
  · exact minsert_minsert m k x y

/-- Two updates of a partition that the first leaves listed are one. -/
theorem State.updPart_updPart (s : State) (p : Nat) (f g : Partition → Partition) (h : f (s.part p) ≠ {}) :
    (s.updPart p f).updPart p g = s.updPart p (g ∘ f) := by
  have hp : (s.updPart p f).part p = f (s.part p) := s.part_updPart_same p f
  have hs : ∀ (x y : Partition), x ≠ {} → (s.setPart p x).setPart p y = s.setPart p y := fun x y hx => by
    unfold State.setPart
    dsimp only
    rw [mset_mset _ _ _ hx]
  unfold State.updPart at hp ⊢
  rw [hp]
  exact hs _ _ h

/-- A tile of a list takes an update that does the same twice as once. -/
theorem foldl_updTile {f : Tile → Tile} (hf : ∀ x, f (f x) = f x) (l : List Nat) (s : State) (t : Nat) (ht : t ∈ l) :
    (l.foldl (fun s t => s.updTile t f) s).tile t = f (s.tile t) := by
  have step : ∀ (s : State) a, (s.updTile a f).tile t = if t = a then f (s.tile t) else s.tile t := by
    intro s a
    by_cases h : t = a
    · subst h
      rw [if_pos rfl]
      exact State.tile_setTile_same s t _
    · rw [if_neg h]
      exact State.tile_setTile_ne s _ h
  induction l generalizing s with
  | nil => exact absurd ht List.not_mem_nil
  | cons a l ih =>
    rw [List.foldl_cons]
    by_cases hl : t ∈ l
    · rw [ih _ hl, step]
      split
      · exact hf _
      · rfl
    · obtain rfl := (List.mem_cons.mp ht).resolve_right hl
      refine (List.foldlRecOn l _ (motive := fun u : State => u.tile t = f (s.tile t)) ?_ fun u hu a _ => ?_)
      · rw [step, if_pos rfl]
      · rw [step, hu]
        split
        · exact hf _
        · rfl

/-! ## The writes of PWR_PARTp_CTRL -/

theorem bit_eq_getLsbD (v : W32) (i : Nat) : bit v.toNat i = v.getLsbD i := rfl

theorem exec_park {s : State} {w : Who} {p : Nat} {v : W32} (h : v.getLsbD 0 = true) :
    exec (.park w p v) s = .next (s.parkWrite w p v) := next_congr (if_pos h)

theorem exec_unpark {s : State} {w : Who} {p : Nat} {v : W32} (h : v.getLsbD 0 = false) :
    exec (.unpark w p v) s = .next (s.parkWrite w p v) := next_congr (if_neg (ne_true_of_eq_false h))

theorem State.parkWrite_denied {s : State} {w : Who} {p : Nat} (h : s.entitled w p = false) (v : W32) :
    s.parkWrite w p v = s.deny w := by
  unfold State.parkWrite
  rw [h]
  rfl

/-- AUTO_WAKE as a write of PWR_PARTp_CTRL gives it. -/
def Partition.autoWakeOf (v : W32) (x : Partition) : Partition := { x with autoWake := v.getLsbD 1 }

theorem State.entitled_autoWake (s : State) (w : Who) (p : Nat) (v : W32) :
    (s.updPart p (Partition.autoWakeOf v)).entitled w p = s.entitled w p := by
  unfold State.entitled
  rw [State.part_updPart_same]
  rfl

theorem State.parkWrite_on {s : State} {w : Who} {p : Nat} {v : W32} (hv : v.getLsbD 0 = true) (h : s.entitled w p = true) :
    s.parkWrite w p v =
      if (s.part p).parkSt = 1 ∨ (s.part p).parkSt = 2 then s.updPart p (Partition.autoWakeOf v)
      else if s.parkable p then (s.updPart p (Partition.autoWakeOf v)).parkCmd w p else s.parkCmd w p := by
  have hb : bit v.toNat 0 = true := hv
  unfold State.parkWrite
  rw [h, hb]
  rfl

theorem State.rootsOf_setPart (s : State) (p q : Nat) (x : Partition) : (s.setPart q x).rootsOf p = s.rootsOf p := by
  unfold State.rootsOf
  generalize dataStations = l
  rfl

theorem State.roundOpen_setPart (s : State) (station n q : Nat) (x : Partition) :
    (s.setPart q x).roundOpen station n = s.roundOpen station n := by
  unfold State.roundOpen
  generalize dataStations = l
  rfl

theorem State.parkable_autoWake (s : State) (p : Nat) (v : W32) :
    (s.updPart p (Partition.autoWakeOf v)).parkable p = s.parkable p := by
  unfold State.parkable
  rw [State.part_updPart_same]
  unfold State.updPart
  simp only [State.rootsOf_setPart, State.roundOpen_setPart]
  rfl

theorem State.parkCmd_free {s : State} {w : Who} {p : Nat} (h : s.entitled w p = true)
    (hp : (s.part p).parkSt = 0 ∨ (s.part p).parkSt = 3) :
    s.parkCmd w p = if s.parkable p then s.updPart p fun y => { y with park := true, parkSt := 1, parkHt := s.ht }
      else s.recStn 0x200A (some p) 26 [] := by
  have h12 : ¬ ((s.part p).parkSt = 1 ∨ (s.part p).parkSt = 2) := by omega
  unfold State.parkCmd
  dsimp only
  rw [h, if_neg h12]
  rfl

/-- R344: a park that is accepted, or not. -/
theorem exec_park_free {s : State} {w : Who} {p : Nat} {v : W32} (hv : v.getLsbD 0 = true) (he : s.entitled w p = true)
    (hp : (s.part p).parkSt = 0 ∨ (s.part p).parkSt = 3) :
    exec (.park w p v) s = .next (if s.parkable p then
        s.updPart p fun y => { y with autoWake := v.getLsbD 1, park := true, parkSt := 1, parkHt := s.ht }
      else s.recStn 0x200A (some p) 26 []) := by
  refine (exec_park hv).trans (next_congr ?_)
  rw [State.parkWrite_on hv he, if_neg (by omega)]
  cases hk : s.parkable p with
  | false =>
    rw [if_neg (by decide), if_neg (by decide), State.parkCmd_free he hp, hk]
    rfl
  | true =>
    have hl : (s.part p).isLoaded = true := by
      unfold State.parkable at hk
      simp only [Bool.and_eq_true] at hk
      exact hk.1.1.1
    have hne : Partition.autoWakeOf v (s.part p) ≠ {} := fun h => by
      have hst : (s.part p).st = .empty := congrArg Partition.st h
      rw [Partition.isLoaded, hst] at hl
      exact absurd hl (by decide)
    rw [if_pos rfl, if_pos rfl, State.parkCmd_free (by rw [s.entitled_autoWake, he]) (by rw [State.part_updPart_same]; exact hp),
      s.parkable_autoWake, hk, if_pos rfl, s.updPart_updPart p _ _ hne]
    rfl

/-- R344: PARK written 0. -/
theorem exec_unpark_entitled {s : State} {w : Who} {p : Nat} {v : W32} (hv : v.getLsbD 0 = false)
    (he : s.entitled w p = true) : exec (.unpark w p v) s = .next (s.updPart p fun y =>
      if (s.part p).park then { y with
        autoWake := v.getLsbD 1, park := false, parkSt := if y.parkSt = 1 then 0 else if y.parkSt = 2 then 3 else y.parkSt }
      else { y with autoWake := v.getLsbD 1 }) := by
  have hb : bit v.toNat 0 = false := hv
  refine (exec_unpark hv).trans (next_congr ?_)
  unfold State.parkWrite
  rw [he, hb]
  cases hk : (s.part p).park with
  | false => rfl
  | true =>
    have hne : Partition.autoWakeOf v (s.part p) ≠ {} := fun h => by
      have hp : (s.part p).park = false := congrArg Partition.park h
      exact absurd hp (ne_false_of_eq_true hk)
    change (s.updPart p (Partition.autoWakeOf v)).unparkCmd w p = _
    unfold State.unparkCmd
    rw [s.entitled_autoWake, he, if_neg (by decide), s.updPart_updPart p _ _ hne]
    rfl

/-! ## The entry, the waking and the restart -/

/-- R344: an idle tile of a parking partition. -/
def Tile.retain (y : Tile) : Tile := if y.st = .idle then { y with st := .retention } else y

/-- R344: a retained tile of a partition that runs again. -/
def Tile.wake (y : Tile) : Tile := if y.st = .retention then { y with st := .idle } else y

theorem Tile.retain_retain (y : Tile) : y.retain.retain = y.retain := by
  unfold Tile.retain
  split
  · rfl
  · rfl

theorem Tile.wake_wake (y : Tile) : y.wake.wake = y.wake := by
  unfold Tile.wake
  split
  · rfl
  · rfl

theorem State.retainRegion_tile (s : State) (k t : Nat) : (s.retainRegion k).tile t = s.tile t := by
  unfold State.retainRegion
  split <;> rfl

/-- R344 PARK_ENTER in the interval of a parking partition. -/
theorem exec_parkEnter {s : State} {p : Nat} (h1 : (s.part p).parkSt = 1) (hf : s.time.st ≠ .free)
    (h63 : 63040 ≤ framePos s.ht) (hn : s.nextInterval (s.part p).parkHt = true) :
    exec (.parkEnter p) s = .next (((s.part p).regions.foldl State.retainRegion
      ((s.part p).tiles.foldl (fun s t => s.updTile t Tile.retain) s)).updPart p fun y => { y with parkSt := 2 }) := by
  refine next_congr (if_neg ?_)
  rintro (h | h | h | h)
  · exact h h1
  · exact hf h
  · omega
  · exact absurd hn (ne_true_of_eq_false h)

/-- R344: where a partition's last region is up, no region changes but for its wait. -/
theorem State.wakeAll_same {γ : Type} (g : State → γ) (h : ∀ (s : State) r (o : Option Nat),
    g (s.setRgn r { s.rgn r with wakeReady := o }) = g s) (hid : ∀ (s : State) r, g (s.setRgn r (s.rgn r)) = g s)
    (s : State) : g s.wakeAll = g s := by
  unfold State.wakeAll
  generalize allParts = l
  refine foldl_same g _ (fun b p => ?_) _ s
  refine foldl_same g _ (fun c r => ?_) _ b
  unfold State.updRgn
  dsimp only
  split
  · exact h c r _
  · exact hid c r

/-- R344: one region at full rail, before the wait of the others is noted. -/
def State.railUp (s : State) (r : Nat) : State :=
  { s with power := { s.power with lastWake := some s.ht } }.updRgn r
    fun r => { r with retained := false, rising := false, wakeReady := if r.rising then some s.ht else r.wakeReady }

theorem exec_wakeRegionUp {s : State} {r : Nat} (hd : s.wakeDue = true) (hr : s.wakingRegions.head? = some r) :
    exec (.wakeRegionUp r) s = .next (s.railUp r).wakeAll := next_congr (if_pos ⟨hd, hr⟩)

theorem exec_wakeRegionUp_early {s : State} {r : Nat} (hd : s.wakeDue = false) :
    exec (.wakeRegionUp r) s = .next s := next_congr (if_neg fun h => absurd h.1 (ne_true_of_eq_false hd))

theorem State.wakeAll_retained (s : State) (r : Nat) : (s.wakeAll.rgn r).retained = (s.rgn r).retained := by
  refine s.wakeAll_same (fun s => (s.rgn r).retained) (fun s k o => ?_) fun s k => ?_
  all_goals
    by_cases h : r = k
    · subst h
      rw [State.rgn_setRgn_same]
    · rw [State.rgn_setRgn_ne _ _ h]

/-- R344 WAKE_RESTART at a boundary with every region of the partition up. -/
theorem exec_wakeRestart {s : State} {p : Nat} (h3 : (s.part p).parkSt = 3) (hf : framePos s.ht = 0)
    (hr : ∀ r ∈ (s.part p).regions, (s.rgn r).retained = false ∧ (s.rgn r).stopped = false) :
    exec (.wakeRestart p) s = .next (((s.part p).tiles.foldl (fun s t => s.updTile t Tile.wake) s).updPart p
      fun y => { y with parkSt := 0 }) := by
  refine next_congr (if_neg ?_)
  rintro (h | h | h)
  · exact h h3
  · exact h hf
  · obtain ⟨r, hm, hb⟩ := List.any_eq_true.mp h
    rw [(hr r hm).1, (hr r hm).2] at hb
    exact absurd hb (by decide)

/-- Settles O50: each write of PWR_PARTp_CTRL is at most one update of the partition; a tile's update is the same done
twice, so that the folds over the partition's tiles give it once. -/
theorem parkingAndWaking : Obligations.ParkingAndWaking := by
  intro s w p v x
  refine ⟨fun hv he => ⟨fun hp hk => ?_, fun hp hk => ?_, fun hp => ?_⟩, fun he hv => ?_, fun h1 hf h63 hn => ?_,
    fun hv he => exec_unpark_entitled hv he, fun r hr h1000 ht => ?_, fun r hr ht hn => exec_wakeRegionUp_early ?_,
    fun h3 hf hr => ?_⟩
  · refine (exec_park_free hv he hp).trans (next_congr (if_pos hk))
  · exact ⟨_, (exec_park_free hv he hp).trans (next_congr (if_neg (ne_true_of_eq_false hk))), rfl⟩
  · exact (exec_park hv).trans (next_congr ((State.parkWrite_on hv he).trans (if_pos hp)))
  · exact (exec_park hv).trans (next_congr (State.parkWrite_denied he v))
  · refine ⟨_, exec_parkEnter h1 hf h63 hn, ?_, fun t ht => ?_⟩
    · exact congrArg Partition.parkSt (State.part_updPart_same _ p _)
    · exact (foldl_same (fun s : State => s.tile t) State.retainRegion (fun b k => b.retainRegion_tile k t) _ _).trans
        (foldl_updTile Tile.retain_retain _ s t ht)
  · have hd : s.wakeDue = true := by
      unfold State.wakeDue
      rw [h1000]
      cases hl : s.power.lastWake with
      | none => rfl
      | some t => simpa using ht t hl
    refine ⟨_, exec_wakeRegionUp hd hr, ?_, ?_⟩
    · rw [State.wakeAll_retained]
      exact congrArg Region.retained (State.rgn_setRgn_same _ _ _)
    · exact State.wakeAll_same (fun s => s.power.lastWake) (fun _ _ _ => rfl) (fun _ _ => rfl) (s.railUp r)
  · unfold State.wakeDue
    cases hl : s.power.lastWake with
    | none => exact absurd hl hn
    | some t =>
      have := ht t hl
      simp
      omega
  · refine ⟨_, exec_wakeRestart h3 hf hr, ?_, fun t ht => ?_⟩
    · exact congrArg Partition.parkSt (State.part_updPart_same _ p _)
    · exact foldl_updTile Tile.wake_wake _ s t ht

end Sys2Proof.Machine
end

section
/-! SUPPORT. Hall time from the reference source (O44). -/

namespace Sys2Proof.Machine

@[simp] theorem State.setTime_time (s : State) (t : TimeDom) : (s.setTime t).time = t := rfl

@[simp] theorem State.recTime_time (s : State) (c : Nat) (d : List Byte) : (s.recTime c d).time = s.time := rfl

theorem State.stepDone_time (s : State) (n : Nat) : (s.stepDone n).time = s.time := by
  unfold State.stepDone
  dsimp only
  split <;> rfl

theorem State.stepDone_power (s : State) (n : Nat) : (s.stepDone n).power = s.power := by
  unfold State.stepDone
  dsimp only
  split <;> rfl

theorem TimeDom.epochOk_iff (t : TimeDom) (e : Nat) : t.epochOk e = true ↔ t.st = .free ∨ t.epoch.toNat = e := by
  simp [TimeDom.epochOk]

/-- R293: what a good word makes of the time. -/
def TimeDom.worded (t : TimeDom) (word : BitVec 128) : TimeDom :=
  let w := (wordNext word, wordQuality word, wordEpoch word)
  if t.word.isSome && t.pulseInRun then { t with prevWord := t.word, word := some w, pulseInRun := false }
  else { t.endRun with word := some w }

theorem TimeDom.worded_keeps (t : TimeDom) (word : BitVec 128) :
    (t.worded word).word = some (wordNext word, wordQuality word, wordEpoch word) ∧ (t.worded word).badWord = t.badWord := by
  unfold TimeDom.worded
  dsimp only
  split <;> exact ⟨rfl, rfl⟩

/-- R293: a word that is timely and whose QUALITY and CRC permit it. -/
theorem exec_timeWordReceive {s : State} {word : BitVec 128} (hm : s.time.mode = 0) (hl : s.time.pllLocked = true) :
    exec (.timeWordReceive word true) s = .next (
      if wordOk word then
        s.setTime (if s.time.epochOk (wordEpoch word) then (s.time.worded word).quality (wordQuality word)
          else (s.time.worded word).bad)
      else s.setTime s.time.endRun.bad) := by
  refine next_congr ((if_neg ?_).trans ?_)
  · rintro (h | h)
    · exact h hm
    · exact absurd hl (ne_true_of_eq_false h)
  · rw [Bool.not_true, Bool.and_false, Bool.or_false]
    cases wordOk word <;> rfl

/-- R293: a pulse is taken into its run. -/
def State.pulseSeen (s : State) : State := s.setTime { s.time with pulseInRun := true }

/-- R293, R294: a pulse that is timely in its run, of a word that is the next of its run. -/
theorem exec_syncPulse {s : State} {wd pw : Nat × Nat × Nat} {arrival : Int} (hm : s.time.mode = 0)
    (hl : s.time.pllLocked = true) (hw : s.time.word = some wd) (hp : s.time.prevWord = some pw)
    (hr : s.time.pulseInRun = false) (hn : wd.1 = pw.1 + 100000) (he : s.time.epochOk wd.2.2 = true) :
    exec (.syncPulse 100000000 arrival) s = .next (s.pulseSeen.measured
      (BitVec.ofNat 16 wd.2.2) (s.time.pulseOffset wd.1 arrival)) := by
  refine next_congr ((if_neg ?_).trans ?_)
  · rintro (h | h)
    · exact h hm
    · exact absurd hl (ne_true_of_eq_false h)
  · dsimp only
    split
    · next h => exact nomatch hw.symm.trans h
    · next h => exact nomatch hp.symm.trans h
    · next w' p' h1 h2 =>
      obtain rfl := Option.some.inj (hw.symm.trans h1)
      obtain rfl := Option.some.inj (hp.symm.trans h2)
      rw [if_neg (by rw [hr]; decide), if_neg (not_not_intro hn)]
      exact congrArg (fun t => (s.setTime t).measured (BitVec.ofNat 16 wd.2.2) (s.time.pulseOffset wd.1 arrival)) (if_pos he)

/-- R294, R299: the first measurement in FREE. -/
theorem State.measured_free {s : State} (hb : s.timeBegun = true) (hf : s.time.st = .free) (e : BitVec 16) (o : Int) :
    s.measured e o = State.stepDone { s.setTime (s.time.acquire e o) with power := { s.power with gearHold := true } } 4 := by
  unfold State.measured
  rw [if_neg (ne_false_of_eq_true hb)]
  exact if_pos hf

/-- R292: a measurement when a REACQUIRE is accepted. -/
theorem State.measured_reacquire {s : State} (hb : s.timeBegun = true) (hf : s.time.st ≠ .free)
    (hr : s.time.reacqPending = true) (e : BitVec 16) (o : Int) : s.measured e o = s.reacquireNow e o := by
  unfold State.measured
  rw [if_neg (ne_false_of_eq_true hb)]
  exact (if_neg hf).trans (if_pos hr)

/-- R294: a measurement by the acquired source. -/
theorem State.measured_track {s : State} (hb : s.timeBegun = true) (hst : s.time.st = .locked ∨ s.time.st = .acquiring)
    (hr : s.time.reacqPending = false) (hm : s.time.remeasure = false) (o : Int) :
    s.measured s.time.epoch o = (s.setTime { s.time with
      present := some (s.time.epoch, o, s.time.ht)
      returned := s.time.returned && s.time.present.all (·.1 == s.time.epoch) }).track o := by
  have hf : s.time.st ≠ .free := by rcases hst with h | h <;> rw [h] <;> decide
  have hh : ¬ (s.time.st = .holdover ∨ s.time.remeasure = true) := by
    rintro (h | h)
    · rcases hst with h' | h' <;> rw [h'] at h <;> exact absurd h (by decide)
    · exact absurd h (ne_true_of_eq_false hm)
  unfold State.measured
  rw [if_neg (ne_false_of_eq_true hb)]
  refine (if_neg hf).trans ((if_neg (ne_true_of_eq_false hr)).trans ?_)
  exact (if_neg hh).trans (if_pos rfl)

/-- R290, R294: the settling changes STATE and the uncertainty alone. -/
theorem State.settleTime_keeps (s : State) : s.settleTime.time.ht = s.time.ht ∧ s.settleTime.time.frac = s.time.frac ∧
    s.settleTime.time.slew = s.time.slew ∧ s.settleTime.time.lastValid = s.time.lastValid := by
  unfold State.settleTime
  dsimp only
  split <;> split <;> exact ⟨rfl, rfl, rfl, rfl⟩

/-- R290, R294: a time that is locked, or has been acquired, is locked. -/
theorem State.settleTime_locked {s : State} (h : s.time.st = .locked ∨ s.time.st = .acquiring ∧ s.time.acquired = true) :
    s.settleTime.time.st = .locked := by
  unfold State.settleTime
  dsimp only
  rcases h with h | h
  · have hn : ¬ (s.time.st = .acquiring ∧ s.time.acquired = true) := fun h' => absurd (h.symm.trans h'.1) (by decide)
    rw [if_neg hn]
    split <;> exact h
  · rw [if_pos h]
    split <;> rfl

/-- R287, R294: a tracked measurement leaves the count and is slewed out. -/
theorem State.track_keeps (s : State) (o : Int) : (s.track o).time.ht = s.time.ht ∧ (s.track o).time.frac = s.time.frac ∧
    (s.track o).time.slew = o * 65536 ∧ (s.track o).time.lastValid = some s.ht :=
  State.settleTime_keeps _

/-- R294: the 16th measurement within 0.25 ns. -/
theorem State.track_locked {s : State} {o : Int} (hm : s.time.mode = 0) (hst : s.time.st = .locked ∨ s.time.st = .acquiring)
    (h16 : 16 ≤ s.time.good025 + 1) (ho : o.natAbs ≤ 16384) : (s.track o).time.st = .locked := by
  refine State.settleTime_locked (hst.imp_right fun h => ⟨h, ?_⟩)
  unfold TimeDom.acquired
  refine (if_pos hm).trans (decide_eq_true ?_)
  change 16 ≤ (if o.natAbs ≤ 16384 then s.time.good025 + 1 else 0)
  rw [if_pos ho]
  exact h16

/-- R293, R294: the module as a pulse by the acquired source finds it. -/
def State.pulsed (s : State) (o : Int) : State :=
  s.setTime { s.time with
    pulseInRun := true, present := some (s.time.epoch, o, s.time.ht)
    returned := s.time.returned && s.time.present.all (·.1 == s.time.epoch) }

theorem State.measured_pulsed {s : State} (hb : s.timeBegun = true) (hst : s.time.st = .locked ∨ s.time.st = .acquiring)
    (hr : s.time.reacqPending = false) (hm : s.time.remeasure = false) {e : Nat} (he : s.time.epoch.toNat = e) (o : Int) :
    s.pulseSeen.measured (BitVec.ofNat 16 e) o = (s.pulsed o).track o := by
  have hepoch : BitVec.ofNat 16 e = s.time.epoch := by rw [← he, BitVec.ofNat_toNat, BitVec.setWidth_eq]
  rw [hepoch]
  exact State.measured_track (s := s.pulseSeen) hb hst hr hm o

/-- R175, R291: time is lost for one partition after another. -/
theorem State.timeLostFor_same {γ : Type} (g : State → γ) (h : ∀ (s : State) q x, g (s.setPart q x) = g s) (s : State)
    (q : Nat) : g (s.timeLostFor q) = g s := by
  unfold State.timeLostFor
  dsimp only
  split
  · exact h _ _ _
  · rfl

/-- R291: the strict schedule of a loaded partition stops at the end of this frame. -/
theorem State.timeLostFor_stops {s : State} {p : Nat} (hl : (s.part p).isLoaded = true) (hs : (s.part p).strict = true)
    (ha : (s.part p).adaptive = false) (hsafe : (s.part p).st ≠ .safeState) (hf : (s.part p).stopFrame = none) :
    ((s.timeLostFor p).part p).stopFrame = some (frameOf s.ht) := by
  unfold State.timeLostFor
  dsimp only
  rw [if_pos (by rw [hl, hs, ha, hf]; simpa using hsafe)]
  exact congrArg Partition.stopFrame (State.part_updPart_same s p _)

theorem State.timeLostFor_ne (s : State) {p q : Nat} (h : p ≠ q) : (s.timeLostFor q).part p = s.part p := by
  unfold State.timeLostFor
  dsimp only
  split
  · exact State.part_updPart_ne s _ h
  · rfl

/-- R291: of all partitions that time is lost for, one is a strict loaded one. -/
theorem State.timeLost_stops {p : Nat} (l : List Nat) (hd : l.Nodup) (hm : p ∈ l) (s : State)
    (hl : (s.part p).isLoaded = true) (hs : (s.part p).strict = true)
    (ha : (s.part p).adaptive = false) (hsafe : (s.part p).st ≠ .safeState) (hf : (s.part p).stopFrame = none) :
    ((l.foldl (fun s p => s.timeLostFor p) s).part p).stopFrame = some (frameOf s.ht) := by
  induction l generalizing s with
  | nil => exact absurd hm List.not_mem_nil
  | cons q l ih =>
    obtain ⟨hq, hd'⟩ := List.nodup_cons.mp hd
    rw [List.foldl_cons]
    by_cases h : p = q
    · subst h
      rw [← s.timeLostFor_stops hl hs ha hsafe hf]
      refine congrArg Partition.stopFrame ?_
      exact List.foldlRecOn l _ (motive := fun u : State => u.part p = (s.timeLostFor p).part p) rfl
        fun u hu r hr => (u.timeLostFor_ne (ne_of_mem_of_not_mem hr hq).symm).trans hu
    · have hk := s.timeLostFor_ne h
      have hht : (s.timeLostFor q).ht = s.ht := State.timeLostFor_same State.ht (fun _ _ _ => rfl) s q
      rw [← hht]
      exact ih hd' ((List.mem_cons.mp hm).resolve_left h) _ (by rwa [hk]) (by rwa [hk]) (by rwa [hk]) (by rwa [hk]) (by rwa [hk])

/-- R289: what holdover makes of the time. -/
def State.heldOver (s : State) : State :=
  let t := s.time
  (s.setTime { t with
    st := .holdover, uncertain := true, lossHt := t.ht, loss := satInc 65535 t.loss
    slew := 0, good1 := 0, good025 := 0, estimates := 0
    returned := false, remeasure := t.remeasure && !t.returned }).recTime 0x1001 (leInt 4 t.offset)

theorem exec_holdoverEnter {s : State} {last : Nat} (hst : s.time.st = .locked ∨ s.time.st = .acquiring)
    (hl : s.time.lastValid = some last) (hd : last + 1000000 ≤ s.time.ht) :
    exec .holdoverEnter s = .next (allParts.foldl (fun s p => s.timeLostFor p) s.heldOver) := by
  refine next_congr (if_pos ⟨hst, ?_⟩)
  rw [hl]
  exact decide_eq_true hd

theorem State.heldOver_folded (s : State) (l : List Nat) :
    (l.foldl (fun s p => s.timeLostFor p) s.heldOver).time = s.heldOver.time :=
  foldl_same State.time (fun s p => s.timeLostFor p) (fun b p => State.timeLostFor_same State.time (fun _ _ _ => rfl) b p) l _

/-- R316: the counters of the time domain cleared. -/
theorem State.timClear_keeps (s : State) : s.timClear.time = { s.time with badWord := 0, loss := 0 } := by
  unfold State.timClear
  generalize dataStations = l
  exact foldl_same State.time (fun s n => s.updStn n fun x => { x with mismatch := 0 }) (fun _ _ => rfl) l _

theorem State.timClear_stn (s : State) {n : Nat} (hn : n < 31) : s.timClear.stn n = { s.stn n with mismatch := 0 } := by
  have hm := mem_dataStations hn
  have hd := dataStations_nodup
  unfold State.timClear
  generalize dataStations = l at hm hd ⊢
  exact (foldl_updStn (fun _ x => { x with mismatch := 0 }) l hd _ n).trans (if_pos hm)

/-- R292 SOURCE_RETURN of a source of the acquired epoch in HOLDOVER. -/
theorem exec_sourceReturn {s : State} {o : Int} (hs : s.time.source = some (s.time.epoch, o)) (hst : s.time.st = .holdover)
    (hr : s.time.returned = false) : exec .sourceReturn s = .next (
      if (psOf o).natAbs ≤ 100000000 then
        (s.setTime { s.time with
          st := .locked, slew := o * 65536, lastValid := some s.time.ht, good1 := 0, good025 := 0, estimates := 0
          returned := true, remeasure := false }).recTime 0x1002 [BitVec.ofNat 8 s.time.mode]
      else
        let s' := s.setTime { s.time with
          disagree := true, returned := true, remeasure := s.time.remeasure && s.time.st != .holdover }
        if s.time.disagree then s' else s'.recTime 0x1003 (leInt 8 (psOf o / 1000))) := by
  refine next_congr ?_
  dsimp only
  rw [hs]
  dsimp only
  rw [hr, hst, if_neg (by simp), if_neg (by decide : ¬ TimeSt.holdover = .locked)]
  exact if_congr (by simp) rfl rfl

/-- R292: a write of REACQUIRE. -/
theorem exec_reacquire {s : State} {w : Who} {v : W32} (hv : v.getLsbD 0 = true) : exec (.reacquire w v) s = .next (
    if s.loadedParts.isEmpty && s.time.source.isSome then s.setTime { s.time with reacqPending := true }
    else s.recTime 0x1004 []) := by
  have hb : bit v.toNat 0 = true := hv
  refine next_congr (if_neg ?_)
  rw [hb]
  decide

/-- Settles O44: a word and a pulse by the state of their run, a measurement by STATE and the pending REACQUIRE. -/
theorem hallTimeFromTheReference : Obligations.HallTimeFromTheReference := by
  intro s w v t
  refine ⟨fun hm hl hb => ?_, fun hl => ?_, fun hm hl => ⟨fun word hw => ?_, fun word hw he => ?_⟩,
    fun wd pw arrival hb hm hl hw hp hr hn => ?_, fun p last hst hl hd hp => ?_, fun o hs hst hr hdis => ⟨fun ho => ?_, fun ho => ?_⟩,
    fun hv hl hs => (exec_reacquire hv).trans (next_congr (if_pos (by rw [hl, hs]; rfl))),
    fun hv hl => ⟨_, (exec_reacquire hv).trans (next_congr (if_neg fun h => ?_)), rfl⟩,
    fun n hv hn => ⟨_, next_congr (if_pos hv), s.timClear_keeps, s.timClear_stn hn⟩, fun hv => ⟨_, next_congr (if_neg hv), rfl, rfl, rfl, rfl⟩⟩
  · refine ⟨_, next_congr (if_neg ?_), rfl, rfl, rfl, rfl⟩
    rintro (h | h | h)
    · exact h hm
    · exact absurd h (ne_true_of_eq_false hl)
    · exact absurd hb (ne_true_of_eq_false h)
  · exact ⟨_, next_congr (if_pos hl), rfl, rfl, rfl, rfl⟩
  · exact ⟨_, (exec_timeWordReceive hm hl).trans (next_congr (if_neg (ne_true_of_eq_false hw))), rfl, rfl⟩
  · refine ⟨_, (exec_timeWordReceive hm hl).trans (next_congr (if_pos hw)), ?_⟩
    obtain ⟨h1, h2⟩ := t.worded_keeps word
    rw [if_pos he]
    exact ⟨h1, h2, fun hq => by simp [TimeDom.quality, hq]⟩
  · intro o
    have run := fun he => exec_syncPulse (arrival := arrival) hm hl hw hp hr hn he
    refine ⟨fun hf => ?_, fun hst hq hrm he => ?_, fun hf hq he => ?_⟩
    · refine ⟨_, (run ((t.epochOk_iff _).mpr (.inl hf))).trans (next_congr (State.measured_free (s := s.pulseSeen) hb hf _ _)), ?_⟩
      rw [State.stepDone_time, State.stepDone_power]
      exact ⟨rfl, rfl, rfl, rfl, rfl⟩
    · refine ⟨(s.pulsed o).track o, (run ((t.epochOk_iff _).mpr (.inr he))).trans
        (next_congr (State.measured_pulsed hb hst hq hrm he o)), ?_⟩
      obtain ⟨h1, h2, h3, h4⟩ := (s.pulsed o).track_keeps o
      exact ⟨h1, h2, h3, h4, fun h16 ho => State.track_locked hm hst h16 ho⟩
    · refine ⟨_, (run ((t.epochOk_iff _).mpr (.inr he))).trans 
        (next_congr (State.measured_reacquire (s := s.pulseSeen) hb hf hq _ _)), rfl, rfl, rfl⟩
  · refine ⟨_, exec_holdoverEnter hst hl hd, ?_⟩
    rw [State.heldOver_folded]
    refine ⟨rfl, rfl, rfl, rfl, rfl, rfl, fun h1 h2 h3 h4 h5 => ?_⟩
    exact State.timeLost_stops allParts allParts_nodup (mem_allParts hp) s.heldOver h1 h2 h3 h4 h5
  · exact ⟨_, (exec_sourceReturn hs hst hr).trans (next_congr (if_pos ho)), rfl, rfl, rfl, hdis⟩
  · refine ⟨_, (exec_sourceReturn hs hst hr).trans (next_congr (if_neg (Nat.not_le_of_lt ho))), ?_⟩
    dsimp only
    split <;> exact ⟨hst, rfl, rfl⟩
  · exact hl (List.isEmpty_iff.mp (Bool.and_eq_true_iff.mp h).1)

end Sys2Proof.Machine
end

section
/-! SUPPORT. Hall time over the hall (O45). -/

namespace Sys2Proof.Machine

@[simp] theorem State.tport_setTport_same (s : State) (n : Nat) (x : TimePort) : (s.setTport n x).tport n = x :=
  mget_mset_same _ _ _ _

theorem State.tport_setTport_ne (s : State) {n m : Nat} (x : TimePort) (h : m ≠ n) :
    (s.setTport n x).tport m = s.tport m := mget_mset_ne _ _ _ h

/-- The ports with the excluded ones marked (R299). -/
def State.markExcluded (s : State) (out : List Nat) : State :=
  timePorts.foldl (fun s n => s.setTport n { s.tport n with excluded := out.contains n }) s

/-- R299: marking the excluded ports changes nothing else of a port. -/
theorem State.markExcluded_port {γ : Type} (g : TimePort → γ) (hg : ∀ (x : TimePort) b, g { x with excluded := b } = g x)
    (s : State) (out : List Nat) (m : Nat) : g ((s.markExcluded out).tport m) = g (s.tport m) := by
  refine foldl_same (fun s : State => g (s.tport m)) _ (fun s n => ?_) timePorts s
  by_cases h : m = n
  · subst h
    rw [State.tport_setTport_same, hg]
  · rw [State.tport_setTport_ne _ _ h]

/-- R299: marking the excluded ports changes the ports alone. -/
theorem State.markExcluded_same {γ : Type} (g : State → γ) (hg : ∀ (s : State) n x, g (s.setTport n x) = g s)
    (s : State) (out : List Nat) : g (s.markExcluded out) = g s :=
  foldl_same g (fun s n => s.setTport n { s.tport n with excluded := out.contains n }) (fun _ _ => hg _ _ _) timePorts s

/-- R298: a port that has accepted its first reply. -/
def State.replied (s : State) (n : Nat) (e : BitVec 16) (rtt ofs : Rat) : State :=
  (s.setTime { s.time with srcUncertain := false }).setTport n { s.tport n with
    valid := true, rtt := Nat.min 65535 rtt.floor.toNat, ofs := ofs, epoch := e, acceptedAt := s.ht
    history := ((s.tport n).history.filter fun h => s.ht ≤ h.1 + 100000000) ++ [(s.ht, rtt)], foreign := none }

/-- R296, R298: a reply of good quality in time, the first of its port. -/
theorem State.reply_first {s : State} {n : Nat} {e : BitVec 16} {rtt ofs : Rat} (hh : (s.tport n).history = [])
    (he : s.time.epochOk e.toNat = true) (hr : rtt ≤ (s.time.rttMax : Rat)) :
    s.reply n 0 e rtt ofs = s.replied n e rtt ofs := by
  have hbest : (s.tport n).bestRtt s.ht = none := by
    unfold TimePort.bestRtt
    rw [hh]
    rfl
  unfold State.reply
  dsimp only
  rw [if_neg (by decide), if_neg, if_neg (by rw [he]; decide)]
  · rfl
  · rintro (h | h | h)
    · exact h rfl
    · exact absurd hr (Rat.not_le.mpr h)
    · rw [hbest] at h
      exact absurd h Bool.false_ne_true

/-- R297: round trip and offset of a reply, in ns, from its payload and its arrival in units of 2^-16 ns. -/
def replyRtt (pl : List Byte) (u4 : Int) : Rat := mkRat ((u4 - stampOf pl 4) - (stampOf pl 28 - stampOf pl 16)) 65536

def replyOfs (pl : List Byte) (u4 : Int) : Rat := mkRat ((stampOf pl 16 - stampOf pl 4) + (stampOf pl 28 - u4)) 131072

theorem exec_timeReplyReceive {s : State} {port n : Nat} {p : Packet} {t4 : Nat} {f4 : BitVec 16} (hm : s.time.mode = 1)
    (hok : s.timePktOk port p = true) (h0 : nth 0 p.payload 0 = 1)
    (hf : timePorts.find? (fun m => s.tpEnabled m && tpPort (s.tport m).cfgNow == port) = some n) :
    exec (.timeReplyReceive port p t4 f4) s = .next (s.reply n (nth 0 p.payload 1).toNat
      (BitVec.ofNat 16 (leNat ((p.payload.drop 2).take 2))) (replyRtt p.payload ((t4 : Int) * 65536 + f4.toNat))
      (replyOfs p.payload ((t4 : Int) * 65536 + f4.toNat))) := by
  refine next_congr ((if_neg ?_).trans ?_)
  · rintro (h | h | h)
    · exact h hm
    · exact absurd hok (ne_true_of_eq_false h)
    · exact h (by rw [h0]; rfl)
  · split
    · next h => exact nomatch hf.symm.trans h
    · next k h =>
      obtain rfl := Option.some.inj (hf.symm.trans h)
      rfl

/-- R299: the live ports' estimate where it is to be used. -/
theorem exec_timeEstimateCombine_some {s : State} {n m : Nat} (hm : s.time.mode = 1) (ht : s.ht % 10000 = 0)
    (hl : timePorts.filter (fun m => s.tpEnabled m && (s.tport m).valid) = [n, m])
    (ha : apart (s.tport n).ofs (s.tport m).ofs = false) :
    exec .timeEstimateCombine s = .next ((s.markExcluded []).measured ((s.markExcluded []).tport n).epoch
      (((s.tport n).ofs + (s.tport m).ofs) / 2 * 65536).floor) := by
  have hc : combine [(n, (s.tport n).ofs), (m, (s.tport m).ofs)] = (some (((s.tport n).ofs + (s.tport m).ofs) / 2), []) := by
    exact congrArg (·, []) (if_neg (ne_true_of_eq_false ha))
  refine next_congr ((if_neg fun h => h.elim (fun h => h hm) fun h => h ht).trans ?_)
  dsimp only
  rw [hl]
  simp only [List.map_cons, List.map_nil, hc]
  rfl

/-- R299: one live port gives no estimate, and no other source is there. -/
theorem exec_timeEstimateCombine_one {s : State} {n : Nat} (hm : s.time.mode = 1) (ht : s.ht % 10000 = 0)
    (hl : timePorts.filter (fun m => s.tpEnabled m && (s.tport m).valid) = [n]) (hf : ∀ m, (s.tport m).foreign = none) :
    exec .timeEstimateCombine s = .next ((s.markExcluded []).setTime (s.markExcluded []).time.noSource) := by
  have hforeign : ∀ m, ((s.markExcluded []).tport m).foreign = none := fun m =>
    (s.markExcluded_port TimePort.foreign (fun _ _ => rfl) [] m).trans (hf m)
  refine next_congr ((if_neg fun h => h.elim (fun h => h hm) fun h => h ht).trans ?_)
  dsimp only
  rw [hl]
  have hone : combine [(n, (s.tport n).ofs)] = (none, []) := rfl
  unfold State.markExcluded at hforeign ⊢
  simp only [List.map_cons, List.map_nil, hone, hforeign]
  have hnone : timePorts.filterMap (fun _ => (none : Option (Nat × BitVec 16 × Rat))) = [] := by
    generalize timePorts = l
    simp
  simp only [hnone]
  rfl

/-- Settles O45: the estimate of one port is none and of two that agree their mean; every other command is one branch. -/
theorem hallTimeFromTheFabric : Obligations.HallTimeFromTheFabric := by
  intro s n t x
  refine ⟨fun hm he ht hst hup => ?_, fun port p t4 f4 hm hok h0 h1 hf hh he => ?_, fun hv ha => ?_,
    fun hm ht hl hst hfo => ?_, fun m hm ht hl hst hb ha => ?_, fun port p hs hm hok hd h0 => ?_, fun hi hc => ?_⟩
  · refine ⟨_, next_congr (if_neg ?_), rfl, rfl⟩
    rintro (h | h | h | ⟨h, h'⟩ | h)
    · exact h hm
    · exact absurd he (ne_true_of_eq_false h)
    · exact h ht
    · obtain ⟨hmaint, hplane⟩ := hst h
      rcases h' with h' | h'
      · exact absurd h' (ne_true_of_eq_false hmaint)
      · exact hplane h'
    · exact absurd hup (ne_true_of_eq_false h)
  · intro t1 t2 t3 u4 hr
    refine ⟨s.replied n (BitVec.ofNat 16 (leNat ((p.payload.drop 2).take 2))) (replyRtt p.payload u4) (replyOfs p.payload u4),
      (exec_timeReplyReceive hm hok h0 hf).trans (next_congr ?_), ?_⟩
    · rw [h1]
      exact State.reply_first hh he hr
    · rw [State.replied, State.tport_setTport_same]
      exact ⟨rfl, rfl, rfl⟩
  · exact next_congr (if_pos (by rw [hv]; simpa using ha))
  · refine ⟨_, exec_timeEstimateCombine_one hm ht hl hfo, ?_, rfl⟩
    exact (s.markExcluded_same (fun s => s.time.st) (fun _ _ _ => rfl) []).trans hst
  · have hboot : (s.markExcluded []).timeBegun = true := (s.markExcluded_same State.timeBegun (fun _ _ _ => rfl) []).trans hb
    have hstate : (s.markExcluded []).time.st = .free :=
      (s.markExcluded_same (fun s => s.time.st) (fun _ _ _ => rfl) []).trans hst
    have hunits : (s.markExcluded []).time.units = t.units := s.markExcluded_same (fun s => s.time.units) (fun _ _ _ => rfl) []
    have hepoch : ((s.markExcluded []).tport n).epoch = x.epoch := s.markExcluded_port TimePort.epoch (fun _ _ => rfl) [] n
    have hrun := exec_timeEstimateCombine_some hm ht hl ha
    rw [State.measured_free hboot hstate, hepoch] at hrun
    refine ⟨_, hrun, ?_⟩
    rw [State.stepDone_time, ← hunits]
    exact ⟨rfl, rfl, rfl⟩
  · refine next_congr (if_neg ?_)
    rw [show s.time.serve = true from hs, show s.time.mode = 0 from hm, hok, hd, h0]
    simp
  · refine next_congr (if_neg ?_)
    rw [hi, hc]
    decide

end Sys2Proof.Machine
end

section
/-! SUPPORT. The stations' copies of hall time and the region clocks (O46). -/

namespace Sys2Proof.Machine


/-- R305: a 17th missing tick in a row. -/
theorem exec_tickMissing_next {s : State} {n : Nat} (h : s.ht / 8 = (s.stn n).missAt / 8 + 1) (hb : (s.stn n).timeBad = false) :
    exec (.tickMissing n) s = .next (
      if 16 ≤ (s.stn n).missTicks then
        let t := (s.setStn n { s.stn n with
          missTicks := (s.stn n).missTicks + 1, missAt := s.ht, timeBad := true }).recStn 0x1007 none n []
        (t.partsAtStation n).foldl (fun s p => s.timeLostFor p) t
      else s.setStn n { s.stn n with missTicks := (s.stn n).missTicks + 1, missAt := s.ht }) := by
  refine next_congr ?_
  dsimp only
  rw [if_pos h, hb]
  exact if_congr (by simp) rfl rfl

/-- R308: a region that steps: its point changes, and nothing keeps it from it. -/
theorem Region.beginStep_step {r : Region} (hs : r.steppable = true) (hd : r.stepDown = false) (ho : r.opNext ≠ r.op)
    (frame : Nat) : r.beginStep frame =
      { r with stopped := true, locked := false, stepTo := some r.opNext, stepFrame := some frame } := by
  have hstop : r.stopped = false := by
    unfold Region.steppable at hs
    simp only [Bool.and_eq_true, Bool.not_eq_true'] at hs
    exact hs.1.1.2
  have hwake : ¬ r.wakesNow (64000 * frame + 63040) = true := by
    unfold Region.wakesNow
    rw [hstop]
    exact Bool.false_ne_true
  unfold Region.beginStep
  rw [if_neg hwake, hs, hd, if_neg (by decide),
    if_neg (show ¬ (false && r.op == 3) = true from Bool.false_ne_true), if_pos (by simp [ho])]

/-- R308: one region at 63,040. -/
def State.stepRegion (s : State) (k : Nat) : State :=
  let r := s.rgn k
  let r' := r.beginStep (frameOf s.ht)
  let s := s.setRgn k r'
  if r'.fallback && !r.fallback then s.recDie 0x100C none (k / 16) [] else s

theorem State.stepRegion_rgn (s : State) (k : Nat) : (s.stepRegion k).rgn k = (s.rgn k).beginStep (frameOf s.ht) := by
  unfold State.stepRegion
  dsimp only
  split <;> exact State.rgn_setRgn_same _ _ _

theorem State.stepRegion_keeps (s : State) {j k : Nat} (h : j ≠ k) :
    (s.stepRegion k).rgn j = s.rgn j := by
  unfold State.stepRegion
  dsimp only
  split <;> exact State.rgn_setRgn_ne _ _ h

theorem State.stepRegion_ht (s : State) (k : Nat) : (s.stepRegion k).ht = s.ht := by
  unfold State.stepRegion
  dsimp only
  split <;> rfl

theorem exec_clockStepStop {s : State} (hf : s.time.st ≠ .free) (h : framePos s.ht = 63040) :
    exec .clockStepStop s = .next (allRegions.foldl State.stepRegion s) :=
  next_congr (if_neg fun h' => h'.elim hf fun h' => h' h)

/-- R308: of the regions stepped one after another, each takes its own step. -/
theorem State.stepRegions_rgn (l : List Nat) (hd : l.Nodup) {j : Nat} (hm : j ∈ l) (s : State) :
    (l.foldl State.stepRegion s).rgn j = (s.rgn j).beginStep (frameOf s.ht) := by
  induction l generalizing s with
  | nil => exact absurd hm List.not_mem_nil
  | cons k l ih =>
    obtain ⟨hk, hd'⟩ := List.nodup_cons.mp hd
    rw [List.foldl_cons]
    by_cases h : j = k
    · subst h
      rw [← s.stepRegion_rgn j]
      exact List.foldlRecOn l _ (motive := fun u : State => u.rgn j = (s.stepRegion j).rgn j) rfl
        fun u hu r hr => (u.stepRegion_keeps (ne_of_mem_of_not_mem hr hk).symm).trans hu
    · rw [ih hd' ((List.mem_cons.mp hm).resolve_left h), s.stepRegion_keeps h, s.stepRegion_ht]

theorem mem_allRegions {n : Nat} (h : n < 320) : n ∈ allRegions := List.mem_range.mpr h

theorem allRegions_nodup : allRegions.Nodup := List.nodup_range

/-- A record that may be written leaves the regions. -/
theorem State.rgn_recIf (s : State) (c : Prop) [Decidable c] (code : Nat) (p : Option Nat) (d : Nat) (bs : List Byte) (n : Nat) :
    (if c then s.recDie code p d bs else s).rgn n = s.rgn n := by
  split <;> rfl

/-- R311: the events of a window with faulty jitter and a duty of one half. -/
def jitterEvents (warn : Bool) : BitVec 6 := BitVec.ofNat 6 (b2n warn + 2 * b2n true + 4 * b2n false)

/-- R311: a region's window whose jitter is at fault for the 16th time. -/
theorem State.regionWindow_fault {s : State} {n jit : Nat} (hb : (s.rgn n).boot = .enabled) (hs : (s.rgn n).stopped = false)
    (hr : (s.rgn n).jitRun = 15) (hj : s.time.jitFault < jit) : ∃ warn, (s.regionWindow n jit 200 200).rgn n =
      { s.rgn n with
        jitPP := Nat.min 255 jit, dutyMin := Nat.min 255 200, dutyMax := Nat.min 255 200
        evt := (s.rgn n).evt ||| jitterEvents warn, jitRun := 0, dutyRun := 0
        stepDown := (s.rgn n).stepDown || true || false } := by
  have hj' : monitorRun (decide (s.time.jitFault < jit)) (s.rgn n).jitRun = (0, true) := by
    rw [hr, decide_eq_true hj]
    rfl
  have hd' : monitorRun (decide (s.time.dutyFault < Nat.max (dutyOff 200) (dutyOff 200))) (s.rgn n).dutyRun = (0, false) := by
    rw [show Nat.max (dutyOff 200) (dutyOff 200) = 0 from rfl, decide_eq_false (Nat.not_lt_zero _)]
    rfl
  unfold State.regionWindow
  dsimp only
  rw [if_neg (fun h => h.elim (fun h => h hb) fun h => absurd h (ne_true_of_eq_false hs)), hj', hd']
  refine ⟨decide (s.time.jitWarn < jit) || decide (s.time.dutyWarn < Nat.max (dutyOff 200) (dutyOff 200)), ?_⟩
  rw [State.rgn_recIf, State.rgn_recIf, State.rgn_recIf, State.rgn_setRgn_same]
  rfl

/-- Settles O46: each command has one case per branch; the regions' step is read off its fold at one region. -/
theorem stationTimeAndRegionClocks : Obligations.StationTimeAndRegionClocks := by
  intro s n x r
  refine ⟨fun wd => ?_, fun h16 hb ht => ?_, fun h16 hb ht => ?_, fun hb hr hm hw => ?_, fun rt hv => next_congr ?_,
    fun hn hf h63 hs hd ho => ?_, fun to_ hs ht h63 => ?_, fun to_ ht hf h63 hr hl hsf => ?_, fun jit ht hb hs hj hf => ?_,
    fun ps ht => ?_, fun short hb hs hf => ?_⟩
  · intro due
    refine ⟨fun hr hw => ?_, fun hr hw => ?_, fun hr => ?_⟩
    · obtain ⟨h1, h2⟩ : (true && x.resync) ≠ true ∧ (true && decide ((wd.nextHt : Int) * 65536 = due * 65536 + x.dev)) ≠ true := by
        rw [hr, decide_eq_false hw]
        decide
      refine ⟨_, next_congr ((if_neg h1).trans (if_neg h2)), ?_⟩
      rw [State.recStn, State.stn_record, State.stn_setStn_same]
      exact ⟨rfl, rfl, rfl⟩
    · refine next_congr ((if_neg (by rw [hr]; decide)).trans (if_pos ?_))
      exact decide_eq_true hw
    · exact next_congr (if_pos (by rw [hr]; rfl))
  · refine ⟨_, (exec_tickMissing_next ht hb).trans (next_congr (if_pos h16.ge)), ?_⟩
    refine (congrArg Station.timeBad (foldl_same (fun s : State => s.stn n) (fun s p => s.timeLostFor p)
      (fun u p => u.timeLostFor_same (·.stn n) (fun _ _ _ => rfl) p) _ _)).trans ?_
    exact congrArg Station.timeBad (State.stn_setStn_same s n _)
  · exact (exec_tickMissing_next ht hb).trans (next_congr (if_neg (Nat.not_le_of_lt h16)))
  · refine ⟨_, next_congr (if_pos ?_), State.stn_setStn_same s n _⟩
    have hwell : x.badWordAt.all (fun h => decide (h + 8000 ≤ s.ht)) = true := by
      cases hx : x.badWordAt with
      | none => rfl
      | some h => exact decide_eq_true (hw h hx)
    rw [hb, hr, show (s.stn n).badWordAt.all _ = true from hwell, decide_eq_true hm]
    rfl
  · exact if_pos (by rw [hv]; rfl)
  · refine ⟨_, exec_clockStepStop hf h63, ?_⟩
    rw [State.stepRegions_rgn allRegions allRegions_nodup (mem_allRegions hn), Region.beginStep_step hs hd ho]
  · refine ⟨_, next_congr (if_neg ?_), ?_⟩
    · rw [hs, ht]
      simp
      omega
    · rw [State.recDie, State.rgn_record, State.rgn_setRgn_same]
      exact ⟨rfl, rfl, rfl, rfl⟩
  · refine next_congr ?_
    dsimp only
    split
    · next h => exact nomatch ht.symm.trans h
    · next o h =>
      obtain rfl := Option.some.inj (ht.symm.trans h)
      have hgo : ¬ (s.time.st = .free ∨ framePos s.ht < 63680 + 10 * (n % 16) ∨ r.retained = true ∨ r.sdLatch = true) := by
        rintro (h | h | h | h)
        · exact hf h
        · omega
        · exact absurd h (ne_true_of_eq_false hr)
        · exact absurd h (ne_true_of_eq_false hl)
      rw [if_neg hgo, if_neg (ne_true_of_eq_false hsf), show (s.rgn n).stepFailed = false from hsf]
      rfl
  · obtain ⟨warn, hw⟩ := State.regionWindow_fault hb hs hj hf
    refine ⟨_, next_congr (if_neg (not_not_intro ht)), ?_⟩
    change ((s.regionWindow n jit 200 200).rgn n).jitRun = _ ∧ ((s.regionWindow n jit 200 200).rgn n).stepDown = _ ∧
      ((s.regionWindow n jit 200 200).rgn n).jitPP = _ ∧ ((s.regionWindow n jit 200 200).rgn n).evt.getLsbD 1 = _
    rw [hw]
    refine ⟨rfl, by simp, rfl, ?_⟩
    rw [BitVec.getLsbD_or, show (jitterEvents warn).getLsbD 1 = true by cases warn <;> rfl, Bool.or_true]
  · refine next_congr ((if_neg (not_not_intro ht)).trans ?_)
    exact if_congr ⟨fun h => h.resolve_right (by decide), .inl⟩ rfl rfl
  · refine ⟨_, next_congr (if_neg ?_), ?_⟩
    · rintro (h | h | h)
      · exact h hb
      · exact absurd h (ne_true_of_eq_false hs)
      · exact absurd h (ne_true_of_eq_false hf)
    · rw [State.recDie, State.rgn_record, State.recDie, State.rgn_record, State.rgn_setRgn_same]
      exact ⟨rfl, rfl, rfl⟩

end Sys2Proof.Machine
end

section
/-! SUPPORT. Launches from the record to the ring (O47). -/

namespace Sys2Proof.Machine

theorem State.portErr_part (s : State) (w : Who) (p : Nat) : (s.portErr w).part p = s.part p := by
  cases w <;> rfl

/-! ## A write of STATE (R454) -/

/-- A partition without AUTO_WAKE is woken by no record. -/
theorem Partition.autoWakes_off {x : Partition} (h : x.autoWake = false) : x.autoWakes = x :=
  if_neg fun h' => absurd h'.1 (ne_true_of_eq_false h)

/-- R454: the word of STATE written to a FREE record. -/
theorem LaunchRec.writeWords_state {r : LaunchRec} (h : r.st = .free) {bs : List Byte} (hl : bs.length = 4) :
    (r.writeWords 32 (chunks 4 bs)).1 = if (bs.headD 0).toNat = 1 then { r with st := .pending } else r := by
  have hc : chunks 4 bs = [bs] := by
    match bs, hl with
    | [a, b, c, d], _ => rfl
  have hw : r.writeWord 32 bs = (recStWrite .free (bs.headD 0).toNat).map fun st => { r with st := st } := by
    rw [← h]
    rfl
  rw [hc]
  unfold LaunchRec.writeWords
  rw [hw]
  by_cases h1 : (bs.headD 0).toNat = 1
  · rw [h1]
    rfl
  · have hnone : recStWrite .free (bs.headD 0).toNat = none := by
      unfold recStWrite
      split <;> simp_all
    rw [hnone, if_neg h1]
    rfl

/-- The effect of a write of a record's words through BAR4 (R454). -/
def State.recWritten (s : State) (w : Who) (p i b : Nat) (bs : List Byte) : State :=
  let r := (mget {} (s.part p).table i).writeWords b (chunks 4 bs)
  let t := (s.updPart p fun x => { x with table := mset {} x.table i r.1 }).updPart p Partition.autoWakes
  if r.2 then t.portErr w else t

theorem exec_launchRecordWrite {s : State} {w : Who} {p i : Nat} {bs : List Byte} (hr : s.cfg.recMode = false) (hp : p < 64)
    (hi : i < 256) (he : s.entitled w p = true) (hl : bs.length = 4) :
    exec (.launchRecordWrite w (p * 0x4000 + i * 64 + 32) ⟨bs, false⟩) s = .next (s.recWritten w p i 32 bs) := by
  have h1 : (p * 0x4000 + i * 64 + 32) / 0x4000 = p := by omega
  have h2 : (p * 0x4000 + i * 64 + 32) % 0x4000 / 64 = i := by omega
  have h3 : (p * 0x4000 + i * 64 + 32) % 64 = 32 := by omega
  refine next_congr ?_
  dsimp only
  rw [if_neg (by decide), if_neg (ne_true_of_eq_false hr), if_neg (by omega), h1, h2, h3, he, if_neg (by decide), hl,
    if_neg (by decide)]
  rfl

theorem State.recWritten_rec {s : State} {w : Who} {p i b : Nat} {bs : List Byte} (ha : (s.part p).autoWake = false) :
    mget {} ((s.recWritten w p i b bs).part p).table i =
      ((mget {} (s.part p).table i).writeWords b (chunks 4 bs)).1 := by
  have hk : ∀ (c : Bool) (t : State), (if c then t.portErr w else t).part p = t.part p := by
    intro c t
    cases c
    · rfl
    · exact t.portErr_part w p
  unfold State.recWritten
  dsimp only
  rw [hk, State.part_updPart_same, State.part_updPart_same, Partition.autoWakes_off (by exact ha)]
  exact mget_mset_same _ _ _ _

/-! ## The decision (R455) -/

/-- R455: a record is taken where no tile of the partition has stopped. -/
theorem State.takeRec_runs {s : State} {p : Nat} (phase i : Nat)
    (h : ∀ t ∈ (s.part p).tiles, (s.tile t).st ≠ .fencing ∧ (s.tile t).st ≠ .fenced ∧ (s.tile t).st ≠ .faulted) :
    s.takeRec p phase i = (s.updPart p fun x => { x with
      table := mupd {} x.table i fun r => { r with st := .running, startHt := BitVec.ofNat 64 phase } }).updPart p
        fun x => { x with launch := some { index := i, phase := phase } } := by
  have hnone : ((s.updPart p fun x => { x with
      table := mupd {} x.table i fun r => { r with st := .running, startHt := BitVec.ofNat 64 phase } }).partTiles p).filter
      (fun x => x.st == .fencing || x.st == .fenced || x.st == .faulted) = [] := by
    refine List.filter_eq_nil_iff.mpr fun y hy => ?_
    unfold State.partTiles at hy
    rw [State.part_updPart_same] at hy
    obtain ⟨t, ht, rfl⟩ := List.mem_map.mp hy
    obtain ⟨h1, h2, h3⟩ := h t ht
    change ¬ ((s.tile t).st == .fencing || (s.tile t).st == .fenced || (s.tile t).st == .faulted) = true
    simp [h1, h2, h3]
  unfold State.takeRec
  dsimp only
  rw [hnone]
  rfl

theorem exec_launchDecision {s : State} {p : Nat} {r : Nat × Nat} (hph : (s.ht + 1000) % 2000 = 0) (hf : s.time.st ≠ .free)
    (hst : (s.part p).st = .loaded) (hl : (s.part p).launch = none) (ht : (s.part p).twl ≠ .stoppedTime)
    (hns : (s.part p).noSample = false) (hsd : (s.part p).standing = false)
    (hck : (s.part p).ck = .armed → s.ht + 1000 ≠ (s.part p).ckFrame.toNat * 64000) (hpk : (s.part p).parkSt = 0)
    (hr : firstDue ((s.part p).dueRecs (s.ht + 1000)) = some r) :
    exec (.launchDecision p) s = .next (s.takeRec p (s.ht + 1000) r.2) := by
  have hopen : ¬ ((s.part p).st ≠ .loaded ∨ (s.part p).launch.isSome = true ∨ (s.part p).twl = .stoppedTime ∨
      (s.part p).noSample = true ∨ (s.part p).standing = true ∨
      ((s.part p).ck = .armed ∧ s.ht + 1000 = (s.part p).ckFrame.toNat * 64000)) := by
    rintro (h | h | h | h | h | ⟨h, h'⟩)
    · exact h hst
    · rw [hl] at h
      exact absurd h (by decide)
    · exact ht h
    · exact absurd h (ne_true_of_eq_false hns)
    · exact absurd h (ne_true_of_eq_false hsd)
    · exact hck h h'
  refine next_congr ?_
  dsimp only
  rw [if_neg (fun h => h.elim (fun h => h hph) hf), if_neg (by rw [hst]; decide), if_neg hopen, if_neg (not_not_intro hpk)]
  split
  · next h => exact nomatch hr.symm.trans h
  · next q h =>
    obtain rfl := Option.some.inj (hr.symm.trans h)
    rfl

/-! ## The start (R97, R314) -/

/-- R97, R314: one tile of a partition at the launch phase. -/
def Tile.launched (entry : Nat) (arg jt : W64) (y : Tile) : Tile :=
  if y.st = .idle then y.start entry arg jt else { y with haltCode := none }

theorem Tile.launched_launched (entry : Nat) (arg jt : W64) (y : Tile) :
    (y.launched entry arg jt).launched entry arg jt = y.launched entry arg jt := by
  unfold Tile.launched
  by_cases h : y.st = .idle
  · rw [if_pos h]
    exact if_neg (by decide : ¬ TileSt.running = .idle)
  · rw [if_neg h]
    exact if_neg h

theorem exec_launchStart {s : State} {p : Nat} {l : LaunchRun} (hl : (s.part p).launch = some l) (hs : l.started = false)
    (hn : l.stopStatus = none) (hp : l.phase ≤ s.ht)
    (h : ∀ t ∈ (s.part p).tiles, (s.tile t).st = .idle ∨ (s.tile t).st = .faulted ∨ (s.tile t).st = .fencing ∨ (s.tile t).st = .fenced) :
    exec (.launchStart p) s = .next (((s.part p).tiles.foldl (fun s' t => s'.updTile t
      (Tile.launched ((mget {} (s.part p).table l.index).entry.toNat % 8) (mget {} (s.part p).table l.index).arg
        (jobTime (s.part p) l.phase))) s).updPart p fun y => { y with launch := some { l with started := true } }) := by
  have hall : (s.partTiles p).all (fun y => y.st == .idle || y.outOfLaunch) = true := by
    refine List.all_eq_true.mpr fun y hy => ?_
    obtain ⟨t, ht, rfl⟩ := List.mem_map.mp hy
    unfold Tile.outOfLaunch
    rcases h t ht with h | h | h | h <;> rw [h] <;> rfl
  refine next_congr ?_
  dsimp only
  split
  · next h => exact nomatch hl.symm.trans h
  · next l' h =>
    obtain rfl := Option.some.inj (hl.symm.trans h)
    refine if_neg ?_
    rw [hs, hn, hall, decide_eq_false (Nat.not_lt_of_le hp)]
    decide

/-! ## The end (R98, R456, R457) -/

/-- R98, R456: the record of a launch whose tiles have all stopped. -/
def State.launchResult (s : State) (p : Nat) (l : LaunchRun) : LaunchRec :=
  { mget {} (s.part p).table l.index with
    status := if ((s.partTiles p).filter fun x => x.st != .idle).length = 0 then St.done else St.internal
    haltCode := maxHalt (s.partTiles p) % 65536, faulted := ((s.partTiles p).filter fun x => x.st != .idle).length
    startHt := BitVec.ofNat 64 l.phase, endHt := BitVec.ofNat 64 s.ht, st := .done }

/-- R456: the partition that holds the record of its ended launch. -/
def State.recEnded (s : State) (p i : Nat) (r : LaunchRec) : State :=
  (s.updPart p fun x => { x with launch := none }).updPart p fun x =>
    { x with table := mset {} x.table i r, launches := (x.launches + 1) % 2 ^ 32 }

theorem State.recEnded_part (s : State) (p i : Nat) (r : LaunchRec) : (s.recEnded p i r).part p = { s.part p with
    launch := none, table := mset {} (s.part p).table i r, launches := ((s.part p).launches + 1) % 2 ^ 32 } := by
  unfold State.recEnded
  rw [State.part_updPart_same, State.part_updPart_same]

/-- R98: the tiles of a launch have all stopped. -/
theorem exec_launchEnd {s : State} {p : Nat} {l : LaunchRun} (hl : (s.part p).launch = some l) (hs : l.started = true)
    (hn : l.stopStatus = none) (h : (s.partTiles p).all Tile.launchOver = true) :
    exec (.launchEnd p) s = .next (((s.recEnded p l.index (s.launchResult p l)).ringWrite p l.index
      (s.launchResult p l)).launchMsix p (s.launchResult p l)) := by
  refine next_congr ?_
  unfold State.endLaunch
  split
  · next h => exact nomatch hl.symm.trans h
  · next l' h' =>
    obtain rfl := Option.some.inj (hl.symm.trans h')
    dsimp only
    split
    · next h => exact nomatch hn.symm.trans h
    · have hrec : mget {} ((s.updPart p fun x => { x with launch := none }).part p).table l.index =
          mget {} (s.part p).table l.index := by rw [State.part_updPart_same]
      refine (if_pos (by rw [hs, h]; rfl)).trans ?_
      unfold State.finishRec
      rw [hrec]
      rfl

/-- R456, R457: with EN 0 neither a ring record nor a message. -/
theorem State.ringWrite_off {s : State} {p : Nat} (h : (s.part p).cqEn = false) (i : Nat) (r : LaunchRec) :
    (s.ringWrite p i r).launchMsix p r = s := by
  have hr : s.ringWrite p i r = s := if_pos (by rw [h]; rfl)
  rw [hr]
  exact if_neg (by rw [h]; exact Bool.false_ne_true)

theorem State.launchMsix_part (s : State) (p q : Nat) (r : LaunchRec) : (s.launchMsix p r).part q = s.part q := by
  unfold State.launchMsix State.sendMsix
  dsimp only
  split
  · split <;> rfl
  · rfl

theorem State.launchMsix_out (s : State) (p : Nat) (r : LaunchRec) {o : Out} (h : o ∈ s.out) : o ∈ (s.launchMsix p r).out := by
  unfold State.launchMsix State.sendMsix
  dsimp only
  split
  · split
    · exact List.mem_append_left _ h
    · exact h
  · exact h

/-- R457: the ring of an owner that has read everything takes a record. -/
theorem State.ringWrite_empty {s : State} {p : Nat} (he : (s.part p).cqEn = true) (ho : (s.part p).owner = 1)
    (hw : (s.part p).cqWp = (s.part p).cqRp) (i : Nat) (r : LaunchRec) : ∃ data, s.ringWrite p i r =
      (s.emit (.pcieWrite 0 ((s.part p).cqBase.toNat + (s.part p).cqWp.toNat % 2 ^ (s.part p).cqSize * 32) data)).updPart p
        fun y => { y with cqWp := y.cqWp + 1 } := by
  have hroom : ¬ ((s.part p).cqWp - (s.part p).cqRp).toNat = 2 ^ (s.part p).cqSize := by
    rw [hw, BitVec.sub_self]
    exact (Nat.two_pow_pos _).ne
  unfold State.ringWrite
  dsimp only
  rw [he, ho, if_neg (by decide), if_neg hroom]
  exact ⟨_, rfl⟩

/-! ## The largest HALT code (R98) -/

theorem foldl_max_le {α : Type} (f : α → Nat) (l : List α) (n : Nat) :
    n ≤ l.foldl (fun m x => Nat.max m (f x)) n ∧ (∀ y ∈ l, f y ≤ l.foldl (fun m x => Nat.max m (f x)) n) ∧
      (l.foldl (fun m x => Nat.max m (f x)) n = n ∨ ∃ y ∈ l, f y = l.foldl (fun m x => Nat.max m (f x)) n) := by
  induction l generalizing n with
  | nil => simp
  | cons a l ih =>
    obtain ⟨h1, h2, h3⟩ := ih (Nat.max n (f a))
    have hn : n ≤ Nat.max n (f a) := Nat.le_max_left _ _
    have ha : f a ≤ Nat.max n (f a) := Nat.le_max_right _ _
    refine ⟨hn.trans h1, fun y hy => ?_, ?_⟩
    · rcases List.mem_cons.mp hy with rfl | hy
      · exact ha.trans h1
      · exact h2 y hy
    · rw [List.foldl_cons]
      rcases h3 with h3 | ⟨y, hy, h3⟩
      · rw [h3]
        rcases Nat.le_total (f a) n with h | h
        · exact .inl (Nat.max_eq_left h)
        · exact .inr ⟨a, List.mem_cons_self, (Nat.max_eq_right h).symm⟩
      · exact .inr ⟨y, List.mem_cons_of_mem _ hy, h3⟩

theorem maxHalt_spec (xs : List Tile) : (∀ m, (∃ y ∈ xs, y.haltCode = some m) → m ≤ maxHalt xs) ∧
    (maxHalt xs = 0 ∨ ∃ y ∈ xs, y.haltCode = some (maxHalt xs)) := by
  obtain ⟨-, h2, h3⟩ := foldl_max_le (fun x : Tile => x.haltCode.getD 0) xs 0
  constructor
  · rintro m ⟨y, hy, hm⟩
    have := h2 y hy
    rwa [hm] at this
  · rcases h3 with h3 | ⟨y, hy, h3⟩
    · exact .inl h3
    · cases hh : y.haltCode with
      | none =>
        rw [hh] at h3
        exact .inl h3.symm
      | some m =>
        rw [hh] at h3
        exact .inr ⟨y, hy, hh.trans (congrArg some h3)⟩

/-- Settles O47: each command is one lemma; the folds over the partition's tiles update each of them once, and the end's
record is the entry of the table that was written. -/
theorem launchesRunAndEnd : Obligations.LaunchesRunAndEnd := by
  intro s w p x
  refine ⟨fun i bs hr hp hi he hfree ha hl => ?_, fun offset bs => ⟨rfl, fun hr => ?_, fun hr ho he => ?_⟩,
    fun r hph hf hst hl ht hns hsd hck hpk hr htiles => ?_, fun l hl hs hn hp htiles => ?_,
    fun l hl hs hn htiles hc => ?_, fun l hl hs hn htiles hbad hc ho hw => ?_, fun m hm => ?_, fun t ht hle => ?_, fun v he => ?_⟩
  · refine ⟨_, exec_launchRecordWrite hr hp hi he hl, ?_⟩
    rw [State.recWritten_rec ha]
    exact LaunchRec.writeWords_state hfree hl
  · exact next_congr ((if_neg Bool.false_ne_true).trans (if_pos hr))
  · refine next_congr ?_
    dsimp only
    rw [if_neg (by decide), if_neg (ne_true_of_eq_false hr), if_neg (by omega), he]
    rfl
  · refine ⟨_, (exec_launchDecision hph hf hst hl ht hns hsd hck hpk hr).trans
      (next_congr (State.takeRec_runs _ _ htiles)), ?_⟩
    rw [State.part_updPart_same, State.part_updPart_same]
    exact ⟨rfl, mget_mset_same _ _ _ _⟩
  · intro r
    refine ⟨_, exec_launchStart hl hs hn hp htiles, congrArg Partition.launch (State.part_updPart_same _ p _), fun t ht => ?_⟩
    have htile := foldl_updTile (Tile.launched_launched (r.entry.toNat % 8) r.arg (jobTime x l.phase)) x.tiles s t ht
    rw [State.updPart, State.tile_setPart, htile]
    unfold Tile.launched
    constructor
    · intro hidle
      rw [if_pos hidle]
      refine ⟨rfl, rfl, ?_, ?_⟩
      · exact (((s.tile t).ws 1 r.arg).rs_ws_ne _ (by decide)).trans ((s.tile t).rs_ws_same _ (by decide))
      · exact Tile.rs_ws_same _ _ (by decide)
    · intro hbusy
      rw [if_neg hbusy]
      exact ⟨rfl, rfl, rfl⟩
  · have hover : (s.partTiles p).all Tile.launchOver = true := by
      refine List.all_eq_true.mpr fun y hy => ?_
      obtain ⟨t, ht, rfl⟩ := List.mem_map.mp hy
      obtain ⟨h1, h2⟩ := htiles t ht
      rw [Tile.launchOver, h1, h2]
      rfl
    have hnone : (s.partTiles p).filter (fun x => x.st != .idle) = [] := by
      refine List.filter_eq_nil_iff.mpr fun y hy => ?_
      obtain ⟨t, ht, rfl⟩ := List.mem_map.mp hy
      rw [(htiles t ht).1]
      decide
    have hzero : ((s.partTiles p).filter fun x => x.st != .idle).length = 0 := congrArg List.length hnone
    have hrun := exec_launchEnd hl hs hn hover
    rw [State.ringWrite_off (by rw [State.recEnded_part]; exact hc)] at hrun
    refine ⟨_, hrun, ?_⟩
    rw [State.recEnded_part]
    dsimp only
    rw [mget_mset_same]
    exact ⟨rfl, rfl, if_pos hzero, rfl, hzero, rfl, rfl⟩
  · have hover : (s.partTiles p).all Tile.launchOver = true := by
      refine List.all_eq_true.mpr fun y hy => ?_
      obtain ⟨t, ht, rfl⟩ := List.mem_map.mp hy
      unfold Tile.launchOver Tile.outOfLaunch
      rcases htiles t ht with ⟨h1, h2⟩ | h | h | h
      · rw [h1, h2]
        rfl
      all_goals
        rw [h]
        simp
    have hsome : ¬ ((s.partTiles p).filter fun x => x.st != .idle).length = 0 := by
      obtain ⟨t, ht, hb⟩ := hbad
      refine (List.length_pos_of_mem (List.mem_filter.mpr ⟨List.mem_map_of_mem ht, ?_⟩)).ne'
      simpa using hb
    have hpart := s.recEnded_part p l.index (s.launchResult p l)
    obtain ⟨data, hring⟩ := State.ringWrite_empty (s := s.recEnded p l.index (s.launchResult p l)) (p := p)
      (by rw [hpart]; exact hc) (by rw [hpart]; exact ho) (by rw [hpart]; exact hw) l.index (s.launchResult p l)
    have hrun := exec_launchEnd hl hs hn hover
    rw [hring, hpart] at hrun
    refine ⟨_, hrun, ?_⟩
    rw [State.launchMsix_part, State.part_updPart_same, State.part_emit, hpart]
    dsimp only
    rw [mget_mset_same]
    refine ⟨rfl, rfl, if_neg hsome, rfl, data, State.launchMsix_out _ p _ ?_⟩
    exact List.mem_append_right _ List.mem_cons_self
  · obtain ⟨h1, h2⟩ := maxHalt_spec (s.partTiles p)
    exact ⟨h1 m hm, h2⟩
  · refine next_congr ?_
    rw [ht]
    exact if_pos hle
  · refine next_congr (if_neg ?_)
    rw [he]
    decide

end Sys2Proof.Machine
end

section
/-! SUPPORT. Saving and resuming a partition (O43). -/

namespace Sys2Proof.Machine

/-! ## What reading and writing the area leaves -/

theorem State.hbmCorr_same {γ : Type} (g : State → γ) (hc : ∀ (s : State) c x, g (s.setChan c x) = g s) (s : State)
    (a n : Nat) : g (s.hbmCorr a n) = g s := by
  unfold State.hbmCorr
  dsimp only
  split
  · rfl
  · exact hc _ _ _

/-- R230: reading module memory counts and records alone. -/
theorem State.readLine_same {γ : Type} (g : State → γ) (hc : ∀ (s : State) c x, g (s.setChan c x) = g s)
    (he : ∀ (s : State) e, g { s with evt := e } = g s) (s : State) (a n : Nat) : g (s.readLine a n).1 = g s := by
  unfold State.readLine
  dsimp only
  split
  · exact (he _ _).trans (hc _ _ _)
  · exact State.hbmCorr_same g hc s a n

theorem State.readLines_same {γ : Type} (g : State → γ) (hc : ∀ (s : State) c x, g (s.setChan c x) = g s)
    (he : ∀ (s : State) e, g { s with evt := e } = g s) (s : State) (a n : Nat) : g (s.readLines a n).1 = g s :=
  List.foldlRecOn _ _ (motive := fun acc : State × (List Byte ⊕ Byte) => g acc.1 = g s) rfl
    fun acc h _ _ => (State.readLine_same g hc he acc.1 _ _).trans h

/-- R281: reading an area counts and records alone. -/
theorem State.areaRead_same {γ : Type} (g : State → γ) (hc : ∀ (s : State) c x, g (s.setChan c x) = g s)
    (he : ∀ (s : State) e, g { s with evt := e } = g s) (s : State) (p n : Nat) (host : List Byte) :
    g (s.areaRead p n host).1 = g s := by
  unfold State.areaRead
  split
  · split
    · rfl
    · exact State.readLines_same g hc he s _ _
  · rfl
  · rfl

/-- R228: a write of the module itself leaves the partitions. -/
theorem State.storeAt_part (s : State) (w : BitVec 256) (va : Nat) (bs : List Byte) (p : Nat) :
    (s.storeAt w va bs).1.part p = s.part p := by
  unfold State.storeAt
  split
  · rfl
  · split
    · rfl
    · dsimp only
      split <;> rfl

theorem State.storeLines_part (s : State) (w : BitVec 256) (va : Nat) (bs : List Byte) (p : Nat) :
    (s.storeLines w va bs).1.part p = s.part p :=
  List.foldlRecOn _ _ (motive := fun acc : State × Byte => acc.1.part p = s.part p) rfl
    fun acc h _ _ => (acc.1.storeAt_part _ _ _ p).trans h

theorem State.writeArea_part (s : State) (p : Nat) (host : Byte) : (s.writeArea p host).1.part p = s.part p := by
  unfold State.writeArea
  split
  · exact State.storeLines_part _ _ _ _ _
  · split <;> rfl
  · rfl

/-! ## The bytes of the area (R279) -/

theorem Mem.write_clean {m : Mem} (h : m.hbmPoison = []) (a : Nat) (bs : List Byte) : (m.write a bs).hbmPoison = [] := by
  unfold Mem.write
  dsimp only
  split <;> simp [Mem.writeKey, h]

theorem Mem.badPartial_clean {m : Mem} (h : m.hbmPoison = []) (a n : Nat) : m.badPartial a n = none := by
  unfold Mem.badPartial
  rw [h]
  rfl

theorem State.storeAt_clean {s : State} {w : BitVec 256} (hs : s.safe.shared = false) (hw : wPermW w = true)
    (hp : s.mem.hbmPoison = []) (va : Nat) (bs : List Byte) :
    s.storeAt w va bs = ({ s with mem := s.mem.write (wTarget w + (va - wBase w)) bs }, St.done) := by
  unfold State.storeAt
  rw [hs, hw, if_neg (by decide), if_neg (by decide)]
  dsimp only
  rw [Mem.badPartial_clean hp]

/-- R228: lines written one after another, where memory holds no uncorrectable word. -/
theorem storeLines_clean (w : BitVec 256) (hw : wPermW w = true) (va : Nat) (l : List (List Byte × Nat)) (s : State)
    (hs : s.safe.shared = false) (hp : s.mem.hbmPoison = []) :
    l.foldl (fun (acc : State × Byte) c => ((acc.1.storeAt w (va + 256 * c.2) c.1).1,
        worseStatus acc.2 (acc.1.storeAt w (va + 256 * c.2) c.1).2)) (s, St.done) =
      ({ s with mem := l.foldl (fun m c => m.write (wTarget w + (va + 256 * c.2 - wBase w)) c.1) s.mem }, St.done) := by
  induction l generalizing s with
  | nil => rfl
  | cons c l ih =>
    rw [List.foldl_cons, State.storeAt_clean hs hw hp]
    exact ih _ hs (Mem.write_clean hp _ _)

/-! ## GO (R285) -/

/-- R285: OP and CONTINUE as a GO writes them. -/
def State.goWritten (s : State) (p : Nat) (v : W32) : State :=
  s.updPart p fun y => { y with ckOp := bits v.toNat 31 30, ckCont := bit v.toNat 29 }

theorem State.goWritten_part (s : State) (p : Nat) (v : W32) : (s.goWritten p v).part p =
    { s.part p with ckOp := bits v.toNat 31 30, ckCont := bit v.toNat 29 } := s.part_updPart_same p _

/-- R285: a GO that may act. -/
theorem State.ckptWrite_go {s : State} {w : Who} {p : Nat} {v : W32} (hv : v.getLsbD 0 = true)
    (ho : bits v.toNat 31 30 = 1 ∨ bits v.toNat 31 30 = 2) (he : s.entitled w p = true) (hs : (s.part p).ck ≠ .saving)
    (hr : (s.part p).ck ≠ .restoring) : s.ckptWrite w p v =
      if (s.part p).ckFrame.toNat * 64000 ≤ s.ht then (s.goWritten p v).updPart p fun y => { y with ck := .refusedBusy }
      else if bits v.toNat 31 30 = 1 then (s.goWritten p v).updPart p fun y => { y with ck := .armed }
      else (s.goWritten p v).beginRestore p := by
  have hb : bit v.toNat 0 = true := hv
  have hgo : ¬ (!bit v.toNat 0 || bits v.toNat 31 30 == 0 || bits v.toNat 31 30 == 3 || !s.entitled w p ||
      (s.part p).ck == .saving || (s.part p).ck == .restoring) = true := by
    rw [hb, he, beq_eq_false_iff_ne.mpr hs, beq_eq_false_iff_ne.mpr hr]
    rcases ho with h | h <;> rw [h] <;> decide
  unfold State.ckptWrite State.ckptGo
  rw [if_neg (by rw [hb, he]; decide)]
  dsimp only
  rw [if_neg hgo]
  split <;> rfl

theorem State.areaBytes_goWritten (s : State) (p : Nat) (v : W32) : (s.goWritten p v).areaBytes p = s.areaBytes p := by
  have he : (s.goWritten p v).entriesOf p = s.entriesOf p := by
    unfold State.entriesOf
    generalize dataStations = l
    rfl
  have ht : ((s.goWritten p v).part p).tiles = (s.part p).tiles := by rw [State.goWritten_part]
  unfold State.areaBytes
  rw [he, ht]

theorem Partition.areaVa_go (y : Partition) (op : Nat) (c : Bool) : ({ y with ckOp := op, ckCont := c } : Partition).areaVa = y.areaVa := rfl

theorem State.areaVa_goWritten (s : State) (p : Nat) (v : W32) : ((s.goWritten p v).part p).areaVa = (s.part p).areaVa := by
  rw [State.goWritten_part, Partition.areaVa_go]

theorem State.areaPlace_goWritten (s : State) (p : Nat) (v : W32) : (s.goWritten p v).areaPlace p = s.areaPlace p := by
  unfold State.areaPlace
  rw [State.areaBytes_goWritten, State.areaVa_goWritten]
  rfl

theorem State.hbmCorr_mem {s t : State} (h : t.mem = s.mem) (a n : Nat) : (t.hbmCorr a n).mem = (s.hbmCorr a n).mem := by
  unfold State.hbmCorr State.chan State.setChan
  rw [h]
  dsimp only
  split
  · exact h
  · rfl

/-- R230: what a read of a line answers rests on the memory and the stations alone. -/
theorem State.readLine_congr {s t : State} (hm : t.mem = s.mem) (hs : t.stations = s.stations) (a n : Nat) :
    (t.readLine a n).2 = (s.readLine a n).2 ∧ (t.readLine a n).1.mem = (s.readLine a n).1.mem := by
  have hst : ∀ k, t.stn k = s.stn k := fun k => congrArg (fun m => mget ({} : Station) m k) hs
  unfold State.readLine
  rw [hm, hst]
  dsimp only
  split
  · refine ⟨rfl, ?_⟩
    unfold State.hbmUncorr State.chan State.setChan
    rw [hm]
    rfl
  · exact ⟨rfl, State.hbmCorr_mem hm a n⟩

theorem State.readLine_stations (s : State) (a n : Nat) : (s.readLine a n).1.stations = s.stations :=
  State.readLine_same State.stations (fun _ _ _ => rfl) (fun _ _ => rfl) s a n

theorem State.readLines_congr {s t : State} (hm : t.mem = s.mem) (hs : t.stations = s.stations) (a n : Nat) :
    (t.readLines a n).2 = (s.readLines a n).2 := by
  unfold State.readLines
  generalize List.range ((n + 255) / 256) = l
  generalize (Sum.inl [] : List Byte ⊕ Byte) = r
  induction l generalizing s t r with
  | nil => rfl
  | cons i l ih =>
    obtain ⟨h2, hmem⟩ := State.readLine_congr hm hs (a + 256 * i) (Nat.min 256 (n - 256 * i))
    have hst : (t.readLine (a + 256 * i) (Nat.min 256 (n - 256 * i))).1.stations =
        (s.readLine (a + 256 * i) (Nat.min 256 (n - 256 * i))).1.stations := by
      rw [State.readLine_stations, State.readLine_stations, hs]
    simp only [List.foldl_cons, h2]
    exact ih hmem hst _

/-- R281: the header read before a restore does not rest on what the GO wrote. -/
theorem State.areaRead_goWritten (s : State) (p : Nat) (v : W32) :
    ((s.goWritten p v).areaRead p 128 []).2 = (s.areaRead p 128 []).2 := by
  have hlines : ∀ a, ((s.goWritten p v).readLines a 128).2 = (s.readLines a 128).2 := fun a =>
    State.readLines_congr (s := s) (t := s.goWritten p v) rfl rfl a 128
  unfold State.areaRead
  rw [State.areaPlace_goWritten, State.areaVa_goWritten]
  split
  · split
    · rfl
    · exact hlines _
  · rfl
  · rfl

theorem State.fits_goWritten (s : State) (p : Nat) (v : W32) (a : SaveArea) : (s.goWritten p v).fits p a = s.fits p a := by
  unfold State.fits
  rw [State.goWritten_part]
  rfl

/-- R281: what a RESTORE that begins finds. -/
theorem State.beginRestore_ck (s : State) (p : Nat) (v : W32) : (((s.goWritten p v).beginRestore p).part p).ck =
    (match s.areaPlace p, (s.areaRead p 128 []).2 with
      | some (.hbm _), .inl bs => if s.fits p (headerOf bs) then .restoring else .refusedImage
      | some (.host _), _ => if (s.part p).isLoaded then .restoring else .refusedImage
      | _, _ => .refusedImage) := by
  unfold State.beginRestore
  dsimp only
  rw [State.areaPlace_goWritten, State.areaRead_goWritten]
  cases s.areaPlace p with
  | none => exact congrArg Partition.ck (State.part_updPart_same _ p _)
  | some place =>
    cases place with
    | hbm w =>
      cases (s.areaRead p 128 []).2 with
      | inr st => exact congrArg Partition.ck (State.part_updPart_same _ p _)
      | inl bs =>
        refine (congrArg Partition.ck (State.part_updPart_same _ p _)).trans ?_
        exact if_congr (by rw [← State.fits_goWritten]) rfl rfl
    | host w =>
      refine (congrArg Partition.ck (State.part_updPart_same _ p _)).trans ?_
      dsimp only
      rw [State.goWritten_part]
      rfl

/-! ## The end of a save, and the resumption (R280, R281) -/

theorem exec_saveDone {s : State} {p : Nat} (hs : (s.part p).ck = .saving) (hr : (s.part p).ckResume = none) (host : BitVec 8) :
    exec (.saveDone p host) s = .next (
      let r := s.writeArea p host
      if !statusOk r.2 then r.1.updPart p fun y => { y with ck := .failed, ckStatus := r.2 }
      else (({ r.1 with saves := s.area p :: s.saves } : State).recStn 0x7002 (some p) 26
          (leBytes 8 (s.part p).ckJ.toNat)).updPart p fun y =>
        if y.ckCont then { y with ckResume := some (frameOf r.1.ht + 1) } else { y with ck := .paused }) := by
  refine next_congr (if_neg ?_)
  rintro (h | h)
  · exact h hs
  · rw [hr] at h
    exact absurd h (by decide)

/-- R281: a restore at its frame. -/
theorem exec_restoreResume {s : State} {p : Nat} {host : List Byte} (hs : (s.part p).ck = .restoring)
    (ht : (s.part p).ckFrame.toNat * 64000 ≤ s.ht) : exec (.restoreResume ⟨p, host⟩) s = .next (
      let r := s.areaRead p (s.areaBytes p) host
      match r.2 with
      | .inr st => r.1.updPart p fun y => { y with ck := .failed, ckStatus := st, ckUnread := false }
      | .inl bs =>
        let a := r.1.areaOf p bs
        if r.1.fits p a then
          (r.1.restore p a).updPart p fun y => ({ y with ck := .idle, ckHeld := false, ckUnread := false } : Partition).rearm
        else r.1.updPart p fun y => { y with ck := .refusedImage, ckUnread := false }) := by
  refine next_congr ?_
  unfold State.resumeHeld
  dsimp only
  rw [hs]
  exact if_neg (Nat.not_lt_of_le ht)

/-- R281: the tiles and the partition that a restore leaves: the records written back, and then the rounds. -/
theorem State.restore_same {γ : Type} (g : State → γ) (hg : ∀ (s : State) n x, g (s.setStn n x) = g s) (s : State) (p : Nat)
    (a : SaveArea) : g (s.restore p a) = g (((s.part p).tiles.zip a.recs).foldl (fun s' tr => s'.updTile tr.1
      ((s.part p).restoreTile a s'.time.uncertain tr.2)) (s.updPart p fun y => { y with joff := (s.part p).restoredJoff a })) := by
  unfold State.restore
  generalize dataStations = l
  refine (foldl_same g _ (fun _ _ => ?_) a.rounds _).trans ((foldl_same g _ (fun _ _ => ?_) l _).trans ?_)
  · exact hg _ _ _
  · exact hg _ _ _
  · rfl

/-- R281: the partition of one tile whose area is written back. -/
theorem State.restore_one {s : State} {p t : Nat} {a : SaveArea} {r : SavedTile} (ht : (s.part p).tiles = [t])
    (ha : a.recs = [r]) (hf : (s.part p).fwEn = false) :
    (s.restore p a).part p = { s.part p with joff := (s.part p).restoredJoff a } ∧
      (s.restore p a).tile t = (s.tile t).restored r (BitVec.ofNat 32 ((s.part p).restoredJoff a).toNat) ∧
      (∀ t', t' ≠ t → (s.restore p a).tile t' = s.tile t') := by
  have hone : ∀ y u, (s.part p).restoreTile a u r y = y.restored r (BitVec.ofNat 32 ((s.part p).restoredJoff a).toNat) :=
    fun y u => if_neg (ne_true_of_eq_false hf)
  refine ⟨?_, ?_, fun t' hne => ?_⟩
  · refine (State.restore_same (·.part p) (fun _ _ _ => rfl) s p a).trans ?_
    rw [ht, ha]
    exact State.part_updPart_same s p fun y => { y with joff := (s.part p).restoredJoff a }
  · refine (State.restore_same (·.tile t) (fun _ _ _ => rfl) s p a).trans ?_
    rw [ht, ha]
    exact (State.tile_setTile_same _ t _).trans (hone _ _)
  · refine (State.restore_same (·.tile t') (fun _ _ _ => rfl) s p a).trans ?_
    rw [ht, ha]
    exact State.tile_setTile_ne _ _ hne

/-- Settles O43: a GO is one lemma; the area's lines are written one after another, and its records are written back by a
fold over the partition's tiles. -/
theorem checkpointAndResume : Obligations.CheckpointAndResume := by
  intro s w p v x
  refine ⟨fun hv ho he hs hr => ⟨fun ht => ?_, fun ht => ?_⟩, fun hv ho he hs hr ht => ?_, fun hc ht => ⟨fun hcl => ?_, fun hcl => ?_⟩,
    fun host hs hr => ?_, fun win host hp hs hw hm => ?_, fun host hs ht => ?_, fun f host hs hr ht => ?_⟩
  · refine ⟨_, next_congr ((if_pos ⟨hv, ho⟩).trans ((State.ckptWrite_go hv (.inl ho) he hs hr).trans (if_pos ht))), ?_⟩
    exact congrArg Partition.ck (State.part_updPart_same _ p _)
  · refine ⟨_, next_congr ((if_pos ⟨hv, ho⟩).trans ((State.ckptWrite_go hv (.inl ho) he hs hr).trans
      ((if_neg (Nat.not_le_of_lt ht)).trans (if_pos ho)))), ?_⟩
    rw [State.part_updPart_same, State.goWritten_part]
    exact ⟨rfl, rfl⟩
  · refine ⟨_, next_congr ((if_pos ⟨hv, ho⟩).trans ((State.ckptWrite_go hv (.inr ho) he hs hr).trans
      ((if_neg (Nat.not_le_of_lt ht)).trans (if_neg (by rw [ho]; decide))))), ?_⟩
    refine (State.beginRestore_ck s p v).trans ?_
    cases s.areaPlace p with
    | none => rfl
    | some place => cases place <;> cases (s.areaRead p 128 []).2 <;> rfl
  · refine next_congr (if_neg ?_)
    rintro (h | h | h)
    · exact h hc
    · exact absurd ht (Nat.not_le_of_lt h)
    · exact absurd h (ne_true_of_eq_false hcl)
  · refine ⟨next_congr (if_pos (.inr (.inr hcl))), _, next_congr ((if_neg ?_).trans (if_pos hcl)), ?_⟩
    · rintro (h | h)
      · exact h hc
      · exact absurd ht (Nat.not_le_of_lt h)
    · rw [State.part_updPart_same]
      exact ⟨rfl, rfl, rfl⟩
  · intro r
    refine ⟨fun hbad => ?_, fun hok hcont => ?_⟩
    · refine (exec_saveDone hs hr host).trans (next_congr (if_pos ?_))
      rw [show statusOk (s.writeArea p host).2 = false from hbad]
      rfl
    · refine ⟨_, (exec_saveDone hs hr host).trans (next_congr (if_neg ?_)), ?_, rfl, rfl⟩
      · rw [show statusOk (s.writeArea p host).2 = true from hok]
        decide
      · have hpart := s.writeArea_part p host
        rw [State.part_updPart_same, State.recStn, State.part_record]
        change (if ((s.writeArea p host).1.part p).ckCont = true then _ else _ : Partition).ck = _
        rw [if_neg (by rw [hpart]; exact ne_true_of_eq_false hcont)]
  · unfold State.writeArea
    rw [hp]
    exact storeLines_clean win hw _ _ s hs hm
  · intro r
    have hrun := exec_restoreResume (host := host) hs ht
    have hpart : r.1.part p = x := State.areaRead_same (·.part p) (fun _ _ _ => rfl) (fun _ _ => rfl) s p _ host
    have htile : ∀ k, r.1.tile k = s.tile k := fun k =>
      State.areaRead_same (·.tile k) (fun _ _ _ => rfl) (fun _ _ => rfl) s p _ host
    refine ⟨fun st hst => hrun.trans (next_congr ?_), fun bs hbs => ?_⟩
    · dsimp only
      rw [show (s.areaRead p (s.areaBytes p) host).2 = _ from hst]
    · intro a
      have hgo : exec (.restoreResume ⟨p, host⟩) s = .next (if r.1.fits p a then
          (r.1.restore p a).updPart p fun y => ({ y with ck := .idle, ckHeld := false, ckUnread := false } : Partition).rearm
        else r.1.updPart p fun y => { y with ck := .refusedImage, ckUnread := false }) := by
        refine hrun.trans (next_congr ?_)
        dsimp only
        rw [show (s.areaRead p (s.areaBytes p) host).2 = _ from hbs]
      refine ⟨fun hfit => hgo.trans (next_congr (if_neg (ne_true_of_eq_false hfit))), fun t r' hfit ht1 hrec hfw => ?_⟩
      obtain ⟨h1, h2, h3⟩ := State.restore_one (s := r.1) (p := p) (a := a) (by rw [hpart]; exact ht1) hrec (by rw [hpart]; exact hfw)
      refine ⟨_, hgo.trans (next_congr (if_pos hfit)), ?_⟩
      rw [State.part_updPart_same, h1, hpart]
      rw [State.updPart, State.tile_setPart, h2, htile]
      refine ⟨rfl, rfl, rfl, rfl, rfl, rfl, rfl, rfl, rfl, rfl, fun t' hne => ?_⟩
      rw [State.tile_setPart, h3 t' hne, htile]
  · refine ⟨s.updPart p fun y => ({ y with ck := .idle, ckResume := none, ckHeld := false } : Partition).rearm,
      next_congr ?_, ?_⟩
    · change s.resumeHeld p host = _
      unfold State.resumeHeld
      dsimp only
      rw [hs, hr]
      exact if_neg (Nat.not_lt_of_le ht)
    · rw [State.part_updPart_same]
      exact ⟨rfl, rfl, rfl⟩

end Sys2Proof.Machine
end

section
/-! SUPPORT. The collective engines (O42). -/

namespace Sys2Proof.Machine

theorem mem_of_firstFlight {l : List Flight} {f : Flight} (h : firstFlight l = some f) : f ∈ l := by
  induction l generalizing f with
  | nil => exact nomatch h
  | cons p ps ih =>
    unfold firstFlight at h
    split at h
    · exact Option.some.inj h ▸ List.mem_cons_self
    · next q hq =>
      split at h
      · exact Option.some.inj h ▸ List.mem_cons_of_mem _ (ih hq)
      · exact Option.some.inj h ▸ List.mem_cons_self

/-- R194: the packet that a station takes is of the kind it looks for. -/
theorem State.takeDest_sat {s : State} {n : Nat} {q : Packet → Bool} {f : Flight} (h : s.takeDest n q = some f) :
    q f.pkt = true := by
  have hm := (List.mem_filter.mp (mem_of_firstFlight h)).2
  simp only [Bool.and_eq_true] at hm
  exact hm.1.1.1

theorem mem_addSorted {a x : Nat} {l : List Nat} : x ∈ addSorted a l ↔ x = a ∨ x ∈ l := by
  induction l with
  | nil => simp [addSorted]
  | cons b l ih =>
    unfold addSorted
    split
    · simp
    · split
      · next h => simp [h]
      · simp only [List.mem_cons, ih]
        tauto

@[simp] theorem State.coll_setColl_same (s : State) (n i : Nat) (x : CollEntry) : (s.setColl n i x).coll n i = x := by
  unfold State.setColl State.coll State.updStn
  rw [State.stn_setStn_same]
  exact mget_mset_same _ _ _ _

theorem State.coll_of_stations {s t : State} (h : t.stations = s.stations) (n i : Nat) : t.coll n i = s.coll n i := by
  unfold State.coll State.stn
  rw [h]

@[simp] theorem State.coll_updStn (s : State) (n m i : Nat) (f : Station → Station) (h : ∀ x, (f x).coll = x.coll) :
    (s.updStn m f).coll n i = s.coll n i := by
  unfold State.coll State.updStn
  by_cases hn : n = m
  · subst hn
    rw [State.stn_setStn_same, h]
  · rw [State.stn_setStn_ne _ _ hn]

/-! ## Packets of an engine -/

theorem State.engineSend_pkts (s : State) (n i : Nat) (f : PktFields) (is : Option W32) (via : Option Nat) :
    (s.engineSend n i f is via).fabric.pkts.length = s.fabric.pkts.length + 1 := List.length_append

theorem State.engineSends_pkts (f : Nat → PktFields) (is : Option W32) (n i : Nat) (via : Option Nat) (l : List Nat) (s : State) :
    (l.foldl (fun s k => s.engineSend n i (f k) is via) s).fabric.pkts.length = s.fabric.pkts.length + l.length := by
  induction l generalizing s with
  | nil => rfl
  | cons a l ih =>
    rw [List.foldl_cons, ih, State.engineSend_pkts, List.length_cons]
    omega

/-- R265: a group is one packet for each chunk, and nothing else of a station changes. -/
theorem State.sendGroup_keeps (s : State) (n i : Nat) (via : Option Nat) : (s.sendGroup n i via).stations = s.stations ∧
    (s.sendGroup n i via).fabric.pkts.length = s.fabric.pkts.length + ccChunks (s.coll n i).cfg := by
  unfold State.sendGroup
  dsimp only
  constructor
  · refine foldl_same State.stations _ (fun _ _ => ?_) _ s
    rfl
  · exact (State.engineSends_pkts _ _ n i via _ s).trans (by rw [List.length_range])

/-! ## Gather (R265) -/

theorem CollEntry.age_keeps (e : CollEntry) (now : Nat) (issue : W32) : (e.age now issue).cnt = e.cnt ∧
    (e.age now issue).round = e.round ∧ (e.age now issue).sent = e.sent ∧ (e.age now issue).acc = e.acc ∧
      (e.age now issue).seen = e.seen ∧ (e.age now issue).groupsIn = e.groupsIn := by
  unfold CollEntry.age
  dsimp only
  split <;> exact ⟨rfl, rfl, rfl, rfl, rfl, rfl⟩

/-- The entry of a gather that has taken a chunk of a round in progress (R265). -/
def CollEntry.gathered (e : CollEntry) (now : Nat) (q : Chunk) : CollEntry :=
  CollEntry.age { e.combine (mget 0 e.cnt q.chunk == 0) q with
    cnt := mupd 0 e.cnt q.chunk (· + q.count), ovf := e.ovf || q.ovf } now q.issue

theorem CollEntry.gathered_keeps (e : CollEntry) (now : Nat) (q : Chunk) :
    mget 0 (e.gathered now q).cnt q.chunk = mget 0 e.cnt q.chunk + q.count ∧ (e.gathered now q).round = e.round ∧
      (e.gathered now q).sent = e.sent ∧ (e.gathered now q).acc = (e.combine (mget 0 e.cnt q.chunk == 0) q).acc := by
  obtain ⟨h1, h2, h3, h4, -, -⟩ := CollEntry.age_keeps
    { e.combine (mget 0 e.cnt q.chunk == 0) q with cnt := mupd 0 e.cnt q.chunk (· + q.count), ovf := e.ovf || q.ovf } now q.issue
  refine ⟨?_, h2, h3, h4⟩
  unfold CollEntry.gathered
  rw [h1]
  exact mget_mset_same _ _ _ _

/-- R265: a chunk that fits and does not complete its group. -/
theorem State.gatherChunk_takes {s : State} {n i : Nat} {q : Chunk} (hv : ccValid (s.coll n i).cfg = true)
    (hr : q.round = (s.coll n i).round) (ha : (s.coll n i).any = true) (ho : ccOrdered (s.coll n i).cfg = false)
    (hu : chunkUnfit (s.coll n i).cfg q = false) (hc : mget 0 (s.coll n i).cnt q.chunk + q.count < ccMembers (s.coll n i).cfg)
    (hk : q.chunk < ccChunks (s.coll n i).cfg) :
    s.gatherChunk n i q = s.setColl n i ((s.coll n i).gathered s.ht q) := by
  have hnew : ¬ (q.round = ((s.coll n i).round + 1) % 256 ∧ (s.coll n i).any = false) :=
    fun h => absurd h.2 (ne_false_of_eq_true ha)
  unfold State.gatherChunk
  dsimp only
  rw [if_neg hnew, hv, hr, if_neg (by simp), hu, ho, decide_eq_false (Nat.not_lt_of_lt hc), if_neg (by simp)]
  unfold State.gatherTake
  dsimp only
  rw [ho]
  have hall : ¬ (List.range (ccChunks (s.coll n i).cfg)).all
      (fun k => mget 0 ((s.coll n i).gathered s.ht q).cnt k == ccMembers (s.coll n i).cfg) = true := by
    intro h
    have := List.all_eq_true.mp h q.chunk (List.mem_range.mpr hk)
    rw [CollEntry.gathered, (CollEntry.age_keeps _ _ _).1] at this
    change (mget 0 (mset 0 (s.coll n i).cnt q.chunk (mget 0 (s.coll n i).cnt q.chunk + q.count)) q.chunk ==
      ccMembers (s.coll n i).cfg) = true at this
    rw [mget_mset_same] at this
    exact absurd (eq_of_beq this) hc.ne
  exact if_neg hall

theorem State.gatherChunk_stale {s : State} {n i : Nat} {q : Chunk} (hr : q.round ≠ (s.coll n i).round)
    (hn : q.round ≠ ((s.coll n i).round + 1) % 256) : s.gatherChunk n i q = s.collStale n := by
  have hnew : ¬ (q.round = ((s.coll n i).round + 1) % 256 ∧ (s.coll n i).any = false) := fun h => hn h.1
  unfold State.gatherChunk
  dsimp only
  rw [if_neg hnew]
  exact if_pos (by simp [hr])

theorem exec_gatherContrib {s : State} {n : Nat} {f : Flight}
    (h : s.takeDest n (fun p => p.kind == kCONTRIB && !s.toRoot n p) = some f) (hk : cKind f.pkt.dst = 2) :
    exec (.gatherContrib n) s = .next ((s.dropPkt f.seq).gatherChunk n (cLow f.pkt.dst) (chunkOf f.pkt)) := by
  refine next_congr ?_
  rw [h]
  exact if_neg (not_not_intro hk)

/-! ## Root (R266, R269) -/

theorem exec_rootGroupChunk {s : State} {n : Nat} {f : Flight}
    (h : s.takeDest n (fun p => p.kind == kCONTRIB && s.toRoot n p) = some f) :
    exec (.rootGroupChunk n) s = .next ((s.dropPkt f.seq).rootChunk n (cLow f.pkt.dst) (chunkOf f.pkt)) := by
  refine next_congr ?_
  rw [h]

/-- The entry of a root that has taken a chunk (R266). -/
def CollEntry.rooted (e : CollEntry) (now : Nat) (q : Chunk) : CollEntry :=
  let e0 := if e.any then e else { e with result := [], resultOvf := false }
  CollEntry.age { e0.combine (!e.seen.any fun k => k % 4096 == q.chunk) q with
    seen := addSorted (q.group * 4096 + q.chunk) e.seen, ovf := e.ovf || q.ovf } now q.issue

theorem CollEntry.rooted_keeps (e : CollEntry) (now : Nat) (q : Chunk) :
    (e.rooted now q).seen = addSorted (q.group * 4096 + q.chunk) e.seen ∧ (e.rooted now q).round = e.round ∧
      (e.rooted now q).groupsIn = e.groupsIn := by
  obtain ⟨-, h2, -, -, h5, h6⟩ := CollEntry.age_keeps
    { (if e.any then e else { e with result := [], resultOvf := false }).combine (!e.seen.any fun k => k % 4096 == q.chunk) q with
      seen := addSorted (q.group * 4096 + q.chunk) e.seen, ovf := e.ovf || q.ovf } now q.issue
  refine ⟨h5, h2.trans ?_, h6.trans ?_⟩ <;> cases e.any <;> rfl

theorem State.rootChunk_open {s : State} {n i : Nat} {q : Chunk} (hv : ccValid (s.coll n i).cfg = true)
    (hroot : ccRoot (s.coll n i).cfg = true) (hst : (s.coll n i).st = .opened) (hr : q.round = (s.coll n i).round)
    (hu : chunkUnfit (s.coll n i).cfg q = false) : s.rootChunk n i q =
      if (s.coll n i).seen.contains (q.group * 4096 + q.chunk) then s.collDup n else s.rootTake n i (s.coll n i) q := by
  unfold State.rootChunk
  dsimp only
  rw [hv, hroot, hr, hst, if_neg (by simp), hu]
  rfl

/-- R266: a chunk that does not complete its group. -/
theorem State.rootTake_part {s : State} {n i : Nat} {e : CollEntry} {q : Chunk} (ho : ccOrdered e.cfg = false)
    (hm : ∃ k < ccChunks e.cfg, k ≠ q.chunk ∧ q.group * 4096 + k ∉ e.seen) :
    s.rootTake n i e q = s.setColl n i (e.rooted s.ht q) := by
  obtain ⟨k, hk, hne, hns⟩ := hm
  have hall : ¬ (List.range (ccChunks e.cfg)).all (fun k => (e.rooted s.ht q).seen.contains (q.group * 4096 + k)) = true := by
    intro h
    have := List.all_eq_true.mp h k (List.mem_range.mpr hk)
    rw [(e.rooted_keeps s.ht q).1, List.contains_iff_mem, mem_addSorted] at this
    rcases this with h | h
    · omega
    · exact hns h
  unfold State.rootTake
  unfold CollEntry.rooted at hall ⊢
  dsimp only at hall ⊢
  rw [ho, if_neg Bool.false_ne_true]
  cases ha : e.any <;> rw [ha] at hall <;> exact if_neg hall

/-- R269: the end of a round without a status block. -/
theorem State.endRound_partial {s : State} {n i : Nat} (h : ccStatusAddr (s.coll n i).cfg = 0) (out : Nat) :
    ((s.endRound n i St.partialCollective out).coll n i) = { (s.coll n i).advance with
        lastStatus := St.partialCollective, lastAt := s.ht, partials := ((s.coll n i).partials + 1) % 2 ^ 32
        missing := (s.coll n i).missingGroups } ∧
      ((s.endRound n i St.partialCollective out).stn n).collPartial = satInc 65535 (s.stn n).collPartial ∧
      (s.endRound n i St.partialCollective out).fabric.pkts.length = s.fabric.pkts.length + 2 := by
  unfold State.endRound
  dsimp only
  rw [if_pos h]
  refine ⟨?_, ?_, ?_⟩
  · rw [State.coll_setColl_same]
    rfl
  · unfold State.setColl State.updStn
    rw [State.stn_setStn_same, State.stn_setStn_same]
    rfl
  · change ((s.engineSend n i _ none none).engineSend n i _ none (some disjointVia)).fabric.pkts.length = _
    rw [State.engineSend_pkts, State.engineSend_pkts]

/-! ## Delivery (R268, R269) -/

theorem State.mcTilesOf_congr {s t : State} (hp : t.parts = s.parts) (ht : t.tiles = s.tiles) {n g : Nat}
    (hm : (t.stn n).mcast = (s.stn n).mcast) : t.mcTilesOf n g = s.mcTilesOf n g := by
  have hpart : ∀ q, t.part q = s.part q := fun q => congrArg (fun m => mget ({} : Partition) m q) hp
  have htile : ∀ q, t.tile q = s.tile q := fun q => congrArg (fun m => mget ({} : Tile) m q) ht
  unfold State.mcTilesOf State.maskTiles
  simp only [hpart, htile, hm]

/-- R268: a chunk that a tile takes. -/
theorem State.landChunk_lands {s : State} {t a : Nat} {bs : List Byte} (hf : (s.tile t).st ≠ .fenced)
    (hl : a + bs.length ≤ sramBytes) (hb : (s.tile t).badPartial a bs.length = none) :
    s.landChunk t a bs = s.setTile t ((s.tile t).wmem a bs) := by
  unfold State.landChunk
  dsimp only
  rw [if_neg (by simp [hf]; exact hl), hb]

/-- R269: the record that is set is there. -/
theorem Station.mem_setEnd (x : Station) (w : EndWait) : w ∈ (x.setEnd w).endWaits :=
  List.mem_append_right _ List.mem_cons_self

/-- R269: the only record of a round gives way to its new state. -/
theorem Station.setEnd_only {x : Station} {w v : EndWait} (h : x.endWaits = [w]) (hr : v.root = w.root)
    (hn : v.round = w.round) : (x.setEnd v).endWaits = [v] := by
  unfold Station.setEnd
  rw [h, hr, hn]
  simp

theorem exec_collDataReceive {s : State} {n : Nat} {f : Flight} {wt : EndWait} {t : Nat}
    (h : s.takeDest n (fun p => p.kind == kCOLL_DATA) = some f) (hk : cKind f.pkt.dst = 7)
    (he : (s.stn n).endOf (cLow f.pkt.dst) f.pkt.src (caRound f.pkt.addr) f.pkt.job = some wt) (hp : wt.passed = false)
    (hm : s.mcTilesOf n (cLow f.pkt.dst) = [t]) :
    exec (.collDataReceive n) s = .next (((s.dropPkt f.seq).landChunk t
      (mcSram (mget 0 (s.stn n).mcast (cLow f.pkt.dst)) + 16 * caChunk f.pkt.addr * (if f.pkt.op == 1 then 8 else 4))
      f.pkt.payload).updStn n (·.setEnd { wt with got := addSorted (caChunk f.pkt.addr) wt.got })) := by
  have hmc : (s.dropPkt f.seq).mcTilesOf n (cLow f.pkt.dst) = [t] :=
    (State.mcTilesOf_congr (t := s.dropPkt f.seq) rfl rfl rfl).trans hm
  refine next_congr ?_
  rw [h]
  dsimp only
  split
  · next h => exact nomatch he.symm.trans h
  · next w hw =>
    obtain rfl := Option.some.inj (he.symm.trans hw)
    rw [if_neg (by simp [hk, hp]), hmc]
    rfl

/-- R269: END at one tile without descriptors. -/
theorem State.endTile_counts {s : State} {t : Nat} {m : BitVec 256} {w : EndWait} {g : W32} {st : Byte}
    (hc : mcCountEn m = true) (hd : (s.tile t).descs = []) (hf : (s.tile t).st ≠ .fenced) :
    ((s.endTile t m w g st).tile t).rc (mcCounter m) = (s.tile t).rc (mcCounter m) + 1 := by
  unfold State.endTile State.updTile
  dsimp only
  rw [State.tile_setTile_same, if_pos hc]
  have hnone : ∀ q, (s.tile t).completeAll q st = s.tile t := by
    intro q
    unfold Tile.completeAll
    rw [hd]
    rfl
  rw [hnone, Tile.countEvent, if_neg fun hb => hf (eq_of_beq hb)]
  dsimp only
  split <;> exact mget_mset_same _ _ _ _

/-- R269: an END that is passed to tiles alone. -/
theorem State.passEnd_tiles {s : State} {n : Nat} {w : EndWait} (st ts : Byte)
    (hg : ccValid (s.coll n (mcGather (mget 0 (s.stn n).mcast w.group))).cfg = false) :
    s.passEnd n w st ts = if mcValid (mget 0 (s.stn n).mcast w.group) then
        (s.mcTilesOf n w.group).foldl (fun s' t => s'.endTile t (mget 0 (s.stn n).mcast w.group) w
          (s'.entryCoord n (mcGather (mget 0 (s.stn n).mcast w.group))) ts) (s.updStn n (·.setEnd { w with passed := true }))
      else s.updStn n (·.setEnd { w with passed := true }) := by
  have hmc : (s.updStn n (·.setEnd { w with passed := true })).mcTilesOf n w.group = s.mcTilesOf n w.group := by
    refine State.mcTilesOf_congr (s := s) (t := s.updStn n (·.setEnd { w with passed := true })) rfl rfl ?_
    unfold State.updStn
    rw [State.stn_setStn_same]
    rfl
  unfold State.passEnd
  dsimp only
  rw [hg, Bool.and_false, Bool.false_and, Bool.false_and, if_neg Bool.false_ne_true, hmc]
  cases mcValid (mget 0 (s.stn n).mcast w.group) <;> rfl

theorem exec_endDeliver {s : State} {n : Nat} {wt : EndWait} {st : Byte}
    (h : s.takeDest n (fun p => p.kind == kCOLL_CTRL && p.op == 1) = none) (hw : (s.stn n).endWaits = [wt])
    (he : wt.end_ = some (st, 0, s.ht)) (hp : wt.passed = false) :
    exec (.endDeliver n) s = .next (s.passEnd n wt st st) := by
  refine next_congr ?_
  rw [h]
  change s.endSweep n = _
  unfold State.endSweep
  rw [hw, List.foldl_cons, List.foldl_nil]
  split
  · next h => exact nomatch he.symm.trans h
  · next a b c hc =>
    obtain ⟨rfl, rfl, rfl⟩ : st = a ∧ 0 = b ∧ s.ht = c := by
      have := Option.some.inj (he.symm.trans hc)
      simpa using this
    rw [hp, if_neg Bool.false_ne_true, if_pos (Nat.zero_le _)]

/-- R283: the collective counters of a station, cleared. -/
def Station.collCleared (x : Station) : Station :=
  { x with collMerge := 0, collDup := 0, collStale := 0, collResend := 0, collPartial := 0 }

theorem State.collClear_stn (s : State) {n : Nat} (hn : n < 31) : s.collClear.stn n = (s.stn n).collCleared := by
  have hm := mem_dataStations hn
  have hd := dataStations_nodup
  unfold State.collClear
  generalize dataStations = l at hm hd ⊢
  exact (foldl_updStn (fun _ => Station.collCleared) l hd s n).trans (if_pos hm)

/-- Settles O42: each engine's command is one lemma about its entry; the packets that leave are counted by induction on
the chunks. -/
theorem collectiveEngines : Obligations.CollectiveEngines := by
  intro s n
  refine ⟨fun f hf hk => ?_, fun i => ?_, fun f hf hk => ?_, fun f hf => ?_, fun i => ?_,
    fun f wt t hf hk he hp hm => ?_, fun wt st hf hw he hp hg => ?_,
    fun w v hv hn => ⟨_, next_congr (if_pos hv), s.collClear_stn hn⟩⟩
  · intro i e q
    refine ⟨fun hv hr ha ho hu hc hk' => ?_, fun hv hr hn => ?_⟩
    · refine ⟨_, (exec_gatherContrib hf hk).trans
        (next_congr (State.gatherChunk_takes (s := s.dropPkt f.seq) hv hr ha ho hu hc hk')), ?_⟩
      rw [State.coll_setColl_same]
      exact e.gathered_keeps s.ht q
    · exact (exec_gatherContrib hf hk).trans (next_congr (State.gatherChunk_stale (s := s.dropPkt f.seq) hr hn))
  · intro e hv hr
    refine ⟨fun hs ha hre ht => ?_, fun ha ht => ?_⟩
    · obtain ⟨h1, h2⟩ := (s.setColl n i { e with resent := true }).sendGroup_keeps n i (some disjointVia)
      refine ⟨_, next_congr (if_pos ?_), ?_, ?_, ?_⟩
      · rw [hv, hr, hs, ha, hre, decide_eq_true ht]
        rfl
      · refine (State.coll_updStn _ n n i (fun x => { x with collResend := satInc 65535 x.collResend }) fun _ => rfl).trans ?_
        rw [State.coll_of_stations h1, State.coll_setColl_same]
      · rw [State.updStn, State.stn_setStn_same]
        have hstn : ((s.setColl n i { e with resent := true }).sendGroup n i (some disjointVia)).stn n =
            (s.setColl n i { e with resent := true }).stn n := congrArg (fun m => mget ({} : Station) m n) h1
        rw [hstn, State.setColl, State.updStn, State.stn_setStn_same]
      · exact h2.trans (by rw [State.coll_setColl_same]; rfl)
    · refine ⟨_, next_congr (if_pos ?_), ?_⟩
      · rw [hv, hr, ha, decide_eq_true ht]
        rfl
      · rw [State.coll_setColl_same]
        exact ⟨rfl, rfl, rfl, rfl⟩
  · intro e hv hr h1 h2 hj
    refine next_congr ?_
    rw [hf]
    dsimp only
    have he : (s.dropPkt f.seq).coll n (cLow f.pkt.dst) = e := rfl
    rw [he, hk, hv, hr, h1, h2, if_neg (by simp), hj, if_neg (by simp)]
  · intro i e q
    have hto := (Bool.and_eq_true_iff.mp (State.takeDest_sat hf)).2
    obtain ⟨hkv, hroot⟩ := Bool.and_eq_true_iff.mp hto
    have hv := (Bool.and_eq_true_iff.mp hkv).2
    have hopen : ∀ (hst : e.st = .opened) (hr : q.round = e.round) (hu : chunkUnfit e.cfg q = false),
        exec (.rootGroupChunk n) s = .next (if e.seen.contains (q.group * 4096 + q.chunk) then (s.dropPkt f.seq).collDup n
          else (s.dropPkt f.seq).rootTake n i e q) := fun hst hr hu =>
      (exec_rootGroupChunk hf).trans (next_congr (State.rootChunk_open (s := s.dropPkt f.seq) hv hroot hst hr hu))
    refine ⟨fun hst hr hu hns ho hm => ?_, fun hst hr hu hs => ?_⟩
    · refine ⟨_, (hopen hst hr hu).trans (next_congr ((if_neg ?_).trans (State.rootTake_part ho hm))), ?_⟩
      · simpa using hns
      · rw [State.coll_setColl_same]
        obtain ⟨h1, h2, h3⟩ := e.rooted_keeps (s.dropPkt f.seq).ht q
        exact ⟨h1 ▸ mem_addSorted.mpr (.inl rfl), h2, h3⟩
    · exact (hopen hst hr hu).trans (next_congr (if_pos (by simpa using hs)))
  · intro e hv hr hst ha h0 hle hw
    obtain ⟨h1, h2, h3⟩ := State.endRound_partial h0 0
    refine ⟨_, next_congr (if_pos ?_), ?_⟩
    · have hwait : (pktAge (ht32 (s.stnHt n)) e.oldest == ccTime e.cfg && s.chunkWaits n i) = false := by
        refine Bool.and_eq_false_imp.mpr fun h => hw (eq_of_beq h)
      rw [hv, hr, hst, ha, decide_eq_true hle, hwait]
      rfl
    · rw [h1]
      exact ⟨rfl, rfl, rfl, rfl, h2, h3⟩
  · intro a hst hl hb
    have hland := State.landChunk_lands (s := s.dropPkt f.seq) hst hl hb
    have hrun := exec_collDataReceive hf hk he hp hm
    rw [hland] at hrun
    refine ⟨_, hrun, ?_, { wt with got := addSorted (caChunk f.pkt.addr) wt.got }, ?_, rfl, rfl, mem_addSorted.mpr (.inl rfl)⟩
    · rw [State.updStn, State.tile_setStn, State.tile_setTile_same]
      rfl
    · rw [State.updStn, State.stn_setStn_same]
      exact Station.mem_setEnd _ _
  · have hrun := (exec_endDeliver hf hw he hp).trans (next_congr (State.passEnd_tiles st st hg))
    refine ⟨_, hrun, ?_, fun t hv hc hm hd hst => ?_⟩
    · have hset : ((s.updStn n (·.setEnd { wt with passed := true })).stn n).endWaits = [{ wt with passed := true }] := by
        rw [State.updStn, State.stn_setStn_same]
        exact Station.setEnd_only hw rfl rfl
      split
      · refine (congrArg Station.endWaits (foldl_same (fun s : State => s.stn n) _ (fun _ _ => ?_) _ _)).trans hset
        rfl
      · exact hset
    · rw [if_pos hv, hm]
      exact State.endTile_counts (s := s.updStn n (·.setEnd { wt with passed := true })) hc hd hst

end Sys2Proof.Machine
end

section
/-! SUPPORT. Power and heat (O49). -/

namespace Sys2Proof.Machine

/-! ## Tokens and corrections (R329, R331) -/

theorem Region.granted_balance (r : Region) (g : Nat) {c : Nat} (hc : c < 16) :
    mget 0 (r.granted g true).balance c = Nat.min (8 * g) (mget 0 r.balance c + g) :=
  foldl_mset 0 id (fun c => Nat.min (8 * g) (mget 0 r.balance c + g)) (fun _ _ h => h) (List.range 16) List.nodup_range [] c
    (List.mem_range.mpr hc)

/-- R331: what a settled round leaves of a region. -/
theorem Region.settle_keeps (r : Region) (now : Nat) : (r.settle now).power = r.power ∧ (r.settle now).allot = r.allot ∧
    (r.settle now).x = r.x ∧ (r.settle now).scale = r.scale := by
  unfold Region.settle
  split
  · exact ⟨rfl, rfl, rfl, rfl⟩
  · split <;> exact ⟨rfl, rfl, rfl, rfl⟩

theorem Region.correct_scale (r : Region) (m : Rat) (now : Nat) : (r.correct m now).power = r.power ∧
    (r.correct m now).scale = if r.allot * (1 - r.x) * (21 / 20) < m then ratMax (1 / 2) (r.scale * r.allot / m)
      else ratMin 1 (r.scale + 1 / 64) := by
  unfold Region.correct
  dsimp only
  split <;> exact ⟨rfl, rfl⟩

theorem exec_powerCorrection {s : State} {k : Nat} {m : Rat} (h : s.ht % 10000 = 0) : exec (.powerCorrection k m) s =
    .next (s.setRgn k (if s.isAdaptive k then (({ s.rgn k with power := m } : Region).settle s.ht).correct m s.ht
      else { s.rgn k with power := m })) := next_congr (if_neg (not_not_intro h))

/-! ## Temperatures (R333 to R340) -/

/-- R335, R340: T_eff of a region whose other fields are given. -/
def State.effTemp (s : State) (k : Nat) (r : Region) : Rat := ratMax (ratMax r.tMeas r.tPred) (s.stn (k / 16)).baseTemp

/-- R335, R340: a region after a change of temperature: T_eff and x are new, and every other field of the region's own
kind stands. -/
theorem State.setTemps_rgn (s : State) (k : Nat) (r : Region) : ∃ seen warn warnSeen fmax, (s.setTemps k r).rgn k = { r with
    tEff := s.effTemp k r, x := ratMin 1 (ratMax 0 ((s.effTemp k r - 100) / 10))
    frameMax := fmax, warn := warn, warnSeen := warnSeen, throttleSeen := seen } := by
  have hput : ∀ (q : Region), ∃ seen, (s.putThermal k q).rgn k = { q with throttleSeen := seen } := by
    intro q
    unfold State.putThermal
    dsimp only
    split
    · exact ⟨true, State.rgn_setRgn_same _ _ _⟩
    · exact ⟨q.throttleSeen, State.rgn_setRgn_same _ _ _⟩
  unfold State.setTemps
  dsimp only
  obtain ⟨seen, hs⟩ := hput _
  rw [State.rgn_recIf]
  exact ⟨seen, _, _, _, hs⟩

/-- R334: a reading as the module takes it. -/
def takenReading (t : Rat) : Rat := if t < 10 ∨ 150 < t then 110 else t

theorem faultyReading_iff (t : Rat) : faultyReading t = true ↔ t < 10 ∨ 150 < t := by simp [faultyReading]

theorem takenReading_eq (t : Rat) : (if faultyReading t then 110 else t) = takenReading t :=
  if_congr (faultyReading_iff t) rfl rfl

theorem overridden_off {v : W32} (h : v.getLsbD 31 = false) (t : Rat) : overridden v t = t :=
  if_neg (ne_true_of_eq_false h)

theorem le_ratMax_left (a b : Rat) : a ≤ ratMax a b := by
  unfold ratMax
  split
  · next h => exact h.le
  · exact le_refl a

theorem le_ratMax_right (a b : Rat) : b ≤ ratMax a b := by
  unfold ratMax
  split
  · exact le_refl b
  · next h => exact not_lt.mp h

/-- R340: from 110 °C the throttle fraction is 1. -/
theorem throttle_full {t : Rat} (h : 110 ≤ t) : ratMin 1 (ratMax 0 ((t - 100) / 10)) = 1 := by
  have h1 : (1 : Rat) ≤ (t - 100) / 10 := by linarith
  exact if_neg (not_lt.mpr (h1.trans (le_ratMax_right _ _)))

/-- R333 to R336: a region after its diode has been read as `t`. -/
def State.diodeRegion (s : State) (r : Region) (t : Rat) (bad : Bool) : Region :=
  let r' := { r with sensorBad := bad, sensorFault := r.sensorFault || bad }
  match r.firstRead, r.boot with
    | none, .off | none, .enabling => { r' with tMeas := t }
    | none, _ => r'.seed t s.tCool s.ht
    | some _, _ => { r' with
        tMeas := t
        cOff := r.cOff + (if r.conservative then 1 else s.power.diodeGain) * (t - r.tPred) }

theorem State.diodeRead_eq (s : State) {k : Nat} {t : Rat} (h : (s.rgn k).tstT.getLsbD 31 = false) : ∃ u : State,
    s.diodeRead k t = u.setTemps k (s.diodeRegion (s.rgn k) (takenReading t) (faultyReading t)) := by
  unfold State.diodeRead
  dsimp only
  rw [overridden_off h, takenReading_eq]
  exact ⟨_, rfl⟩

/-- R334: every reading gives the region its temperature and its fault. -/
theorem State.diodeRegion_read (s : State) (r : Region) (t : Rat) (bad : Bool) : (s.diodeRegion r t bad).tMeas = t ∧
    (s.diodeRegion r t bad).sensorFault = (r.sensorFault || bad) := by
  unfold State.diodeRegion
  dsimp only
  split <;> exact ⟨rfl, rfl⟩

/-- R336, R432: the first reading after the clock has started. -/
theorem State.diodeRegion_first (s : State) {r : Region} (hf : r.firstRead = none) (ho : r.boot ≠ .off)
    (he : r.boot ≠ .enabling) (t : Rat) (bad : Bool) : s.diodeRegion r t bad =
      Region.seed { r with sensorBad := bad, sensorFault := r.sensorFault || bad } t s.tCool s.ht := by
  unfold State.diodeRegion
  dsimp only
  split
  · next _ h => exact absurd h ho
  · next _ h => exact absurd h he
  · rfl
  · next h => exact nomatch hf.symm.trans h

theorem State.diodeRegion_later (s : State) {r : Region} (hf : r.firstRead ≠ none) (t : Rat) (bad : Bool) :
    s.diodeRegion r t bad = { r with
      sensorBad := bad, sensorFault := r.sensorFault || bad, tMeas := t
      cOff := r.cOff + (if r.conservative then 1 else s.power.diodeGain) * (t - r.tPred) } := by
  unfold State.diodeRegion
  dsimp only
  split
  · next h _ => exact absurd h hf
  · next h _ => exact absurd h hf
  · next h _ _ => exact absurd h hf
  · rfl

/-- R333: channels 0 to 15 are the regions' diodes. -/
theorem exec_adcSample {s : State} {die ch : Nat} {t : Rat} (hc : ch < 28) (hd : die < s.dies)
    (ht : s.ht % 250000 = 8000 * ch) : exec (.adcSample die ch t) s = .next (
      if ch < 16 then s.diodeRead (die * 16 + ch) t
      else if ch < 26 then
        let d := { s.die die with rails := mset 0 (s.die die).rails ch t }
        s.setDie die (if ch = 23 then { d with meas := d.power } else d)
      else if ch = 27 then s.setDie die { s.die die with lastRails := (s.die die).rails }
      else s) := by
  refine next_congr (if_neg ?_)
  rintro (h | h | h)
  · omega
  · omega
  · exact h ht


theorem exec_predictorUpdate {s : State} {k : Nat} {amps : Rat} (ht : s.ht % 1000 = 0) (hf : (s.rgn k).firstRead ≠ none) :
    exec (.predictorUpdate k amps) s = .next (s.setTemps k { (s.rgn k).predict
      (if s.power.compatNow then (s.die (k / 16)).meas / 16 else s.gatePower k amps) s.tCool with
      frameEnergy := (s.rgn k).frameEnergy + s.gatePower k amps }) := by
  refine next_congr (if_neg ?_)
  rintro (h | h)
  · exact h ht
  · exact hf (Option.isNone_iff_eq_none.mp h)

/-! ## Shut-down (R341) -/

theorem State.partsInRegion_congr {s t : State} (h : t.parts = s.parts) (k : Nat) : t.partsInRegion k = s.partsInRegion k := by
  have hp : ∀ q, t.part q = s.part q := fun q => congrArg (fun m => mget ({} : Partition) m q) h
  unfold State.partsInRegion State.loadedParts State.hasTile
  simp only [hp]

theorem State.stn_recIf (s : State) (c : Prop) [Decidable c] (code : Nat) (p : Option Nat) (d : Nat) (bs : List Byte) (n : Nat) :
    (if c then s.recStn code p d bs else s).stn n = s.stn n := by
  split <;> rfl

theorem exec_baseDiodeRead {s : State} {n : Nat} {t : Rat} (ht : s.ht % 10000 = 0)
    (h : (s.stn n).tstBaseT.getLsbD 31 = false) :
    ∃ u, exec (.baseDiodeRead n t) s = .next u ∧ (u.stn n).baseTemp = takenReading t := by
  refine ⟨_, next_congr (if_neg (not_not_intro ht)), ?_⟩
  dsimp only
  rw [State.stn_recIf, State.stn_recIf, State.stn_setStn_same]
  dsimp only
  rw [overridden_off h, takenReading_eq]

theorem exec_thermalShutdown (s : State) (k : Nat) (cmp : Bool) : exec (.thermalShutdown (.region k) cmp) s = .next (
    if !(s.rgn k).sdLatch && (cmp || decide (115 ≤ (s.rgn k).tMeas)) then s.shutRegion k cmp else s) := rfl

/-- R341: a write of SD_CLR. -/
theorem exec_sdClr {s : State} {w : Who} {k : Nat} {v : W32} (hv : v.getLsbD 31 = true) : exec (.sdClr w k v) s = .next (
    if (s.rgn k).tMeas < 80 then
      if (s.rgn k).sdLatch then s.setRgn k { s.rgn k with sdLatch := false, rising := !s.allRetained k, n := 0, x := 0 } else s
    else s.recDie 0x2004 none (k / 16) (leBytes 2 (quarter (s.rgn k).tMeas))) := by
  have hb : bit v.toNat 31 = true := hv
  refine next_congr (if_neg ?_)
  rw [hb]
  decide

/-- Settles O49: a command at another instant is the identity; a diode's reading is one region, to which the change of
temperature then adds T_eff and the throttle fraction. -/
theorem powerAndHeat : Obligations.PowerAndHeat := by
  intro s k r
  refine ⟨fun hf ht => ?_, fun h => next_congr (if_pos h), fun g c hc => r.granted_balance g hc,
    fun m => ⟨fun h => next_congr (if_pos h), fun h ha => ?_, fun h ha => ?_⟩,
    fun die ch t h => next_congr (if_pos (.inr (.inr h))), fun die ch t hc hd hk ht htst => ?_, fun die ch v h16 h26 hd ht => ?_,
    fun die v hd ht => ?_, fun amps => ⟨fun h => ?_, fun ht hf => ?_⟩, fun at0 hf => ?_, fun hc ht => ?_,
    fun n t ht h => exec_baseDiodeRead ht h, fun cmp hs h => ?_, fun cmp h => ?_, fun w v hv hs => ⟨fun h => ?_, fun h => ?_⟩,
    fun watts volts h => ?_, fun watts volts at0 h hi hb hle => ?_⟩
  · exact next_congr (if_neg fun h => h.elim hf fun h => h ht)
  · exact (exec_powerCorrection h).trans (next_congr (congrArg (s.setRgn k) (if_neg (ne_true_of_eq_false ha))))
  · refine ⟨_, (exec_powerCorrection h).trans (next_congr (congrArg (s.setRgn k) (if_pos ha))), ?_⟩
    obtain ⟨h1, h2, h3, h4⟩ := ({ r with power := m } : Region).settle_keeps s.ht
    obtain ⟨h5, h6⟩ := (({ r with power := m } : Region).settle s.ht).correct_scale m s.ht
    rw [h2, h3, h4] at h6
    rw [State.rgn_setRgn_same]
    exact ⟨h5.trans h1, h6, fun j hj => State.rgn_setRgn_ne s _ hj, fun t => rfl⟩
  · obtain ⟨u, hu⟩ := s.diodeRead_eq (k := k) (t := t) htst
    obtain ⟨seen, warn, warnSeen, fmax, hrgn⟩ := u.setTemps_rgn k (s.diodeRegion r (takenReading t) (faultyReading t))
    obtain ⟨hmeas, hfault⟩ := s.diodeRegion_read r (takenReading t) (faultyReading t)
    have hrun := (exec_adcSample (t := t) (by omega) hd ht).trans (next_congr (if_pos hc))
    rw [← hk, hu] at hrun
    refine ⟨_, hrun, ?_⟩
    rw [hrgn]
    dsimp only
    refine ⟨hmeas, fun hf ho he => ?_, fun hf => ?_, fun hbad => ⟨?_, ?_⟩⟩
    · rw [s.diodeRegion_first hf ho he]
      exact ⟨rfl, rfl, rfl, rfl, rfl⟩
    · rw [s.diodeRegion_later hf]
      exact ⟨rfl, rfl, rfl⟩
    · rw [hfault, (faultyReading_iff t).mpr hbad, Bool.or_true]
    · refine throttle_full ?_
      have h110 : takenReading t = 110 := if_pos hbad
      calc (110 : Rat) = (s.diodeRegion r (takenReading t) (faultyReading t)).tMeas := by rw [hmeas, h110]
        _ ≤ _ := (le_ratMax_left _ _).trans (le_ratMax_left _ _)
  · refine ⟨_, (exec_adcSample (by omega) hd ht).trans (next_congr ((if_neg (Nat.not_lt_of_le h16)).trans (if_pos h26))), ?_⟩
    dsimp only
    rw [State.die_setDie_same]
    split
    · exact ⟨fun j => mget_mset _ _ _ _ _, rfl⟩
    · exact ⟨fun j => mget_mset _ _ _ _ _, rfl⟩
  · exact (exec_adcSample (ch := 27) (by omega) hd ht).trans (next_congr rfl)
  · refine next_congr (if_pos (h.imp_right fun h => ?_))
    rw [h]
    rfl
  · intro volts f q
    obtain ⟨seen, warn, warnSeen, fmax, hrgn⟩ := s.setTemps_rgn k { r.predict
      (if s.power.compatNow then (s.die (k / 16)).meas / 16 else s.gatePower k amps) s.tCool with
      frameEnergy := r.frameEnergy + s.gatePower k amps }
    refine ⟨_, exec_predictorUpdate ht hf, ?_⟩
    rw [hrgn]
    exact ⟨rfl, rfl, rfl, rfl, rfl, rfl⟩
  · refine next_congr ?_
    dsimp only
    rw [hf]
  · refine ⟨_, next_congr (if_neg fun h => h.elim hc fun h => h ht), rfl⟩
  · refine (exec_thermalShutdown s k cmp).trans (next_congr ((if_pos ?_).trans ?_))
    · rw [hs]
      simpa using h
    · unfold State.shutRegion
      dsimp only
      exact congrArg (State.trigger _ · 1) (State.partsInRegion_congr rfl k)
  · refine (exec_thermalShutdown s k cmp).trans (next_congr (if_neg ?_))
    rcases h with h | ⟨h1, h2⟩
    · rw [h]
      exact Bool.false_ne_true
    · rw [h1, decide_eq_false (not_le.mpr h2)]
      simp
  · exact (exec_sdClr hv).trans (next_congr ((if_pos h).trans (if_pos hs)))
  · exact ⟨_, (exec_sdClr hv).trans (next_congr (if_neg (not_lt.mpr h))), rfl⟩
  · refine ⟨_, next_congr (if_pos h), ?_⟩
    dsimp only
    split <;> exact ⟨rfl, rfl, rfl⟩
  · refine ⟨_, next_congr ((if_neg (show ¬ 13000 < watts by omega)).trans ((if_neg ?_).trans ((if_neg (show ¬ 12500 ≤ watts by omega)).trans (if_pos ?_)))), rfl⟩
    · exact ne_false_of_eq_true hi
    · rw [hb]
      exact hle

end Sys2Proof.Machine
end

section
/-! SUPPORT. O51: rings, sweeps and deep calibration (R351, R354 to R359, R362, R431). -/

namespace Sys2Proof.Machine

/-- A fold over distinct places that changes what one of them shows once, and is not seen from the others. -/
theorem foldl_once {σ α β : Type} {step : σ → α → σ} {v : σ → β} {f : β → β} {a : α}
    (h1 : ∀ s, v (step s a) = f (v s)) (h2 : ∀ s b, b ≠ a → v (step s b) = v s) (l : List α) (hl : l.Nodup) (ha : a ∈ l) (s : σ) :
    v (l.foldl step s) = f (v s) := by
  induction l generalizing s with
  | nil => exact absurd ha List.not_mem_nil
  | cons b l ih =>
    obtain ⟨hb, hl⟩ := List.nodup_cons.mp hl
    rw [List.foldl_cons]
    by_cases h : a = b
    · subst h
      rw [← h1 s]
      exact List.foldlRecOn l step (motive := fun t => v t = v (step s a)) rfl
        fun t ht c hc => (h2 t c fun e => hb (e ▸ hc)).trans ht
    · rw [ih hl ((List.mem_cons.mp ha).resolve_left h), h2 s b (Ne.symm h)]

theorem mem_stationRings {n key : Nat} (h0 : n * 1088 ≤ key) (h1 : key < (n + 1) * 1088) : key ∈ stationRings n :=
  List.mem_map.mpr ⟨key - n * 1088, List.mem_range.mpr (by omega), by omega⟩

theorem stationRings_nodup (n : Nat) : (stationRings n).Nodup :=
  List.nodup_range.map fun _ _ h => Nat.add_left_cancel h

/-- R351, R354: one update of a station's rings, as a ring of the station meets it. -/
theorem State.heatRings_ring (s : State) {n key : Nat} (hk : key ∈ stationRings n) (t : Rat) (errs : List (Nat × Int)) :
    ((stationRings n).foldl (fun s k =>
        s.setRing k (((s.ring k).heat t).pilot (mget 0 errs k) t s.boot.osc (s.pilotPaused k))) s).ring key =
      ((s.ring key).heat t).pilot (mget 0 errs key) t s.boot.osc (s.pilotPaused key) := by
  have hd := stationRings_nodup n
  generalize stationRings n = l at hk hd
  refine congrArg Prod.fst (foldl_once (v := fun s : State => (s.ring key, s.boot.osc, s.pilotPaused key))
    (f := fun x => ((x.1.heat t).pilot (mget 0 errs key) t x.2.1 x.2.2, x.2))
    (fun s => Prod.ext (State.ring_setRing_same ..) rfl) (fun s b hb => Prod.ext (State.ring_setRing_ne _ _ (Ne.symm hb)) rfl) l hd hk s)

theorem exec_heaterUpdate {s : State} (n : Nat) (errs : List (Nat × Int)) (h : s.loopCount % 10000 = 0) :
    exec (.heaterUpdate n errs) s = .next ((stationRings n).foldl (fun t k =>
      t.setRing k (((t.ring k).heat (s.stn n).fieldTemp).pilot (mget 0 errs k) (s.stn n).fieldTemp t.boot.osc (t.pilotPaused k))) s) :=
  next_congr (if_neg fun hn => hn h)

/-- R355: what is kept of a splitter difference. -/
def State.putSplit (s : State) (n k v : Nat) : State :=
  { s with opt := { s.opt with splitSince := mset 0 s.opt.splitSince (n * 32 + k) v } }

theorem State.putSplit_splitSince (s : State) (n k v : Nat) : mget 0 (s.putSplit n k v).opt.splitSince (n * 32 + k) = v :=
  mget_mset_same (0 : Nat) _ _ _

theorem State.ring_congr {s u : State} (h : u.opt.rings = s.opt.rings) (key : Nat) : u.ring key = s.ring key :=
  congrArg (fun m : SMap Ring => mget ({} : Ring) m key) h

theorem exec_splitterCheck_within {s : State} {n k : Nat} {diff : Int} (h : diff.natAbs ≤ 100) :
    exec (.splitterCheck n k diff) s = .next (s.putSplit n k 0) :=
  next_congr (if_pos h)

theorem exec_splitterCheck_told {s : State} {n k : Nat} {diff : Int} (h : 100 < diff.natAbs)
    (h0 : 0 < mget 0 s.opt.splitSince (n * 32 + k)) (ht : mget 0 s.opt.splitSince (n * 32 + k) ≠ 2 ^ 80)
    (hs : mget 0 s.opt.splitSince (n * 32 + k) + 10000000 ≤ s.boot.osc + 1) :
    exec (.splitterCheck n k diff) s =
      .next ((s.putSplit n k (2 ^ 80)).recStn 0x3005 none n ([BitVec.ofNat 8 k] ++ leInt 2 diff)) :=
  next_congr ((if_neg (Nat.not_le_of_lt h)).trans ((if_neg (Nat.pos_iff_ne_zero.mp h0)).trans (if_pos ⟨ht, hs⟩)))

theorem bit_zero (k : Nat) : bit 0 k = false := by
  unfold bit
  exact Nat.zero_testBit k

/-- R356: a ring declared failed. -/
def State.ringFailed (s : State) (ring : Nat) : State :=
  let t := s.setRing ring { s.ring ring with failed := true, failedAt := s.ht }
  { t with opt := { t.opt with pendingSub := t.opt.pendingSub ++ [ring] } }

theorem State.ringFailed_ring (s : State) (ring : Nat) :
    (s.ringFailed ring).ring ring = { s.ring ring with failed := true, failedAt := s.ht } :=
  State.ring_setRing_same s ring _

/-- R356, R435: a ring that meets a cause; the records that follow leave the optics alone. -/
theorem exec_ringFail {s : State} {ring cause : Nat} (hr : ring < 33728) (hf : (s.ring ring).failed = false)
    (hc : s.ringCause (s.ring ring) cause = true) :
    ∃ u, exec (.ringFail ring cause) s = .next u ∧ u.opt = (s.ringFailed ring).opt := by
  refine ⟨_, next_congr (if_neg ?_), ?_⟩
  · rintro (h | h | h)
    · exact absurd h (Nat.not_le_of_lt hr)
    · exact Bool.false_ne_true (hf.symm.trans h)
    · exact Bool.false_ne_true (h.symm.trans hc)
  · dsimp only
    split <;> rfl

/-- R361: a channel whose index is not dark is the next to be swept. -/
theorem State.sweepFrom_lit {s : State} {ch : Nat} (h : s.opt.dark.getLsbD (ch % 32) = false) (fuel : Nat) :
    s.sweepFrom fuel ch = ch := by
  cases fuel with
  | zero => rfl
  | succ fuel => exact if_neg (by rw [bit_eq_getLsbD, h]; exact Bool.false_ne_true)

/-- R357 to R359: the rings of a channel take the targets of its sweep. -/
def State.swept (s : State) (ch : Nat) (reads : List SweepRead) : State :=
  (List.range 17).foldl (fun s l =>
    if (s.ring (ch * 17 + l)).failed then s
    else s.setRing (ch * 17 + l) ((s.ring (ch * 17 + l)).sweep (ch / 32 % 2) (nth {} reads l))) s

theorem State.swept_ring (s : State) (ch : Nat) (reads : List SweepRead) {l : Nat} (hl : l < 17) :
    (s.swept ch reads).ring (ch * 17 + l) = if (s.ring (ch * 17 + l)).failed then s.ring (ch * 17 + l)
      else (s.ring (ch * 17 + l)).sweep (ch / 32 % 2) (nth {} reads l) := by
  refine foldl_once (v := fun s : State => s.ring (ch * 17 + l))
    (f := fun r => if r.failed then r else r.sweep (ch / 32 % 2) (nth {} reads l))
    (fun t => ?_) (fun t b hb => ?_) (List.range 17) List.nodup_range (List.mem_range.mpr hl) s
  · split
    · rfl
    · exact State.ring_setRing_same ..
  · split
    · rfl
    · exact State.ring_setRing_ne _ _ fun h => hb (Nat.add_left_cancel h).symm

theorem State.swept_ht (s : State) (ch : Nat) (reads : List SweepRead) : (s.swept ch reads).ht = s.ht := by
  refine foldl_same State.ht _ (fun t l => ?_) _ _
  split <;> rfl

/-- R357: the sequence advances behind the channel `ch` that has been swept. -/
def State.sweepEnd (s : State) (ch : Nat) : State :=
  { s with opt := { s.opt.advance ch with sweptFrame := some (frameOf s.ht) } }

theorem State.sweepEnd_next (s : State) (ch : Nat) : (s.sweepEnd ch).opt.recalNext = (ch + 1) % 1984 := rfl

theorem State.sweepEnd_frame (s : State) (ch : Nat) : (s.sweepEnd ch).opt.sweptFrame = some (frameOf s.ht) := rfl

theorem State.sweepEnd_ring (s : State) (ch key : Nat) : (s.sweepEnd ch).ring key = s.ring key := State.ring_congr rfl key

theorem exec_channelSweep {s : State} (reads : List SweepRead) (hr : s.recalNow = true) (hi : s.opt.deep = .idle)
    (hf : s.time.st ≠ .free) (hp : 63800 ≤ framePos s.ht) (hs : s.opt.sweptFrame ≠ some (frameOf s.ht))
    (hsw : s.opt.switchNow.contains (s.opt.recalNext % 32) = false) (hsub : s.opt.subNow.contains s.opt.recalNext = false)
    (hd : s.opt.dark.getLsbD (s.opt.recalNext % 32) = false) :
    exec (.channelSweep reads) s = .next ((s.swept s.opt.recalNext reads).sweepEnd s.opt.recalNext) := by
  refine next_congr ?_
  dsimp only
  rw [State.sweepFrom_lit hd]
  refine if_neg ?_
  rw [hr, hi, hsw, hsub, beq_eq_false_iff_ne.mpr hf, beq_eq_false_iff_ne.mpr hs, decide_eq_false (Nat.not_lt_of_le hp)]
  exact Bool.false_ne_true

theorem keepIn_nonneg {hi : Int} (h : 0 ≤ hi) (v : Int) : 0 ≤ keepIn 0 hi v := by
  unfold keepIn
  split
  · exact Int.le_refl 0
  · split <;> omega

theorem Ring.held_none {r : Ring} (h : r.hold = 0) (k : Nat) : r.held k = false := by
  unfold Ring.held
  rw [h]
  exact bit_zero k

theorem Ring.refit_free {r : Ring} (h : r.holdTable = 0) (table : List Nat) : r.refit table = (List.range 8).map (nth 0 table) := by
  unfold Ring.refit
  rw [h]
  exact List.map_congr_left fun i _ => if_neg (by rw [show BitVec.toNat (0 : Byte) = 0 from rfl, bit_zero]; exact Bool.false_ne_true)

/-- R362: a ring without held coefficients after its deep calibration, but for its swing or its gain and offset. -/
def Ring.refitted (r : Ring) (t : Rat) (x : DeepRead) : Ring :=
  let r' := { r with table := (List.range 8).map (nth 0 x.table), pt := 0, off := 0, offTgt := 0 }
  { r' with heater := (keepIn 0 16383 (r'.feedForward t + r'.off)).toNat }

theorem Ring.deep_free {r : Ring} {dir : Nat} {t : Rat} {x : DeepRead} (hh : r.hold = 0) (ht : r.holdTable = 0) (hf : r.failed = false)
    (hx : x.found = true) : r.deep dir t x = if dir = 0 then { r.refitted t x with swing := x.swing, swingTgt := x.swing }
      else { r.refitted t x with gain := x.gain, gainTgt := x.gain, rxOff := x.offset, rxOffTgt := x.offset } := by
  refine (if_neg (ne_true_of_eq_false hf)).trans ((if_neg (by rw [hx]; decide)).trans ?_)
  rw [Ring.refit_free ht]
  simp only [Ring.held_none, hh, Bool.false_eq_true, ↓reduceIte, Ring.refitted]

/-- R362: the values of the deep calibration begun at `b` are applied. -/
def State.deepApplied (s : State) (b : Nat) : State := { s with opt := { s.opt with deep := .applied b } }

theorem State.deepApplied_ring (s : State) (b key : Nat) : (s.deepApplied b).ring key = s.ring key := State.ring_congr rfl key

theorem exec_deepCalApply_one {s : State} {b key : Nat} (x : DeepRead) (hd : s.opt.deep = .running b) (h : b + 38000000 ≤ s.ht)
    (hk : key < 33728) :
    exec (.deepCalApply [(key, x)]) s =
      .next ((s.setRing key ((s.ring key).deep (key / 544 % 2) (s.stn (key / 1088)).fieldTemp x)).deepApplied b) := by
  refine next_congr ?_
  rw [hd]
  exact (if_neg (Nat.not_lt_of_le h)).trans (congrArg (State.deepApplied · b) (if_pos hk))

/-- What the end of a deep calibration settles: its own state, the flights and the packet plane. -/
def State.lightView (s : State) : DeepSt × Bool × Bool := (s.opt.deep, s.opt.flightValid, s.fabric.planeOpen)

theorem State.lightView_substitute (s : State) (key : Nat) : (s.substitute key).lightView = s.lightView := by
  have hout (s : State) (a c : Nat) : (s.channelOut a c).lightView = s.lightView := by
    unfold State.channelOut
    split <;> rfl
  unfold State.substitute
  dsimp only
  repeat' split
  · exact hout _ _ _
  · rfl
  · exact hout _ _ _
  · rfl
  · rfl
  · rfl

theorem State.lightView_gngRestart (s : State) : s.gngRestart.lightView = s.lightView := by
  unfold State.gngRestart
  generalize dataStations = l
  exact foldl_same State.lightView (fun s n => s.updStn n fun x => { x with gng := [], gngShown := [] }) (fun _ _ => rfl) l _

theorem State.lightView_stepDone (s : State) (n : Nat) : (s.stepDone n).lightView = s.lightView := by
  unfold State.stepDone
  dsimp only
  split <;> rfl

theorem State.lightView_firstLight (s : State) (flights : List (Nat × Nat)) (delays : List Nat) :
    (s.firstLight flights delays).lightView = (s.opt.deep, true, s.fabric.planeOpen) := by
  unfold State.firstLight
  dsimp only
  rw [State.lightView_stepDone, State.lightView_gngRestart]
  generalize dataStations = l
  exact foldl_same State.lightView (fun (s : State) n => s.updStn n fun x => { x with
    mireStart := s.ht
    delay := s.delayOf n (nth 0 delays n), delayTgt := s.delayOf n (nth 0 delays n), delayValid := true }) (fun _ _ => rfl) l _

theorem State.lightView_hallBack (s : State) : s.hallBack.lightView = s.lightView := by
  unfold State.hallBack
  generalize hallPorts = l
  exact foldl_same State.lightView (fun (s : State) n => s.setHall n { s.hall n with
      up := (s.hall n).enNow && (s.hall n).aligned && !(s.hall n).los
      listed := (s.hall n).enNow && (s.hall n).aligned && !(s.hall n).los }) (fun _ _ => rfl) l _

theorem State.lightView_substituteAll (s : State) : s.substituteAll.lightView = s.lightView :=
  foldl_same State.lightView _ State.lightView_substitute _ _

/-- R362: a deep calibration that is over; the plane opens at start-up, or where it was open before. -/
def State.deepOver (s : State) : State :=
  { s with
    opt := { s.opt with deep := .idle, deepStartup := false }
    fabric := { s.fabric with planeOpen := s.opt.deepStartup && !s.safe.exiting || s.opt.flightValid }
    safe := { s.safe with relit := s.safe.exiting } }

/-- R362, R431: the end of deep calibration. -/
theorem exec_deepCalEnd {s : State} {b : Nat} (flights : List (Nat × Nat)) (delays : List Nat) (hd : s.opt.deep = .applied b)
    (h : b + 40000000 ≤ s.ht) (hp : framePos s.ht = 0) : exec (.deepCalEnd flights delays) s =
      .next (if s.opt.deepStartup && !s.safe.exiting then (s.deepOver.firstLight flights delays).substituteAll
        else if s.safe.exiting then s.deepOver.hallBack else s.deepOver) := by
  refine next_congr ?_
  rw [hd]
  exact if_neg (not_or.mpr ⟨Nat.not_lt_of_le h, fun hn => hn hp⟩)

theorem State.lightView_deepOver (s : State) (flights : List (Nat × Nat)) (delays : List Nat) :
    State.lightView (if s.opt.deepStartup && !s.safe.exiting then (s.deepOver.firstLight flights delays).substituteAll
        else if s.safe.exiting then s.deepOver.hallBack else s.deepOver) =
      (.idle, s.opt.deepStartup && !s.safe.exiting || s.opt.flightValid,
        s.opt.deepStartup && !s.safe.exiting || s.opt.flightValid) := by
  split
  next hst =>
    rw [State.lightView_substituteAll, State.lightView_firstLight, hst]
    exact congrArg (fun b => (DeepSt.idle, true, b || s.opt.flightValid)) hst
  next hst =>
    rw [eq_false_of_ne_true hst, Bool.false_or]
    have hopen : s.deepOver.lightView = (.idle, s.opt.flightValid, s.opt.flightValid) :=
      congrArg (fun b => (DeepSt.idle, s.opt.flightValid, b || s.opt.flightValid)) (eq_false_of_ne_true hst)
    split
    · exact (State.lightView_hallBack _).trans hopen
    · exact hopen

/-- Settles O51, a clause at a time: the fold over a station's or a channel's rings read at one ring, and what the end of
deep calibration leaves of the plane. -/
theorem ringsSweepsAndDeepCalibration : Obligations.RingsSweepsAndDeepCalibration := by
  intro s w v
  refine ⟨fun n key errs _ h0 h1 hc => ?_, fun n k diff h => ?_, fun n k diff since h hs h0 ht hle => ?_,
    fun ring cause hr hf hc => ?_, fun ring cause hf => ?_, fun reads l hr hi hf hp hsf hsw hsub hd hl => ?_,
    fun hv hl hf hi => ?_, fun hv hl => ?_, fun hf hp hd => ?_, fun b key x hd hb hk hh ht hf hx => ?_,
    fun b flights delays hd hb hp => ?_⟩
  · refine ⟨_, exec_heaterUpdate n errs hc, ?_, fun hpp => ?_⟩
    · rw [State.heatRings_ring s (mem_stationRings h0 h1)]
      rfl
    · rw [State.heatRings_ring s (mem_stationRings h0 h1), hpp]
      rfl
  · exact ⟨_, exec_splitterCheck_within h, s.putSplit_splitSince n k 0, rfl⟩
  · subst hs
    exact ⟨_, exec_splitterCheck_told h h0 ht hle, s.putSplit_splitSince n k _, rfl⟩
  · obtain ⟨u, hu, ho⟩ := exec_ringFail hr hf hc
    refine ⟨u, hu, ?_, congrArg Optics.pendingSub ho⟩
    exact (State.ring_congr (congrArg Optics.rings ho) ring).trans (s.ringFailed_ring ring)
  · exact next_congr (if_pos (.inr (.inl hf)))
  · refine ⟨_, exec_channelSweep reads hr hi hf hp hsf hsw hsub hd, State.sweepEnd_next .., ?_, fun hf => ?_⟩
    · rw [State.sweepEnd_frame, State.swept_ht]
    · rw [State.sweepEnd_ring, s.swept_ring _ reads hl, if_neg (ne_true_of_eq_false hf)]
  · refine next_congr ((if_neg ?_).trans ((if_pos ?_).trans (if_pos hi)))
    · rw [bit_eq_getLsbD, hv]
      decide
    · rw [hl, bne_iff_ne.mpr hf]
      rfl
  · refine ⟨_, next_congr ((if_neg ?_).trans (if_neg ?_)), rfl⟩
    · rw [bit_eq_getLsbD, hv]
      decide
    · rw [List.isEmpty_eq_false_iff.mpr hl]
      exact Bool.false_ne_true
  · exact ⟨_, next_congr ((if_neg (not_or.mpr ⟨hf, fun h => h hp⟩)).trans (if_pos (.inl hd))), rfl, rfl⟩
  · refine ⟨_, exec_deepCalApply_one x hd hb hk, rfl, ?_⟩
    rw [State.deepApplied_ring, State.ring_setRing_same, Ring.deep_free hh ht hf hx]
    split
    next hdir =>
      refine ⟨rfl, rfl, rfl, ?_, fun _ => rfl, fun h => absurd (hdir.symm.trans h) (by decide)⟩
      exact (Int.toNat_of_nonneg (keepIn_nonneg (by decide) _)).trans (congrArg (keepIn 0 16383) (Int.add_zero _))
    next hdir =>
      refine ⟨rfl, rfl, rfl, ?_, fun h => absurd h hdir, fun _ => ⟨rfl, rfl⟩⟩
      exact (Int.toNat_of_nonneg (keepIn_nonneg (by decide) _)).trans (congrArg (keepIn 0 16383) (Int.add_zero _))
  · obtain ⟨hdeep, hfl⟩ := Prod.mk.inj (s.lightView_deepOver flights delays)
    obtain ⟨hfl, hopen⟩ := Prod.mk.inj hfl
    refine ⟨_, exec_deepCalEnd flights delays hd hb hp, hdeep, hopen, fun hst hx => ?_⟩
    rw [hfl, hst, hx]
    rfl

end Sys2Proof.Machine
end

section
/-! SUPPORT. O52: lasers and their spares (R363, R364, R366, R430, R488). -/

namespace Sys2Proof.Machine

/-- Another entry of a table stands, whatever an unlisted entry is taken to be. -/
theorem mget_mset_other {α : Type} [DecidableEq α] (d d' : α) (m : SMap α) {k k' : Nat} (v : α) (h : k' ≠ k) :
    mget d' (mset d m k v) k' = mget d' m k' := by
  unfold mset
  split
  · rw [mget_merase, if_neg h]
  · rw [mget_minsert, if_neg h]

@[simp] theorem State.laser_setLaser_ne (s : State) {k k' : Nat} (x : Laser) (h : k' ≠ k) :
    (s.setLaser k x).laser k' = s.laser k' :=
  mget_mset_other _ _ _ _ h

theorem State.laser_congr {s u : State} (h : u.opt.lasers = s.opt.lasers) (l : Nat) : u.laser l = s.laser l :=
  congrArg (mget (laserDefault l) · l) h

theorem State.stepDone_opt (s : State) (n : Nat) : (s.stepDone n).opt = s.opt := by
  unfold State.stepDone
  dsimp only
  split <;> rfl

/-! ## Fade (R363, R364, R367) -/

/-- R363: a laser after a reading of `power` that gives `db`. -/
def Laser.fadeRead (x : Laser) (power : Nat) (db : Int) (now : Nat) : Laser :=
  (x.read power db now).faded (x.read power db now).meanDb now

theorem exec_fadeUpdate {s : State} {l : Nat} (power : Nat) (hl : (s.laser l).lit = true) (hr : (s.laser l).readDue s.boot.osc = true)
    (ha : (s.laser l).st = .active) : exec (.fadeUpdate l power) s = .next ((s.setLaser l ((s.laser l).fadeRead power
      (dbRatio power (100 * (s.laser l).p0) - mget 0 s.tst.fades l) s.boot.osc)).fadeActions l) := by
  refine next_congr ((if_neg ?_).trans (if_pos ha))
  rw [hl, hr]
  decide

/-- R364: a laser that asks for nothing and has no spare stays as it is. -/
theorem State.fadeActions_quiet {s : State} {l : Nat} (hf : -150 < (s.laser l).fade) (hb : (s.laser l).bias < (s.laser l).limit)
    (hs : (s.laser l).spare = none) : s.fadeActions l = s := by
  unfold State.fadeActions
  dsimp only
  rw [if_neg (not_or.mpr ⟨Int.not_le.mpr hf, Nat.not_le_of_lt hb⟩), hs]
  exact if_pos (.inr rfl)

/-- R364: an active laser that has a spare asks for no other. -/
theorem State.askSpare_given {s : State} {l sp : Nat} (hs : (s.laser l).spare = some sp) : s.askSpare l = s := by
  refine if_pos ?_
  rw [hs]
  rfl

/-- R364, R367: at −2.5 dB a switchover of an active laser with a spare falls due; at −4 dB its index waits. -/
theorem State.fadeActions_due {s : State} {l sp : Nat} (ha : (s.laser l).st = .active) (hs : (s.laser l).spare = some sp)
    (hf : (s.laser l).fade ≤ -250) : s.fadeActions l = State.setLaser (if (s.laser l).fade ≤ -400 then
      { s with opt := { s.opt with waiting := addOnce (s.laser l).index s.opt.waiting } } else s) l ((s.laser l).due s.ht) := by
  have hsame : (if (s.laser l).fade ≤ -150 ∨ (s.laser l).limit ≤ (s.laser l).bias then s.askSpare l else s) = s := by
    rw [State.askSpare_given hs, ite_self]
  unfold State.fadeActions
  dsimp only
  rw [hsame, if_neg (not_or.mpr ⟨fun h => h ha, by rw [hs]; exact Bool.false_ne_true⟩), if_pos hf]
  split <;> rfl

/-! ## Spares (R364, R430) -/

/-- The owner of a spare is found among the assignments, which a laser's other fields do not change. -/
theorem State.spareOwner_setLaser (s : State) {k : Nat} {x : Laser} (hx : x.spare = (s.laser k).spare) (sp : Nat) :
    (s.setLaser k x).spareOwner sp = s.spareOwner sp := by
  refine congrArg (fun p => allLasers.find? p) (funext fun l => ?_)
  by_cases hl : l = k
  · rw [hl, State.laser_setLaser_same, hx]
  · rw [State.laser_setLaser_ne _ _ hl]

/-- R364: a spare that has locked. -/
def State.spareLit (s : State) (sp : Nat) : State := s.setLaser sp { s.laser sp with st := .locked, lit := true }

theorem exec_spareLock {s : State} {sp : Nat} (hw : (s.laser sp).st = .warming) (h : (s.laser sp).since + 40000000 ≤ s.boot.osc) :
    exec (.spareLock sp) s = .next (match s.spareOwner sp with
      | none => s.spareLit sp
      | some l =>
        if (s.spareLit sp).beforePlane && ((s.spareLit sp).laser l).st == .failed then
          if ((s.spareLit sp).takeIndex l sp).indicesSettled then ((s.spareLit sp).takeIndex l sp).stepDone 5
          else (s.spareLit sp).takeIndex l sp
        else (s.spareLit sp).setLaser l { (s.spareLit sp).laser l with
          switchDue := ((s.spareLit sp).laser l).switchDue.map fun _ => (s.spareLit sp).ht }) := by
  refine next_congr ((if_neg (not_or.mpr ⟨fun hn => hn hw, Nat.not_lt_of_le h⟩)).trans ?_)
  dsimp only
  rw [State.spareOwner_setLaser s (by rfl)]
  rfl

theorem State.spareOwner_none {s : State} {sp : Nat} (h : ∀ l, (s.laser l).spare ≠ some sp) : s.spareOwner sp = none :=
  List.find?_eq_none.mpr fun l _ hl => h l (beq_iff_eq.mp hl)

theorem State.laser_spareLit_ne (s : State) {l sp : Nat} (h : l ≠ sp) : (s.spareLit sp).laser l = s.laser l :=
  State.laser_setLaser_ne _ _ h

/-! ## Switchover (R366, R367) -/

theorem State.takeIndex_spare (s : State) {l sp : Nat} (h : sp ≠ l) : (s.takeIndex l sp).laser sp =
    { s.laser sp with st := .active, index := (s.laser l).index, lit := true, started := true } := by
  unfold State.takeIndex
  dsimp only
  rw [State.laser_setLaser_same, State.laser_setLaser_ne _ _ h]

theorem State.takeIndex_laser (s : State) {l sp : Nat} (h : sp ≠ l) : (s.takeIndex l sp).laser l =
    { s.laser l with st := .failed, spare := none, asked := none, switchDue := none, lit := false } := by
  unfold State.takeIndex
  dsimp only
  rw [State.laser_setLaser_ne _ _ (Ne.symm h), State.laser_setLaser_same]

theorem State.scaleGains_lasers (s : State) (k : Nat) (old new : Laser) : (s.scaleGains k old new).opt.lasers = s.opt.lasers := by
  unfold State.scaleGains
  generalize dataStations = ns
  refine foldl_same (fun s : State => s.opt.lasers) _ (fun t n => ?_) _ _
  refine foldl_same (fun s : State => s.opt.lasers) _ (fun t l => ?_) _ _
  dsimp only
  split <;> rfl

theorem State.scaleGains_time (s : State) (k : Nat) (old new : Laser) : (s.scaleGains k old new).time = s.time := by
  unfold State.scaleGains
  generalize dataStations = ns
  refine foldl_same State.time _ (fun t n => ?_) _ _
  refine foldl_same State.time _ (fun t l => ?_) _ _
  dsimp only
  split <;> rfl

theorem State.noteSwitch_lasers (s : State) (k : Nat) : (s.noteSwitch k).opt.lasers = s.opt.lasers := by
  unfold State.noteSwitch
  dsimp only
  split <;> rfl

theorem State.noteSwitch_waiting (s : State) (k : Nat) : k ∉ (s.noteSwitch k).opt.waiting := by
  have h : (s.noteSwitch k).opt.waiting = s.opt.waiting.filter (· != k) := by
    unfold State.noteSwitch
    dsimp only
    split <;> rfl
  rw [h]
  simp

theorem State.noteSwitch_switchNow {s : State} (h : s.time.st ≠ .free) (k : Nat) : k ∈ (s.noteSwitch k).opt.switchNow := by
  unfold State.noteSwitch
  dsimp only
  rw [if_neg h]
  exact mem_addOnce _ _

theorem State.opt_recStn (s : State) (code : Nat) (p : Option Nat) (n : Nat) (data : List Byte) :
    (s.recStn code p n data).opt = s.opt := rfl

theorem State.switchOver_lasers (s : State) (k l sp : Nat) :
    (s.switchOver k l sp).opt.lasers = (s.takeIndex l sp).opt.lasers := by
  unfold State.switchOver
  rw [State.opt_recStn, State.noteSwitch_lasers, State.scaleGains_lasers]

theorem State.switchOver_waiting (s : State) (k l sp : Nat) : k ∉ (s.switchOver k l sp).opt.waiting := by
  unfold State.switchOver
  rw [State.opt_recStn]
  exact State.noteSwitch_waiting _ k

theorem State.switchOver_switchNow {s : State} (h : s.time.st ≠ .free) (k l sp : Nat) :
    k ∈ (s.switchOver k l sp).opt.switchNow := by
  unfold State.switchOver
  rw [State.opt_recStn]
  refine State.noteSwitch_switchNow ?_ k
  rw [State.scaleGains_time]
  exact h

theorem State.switchOver_laser (s : State) (k l sp j : Nat) : (s.switchOver k l sp).laser j = (s.takeIndex l sp).laser j :=
  State.laser_congr (s.switchOver_lasers k l sp) j

theorem exec_laserSwitchover {s : State} {k l sp : Nat} (hd : s.switchDue k = some l) (hm : s.maySwitch = true)
    (hs : (s.laser l).spare = some sp) : exec (.laserSwitchover k) s = .next (s.switchOver k l sp) := by
  refine next_congr ?_
  rw [hd]
  dsimp only
  rw [if_neg (by rw [hm]; decide), hs]

/-- Settles O52, a clause at a time: an update of the fade and what it makes due, the lock of a spare, the switchover. -/
theorem lasersAndSpares : Obligations.LasersAndSpares := by
  intro s w v
  refine ⟨fun l power hl hr ha => ?_, fun l power h => ?_, fun sp hw h => ⟨fun hn => ?_, fun l ho hne => ⟨fun hb => ?_, fun hb hf => ?_⟩⟩,
    fun sp hw h => ?_, fun k l sp hd hm hs hne hk => ?_, fun hv hl ha => ⟨fun hs => ?_, fun hs => ?_⟩⟩
  · intro db y
    have hrun := exec_fadeUpdate power hl hr ha
    have hlas : (s.setLaser l ((s.laser l).fadeRead power db s.boot.osc)).laser l = (s.laser l).fadeRead power db s.boot.osc :=
      State.laser_setLaser_same ..
    refine ⟨fun hm hb hs => ?_, fun sp hm hs => ?_⟩
    · rw [State.fadeActions_quiet (by rw [hlas]; exact hm) (by rw [hlas]; exact hb) (by rw [hlas]; exact hs)] at hrun
      refine ⟨_, hrun, ?_⟩
      rw [hlas]
      refine ⟨rfl, rfl, rfl, fun h => if_pos h, fun h => (if_neg ?_).trans (if_pos h), fun h h' => (if_neg ?_).trans (if_neg ?_)⟩
      · exact fun h' => absurd (Int.le_trans h h') (by decide)
      · exact Int.not_le.mpr h
      · exact Int.not_le.mpr h'
    · rw [State.fadeActions_due (sp := sp) (by rw [hlas]; exact ha) (by rw [hlas]; exact hs) (by rw [hlas]; exact hm), hlas] at hrun
      refine ⟨_, hrun, ?_⟩
      rw [State.laser_setLaser_same]
      refine ⟨rfl, rfl, fun h => ?_⟩
      rw [if_pos (show ((s.laser l).fadeRead power db s.boot.osc).fade ≤ -400 from h)]
      exact mem_addOnce _ _
  · refine next_congr (if_pos ?_)
    rcases h with h | h
    · rw [h]
      rfl
    · rw [h]
      exact Bool.or_true _
  · refine (exec_spareLock hw h).trans (next_congr ?_)
    rw [State.spareOwner_none hn]
    rfl
  · refine (exec_spareLock hw h).trans (next_congr ?_)
    rw [ho]
    dsimp only
    rw [State.laser_spareLit_ne s hne]
    refine if_neg ?_
    rw [show (s.spareLit sp).beforePlane = false from hb]
    exact Bool.false_ne_true
  · have hrun := exec_spareLock hw h
    rw [ho] at hrun
    refine ⟨_, hrun.trans (next_congr (if_pos ?_)), ?_⟩
    · rw [State.laser_spareLit_ne s hne, show (s.spareLit sp).beforePlane = true from hb, hf]
      rfl
    · have hopt : (if ((s.spareLit sp).takeIndex l sp).indicesSettled then ((s.spareLit sp).takeIndex l sp).stepDone 5
          else (s.spareLit sp).takeIndex l sp).opt = ((s.spareLit sp).takeIndex l sp).opt := by
        split
        · exact State.stepDone_opt _ 5
        · rfl
      rw [State.laser_congr (congrArg Optics.lasers hopt) sp, State.laser_congr (congrArg Optics.lasers hopt) l,
        State.takeIndex_spare _ (Ne.symm hne), State.takeIndex_laser _ (Ne.symm hne), State.laser_spareLit_ne s hne]
      exact ⟨rfl, rfl, rfl, rfl⟩
  · exact next_congr (if_pos (.inr h))
  · refine ⟨_, exec_laserSwitchover hd hm hs, ?_⟩
    rw [State.switchOver_laser, State.switchOver_laser, State.takeIndex_spare _ hne, State.takeIndex_laser _ hne, hk]
    refine ⟨rfl, rfl, rfl, rfl, rfl, s.switchOver_waiting k l sp, fun hf => State.switchOver_switchNow hf k l sp⟩
  · refine next_congr ((if_neg ?_).trans (if_pos ⟨hl, ha, hs⟩))
    rw [bit_eq_getLsbD, hv]
    decide
  · refine ⟨_, next_congr ((if_neg ?_).trans (if_neg ?_)), rfl⟩
    · rw [bit_eq_getLsbD, hv]
      decide
    · exact fun h => Bool.false_ne_true (hs.symm.trans h.2.2)

end Sys2Proof.Machine
end

section
/-! SUPPORT. What entering the safe state leaves alone beside the partition that enters it (R469 to R472). -/

namespace Sys2Proof.Machine

/-- The safe state itself, the die links, the shut-down latches of the base fields and the states of the partitions. -/
def State.safeView (s : State) : Safe × Links × (Nat → Bool) × (Nat → PartSt) :=
  (s.safe, s.links, fun n => (s.stn n).baseSd, fun p => (s.part p).st)

/-- `p` aside, what `safeView` shows. -/
def State.othersView (s : State) (p : Nat) : Safe × Links × (Nat → Bool) × (Nat → Option PartSt) :=
  (s.safe, s.links, fun n => (s.stn n).baseSd, fun q => if q = p then none else some (s.part q).st)

theorem State.safeView_updPart (s : State) (p : Nat) {f : Partition → Partition} (hf : ∀ x, (f x).st = x.st) :
    (s.updPart p f).safeView = s.safeView := by
  have h : (fun q => ((s.updPart p f).part q).st) = fun q => (s.part q).st := funext fun q => by
    by_cases hq : q = p
    · rw [hq, State.part_updPart_same, hf]
    · rw [State.part_updPart_ne _ _ hq]
  exact congrArg (fun g => (s.safe, s.links, (fun n => (s.stn n).baseSd), g)) h

theorem State.safeView_updStn (s : State) (n : Nat) {f : Station → Station} (hf : ∀ x, (f x).baseSd = x.baseSd) :
    (s.updStn n f).safeView = s.safeView := by
  have h : (fun k => ((s.updStn n f).stn k).baseSd) = fun k => (s.stn k).baseSd := funext fun k => by
    by_cases hk : k = n
    · rw [hk, State.updStn, State.stn_setStn_same, hf]
    · rw [State.updStn, State.stn_setStn_ne _ _ hk]
  exact congrArg (fun g => (s.safe, s.links, g, fun p => (s.part p).st)) h

theorem State.safeView_bounce (s : State) (station : Nat) (p : Packet) (st : Byte) :
    (s.bounce station p st).safeView = s.safeView := by
  unfold State.bounce
  split <;> rfl

theorem State.safeView_sendMsix (s : State) (n v : Nat) : (s.sendMsix n v).safeView = s.safeView := by
  unfold State.sendMsix
  split <;> rfl

theorem State.safeView_evtMsix (s : State) (code n : Nat) : (s.evtMsix code n).safeView = s.safeView := by
  unfold State.evtMsix
  dsimp only
  split
  · exact State.safeView_sendMsix _ _ _
  · rfl

theorem State.safeView_enterRec (s : State) (r : PeatRec) : (s.enterRec r).safeView = s.safeView :=
  (State.safeView_evtMsix _ _ _).trans (State.safeView_evtMsix _ _ _)

theorem State.safeView_safeFlush (s : State) : s.safeFlush.safeView = s.safeView :=
  foldl_same State.safeView State.enterRec State.safeView_enterRec s.evt.offered { s with evt := { s.evt with offered := [] } }

/-! ## A launch that ends -/

theorem State.safeView_ringWrite (s : State) (p i : Nat) (r : LaunchRec) : (s.ringWrite p i r).safeView = s.safeView := by
  unfold State.ringWrite
  dsimp only
  split
  · rfl
  · split
    · exact State.safeView_updPart _ _ fun _ => rfl
    · exact State.safeView_updPart (State.emit s _) _ fun _ => rfl

theorem State.safeView_launchMsix (s : State) (p : Nat) (r : LaunchRec) : (s.launchMsix p r).safeView = s.safeView := by
  unfold State.launchMsix
  dsimp only
  split
  · exact State.safeView_sendMsix _ _ _
  · rfl

theorem State.safeView_finishRec (s : State) (p i : Nat) (status : Byte) (halt faulted phase : Nat) :
    (s.finishRec p i status halt faulted phase).safeView = s.safeView := by
  unfold State.finishRec
  dsimp only
  rw [State.safeView_launchMsix, State.safeView_ringWrite, State.safeView_updPart]
  exact fun _ => rfl

theorem State.safeView_endLaunch (s : State) (p : Nat) : (s.endLaunch p).safeView = s.safeView := by
  unfold State.endLaunch
  split
  · rfl
  · dsimp only
    split
    · rw [State.safeView_finishRec, State.safeView_updPart]
      exact fun _ => rfl
    · split
      · rw [State.safeView_finishRec, State.safeView_updPart]
        exact fun _ => rfl
      · rfl

/-! ## Circuits that end -/

theorem State.safeView_storeAt (s : State) (w : BitVec 256) (va : Nat) (bs : List Byte) :
    (s.storeAt w va bs).1.safeView = s.safeView := by
  unfold State.storeAt
  dsimp only
  repeat' split
  all_goals rfl

theorem State.safeView_storeVa (s : State) (station job va : Nat) (bs : List Byte) :
    (s.storeVa station job va bs).1.safeView = s.safeView := by
  unfold State.storeVa
  split
  · rfl
  · exact State.safeView_storeAt _ _ _ _

theorem State.safeView_failItem (s : State) (b : Burst) (st : Byte) (station : Nat) (side : Bool) (item : Nat) :
    (s.failItem b st station side item).safeView = s.safeView := by
  unfold State.failItem State.failRecord
  dsimp only
  split
  · exact State.safeView_updPart _ _ fun _ => rfl
  · rw [State.safeView_updPart, State.safeView_storeVa]
    exact fun _ => rfl

theorem State.safeView_endAtTile (s : State) (x : CItem) (st : Byte) (undef : List Nat) (t : Nat) :
    (s.endAtTile x st undef t).safeView = s.safeView := by
  have hfree (s : State) : (s.freeBlocks t x.addr undef).safeView = s.safeView := by
    unfold State.freeBlocks
    refine foldl_same State.safeView _ (fun _ _ => ?_) _ _
    rfl
  unfold State.endAtTile
  dsimp only
  split
  · rfl
  · split <;> split
    · rfl
    · exact hfree s
    · rfl
    · exact hfree s

/-- An item that ends with another status than DONE delivers nothing. -/
theorem State.safeView_endItem (s : State) (station : Nat) (b : Burst) (x : CItem) {st : Byte} (hst : st ≠ St.done) (bad : List Nat)
    (bs : List Byte) : (s.endItem station b x st bad bs).safeView = s.safeView := by
  unfold State.endItem
  dsimp only
  rw [if_pos (bne_iff_ne.mpr hst), foldl_same State.safeView _ (fun _ _ => State.safeView_failItem _ _ _ _ _ _),
    State.safeView_updPart _ _ (fun y => ?_), if_neg ?_,
    foldl_same State.safeView _ (fun _ _ => State.safeView_endAtTile _ _ _ _ _)]
  · rw [List.isEmpty_eq_false_iff.mpr (List.append_ne_nil_of_left_ne_nil (List.cons_ne_nil _ _) _), Bool.and_false]
    exact Bool.false_ne_true
  · split <;> rfl

theorem State.safeView_endBurstAt (s : State) (b : Burst) (d : Nat) {st : Byte} (hst : st ≠ St.done) :
    (s.endBurstAt b d st).1.safeView = s.safeView := by
  unfold State.endBurstAt
  split
  · rfl
  · exact foldl_same State.safeView _ (fun _ _ => State.safeView_endItem _ _ _ _ hst _ _) _ _

theorem State.safeView_endCircuits (s : State) (p : Nat) {st : Byte} (hst : st ≠ St.done) :
    (s.endCircuits p st).safeView = s.safeView := by
  have hone (b : Burst) (ds : List Nat) (acc : State × Nat) : (ds.foldl (fun (acc : State × Nat) d =>
        let r := acc.1.endBurstAt b d st
        (r.1, acc.2 + r.2)) acc).1.safeView = acc.1.safeView := by
    refine foldl_same (fun a : State × Nat => a.1.safeView) _ (fun acc d => ?_) _ _
    exact State.safeView_endBurstAt _ _ _ hst
  have hloop (bs : List Burst) (acc : State × Nat) : (bs.foldl (fun (acc : State × Nat) b =>
      (dataStations.filter fun d => bit (seMask b.entry) d).foldl (fun (acc : State × Nat) d =>
        let r := acc.1.endBurstAt b d st
        (r.1, acc.2 + r.2)) acc) acc).1.safeView = acc.1.safeView :=
    foldl_same (fun a : State × Nat => a.1.safeView) _ (fun acc b => hone b _ acc) bs acc
  have hbody (u : State × Nat) (bs : List Burst) : (State.safeView (
      let s := State.updPart { u.1 with bursts := bs } p fun y => { y with live := none }
      if u.2 = 0 then s else s.recStn 0x4002 (some p) 26 (leBytes 4 u.2))) = u.1.safeView := by
    dsimp only
    have hview : (State.updPart { u.1 with bursts := bs } p fun y => { y with live := none }).safeView = u.1.safeView := by
      refine State.safeView_updPart { u.1 with bursts := bs } p fun _ => ?_
      rfl
    split <;> exact hview
  exact (hbody _ _).trans (hloop _ _)

/-! ## Held packets, rounds and the hall -/

theorem State.safeView_endHeld (s : State) (p : Nat) (st : Byte) : (s.endHeld p st).safeView = s.safeView := by
  unfold State.endHeld
  dsimp only
  refine (foldl_same State.safeView _ (fun _ _ => ?_) _ _).trans (foldl_same State.safeView _ (fun _ _ => ?_) _ _)
  · exact State.safeView_bounce _ _ _ _
  · rfl

theorem State.safeView_endRound (s : State) (station n : Nat) (status : Byte) (k : Nat) :
    (s.endRound station n status k).safeView = s.safeView := by
  unfold State.endRound State.setColl
  dsimp only
  rw [State.safeView_updStn, State.safeView_updStn]
  rotate_left
  · exact fun _ => rfl
  · exact fun _ => rfl
  split
  · rfl
  · exact State.safeView_storeVa _ _ _ _ _

theorem State.safeView_endRounds (s : State) (p : Nat) (st : Byte) : (s.endRounds p st).safeView = s.safeView := by
  unfold State.endRounds
  refine foldl_same State.safeView _ (fun _ _ => ?_) _ _
  split
  · exact State.safeView_endRound _ _ _ _ _
  · rfl

theorem State.safeView_endHall (s : State) (p : Nat) (st : Byte) : (s.endHall p st).safeView = s.safeView := by
  unfold State.endHall
  refine foldl_same State.safeView _ (fun _ _ => ?_) _ _
  exact State.safeView_bounce _ _ _ _

theorem State.safeView_stopTiles (s : State) (ts : List Nat) (st : Byte) :
    (ts.foldl (fun (s : State) t => s.updTile t (fun x => x.safeStop st)) s).safeView = s.safeView := by
  refine foldl_same State.safeView _ (fun _ _ => ?_) _ _
  rfl

/-- `othersView` is what `safeView` shows but for one partition. -/
theorem State.othersView_of_safeView {s t : State} (h : t.safeView = s.safeView) (p : Nat) : t.othersView p = s.othersView p :=
  congrArg (fun v : Safe × Links × (Nat → Bool) × (Nat → PartSt) =>
    (v.1, v.2.1, v.2.2.1, fun q => if q = p then none else some (v.2.2.2 q))) h

theorem State.othersView_updPart (s : State) (p : Nat) (f : Partition → Partition) :
    (s.updPart p f).othersView p = s.othersView p := by
  have h : (fun q => if q = p then none else some ((s.updPart p f).part q).st) = fun q => if q = p then none else some (s.part q).st :=
    funext fun q => by
      split
      · rfl
      · next hq => rw [State.part_updPart_ne _ _ hq]
  exact congrArg (fun g => (s.safe, s.links, (fun n => (s.stn n).baseSd), g)) h

/-- R471: the entry of one partition touches no other partition's state, no latch and no die link. -/
theorem State.othersView_enterNow (s : State) (p n : Nat) : (s.enterNow p n).othersView p = s.othersView p := by
  have hst : (if n = 9 then St.timeLost else St.safeState) ≠ St.done := by
    split <;> decide
  unfold State.enterNow
  dsimp only
  rw [State.othersView_of_safeView (State.safeView_safeFlush _), State.othersView_of_safeView (State.safeView_endHall _ _ _),
    State.othersView_updPart, State.othersView_of_safeView (State.safeView_endRounds _ _ _),
    State.othersView_of_safeView (State.safeView_endHeld _ _ _),
    State.othersView_of_safeView (State.safeView_stopTiles _ _ _),
    State.othersView_of_safeView (State.safeView_endCircuits _ _ hst), State.othersView_of_safeView (State.safeView_endLaunch _ _)]
  rfl

/-! ## A trigger on several partitions (R469, R474) -/

theorem State.enterNow_st (s : State) (p n : Nat) : ((s.enterNow p n).part p).st = .safeState := by
  obtain ⟨y, hy⟩ := s.enterNow_part p n
  rw [hy]
  rfl

/-- R471, R474: a loaded partition is in the safe state after its trigger, which is marked. -/
theorem State.enterSafe_loaded {s : State} {p : Nat} (n : Nat) (hl : (s.part p).isLoaded = true) :
    (s.enterSafe p n).othersView p = (s.triggerRec p n).othersView p ∧ ((s.enterSafe p n).part p).st = .safeState := by
  have hn : ¬ (!(s.part p).isLoaded) = true := by
    rw [hl]
    decide
  by_cases hs : (s.part p).st = .safeState
  · have he : s.enterSafe p n = (s.triggerRec p n).updPart p fun y => { y with trigger := if y.trigger = 9 then n else y.trigger } :=
      (if_neg hn).trans (if_pos hs)
    rw [he]
    refine ⟨State.othersView_updPart _ _ _, ?_⟩
    rw [State.part_updPart_same]
    exact hs
  · have he : s.enterSafe p n = (s.triggerRec p n).enterNow p n := (if_neg hn).trans (if_neg hs)
    rw [he]
    exact ⟨State.othersView_enterNow _ _ _, State.enterNow_st _ _ _⟩

/-- What the entry of the partitions `ps` makes of a state, in terms of what `safeView` shows. -/
def State.Entered (s t : State) (ps : List Nat) : Prop :=
  t.safe = s.safe ∧ t.links = s.links ∧ (∀ n, (t.stn n).baseSd = (s.stn n).baseSd) ∧
    ∀ q, (t.part q).st = if q ∈ ps then .safeState else (s.part q).st

theorem State.enterSafe_entered {s : State} {p n : Nat} (hl : (s.part p).isLoaded = true)
    (ht : s.safe.trig ||| BitVec.ofNat 10 (2 ^ n) = s.safe.trig) : s.Entered (s.enterSafe p n) [p] := by
  obtain ⟨hview, hst⟩ := State.enterSafe_loaded n hl
  obtain ⟨hsafe, hview⟩ := Prod.mk.inj hview
  obtain ⟨hlinks, hview⟩ := Prod.mk.inj hview
  obtain ⟨hbase, hpart⟩ := Prod.mk.inj hview
  refine ⟨hsafe.trans ?_, hlinks, congrFun hbase, fun q => ?_⟩
  · exact congrArg (fun x => { s.safe with trig := x }) ht
  · by_cases hq : q = p
    · rw [hq, hst, if_pos (List.mem_singleton.mpr rfl)]
    · rw [if_neg (fun h => hq (List.mem_singleton.mp h))]
      have h := congrFun hpart q
      rw [if_neg hq, if_neg hq] at h
      exact Option.some.inj h

theorem State.enterAll_entered {n : Nat} (ps : List Nat) {s : State} (hl : ∀ p ∈ ps, (s.part p).isLoaded = true)
    (ht : s.safe.trig ||| BitVec.ofNat 10 (2 ^ n) = s.safe.trig) : s.Entered (ps.foldl (fun s p => s.enterSafe p n) s) ps := by
  induction ps generalizing s with
  | nil => exact ⟨rfl, rfl, fun _ => rfl, fun q => (if_neg List.not_mem_nil).symm⟩
  | cons p ps ih =>
    obtain ⟨h1, h2, h3, h4⟩ := State.enterSafe_entered (hl p List.mem_cons_self) ht
    have hl' : ∀ q ∈ ps, ((s.enterSafe p n).part q).isLoaded = true := fun q hq => by
      have h := hl q (List.mem_cons_of_mem _ hq)
      unfold Partition.isLoaded at h ⊢
      rw [h4]
      split
      · rfl
      · exact h
    obtain ⟨k1, k2, k3, k4⟩ := ih hl' (by rw [h1]; exact ht)
    refine ⟨k1.trans h1, k2.trans h2, fun k => (k3 k).trans (h3 k), fun q => (k4 q).trans ?_⟩
    rw [h4]
    by_cases hq : q ∈ ps
    · rw [if_pos hq, if_pos (List.mem_cons_of_mem _ hq)]
    · rw [if_neg hq]
      exact if_congr (by simp [hq]) rfl rfl

/-! ## The shared safe state (R472) -/

/-- What the entry of the module leaves: the die links, the base fields, the partitions. -/
def State.heldView (s : State) : Links × SMap Station × SMap Partition := (s.links, s.stations, s.parts)

theorem State.bounce_held (s : State) (station : Nat) (p : Packet) (st : Byte) {α : Type} (g : State → α)
    (hg : ∀ (s : State) pkts seq, g { s with fabric := { s.fabric with pkts := pkts, seq := seq } } = g s) :
    g (s.bounce station p st) = g s := by
  unfold State.bounce
  split
  · exact hg s _ _
  · rfl

/-- A message of the recorder is all that a flush sends out. -/
theorem State.safeFlush_same {α : Type} (g : State → α) (hevt : ∀ (s : State) e, g { s with evt := e } = g s)
    (hout : ∀ (s : State) o, g (s.emit o) = g s) (s : State) : g s.safeFlush = g s := by
  have hmsix (s : State) (code n : Nat) : g (s.evtMsix code n) = g s := by
    unfold State.evtMsix State.sendMsix
    dsimp only
    split
    · split
      · exact hout s _
      · rfl
    · rfl
  have hrec (s : State) (r : PeatRec) : g (s.enterRec r) = g s :=
    (hmsix _ _ _).trans ((hmsix _ _ _).trans (hevt s _))
  exact (hevt _ _).trans ((foldl_same g State.enterRec hrec _ _).trans (hevt s _))

theorem State.heldView_darken (s : State) : s.darken.heldView = s.heldView := by
  have hlasers : s.lasersOff.heldView = s.heldView := by
    unfold State.lasersOff
    generalize allLasers = ls
    refine (foldl_same State.heldView _ (fun _ _ => ?_) _ _).trans ?_ <;> rfl
  unfold State.darken
  generalize hallPorts = ps
  refine (foldl_same State.heldView _ (fun _ _ => ?_) _ _).trans hlasers
  rfl

theorem State.emptyHall_same {α : Type} (g : State → α)
    (hg : ∀ (s : State) pkts seq, g { s with fabric := { s.fabric with pkts := pkts, seq := seq } } = g s) (s : State) :
    g s.emptyHall = g s := by
  unfold State.emptyHall
  refine foldl_same g _ (fun t f => ?_) _ _
  exact (State.bounce_held _ _ _ _ g hg).trans (hg t _ _)

/-- R472: the module in the shared safe state, before the flush of its entry. -/
def State.shutDown (s : State) : State :=
  { s.darken.emptyHall.stopClocks with
    safe := { s.darken.emptyHall.stopClocks.safe with shared := true, exiting := false, relit := false }
    mem := { s.darken.emptyHall.stopClocks.mem with selfRefresh := true } }

theorem State.heldView_shutDown (s : State) : s.shutDown.heldView = s.heldView :=
  (State.emptyHall_same State.heldView (fun _ _ _ => rfl) _).trans s.heldView_darken

theorem State.enterShared_eq {s : State} (h : ¬ (s.safe.shared && !s.safe.exiting) = true) (n : Nat) : s.enterShared n =
    (if s.safe.shared then s else s.recStn 0xE002 none 26 [BitVec.ofNat 8 n]).shutDown.safeFlush := if_neg h

theorem State.heldView_enterShared (s : State) (n : Nat) : (s.enterShared n).heldView = s.heldView := by
  by_cases h : (s.safe.shared && !s.safe.exiting) = true
  · rw [show s.enterShared n = s from if_pos h]
  · rw [State.enterShared_eq h, State.safeFlush_same State.heldView (fun _ _ => rfl) (fun _ _ => rfl), State.heldView_shutDown]
    split <;> rfl

theorem State.darken_safe (s : State) : s.darken.safe = s.safe := by
  have hlasers : s.lasersOff.safe = s.safe := by
    unfold State.lasersOff
    generalize allLasers = ls
    refine (foldl_same State.safe _ (fun _ _ => ?_) _ _).trans ?_ <;> rfl
  unfold State.darken
  generalize hallPorts = ps
  refine (foldl_same State.safe _ (fun _ _ => ?_) _ _).trans hlasers
  rfl

theorem State.shutDown_safe (s : State) : s.shutDown.safe = { s.safe with shared := true, exiting := false, relit := false } :=
  congrArg (fun x : Safe => { x with shared := true, exiting := false, relit := false })
    ((State.emptyHall_same State.safe (fun _ _ _ => rfl) _).trans s.darken_safe)

theorem State.enterShared_safe {s : State} (h : ¬ (s.safe.shared && !s.safe.exiting) = true) (n : Nat) :
    (s.enterShared n).safe = { s.safe with shared := true, exiting := false, relit := false } := by
  rw [State.enterShared_eq h, State.safeFlush_same State.safe (fun _ _ => rfl) (fun _ _ => rfl), State.shutDown_safe]
  split <;> rfl

/-- R472: an entry leaves the module in the shared safe state, its triggers as they were. -/
theorem State.enterShared_in (s : State) (n : Nat) : (s.enterShared n).safe.shared = true ∧
    (s.enterShared n).safe.exiting = false ∧ (s.enterShared n).safe.trig = s.safe.trig := by
  by_cases h : (s.safe.shared && !s.safe.exiting) = true
  · rw [show s.enterShared n = s from if_pos h]
    rw [Bool.and_eq_true, Bool.not_eq_true'] at h
    exact ⟨h.1, h.2, rfl⟩
  · rw [State.enterShared_safe h]
    exact ⟨rfl, rfl, rfl⟩

/-! ## A trigger (R469, R472) -/

/-- The trigger's bit is set. -/
def State.marked (s : State) (n : Nat) : State :=
  { s with safe := { s.safe with trig := s.safe.trig ||| BitVec.ofNat 10 (2 ^ n) } }

/-- R469, R472: a trigger makes the loaded partitions of its scope enter, and with the last of them perhaps the module. -/
theorem State.trigger_entered (s : State) (ps : List Nat) (n : Nat) : ∃ t : State,
    (s.marked n).Entered t (ps.filter fun p => (s.part p).isLoaded) ∧ (s.trigger ps n = t ∨ s.trigger ps n = t.enterShared n) := by
  refine ⟨(ps.filter fun p => (s.part p).isLoaded).foldl (fun s p => s.enterSafe p n) (s.marked n),
    State.enterAll_entered _ (fun p hp => (List.mem_filter.mp hp).2) ?_, ?_⟩
  · exact (BitVec.or_assoc _ _ _).trans (congrArg (s.safe.trig ||| ·) BitVec.or_self)
  · unfold State.trigger
    dsimp only
    split
    · exact .inr rfl
    · exact .inl rfl

theorem getLsbD_or_one {w : Nat} (x : BitVec w) {n : Nat} (h : n < w) : (x ||| BitVec.ofNat w (2 ^ n)).getLsbD n = true := by
  rw [BitVec.getLsbD_or, BitVec.getLsbD_ofNat, Nat.testBit_two_pow_self]
  simp [h]

/-- R469: what a trigger leaves of the die links and the latches, and its bit. -/
theorem State.trigger_keeps (s : State) (ps : List Nat) {n : Nat} (hn : n < 10) : (s.trigger ps n).links = s.links ∧
    (∀ k, ((s.trigger ps n).stn k).baseSd = (s.stn k).baseSd) ∧ (s.trigger ps n).safe.trig.getLsbD n = true := by
  obtain ⟨t, ⟨hsafe, hlinks, hbase, _⟩, h⟩ := s.trigger_entered ps n
  have htrig : t.safe.trig.getLsbD n = true := by
    rw [hsafe]
    exact getLsbD_or_one _ hn
  rcases h with h | h
  · rw [h]
    exact ⟨hlinks, hbase, htrig⟩
  · rw [h]
    have hheld := t.heldView_enterShared n
    obtain ⟨hl, hheld⟩ := Prod.mk.inj hheld
    obtain ⟨hs, _⟩ := Prod.mk.inj hheld
    refine ⟨hl.trans hlinks, fun k => ?_, ?_⟩
    · exact (congrArg (fun m : SMap Station => (mget ({} : Station) m k).baseSd) hs).trans (hbase k)
    · rw [(t.enterShared_in n).2.2]
      exact htrig

end Sys2Proof.Machine
end

section
/-! SUPPORT. O53: die links (R374 to R376, R381, R382, R385 to R387, R390, R391, R393 to R395). -/

namespace Sys2Proof.Machine

/-- Every entry of a table changed in place, where an unlisted entry would stay as it is. -/
theorem mget_map_of_fix {α : Type} {d : α} {g : Nat → α → α} (m : SMap α) {k : Nat} (h : g k d = d) :
    mget d (m.map fun p => (p.1, g p.1 p.2)) k = g k (mget d m k) := by
  rw [mget_map]
  split
  · rfl
  · next hk => rw [mget_absent d m k hk, h]

theorem State.bond_setBond (s : State) (r : Nat) (b : BondPort) : (s.setBond r b).bond r = b := by
  unfold State.setBond State.bond State.updRgn
  rw [State.rgn_setRgn_same]

theorem State.bond_recStn (s : State) (code : Nat) (p : Option Nat) (n : Nat) (data : List Byte) (r : Nat) :
    (s.recStn code p n data).bond r = s.bond r := rfl

/-! ## Lanes (R374) -/

/-- R374: a port one of whose lanes is declared failed. -/
def BondPort.declared (b : BondPort) (dir lane : Nat) : BondPort :=
  let b := { b with laneFails := satInc 65535 b.laneFails }
  if dir = 0 then { b with upFail := b.upFail ||| BitVec.ofNat 528 (2 ^ lane) }
  else { b with dnFail := b.dnFail ||| BitVec.ofNat 528 (2 ^ lane) }

/-- A port but for its note of the lanes declared failed late in a frame. -/
def BondPort.timely (b : BondPort) : BondPort := { b with lateFrame := none, upLate := 0, dnLate := 0 }

theorem BondPort.late_timely (b : BondPort) (frame dir : Nat) (m : BitVec 528) : (b.late frame dir m).timely = b.timely := by
  unfold BondPort.late
  dsimp only
  split <;> split <;> rfl

theorem State.declareLane_new {s : State} {r dir lane : Nat} (hl : lane < 528) (hd : dir < 2)
    (h : ((s.bond r).fails dir).getLsbD lane = false) :
    ((s.declareLane r dir lane).bond r).timely = ((s.bond r).declared dir lane).timely := by
  unfold State.declareLane
  dsimp only
  rw [if_neg (not_or.mpr ⟨Nat.not_le_of_lt hl, not_or.mpr ⟨Nat.not_le_of_lt hd, ne_true_of_eq_false h⟩⟩), State.bond_recStn,
    State.bond_setBond]
  split
  · exact BondPort.late_timely _ _ _ _
  · rfl

theorem State.declareLane_known {s : State} {r dir lane : Nat} (h : ((s.bond r).fails dir).getLsbD lane = true) :
    s.declareLane r dir lane = s := if_pos (.inr (.inr h))

/-- What the lane check sees of a port at one lane. -/
def BondPort.laneView (b : BondPort) (lane : Nat) : BitVec 528 × BitVec 528 × Bool × Bool :=
  (b.upErr, b.dnErr, b.upFail.getLsbD lane, b.dnFail.getLsbD lane)

theorem getLsbD_or_bit {w : Nat} (x : BitVec w) {lane : Nat} (l : Nat) (h : lane < w) :
    (x ||| BitVec.ofNat w (2 ^ l)).getLsbD lane = (x.getLsbD lane || decide (l = lane)) := by
  rw [BitVec.getLsbD_or, BitVec.getLsbD_ofNat, Nat.testBit_two_pow]
  simp [h]

theorem BondPort.laneView_of_timely {a b : BondPort} (h : a.timely = b.timely) (lane : Nat) : a.laneView lane = b.laneView lane :=
  show a.timely.laneView lane = b.timely.laneView lane by rw [h]

/-- R374: what a declaration makes of the failed lanes of its direction. -/
theorem State.declareLane_view (s : State) (n : Nat) {dir l lane : Nat} (hd : dir < 2) (hl : l < 528) (hlane : lane < 528) :
    ((s.declareLane n dir l).bond n).laneView lane = ((s.bond n).upErr, (s.bond n).dnErr,
      ((s.bond n).upFail.getLsbD lane || decide (dir = 0 ∧ l = lane)),
      ((s.bond n).dnFail.getLsbD lane || decide (dir = 1 ∧ l = lane))) := by
  obtain rfl | rfl : dir = 0 ∨ dir = 1 := by omega
  · cases h : ((s.bond n).fails 0).getLsbD l with
    | false =>
      rw [BondPort.laneView_of_timely (State.declareLane_new hl hd h)]
      exact congrArg₂ (fun a b => ((s.bond n).upErr, (s.bond n).dnErr, a, b))
        ((getLsbD_or_bit _ l hlane).trans (by simp)) (by simp [BondPort.declared])
    | true =>
      rw [State.declareLane_known h]
      refine congrArg₂ (fun a b => ((s.bond n).upErr, (s.bond n).dnErr, a, b)) ?_ (by simp)
      by_cases hlane : l = lane
      · rw [← hlane, show (s.bond n).upFail.getLsbD l = true from h, Bool.true_or]
      · simp [hlane]
  · cases h : ((s.bond n).fails 1).getLsbD l with
    | false =>
      rw [BondPort.laneView_of_timely (State.declareLane_new hl hd h)]
      exact congrArg₂ (fun a b => ((s.bond n).upErr, (s.bond n).dnErr, a, b)) (by simp [BondPort.declared])
        ((getLsbD_or_bit _ l hlane).trans (by simp))
    | true =>
      rw [State.declareLane_known h]
      refine congrArg₂ (fun a b => ((s.bond n).upErr, (s.bond n).dnErr, a, b)) (by simp) ?_
      by_cases hlane : l = lane
      · rw [← hlane, show (s.bond n).dnFail.getLsbD l = true from h, Bool.true_or]
      · simp [hlane]

theorem State.declareLanes_view (n : Nat) {dir lane : Nat} (hd : dir < 2) (hlane : lane < 528) (ls : List Nat)
    (hls : ∀ l ∈ ls, l < 528) (s : State) :
    ((ls.foldl (fun s l => s.declareLane n dir l) s).bond n).laneView lane = ((s.bond n).upErr, (s.bond n).dnErr,
      ((s.bond n).upFail.getLsbD lane || decide (dir = 0 ∧ lane ∈ ls)),
      ((s.bond n).dnFail.getLsbD lane || decide (dir = 1 ∧ lane ∈ ls))) := by
  induction ls generalizing s with
  | nil => simp [BondPort.laneView]
  | cons l ls ih =>
    have hstep := s.declareLane_view n hd (hls l List.mem_cons_self) hlane
    obtain ⟨hu, hstep⟩ := Prod.mk.inj hstep
    obtain ⟨hdn, hstep⟩ := Prod.mk.inj hstep
    obtain ⟨huf, hdf⟩ := Prod.mk.inj hstep
    rw [List.foldl_cons, ih (fun l hl => hls l (List.mem_cons_of_mem _ hl)), hu, hdn, huf, hdf]
    simp only [List.mem_cons, eq_comm (a := lane), Bool.or_assoc, ← Bool.decide_or, and_or_left]

theorem mem_lanesOf {m : BitVec 528} {l : Nat} : l ∈ lanesOf m ↔ l < 528 ∧ m.getLsbD l = true := by
  unfold lanesOf
  rw [List.mem_filter, List.mem_range]

/-- R374: the check of a port's lanes. -/
def State.lanesChecked (s : State) (n : Nat) (up dn : BitVec 528) : State :=
  let t := s.setBond n { s.bond n with upErr := up, dnErr := dn, checkFrame := some (frameOf s.ht) }
  (lanesOf (dn &&& (s.bond n).dnErr)).foldl (fun s l => s.declareLane n 1 l)
    ((lanesOf (up &&& (s.bond n).upErr)).foldl (fun s l => s.declareLane n 0 l) t)

theorem exec_laneCheck {s : State} {n : Nat} (up dn : BitVec 528) (hf : s.time.st ≠ .free) (h1 : 63100 ≤ framePos s.ht)
    (h2 : framePos s.ht ≤ 63700) (hc : (s.bond n).checkFrame ≠ some (frameOf s.ht)) :
    exec (.laneCheck n up dn) s = .next (s.lanesChecked n up dn) := by
  refine next_congr (if_neg ?_)
  rintro (h | h | h | h)
  · exact hf h
  · exact absurd h1 (Nat.not_le_of_lt h)
  · exact absurd h2 (Nat.not_le_of_lt h)
  · exact hc h

theorem State.lanesChecked_view (s : State) (n : Nat) (up dn : BitVec 528) {lane : Nat} (hlane : lane < 528) :
    ((s.lanesChecked n up dn).bond n).laneView lane = (up, dn,
      ((s.bond n).upFail.getLsbD lane || up.getLsbD lane && (s.bond n).upErr.getLsbD lane),
      ((s.bond n).dnFail.getLsbD lane || dn.getLsbD lane && (s.bond n).dnErr.getLsbD lane)) := by
  unfold State.lanesChecked
  dsimp only
  have h1 := State.declareLanes_view n (dir := 0) (by decide) hlane (lanesOf (up &&& (s.bond n).upErr))
    (fun l hl => (mem_lanesOf.mp hl).1) (s.setBond n { s.bond n with upErr := up, dnErr := dn, checkFrame := some (frameOf s.ht) })
  obtain ⟨hu, h1⟩ := Prod.mk.inj h1
  obtain ⟨hdn, h1⟩ := Prod.mk.inj h1
  obtain ⟨huf, hdf⟩ := Prod.mk.inj h1
  rw [State.declareLanes_view n (dir := 1) (by decide) hlane _ (fun l hl => (mem_lanesOf.mp hl).1), hu, hdn, huf, hdf,
    State.bond_setBond]
  simp [mem_lanesOf, hlane]

/-! ## Maps and trainings (R375, R376, R381, R382) -/

theorem State.putMaps_bond (s : State) (r : Nat) (up dn : BitVec 528) : (s.putMaps r up dn).bond r = { s.bond r with
    upMap := up, dnMap := dn, widthUp := widthCode up, widthDn := widthCode dn, mismatches := 0, retryAt := none
    st := if widthCode up = 2 ∧ widthCode dn = 2 then 0 else 2 } := by
  unfold State.putMaps
  dsimp only
  split <;> split <;> exact State.bond_setBond _ _ _

theorem State.bondMismatch_again {s : State} {r : Nat} (h : (s.bond r).mismatches < 2) :
    (s.bondMismatch r).bond r = { s.bond r with st := 1, mismatches := (s.bond r).mismatches + 1 } := by
  unfold State.bondMismatch
  dsimp only
  rw [if_pos h, State.bond_setBond]

theorem State.bondMismatch_down {s : State} {r : Nat} (h : (s.bond r).mismatches = 2) :
    (s.bondMismatch r).bond r = { s.bond r with st := 0, mismatches := 0, retryAt := some (s.boot.osc + 1000000) } := by
  unfold State.bondMismatch
  dsimp only
  rw [if_neg (by rw [h]; decide), State.bond_recStn, State.bond_setBond]

/-- R375: where no lane was declared failed late in this frame all failed lanes leave. -/
theorem BondPort.leaving_timely {b : BondPort} {frame : Nat} (h : b.lateFrame ≠ some frame) (dir : Nat) :
    b.leaving frame dir = b.fails dir := by
  unfold BondPort.leaving
  dsimp only
  rw [if_neg h, BitVec.ofNat_eq_ofNat, BitVec.not_zero, BitVec.and_allOnes]

theorem exec_bpMapChange {s : State} {n : Nat} (hash : BitVec 64) (hst : (s.bond n).st = 2)
    (ht : s.time.st = .free ∨ 63900 ≤ framePos s.ht) (hlate : (s.bond n).lateFrame ≠ some (frameOf s.ht)) {up dn : BitVec 528}
    (hup : up = (s.bond n).upMap &&& ~~~(s.bond n).upFail) (hdn : dn = (s.bond n).dnMap &&& ~~~(s.bond n).dnFail)
    (hne : up ≠ (s.bond n).upMap ∨ dn ≠ (s.bond n).dnMap) :
    exec (.bpMapChange n hash) s = .next (
      if hash = s.bondHash n up dn then s.putMaps n up dn
      else (s.bondMismatch n).updRgn n fun x => { x with bond := { x.bond with trainings := satInc 65535 x.bond.trainings } }) := by
  subst hup hdn
  refine next_congr ?_
  dsimp only
  rw [BondPort.leaving_timely hlate, BondPort.leaving_timely hlate]
  refine if_neg ?_
  rintro (h | h | h)
  · exact h hst
  · rw [Bool.and_eq_true, bne_iff_ne, decide_eq_true_iff] at h
    exact ht.elim h.1 (Nat.not_le_of_lt h.2)
  · exact hne.elim (fun hn => hn h.1) fun hn => hn h.2

theorem State.bond_updTrainings (s : State) (n : Nat) : (s.updRgn n fun x =>
    { x with bond := { x.bond with trainings := satInc 65535 x.bond.trainings } }).bond n =
      { s.bond n with trainings := satInc 65535 (s.bond n).trainings } := by
  unfold State.updRgn State.bond
  rw [State.rgn_setRgn_same]

/-- R381: the map after a training, of what both ends mark good. -/
def BondPort.keeps (b : BondPort) (old new : BitVec 528) : BitVec 528 := if b.ends.mismatch then new else old &&& new

theorem State.bondHash_setBond (s : State) (n : Nat) (b : BondPort) (h : b.ends = (s.bond n).ends) (up dn : BitVec 528) :
    (s.setBond n b).bondHash n up dn = s.bondHash n up dn := by
  unfold State.bondHash
  rw [State.bond_setBond, h]
  rfl

theorem exec_linkTraining_bond {s : State} {n : Nat} (t : TrainResult) (hst : (s.bond n).st = 1) (hr : (s.bond n).retryAt = none)
    (hb : (s.rgn n).boot = .clocked ∨ (s.rgn n).boot = .enabled) {up dn : BitVec 528}
    (hup : up = (s.bond n).keeps (s.bond n).upMap (t.upTx &&& t.upRx &&& ~~~(s.bond n).upFail))
    (hdn : dn = (s.bond n).keeps (s.bond n).dnMap (t.dnTx &&& t.dnRx &&& ~~~(s.bond n).dnFail)) :
    exec (.linkTraining (.bondPort n) t) s = .next (
      if t.hash ≠ s.bondHash n up dn then (s.setBond n (s.bond n)).bondMismatch n
      else ((s.setBond n (s.bond n)).setBond n { s.bond n with ends := (s.bond n).ends.agree }).putMaps n up dn) := by
  subst hup hdn
  refine next_congr ?_
  unfold State.trainBond
  dsimp only
  rw [if_neg, if_pos hst, State.bondHash_setBond s n _ rfl]
  · rfl
  · rw [hst, hr]
    rintro (h | h | ⟨h, h'⟩)
    · exact absurd h (by decide)
    · exact absurd h Bool.false_ne_true
    · exact hb.elim h h'

/-- R381, R382: a site's ends as its training meets them. -/
def Site.meets (x : Site) (t : TrainResult) : Site :=
  { x.trains t.peerEpoch with ends := { (x.trains t.peerEpoch).ends with far := t.peerEpoch, farSaw := t.peerSaw } }

theorem Site.trains_st (x : Site) (e : BitVec 16) : (x.trains e).st = 1 := by
  unfold Site.trains
  split
  · next h => exact h.1
  · rfl

theorem Site.trains_maps (x : Site) (e : BitVec 16) : (x.trains e).upMap = x.upMap ∧ (x.trains e).dnMap = x.dnMap := by
  unfold Site.trains
  split <;> exact ⟨rfl, rfl⟩

/-- R382: the map of a site after a training. -/
def Site.keeps (x : Site) (old new : BitVec 528) : BitVec 528 := siteLanes &&& if x.ends.mismatch then new else old &&& new

theorem exec_linkTraining_site {s : State} {n : Nat} (t : TrainResult) (h27 : 27 ≤ n) (h30 : n ≤ 30) (hst : (s.site n).st = 1)
    (hr : (s.site n).retryAt = none) {x : Site} (hx : x = (s.site n).meets t) {up dn : BitVec 528}
    (hup : up = x.keeps x.upMap (t.upTx &&& t.upRx)) (hdn : dn = x.keeps x.dnMap (t.dnTx &&& t.dnRx)) :
    exec (.linkTraining (.site n) t) s = .next (
      if t.hash = linkHash x.ends.base x.ends.far up dn then s.setSite n { x with
        st := 2, cause := 0, mismatches := 0, ends := x.ends.agree, upMap := up, dnMap := dn, width := siteWidth up dn }
      else if x.mismatches < 2 then s.setSite n { x with mismatches := x.mismatches + 1 }
      else ((s.setSite n { x with mismatches := 0, retryAt := some (s.boot.osc + 1000000) }).recStn 0x8004 none n
        [siteLink]).refuseChiplet n 5) := by
  subst hx hup hdn
  refine next_congr (if_neg ?_)
  rw [hst, hr]
  rintro (h | h | h | h | h)
  · exact absurd h27 (Nat.not_le_of_lt h)
  · exact absurd h30 (Nat.not_le_of_lt h)
  · exact absurd h (by decide)
  · exact absurd h (by decide)
  · exact absurd h Bool.false_ne_true

theorem exec_trainingRetry_bond {s : State} {n at0 : Nat} (h : (s.bond n).retryAt = some at0) (ha : at0 ≤ s.boot.osc) :
    exec (.trainingRetry (.bondPort n)) s = .next (s.setBond n { s.bond n with
      st := 1, retryAt := none, trainings := satInc 65535 (s.bond n).trainings }) :=
  next_congr (if_pos (by rw [h]; exact decide_eq_true ha))

theorem exec_trainingRetry_site {s : State} {n at0 : Nat} (h : (s.site n).retryAt = some at0) (ha : at0 ≤ s.boot.osc) :
    exec (.trainingRetry (.site n)) s = .next (s.setSite n { s.site n with
      st := 1, cause := 0, retryAt := none, trainings := satInc 65535 (s.site n).trainings }) :=
  next_congr (if_pos (by rw [h]; exact decide_eq_true ha))

/-! ## Chiplet sites (R390, R391, R394) -/

/-- A site but for a change of PRESENT that waits. -/
def Site.unmarked (x : Site) : Site := { x with presentNext := none }

theorem State.presentSites_site (s : State) (n : Nat) : (s.presentSites.site n).unmarked = (s.site n).unmarked := by
  unfold State.presentSites
  refine foldl_same (fun s : State => (s.site n).unmarked) _ (fun t k => ?_) _ _
  dsimp only
  split
  · rfl
  · show ((t.setSite k { t.site k with presentNext := none }).site n).unmarked = (t.site n).unmarked
    by_cases h : n = k
    · rw [h, State.site_setSite_same]
      rfl
    · rw [State.site_setSite_ne _ _ h]

theorem State.setPresentNext_site (s : State) (n : Nat) (b : Bool) :
    ((s.setPresentNext n b).site n).unmarked = (s.site n).unmarked := by
  have h : (s.setSite n { s.site n with presentNext := some b }).site n = { s.site n with presentNext := some b } :=
    State.site_setSite_same _ _ _
  unfold State.setPresentNext
  dsimp only
  split
  · rw [State.presentSites_site, h]
    rfl
  · rw [h]
    rfl

theorem State.refuseChiplet_site (s : State) (n cause : Nat) : (s.refuseChiplet n cause).site n =
    { s.site n with st := 4, cause := cause, refusals := satInc 65535 (s.site n).refusals } := by
  unfold State.refuseChiplet
  dsimp only
  split <;> exact State.site_setSite_same _ _ _

theorem State.measuredSite_site (s : State) (n : Nat) (decl : BitVec 512) (k : Nat) :
    (s.measuredSite n decl).site k = s.site k := by
  unfold State.measuredSite
  split <;> rfl

theorem State.declCause_noted (s : State) (n : Nat) (d : BitVec 512) :
    (s.setSite n { s.site n with decl := d }).declCause n d = s.declCause n d := by
  unfold State.declCause
  rw [State.site_setSite_same]

/-- R390: a site whose declaration is admitted. -/
def State.admitted (s : State) (n : Nat) (decl : BitVec 512) : State :=
  s.setSite n { s.site n with decl := decl, st := 3, cause := 0, inFlight := 0 }

theorem State.site_of_unmarked {s u : State} {n : Nat} (h : (u.site n).unmarked = (s.site n).unmarked) :
    (u.site n).st = (s.site n).st ∧ (u.site n).decl = (s.site n).decl ∧ (u.site n).retryAt = (s.site n).retryAt :=
  ⟨show (u.site n).unmarked.st = (s.site n).unmarked.st by rw [h], show (u.site n).unmarked.decl = (s.site n).unmarked.decl by rw [h],
    show (u.site n).unmarked.retryAt = (s.site n).unmarked.retryAt by rw [h]⟩

theorem exec_chipletDeclaration_admitted {s : State} {n : Nat} {decl : BitVec 512} (hst : (s.site n).st = 2)
    (hc : s.declCause n decl = 0) : ∃ u, exec (.chipletDeclaration n decl) s = .next u ∧ (u.site n).st = 3 ∧
      (u.site n).decl = decl := by
  refine ⟨_, next_congr ((if_neg fun h => h hst).trans (if_neg fun h => h ((s.declCause_noted n decl).trans hc))), ?_⟩
  dsimp only
  obtain ⟨h1, h2, _⟩ := State.site_of_unmarked (State.setPresentNext_site (State.measuredSite _ n decl) n true)
  rw [h1, h2, State.measuredSite_site]
  constructor
  · exact congrArg Site.st (State.site_setSite_same _ n _)
  · refine (congrArg Site.decl (State.site_setSite_same _ n _)).trans ?_
    exact congrArg Site.decl (State.site_setSite_same s n _)

theorem exec_chipletDeclaration_refused {s : State} {n : Nat} {decl : BitVec 512} (hst : (s.site n).st = 2)
    (hc : s.declCause n decl ≠ 0) : exec (.chipletDeclaration n decl) s =
      .next ((s.setSite n { s.site n with decl := decl }).refuseChiplet n (s.declCause n decl)) := by
  refine next_congr ((if_neg fun h => h hst).trans ((if_pos ?_).trans ?_))
  · rw [State.declCause_noted]
    exact hc
  · rw [State.declCause_noted]

theorem exec_siteLinkDown {s : State} {n : Nat} (h27 : 27 ≤ n) (h30 : n ≤ 30) (h0 : (s.site n).st ≠ 0) (h5 : (s.site n).st ≠ 5) :
    exec (.siteLinkDown n) s = .next (
      let t := s.setSite n { s.site n with st := 5, cause := 0, retryAt := some (s.boot.osc + 10000000) }
      (if (s.site n).st = 3 then t.measuredSite n (s.site n).decl else t).setPresentNext n false) := by
  refine next_congr (if_neg ?_)
  rintro (h | h | h | h)
  · exact h0 h
  · exact h5 h
  · exact absurd h27 (Nat.not_le_of_lt h)
  · exact absurd h30 (Nat.not_le_of_lt h)

/-! ## HBM3E (R385 to R387) -/

/-- R385: the turn of retraining goes to the next channel. -/
def State.retrained (s : State) (n : Nat) : State :=
  { s with links := { s.links with retrainNext := (n + 1) % 192, retrainFrame := some (frameOf s.ht) } }

theorem exec_hbmRetrain {s : State} {n : Nat} (bad : Bool) (hf : s.time.st ≠ .free) (h1 : 63100 ≤ framePos s.ht)
    (h2 : framePos s.ht ≤ 63700) (hn : s.links.retrainNext = n) (hr : s.links.retrainFrame ≠ some (frameOf s.ht)) :
    exec (.hbmRetrain n bad) s = .next (if bad = true ∧ (s.chan n).repaired < Config.redundantLanes n then
      (((s.retrained n).setChan n { s.chan n with repaired := (s.chan n).repaired + 1 }).setStack (n / 16)
        { (s.retrained n).stack (n / 16) with repairs := satInc 255 ((s.retrained n).stack (n / 16)).repairs }).recStn 0x8006 none
          (20 + n / 16 / 2) [BitVec.ofNat 8 (n / 16), BitVec.ofNat 8 n]
      else s.retrained n) := by
  refine next_congr ((if_neg ?_).trans rfl)
  rintro (h | h | h | h | h)
  · exact hf h
  · exact absurd h1 (Nat.not_le_of_lt h)
  · exact absurd h2 (Nat.not_le_of_lt h)
  · exact h hn.symm
  · exact hr h

/-- R387: the stack's shut-down before its trigger. -/
def State.stackShut (s : State) (k : Nat) : State :=
  ((s.setStack k { s.stack k with cattrip := true }).updStn (20 + k / 2) fun y => { y with baseSd := true }).recStn 0x2003 none
    (20 + k / 2) (leBytes 2 (4 * (s.stack k).temp) ++ [2, BitVec.ofNat 8 k])

theorem exec_hbmCattrip {s : State} {k : Nat} (h : (s.stack k).cattrip = false) : ∃ ps,
    exec (.hbmCattrip k) s = .next ((s.stackShut k).trigger ps 3) :=
  ⟨_, next_congr (if_neg (ne_true_of_eq_false h))⟩

theorem State.stackShut_stack (s : State) (k : Nat) : ((s.stackShut k).stack k).cattrip = true :=
  congrArg Stack.cattrip (State.stack_setStack_same s k _)

theorem State.stackShut_stn (s : State) (k : Nat) : ((s.stackShut k).stn (20 + k / 2)).baseSd = true :=
  congrArg Station.baseSd (State.stn_setStn_same (s.setStack k { s.stack k with cattrip := true }) (20 + k / 2) _)

/-- R395: the counters of every bond port and site are cleared, and nothing else of them changes. -/
theorem State.dlkClear_view {s : State} {v : W32} (hv : v.getLsbD 0 = true) (n : Nat) :
    (s.dlkClear v).bond n = { s.bond n with trainings := 0, laneFails := 0 } ∧
      (s.dlkClear v).site n = { s.site n with trainings := 0, refusals := 0 } := by
  have h : ¬ (!bit v.toNat 0) = true := by
    rw [bit_eq_getLsbD, hv]
    decide
  rw [State.dlkClear, if_neg h]
  exact ⟨congrArg Region.bond (mget_map_of_fix (d := ({} : Region))
      (g := fun _ r => { r with bond := { r.bond with trainings := 0, laneFails := 0 } }) s.regions (k := n) rfl),
    mget_map_of_fix (d := ({} : Site)) (g := fun _ x => { x with trainings := 0, refusals := 0 }) s.links.sites (k := n) rfl⟩

/-- Settles O53, a clause at a time: lanes, maps, trainings, declarations, HBM3E and the counters. -/
theorem dieLinks : Obligations.DieLinks := by
  intro s n b x
  refine ⟨fun up dn lane hf h1 h2 hc hl => ?_, fun lane hl h => ?_, fun lane hl h => ?_, fun lane h => ?_, ?_, ?_, ?_,
    fun at0 hr ha => ?_, fun at0 hr ha => ?_, fun decl hst hc => ?_, fun decl hst hc => ?_, fun hst hd ht => ?_,
    fun h27 h30 h0 h5 => ?_, fun bad hf h1 h2 hn hr => ?_, fun k temp => ?_, fun k hk => ?_, fun w v hv => ?_⟩
  · obtain ⟨hu, hview⟩ := Prod.mk.inj (s.lanesChecked_view n up dn hl)
    obtain ⟨hd, hview⟩ := Prod.mk.inj hview
    obtain ⟨huf, hdf⟩ := Prod.mk.inj hview
    exact ⟨_, exec_laneCheck up dn hf h1 h2 hc, hu, hd, huf, hdf⟩
  · have hview := State.declareLane_new (s := s) (r := n) (dir := 0) hl (by decide) h
    refine ⟨_, rfl, ?_, ?_⟩
    · exact show ((s.declareLane n 0 lane).bond n).timely.upFail = _ by rw [hview]; rfl
    · exact show ((s.declareLane n 0 lane).bond n).timely.laneFails = _ by rw [hview]; rfl
  · have hview := State.declareLane_new (s := s) (r := n) (dir := 1) hl (by decide) h
    refine ⟨_, rfl, ?_, ?_⟩
    · exact show ((s.declareLane n 1 lane).bond n).timely.dnFail = _ by rw [hview]; rfl
    · exact show ((s.declareLane n 1 lane).bond n).timely.laneFails = _ by rw [hview]; rfl
  · exact next_congr (State.declareLane_known h)
  · intro hst ht hlate up dn hne
    have hrun (hash : BitVec 64) := exec_bpMapChange hash hst ht hlate (up := up) (dn := dn) rfl rfl hne
    clear_value up dn
    refine ⟨?_, fun hash hh hm => ?_⟩
    · refine ⟨_, (hrun _).trans (next_congr (if_pos rfl)), ?_⟩
      rw [State.putMaps_bond]
      dsimp only
      exact ⟨rfl, rfl, rfl, rfl⟩
    · refine ⟨_, (hrun _).trans (next_congr (if_neg hh)), ?_⟩
      rw [State.bond_updTrainings, State.bondMismatch_again hm]
      exact ⟨rfl, rfl, rfl⟩
  · intro t hst hr hb keep up dn
    have hrun := exec_linkTraining_bond t hst hr hb (up := up) (dn := dn) rfl rfl
    clear_value up dn
    refine ⟨fun hh => ?_, fun hh hm => ?_⟩
    · refine ⟨_, hrun.trans (next_congr (if_neg fun h => h hh)), ?_⟩
      rw [State.putMaps_bond, State.bond_setBond]
      exact ⟨rfl, rfl, rfl⟩
    · refine ⟨_, hrun.trans (next_congr (if_pos hh)), ?_⟩
      rw [State.bondMismatch_down (by rw [State.bond_setBond]; exact hm)]
      exact ⟨rfl, rfl⟩
  · intro t h27 h30 hst hr y e keep up dn
    have hup : up = keep y.upMap (t.upTx &&& t.upRx) := congrArg (keep · _) (Site.trains_maps x t.peerEpoch).1.symm
    have hdn : dn = keep y.dnMap (t.dnTx &&& t.dnRx) := congrArg (keep · _) (Site.trains_maps x t.peerEpoch).2.symm
    have hrun := exec_linkTraining_site t h27 h30 hst hr (x := { y with ends := e }) rfl hup hdn
    have hy : y.st = 1 := Site.trains_st x t.peerEpoch
    clear_value up dn keep e y
    refine ⟨fun hh => ?_, fun hh hm => ?_⟩
    · refine ⟨_, hrun.trans (next_congr (if_pos hh)), ?_⟩
      rw [State.site_setSite_same]
      exact ⟨rfl, rfl, rfl, rfl, rfl, rfl⟩
    · refine ⟨_, hrun.trans (next_congr ((if_neg hh).trans (if_pos hm))), ?_⟩
      rw [State.site_setSite_same]
      exact ⟨hy, rfl, rfl⟩
  · refine ⟨_, exec_trainingRetry_bond hr ha, ?_⟩
    rw [State.bond_setBond]
    exact ⟨rfl, rfl, rfl⟩
  · exact exec_trainingRetry_site hr ha
  · exact exec_chipletDeclaration_admitted hst hc
  · refine ⟨_, exec_chipletDeclaration_refused hst hc, ?_⟩
    rw [State.refuseChiplet_site, State.site_setSite_same]
    exact ⟨rfl, rfl, rfl⟩
  · exact next_congr (if_pos ⟨hst, hd, ht⟩)
  · refine ⟨_, exec_siteLinkDown h27 h30 h0 h5, ?_⟩
    dsimp only
    obtain ⟨hs, _, hr⟩ := State.site_of_unmarked (State.setPresentNext_site (if (s.site n).st = 3 then
      (s.setSite n { s.site n with st := 5, cause := 0, retryAt := some (s.boot.osc + 10000000) }).measuredSite n (s.site n).decl
      else s.setSite n { s.site n with st := 5, cause := 0, retryAt := some (s.boot.osc + 10000000) }) n false)
    have hsite : (if (s.site n).st = 3 then
        (s.setSite n { s.site n with st := 5, cause := 0, retryAt := some (s.boot.osc + 10000000) }).measuredSite n (s.site n).decl
        else s.setSite n { s.site n with st := 5, cause := 0, retryAt := some (s.boot.osc + 10000000) }).site n =
        { s.site n with st := 5, cause := 0, retryAt := some (s.boot.osc + 10000000) } := by
      split
      · rw [State.measuredSite_site, State.site_setSite_same]
      · rw [State.site_setSite_same]
    rw [hs, hr, hsite]
    exact ⟨rfl, rfl⟩
  · refine ⟨_, exec_hbmRetrain bad hf h1 h2 hn hr, ?_⟩
    split
    · next hb =>
      refine ⟨rfl, rfl, ?_, fun h => absurd (h.symm.trans hb.1) Bool.false_ne_true⟩
      exact congrArg Channel.repaired (State.chan_setChan_same (s.retrained n) n _)
    · exact ⟨rfl, rfl, rfl, fun _ => rfl⟩
  · refine ⟨_, rfl, ?_⟩
    have hstack : (s.setStack k { s.stack k with temp := temp, refresh2x := decide (85 < temp) }).stack k =
        { s.stack k with temp := temp, refresh2x := decide (85 < temp) } := State.stack_setStack_same _ _ _
    dsimp only
    split
    · exact ⟨congrArg Stack.temp hstack, congrArg Stack.refresh2x hstack⟩
    · exact ⟨congrArg Stack.temp hstack, congrArg Stack.refresh2x hstack⟩
  · obtain ⟨ps, hrun⟩ := exec_hbmCattrip hk
    obtain ⟨hlinks, hbase, htrig⟩ := (s.stackShut k).trigger_keeps ps (n := 3) (by decide)
    refine ⟨_, hrun, ?_, (hbase _).trans (s.stackShut_stn k), htrig⟩
    exact (congrArg (fun l : Links => (mget ({} : Stack) l.hbmStacks k).cattrip) hlinks).trans (s.stackShut_stack k)
  · obtain ⟨hb, hx⟩ := s.dlkClear_view hv n
    refine ⟨_, rfl, ?_⟩
    rw [hb, hx]
    exact ⟨rfl, rfl, rfl, rfl, rfl⟩

end Sys2Proof.Machine
end

section
/-! SUPPORT. O54: requests to the loader (R404, R406 to R408, R411, R417, R421). -/

namespace Sys2Proof.Machine

/-! ## The queue (R404, R417, R421) -/

theorem exec_go {s : State} {w : Who} {v : W32} {c : Instr} {op : Nat}
    (hc : (c, op) ∈ [(Instr.load w v, 0), (.unload w v, 1), (.region w v, 2), (.holdHbm w v, 3)]) :
    exec c s = .next (s.reqGo w op v) := by
  simp only [List.mem_cons, Prod.mk.injEq, List.not_mem_nil, or_false] at hc
  rcases hc with ⟨rfl, rfl⟩ | ⟨rfl, rfl⟩ | ⟨rfl, rfl⟩ | ⟨rfl, rfl⟩ <;> rfl

theorem mem_go {w : Who} {v : W32} {c : Instr} (hc : c ∈ [Instr.load w v, .unload w v, .region w v, .holdHbm w v]) :
    ∃ op, (c, op) ∈ [(Instr.load w v, 0), (.unload w v, 1), (.region w v, 2), (.holdHbm w v, 3)] := by
  simp only [List.mem_cons, List.not_mem_nil, or_false] at hc
  rcases hc with rfl | rfl | rfl | rfl
  · exact ⟨0, by simp⟩
  · exact ⟨1, by simp⟩
  · exact ⟨2, by simp⟩
  · exact ⟨3, by simp⟩

theorem State.reqGo_taken {s : State} {w : Who} {v : W32} {op : Nat} (h31 : v.getLsbD 31 = true) (hop : bits v.toNat 30 28 = op) :
    s.reqGo w op v = s.reqCtrl (Who.num w) v := if_pos ⟨h31, hop⟩

theorem State.reqCtrl_held {s : State} {r : Nat} {v : W32} (h : s.handOff = true) :
    s.reqCtrl r v = s.holdReq (.ctrl r v) := if_pos h

theorem State.reqCtrl_now {s : State} {r : Nat} {v : W32} (h : s.handOff = false) : s.reqCtrl r v = s.reqCtrlNow r v :=
  if_neg (ne_true_of_eq_false h)

/-- The fields of a write of CFG_REQr_CTRL. -/
def Requester.written (x : Requester) (n : Nat) : Requester :=
  { x with op := bits n 30 28, partition := bits n 27 22, station := bits n 21 17, region := bits n 16 13 }

theorem State.reqCtrlNow_busy {s : State} {r : Nat} {v : W32} (h : (s.reqr r).st.busy = true) :
    s.reqCtrlNow r v = s.setReqr r ((s.reqr r).written v.toNat) := if_pos (by
  rw [h]
  exact Bool.or_true _)

/-- R421: the request that a GO queues. -/
def Requester.asks (x : Requester) (r : Nat) : Req :=
  { who := r, op := x.op, partition := x.partition, station := x.station, region := x.region, src := x.src, len := x.len.toNat
    fence := x.fence }

/-- R404: a request enters the queue. -/
def State.queueReq (s : State) (r : Nat) (x : Requester) : State :=
  let t := s.setReqr r { x with st := .queued, result := 0, section_ := 0, quiesced := 0 }
  { t with cfg := { t.cfg with queue := t.cfg.queue ++ [x.asks r] } }

theorem State.reqCtrlNow_queued {s : State} {r : Nat} {v : W32} (h31 : v.getLsbD 31 = true) (h : (s.reqr r).st.busy = false) :
    s.reqCtrlNow r v = s.queueReq r ((s.reqr r).written v.toNat) := if_neg (by
  rw [show bit v.toNat 31 = true from h31, h]
  decide)

theorem State.queueReq_reqr (s : State) (r : Nat) (x : Requester) : ((s.queueReq r x).reqr r).st = .queued :=
  congrArg Requester.st (State.reqr_setReqr_same s r _)

/-- R421: a GO of a requester whose request is unfinished queues nothing. -/
theorem State.reqGo_busy {s : State} {w : Who} (op : Nat) (v : W32) (h : (s.reqr (Who.num w)).st.busy = true) :
    (s.reqGo w op v).cfg.queue = s.cfg.queue := by
  unfold State.reqGo State.reqCtrl
  split
  · split
    · rfl
    · rw [State.reqCtrlNow_busy h]
      rfl
  · rfl

/-! ## The first checks (R404, R406) -/

theorem exec_loaderStart_other {s : State} {q : Req} (img : ImageBytes) (hr : s.cfg.run = none) (hp : s.cfg.paused = false)
    (hq : s.nextReq = some q) (hop : q.op ≠ 0) : exec (.loaderStart img) s = .next (
      if s.checkReqOp q = LR.done then (s.dequeue q).setPhase { req := q } .checking else s.endReq q (s.checkReqOp q) 0) := by
  refine next_congr ((if_neg ?_).trans ?_)
  · rw [hr, hp]
    exact Bool.false_ne_true
  · rw [hq]
    exact if_neg hop

theorem exec_loaderStart_bad {s : State} {q : Req} (img : ImageBytes) (hr : s.cfg.run = none) (hp : s.cfg.paused = false)
    (hq : s.nextReq = some q) (hop : q.op = 0) (h : q.src.toNat % 4096 ≠ 0 ∨ q.len = 0) :
    exec (.loaderStart img) s = .next (s.endReq q LR.badRequest 0) := by
  refine next_congr ((if_neg ?_).trans ?_)
  · rw [hr, hp]
    exact Bool.false_ne_true
  · rw [hq]
    exact (if_pos hop).trans (if_pos h)

theorem State.checkReqOp_unload {s : State} {q : Req} (hop : q.op = 1) : s.checkReqOp q =
    if !(s.part q.partition).isLoaded then LR.badRequest
    else if s.mayLoad q.who q.partition then LR.done else LR.notEntitled := by
  unfold State.checkReqOp
  rw [hop]
  rfl

theorem State.setPhase_reqr (s : State) (l : LoadRun) (ph : ReqSt) : ((s.setPhase l ph).reqr l.req.who).st = ph :=
  congrArg Requester.st (State.reqr_setReqr_same _ _ _)

theorem State.setPhase_part (s : State) (l : LoadRun) (ph : ReqSt) (p : Nat) : (s.setPhase l ph).part p = s.part p := rfl

theorem State.measured_part (s : State) (n p : Nat) : (s.measured_ n).part p = s.part p := rfl

/-- R406: what an ended request leaves at its requester. -/
theorem State.endReq_reqr (s : State) (q : Req) (r section_ : Nat) :
    ((s.endReq q r section_).reqr q.who).st = (if r = LR.done then .done else .refused) ∧
      ((s.endReq q r section_).reqr q.who).result = r :=
  ⟨congrArg Requester.st (State.reqr_setReqr_same _ _ _), congrArg Requester.result (State.reqr_setReqr_same _ _ _)⟩

theorem State.endRun_reqr (s : State) (l : LoadRun) (r section_ : Nat) :
    ((s.endRun l r section_).reqr l.req.who).st = (if r = LR.done then .done else .refused) ∧
      ((s.endRun l r section_).reqr l.req.who).result = r := State.endReq_reqr _ _ _ _

theorem State.endRun_run (s : State) (l : LoadRun) (r section_ : Nat) : (s.endRun l r section_).cfg.run = none := rfl

theorem State.part_of_parts {s t : State} (h : t.parts = s.parts) (p : Nat) : t.part p = s.part p :=
  congrArg (fun m : SMap Partition => mget ({} : Partition) m p) h

theorem State.endReq_parts (s : State) (q : Req) (r section_ : Nat) : (s.endReq q r section_).parts = s.parts := by
  unfold State.endReq State.recStn
  rw [State.record_parts]
  rfl

theorem State.endRun_parts (s : State) (l : LoadRun) (r section_ : Nat) : (s.endRun l r section_).parts = s.parts :=
  State.endReq_parts (s.setRun none) l.req r section_

theorem State.endRun_part (s : State) (l : LoadRun) (r section_ p : Nat) : (s.endRun l r section_).part p = s.part p :=
  State.part_of_parts (s.endRun_parts l r section_) p

/-! ## Quiesce (R408) -/

/-- R408: the request as it quiesces. -/
def State.quiesces (s : State) (l : LoadRun) : LoadRun :=
  { l with scope := s.scopeOf l, stops := (s.scopeOf l).filter (s.stopsIn l), q := s.ht,
           stopAt := (s.scopeOf l).map fun p => (p, s.stopInstant p), deadline := s.ht,
           bad := if l.req.op = 2 then s.newBadSites l.region l.req.fence else [] }

/-- R408: the partitions of the scope quiesce; a HOLD_HBM holds back BAR2. -/
def State.quiesceAll (s : State) (l : LoadRun) : State :=
  let t := (s.scopeOf l).foldl (fun s p => s.updPart p Partition.beginQuiesce) s
  if l.req.op = 3 then { t with mem := { t.mem with bar2Held := true } } else t

theorem exec_quiesceBegin {s : State} {l : LoadRun} (hr : s.cfg.run = some l) (hp : l.phase = .checking) (h2 : l.isLoad 2 = false)
    (h3 : l.isLoad 3 = false) (hck : ∀ p ∈ s.scopeOf l, (s.part p).ck ≠ .saving) :
    exec .quiesceBegin s = .next ((s.quiesceAll l).setPhase (s.quiesces l) .quiescing) := by
  refine next_congr ?_
  rw [hr]
  refine if_neg ?_
  rintro (h | h | h | h)
  · exact h hp
  · exact absurd h (ne_true_of_eq_false h2)
  · exact absurd h (ne_true_of_eq_false h3)
  · obtain ⟨p, hps, hsv⟩ := List.any_eq_true.mp h
    exact hck p hps (beq_iff_eq.mp hsv)

theorem State.scopeOf_nodup (s : State) (l : LoadRun) : (s.scopeOf l).Nodup := by
  have hd : (s.loadedParts.filter fun p => (s.part p).st != .safeState).Nodup := (allParts_nodup.filter _).filter _
  unfold State.scopeOf
  dsimp only
  generalize (s.loadedParts.filter fun p => (s.part p).st != .safeState) = live at hd ⊢
  split
  · exact hd.filter _
  · exact hd.filter _
  · split
    · exact hd
    · exact hd.filter _

theorem State.quiesceAll_part {s : State} {l : LoadRun} {p : Nat} (h : p ∈ s.scopeOf l) :
    (s.quiesceAll l).part p = (s.part p).beginQuiesce := by
  have hd := s.scopeOf_nodup l
  unfold State.quiesceAll
  generalize s.scopeOf l = ps at h hd ⊢
  have hp : (ps.foldl (fun s p => s.updPart p Partition.beginQuiesce) s).part p = (s.part p).beginQuiesce := by
    rw [foldl_updPart (fun _ x => x.beginQuiesce) ps hd, if_pos h]
  dsimp only
  split <;> exact hp

/-! ## A launch that ends -/

/-- Only what a launch's end writes has changed: results and rings of partitions, and what has left the module. -/
def State.Settled (s t : State) : Prop :=
  (∃ ps o, t = { s with parts := ps, out := o }) ∧
    ∀ q, (t.part q).owner = (s.part q).owner ∧ (t.part q).tiles = (s.part q).tiles

theorem State.Settled.refl (s : State) : s.Settled s := ⟨⟨_, _, rfl⟩, fun _ => ⟨rfl, rfl⟩⟩

theorem State.Settled.trans {s t u : State} (h : s.Settled t) (k : t.Settled u) : s.Settled u := by
  obtain ⟨⟨ps, o, rfl⟩, h⟩ := h
  obtain ⟨⟨ps', o', rfl⟩, k⟩ := k
  exact ⟨⟨ps', o', rfl⟩, fun q => ⟨(k q).1.trans (h q).1, (k q).2.trans (h q).2⟩⟩

theorem State.Settled.updPart (s : State) (p : Nat) {f : Partition → Partition} (ho : ∀ x, (f x).owner = x.owner)
    (ht : ∀ x, (f x).tiles = x.tiles) : s.Settled (s.updPart p f) := by
  refine ⟨⟨_, _, rfl⟩, fun q => ?_⟩
  by_cases h : q = p
  · rw [h, State.part_updPart_same]
    exact ⟨ho _, ht _⟩
  · rw [State.part_updPart_ne _ _ h]
    exact ⟨rfl, rfl⟩

theorem State.Settled.emit (s : State) (o : Out) : s.Settled (s.emit o) := ⟨⟨_, _, rfl⟩, fun _ => ⟨rfl, rfl⟩⟩

theorem State.ringWrite_settled (s : State) (p i : Nat) (r : LaunchRec) : s.Settled (s.ringWrite p i r) := by
  unfold State.ringWrite
  dsimp only
  split
  · exact .refl s
  · split
    · exact .updPart s p (fun _ => rfl) fun _ => rfl
    · exact (State.Settled.emit s _).trans (.updPart _ p (fun _ => rfl) fun _ => rfl)

theorem State.launchMsix_settled (s : State) (p : Nat) (r : LaunchRec) : s.Settled (s.launchMsix p r) := by
  unfold State.launchMsix State.sendMsix
  dsimp only
  split
  · split
    · exact .emit s _
    · exact .refl s
  · exact .refl s

theorem State.finishRec_settled (s : State) (p i : Nat) (status : Byte) (halt faulted phase : Nat) :
    s.Settled (s.finishRec p i status halt faulted phase) := by
  unfold State.finishRec
  dsimp only
  refine .trans ?_ (State.launchMsix_settled _ _ _)
  refine .trans ?_ (State.ringWrite_settled _ _ _ _)
  exact .updPart s p (fun _ => rfl) fun _ => rfl

theorem State.endLaunch_settled (s : State) (p : Nat) : s.Settled (s.endLaunch p) := by
  have hnone : s.Settled (s.updPart p fun x => { x with launch := none }) := .updPart s p (fun _ => rfl) fun _ => rfl
  unfold State.endLaunch
  split
  · exact .refl s
  · dsimp only
    split
    · exact hnone.trans (State.finishRec_settled _ _ _ _ _ _ _)
    · split
      · exact hnone.trans (State.finishRec_settled _ _ _ _ _ _ _)
      · exact .refl s

theorem State.Settled.tile {s t : State} (h : s.Settled t) (k : Nat) : t.tile k = s.tile k := by
  obtain ⟨⟨_, _, rfl⟩, -⟩ := h
  rfl

theorem State.Settled.ht {s t : State} (h : s.Settled t) : t.ht = s.ht := by
  obtain ⟨⟨_, _, rfl⟩, -⟩ := h
  rfl

/-! ## A partition stops (R408) -/

theorem Tile.complete_st (x : Tile) (d : Desc) (st : Byte) : (x.complete d st).st = x.st :=
  Tile.complete_ind (fun y => y.st = x.st) x d st fun _ _ _ _ _ _ hy _ _ _ => by
    subst hy
    simp

theorem Tile.completeAll_st (x : Tile) (q : Desc → Bool) (st : Byte) : (x.completeAll q st).st = x.st :=
  foldl_same Tile.st (fun x d => x.complete d st) (fun x d => x.complete_st d st) _ x

theorem Tile.completeAll_none {x : Tile} (h : x.descs = []) (q : Desc → Bool) (st : Byte) : x.completeAll q st = x := by
  unfold Tile.completeAll
  rw [h]
  rfl

/-- R408: a tile at the stop instant of its partition. -/
def Tile.atStop (x : Tile) (stop : Prop) [Decidable stop] : Tile :=
  if stop then (x.completeAll Desc.unsent St.quiesced).stopIdle else x.completeAll Desc.unsent St.quiesced

theorem Tile.stopIdle_st (x : Tile) : x.stopIdle.st = if x.st = .running ∨ x.st = .waiting then .idle else x.st := by
  unfold Tile.stopIdle
  split <;> rfl

theorem Tile.atStop_st (x : Tile) (stop : Prop) [Decidable stop] : (x.atStop stop).st =
    if stop ∧ (x.st = .running ∨ x.st = .waiting) then .idle else x.st := by
  unfold Tile.atStop
  split
  · next h => rw [Tile.stopIdle_st, Tile.completeAll_st, if_congr (and_iff_right h) rfl rfl]
  · next h => rw [Tile.completeAll_st, if_neg fun k => h k.1]

theorem Tile.atStop_descs {x : Tile} (h : x.descs = []) (stop : Prop) [Decidable stop] : (x.atStop stop).descs = [] := by
  unfold Tile.atStop
  rw [Tile.completeAll_none h]
  split
  · unfold Tile.stopIdle
    split <;> exact h
  · exact h

/-- A loop over tiles does to each what the steps that reach it do. -/
theorem foldl_updTile_at {β : Type} (v : Tile → β) (f : Tile → Tile) (g : β → β) (hv : ∀ x, v (f x) = g (v x))
    (hg : ∀ b, g (g b) = g b) (ts : List Nat) (s : State) (t : Nat) (ht : t ∈ ts) :
    v ((ts.foldl (fun (s : State) t => s.updTile t f) s).tile t) = g (v (s.tile t)) := by
  have step (s : State) (a : Nat) : v ((s.updTile a f).tile t) = if t = a then g (v (s.tile t)) else v (s.tile t) := by
    by_cases h : t = a
    · subst h
      rw [if_pos rfl, ← hv]
      exact congrArg v (State.tile_setTile_same s t _)
    · rw [if_neg h]
      exact congrArg v (State.tile_setTile_ne s _ h)
  have later (ts : List Nat) (s : State) : v ((ts.foldl (fun (s : State) t => s.updTile t f) s).tile t) = v (s.tile t) ∨
      v ((ts.foldl (fun (s : State) t => s.updTile t f) s).tile t) = g (v (s.tile t)) := by
    refine List.foldlRecOn ts _ (motive := fun u : State => v (u.tile t) = v (s.tile t) ∨ v (u.tile t) = g (v (s.tile t)))
      (.inl rfl) fun u hu a _ => ?_
    rw [step]
    split
    · rcases hu with hu | hu <;> rw [hu]
      · exact .inr rfl
      · exact .inr (hg _)
    · exact hu
  induction ts generalizing s with
  | nil => exact absurd ht List.not_mem_nil
  | cons a ts ih =>
    rw [List.foldl_cons]
    by_cases h : t ∈ ts
    · rw [ih _ h, step]
      split
      · exact hg _
      · rfl
    · obtain rfl := (List.mem_cons.mp ht).resolve_right h
      rcases later ts (s.updTile t f) with h' | h' <;> rw [h', step, if_pos rfl]
      exact hg _

/-- R408: a partition at its stop instant, before its request notes it. -/
def State.stopTiles (s : State) (p : Nat) (stop : Prop) [Decidable stop] : State :=
  ((s.endLaunch p).part p).tiles.foldl (fun (s : State) t => s.updTile t (·.atStop stop)) (s.endLaunch p)

def State.partStopped (s : State) (l : LoadRun) (p : Nat) (n : Nat) : State :=
  ((s.stopTiles p (p ∈ l.stops)).updPart p
    (·.atStop (decide (p ∈ l.stops)) (boundaryAt (s.stopTiles p (p ∈ l.stops)).ht))).countQuiesced l n

/-- R408: the items of a partition that have not been sent. -/
def State.unsentItems (s : State) (p : Nat) : Nat :=
  ((s.partTiles p).map fun x => (x.descs.filter Desc.unsent).length).foldl (· + ·) 0

theorem exec_quiesceStop {s : State} {l : LoadRun} {p at0 : Nat} (hr : s.cfg.run = some l)
    (ha : l.stopAt.find? (·.1 == p) = some (p, at0)) (hp : l.phase = .quiescing) (hs : p ∉ l.stopped) (hl : p ∉ l.lost)
    (hh : at0 ≤ s.ht) {u : State} (hu : u = s.partStopped l p (s.unsentItems p)) :
    exec (.quiesceStop p) s = .next (u.setRun (some { l with
      stopped := l.stopped ++ [p]
      deadline := Nat.max l.deadline (u.ht + Nat.min (200000 + u.tOut p) 2200000) })) := by
  subst hu
  refine next_congr ?_
  rw [hr]
  dsimp only
  rw [ha]
  refine (if_neg ?_).trans ?_
  · rintro (h | h | h | h)
    · exact h hp
    · exact hs h
    · exact hl h
    · exact absurd hh (Nat.not_le_of_lt h)
  · rfl

theorem State.stopTiles_tiles (s : State) (p : Nat) (stop : Prop) [Decidable stop] {t : Nat} (ht : t ∈ (s.part p).tiles) :
    ((s.stopTiles p stop).tile t).st =
      (if stop ∧ ((s.tile t).st = .running ∨ (s.tile t).st = .waiting) then .idle else (s.tile t).st) ∧
    ((s.tile t).descs = [] → ((s.stopTiles p stop).tile t).descs = []) := by
  have hset := s.endLaunch_settled p
  have hmem : t ∈ ((s.endLaunch p).part p).tiles := by
    rw [(hset.2 p).2]
    exact ht
  unfold State.stopTiles
  constructor
  · have h := foldl_updTile_at Tile.st (·.atStop stop)
      (fun b => if stop ∧ (b = .running ∨ b = .waiting) then .idle else b) (fun x => x.atStop_st stop)
      (fun b => by split <;> simp_all) ((s.endLaunch p).part p).tiles (s.endLaunch p) t hmem
    rw [h, hset.tile]
  · intro hd
    rw [← hset.tile t] at hd
    exact List.foldlRecOn ((s.endLaunch p).part p).tiles _ (motive := fun u : State => (u.tile t).descs = []) hd fun u hu a _ => by
      by_cases h : t = a
      · subst h
        exact (congrArg Tile.descs (State.tile_setTile_same u t _)).trans (Tile.atStop_descs hu stop)
      · exact (congrArg Tile.descs (State.tile_setTile_ne u _ h)).trans hu

theorem State.stopTiles_parts (s : State) (p : Nat) (stop : Prop) [Decidable stop] : (s.stopTiles p stop).parts = (s.endLaunch p).parts := by
  unfold State.stopTiles
  refine foldl_same State.parts _ (fun _ _ => ?_) _ _
  rfl

theorem State.stopTiles_ht (s : State) (p : Nat) (stop : Prop) [Decidable stop] : (s.stopTiles p stop).ht = s.ht := by
  unfold State.stopTiles
  refine (foldl_same State.ht _ (fun _ _ => ?_) _ _).trans (s.endLaunch_settled p).ht
  rfl

theorem State.partStopped_part (s : State) (l : LoadRun) (p n : Nat) : (s.partStopped l p n).part p =
    ((s.stopTiles p (p ∈ l.stops)).part p).atStop (decide (p ∈ l.stops))
      (boundaryAt (s.stopTiles p (p ∈ l.stops)).ht) :=
  Eq.trans (b := State.part (State.updPart (s.stopTiles p (p ∈ l.stops)) p
    (·.atStop (decide (p ∈ l.stops)) (boundaryAt (s.stopTiles p (p ∈ l.stops)).ht))) p) rfl (State.part_updPart_same _ _ _)

theorem Partition.atStop_live (x : Partition) (stop : Bool) (bs : Nat) :
    (x.atStop stop bs).live = none ∧ (x.atStop stop bs).tiles = x.tiles := by
  unfold Partition.atStop
  dsimp only
  split <;> exact ⟨rfl, rfl⟩

/-- R408: with nothing outstanding the drain has no timeout to wait for. -/
theorem State.tOut_none {s : State} {p : Nat} (h : ∀ t ∈ (s.part p).tiles, (s.tile t).descs = []) : s.tOut p = 0 := by
  unfold State.tOut State.partTiles
  generalize (s.part p).tiles = ts at h
  have hmap : ((ts.map s.tile).map fun x => largest (x.descs.map s.itemLeft)) = ts.map fun _ => 0 := by
    rw [List.map_map]
    refine List.map_congr_left fun t ht => ?_
    show largest ((s.tile t).descs.map s.itemLeft) = 0
    rw [h t ht]
    rfl
  rw [hmap]
  clear hmap h
  induction ts with
  | nil => rfl
  | cons t ts ih => exact ih

theorem State.partStopped_tOut {s : State} (l : LoadRun) {p : Nat} (n : Nat) (h : ∀ t ∈ (s.part p).tiles, (s.tile t).descs = []) :
    (s.partStopped l p n).tOut p = 0 := by
  have htiles : ((s.partStopped l p n).part p).tiles = (s.part p).tiles := by
    rw [State.partStopped_part, (Partition.atStop_live _ _ _).2]
    refine (congrArg (fun m : SMap Partition => (mget ({} : Partition) m p).tiles) (s.stopTiles_parts p _)).trans ?_
    exact ((s.endLaunch_settled p).2 p).2
  refine State.tOut_none fun t ht => ?_
  rw [htiles] at ht
  exact (s.stopTiles_tiles p _ ht).2 (h t ht)

/-! ## The apply step of an UNLOAD (R408, R411) -/

theorem LoadRun.isLoad_other {l : LoadRun} (h : l.req.op ≠ 0) (k : Nat) : l.isLoad k = false := by
  unfold LoadRun.isLoad
  rw [beq_eq_false_iff_ne.mpr h, Bool.false_and]

/-- R408: the partitions left of the scope, at the end of their drain. -/
def State.drainAll (s : State) (l : LoadRun) : State :=
  (l.scope.filter fun p => !(l.lost.contains p)).foldl (fun s p => s.endDrain l p) s

theorem exec_applyStart_unload {s : State} {l : LoadRun} (reread : ImageBytes) (hr : s.cfg.run = some l) (hp : l.phase = .quiescing)
    (hd : s.drained l = true) (hop : l.req.op = 1) (hl : l.lost = []) (hi : l.img = none) : exec (.applyStart reread) s =
      .next ((((s.drainAll l).releasePart l.target).measured_ (5 + l.target)).setPhase l .applying) := by
  have h2 : l.isLoad 2 = false := LoadRun.isLoad_other (by rw [hop]; decide) 2
  have h3 : l.isLoad 3 = false := LoadRun.isLoad_other (by rw [hop]; decide) 3
  have hmay : s.mayApply l = true := by
    unfold State.mayApply
    rw [h2, h3, hp, hd]
    rfl
  have hread (t : State) : t.rereadFails l reread = (t, false) := by
    unfold State.rereadFails
    rw [hop, hi]
    rfl
  have hcheck (t : State) : t.recheck l = (LR.done, 0) := by
    unfold State.recheck
    rw [hi]
  have hlate (n : Nat) : l.originLate n = false := by
    unfold LoadRun.originLate
    rw [hi]
  have hchange (t : State) : t.applyChange l = (t.releasePart l.target).measured_ (5 + l.target) := by
    unfold State.applyChange
    rw [hop, hi]
    rfl
  refine next_congr ?_
  rw [hr]
  dsimp only
  rw [hmay, h3, hl, if_neg (by decide), if_neg (by decide), if_neg (by simp), hread]
  dsimp only
  rw [if_neg (by decide), hcheck, hlate, if_pos rfl, if_neg (by decide), hchange]
  unfold State.drainAll
  rw [hl]

theorem State.storeVa_parts (s : State) (station job va : Nat) (bs : List Byte) : (s.storeVa station job va bs).1.parts = s.parts := by
  unfold State.storeVa
  split
  · rfl
  · unfold State.storeAt
    dsimp only
    repeat' split
    all_goals rfl

theorem State.endRounds_parts (s : State) (p : Nat) (st : Byte) : (s.endRounds p st).parts = s.parts := by
  unfold State.endRounds
  refine foldl_same State.parts _ (fun t k => ?_) _ _
  split
  · unfold State.endRound
    dsimp only
    refine Eq.trans (b := State.parts (if ccStatusAddr (t.coll (k / 4096) (k % 4096)).cfg = 0 then t
      else (t.storeVa (k / 4096) (ccJob (t.coll (k / 4096) (k % 4096)).cfg) (ccStatusAddr (t.coll (k / 4096) (k % 4096)).cfg)
        (statusBlock st (t.coll (k / 4096) (k % 4096)).round (t.coll (k / 4096) (k % 4096)).missingGroups)).1)) rfl ?_
    split
    · rfl
    · exact State.storeVa_parts _ _ _ _ _
  · rfl

theorem State.endDrain_owner (s : State) (l : LoadRun) (p q : Nat) : ((s.endDrain l p).part q).owner = (s.part q).owner := by
  unfold State.endDrain
  dsimp only
  have hst (t : State) : ((t.updPart p fun x => { x with st := .applying }).part q).owner = (t.part q).owner := by
    have h : t.Settled (t.updPart p fun x => { x with st := .applying }) := .updPart t p (fun _ => rfl) fun _ => rfl
    exact (h.2 q).1
  rw [hst]
  refine (congrArg (fun m : SMap Partition => (mget ({} : Partition) m q).owner) (State.endRounds_parts _ p St.quiesced)).trans ?_
  refine congrArg (fun m : SMap Partition => (mget ({} : Partition) m q).owner) ?_
  refine foldl_same State.parts _ (fun _ _ => ?_) _ _
  rfl

theorem State.drainAll_owner (s : State) (l : LoadRun) (q : Nat) : ((s.drainAll l).part q).owner = (s.part q).owner :=
  foldl_same (fun t : State => (t.part q).owner) _ (fun t p => t.endDrain_owner l p q) _ s

/-- R411: the tiles, tables and entries of a partition released, its own registers not yet. -/
def State.vacated (s : State) (p : Nat) : State :=
  dataStations.foldl (fun t n => t.updStn n fun x => x.without n p (s.part p))
    ((s.part p).tiles.foldl (fun t k => t.updTile k Tile.released) (s.dropRebinds p))

theorem State.vacated_parts (s : State) (p : Nat) : (s.vacated p).parts = s.parts := by
  unfold State.vacated
  generalize dataStations = ns
  refine (foldl_same State.parts _ (fun _ _ => ?_) _ _).trans ((foldl_same State.parts _ (fun _ _ => ?_) _ _).trans ?_) <;> rfl

theorem State.part_releasing (s : State) (p : Nat) (bs : List Burst) :
    (State.updPart { s with bursts := bs } p Partition.emptied).part p = (s.part p).emptied := State.part_updPart_same _ _ _

theorem State.releasePart_eq (s : State) (p : Nat) : ∃ bs, s.releasePart p =
    State.updPart { (s.stopLaunch p St.quiesced).vacated p with bursts := bs } p Partition.emptied := ⟨_, rfl⟩

theorem State.stopLaunch_settled (s : State) (p : Nat) (st : Byte) : s.Settled (s.stopLaunch p st) := by
  unfold State.stopLaunch
  refine .trans ?_ (State.endLaunch_settled _ p)
  exact .updPart s p (fun _ => rfl) fun _ => rfl

/-- R411: a released partition is EMPTY and keeps its owner. -/
theorem State.releasePart_part (s : State) (p : Nat) : ((s.releasePart p).part p).isLoaded = false ∧
    ((s.releasePart p).part p).tiles = [] ∧ ((s.releasePart p).part p).owner = (s.part p).owner := by
  obtain ⟨bs, he⟩ := s.releasePart_eq p
  have howner : (((s.stopLaunch p St.quiesced).vacated p).part p).owner = (s.part p).owner := by
    rw [State.part_of_parts (State.vacated_parts _ p)]
    exact ((s.stopLaunch_settled p St.quiesced).2 p).1
  rw [he, State.part_releasing]
  exact ⟨rfl, rfl, howner⟩

/-! ## The end of the apply step and the resume (R408) -/

theorem exec_applyDone_unload {s : State} {l : LoadRun} (hr : s.cfg.run = some l) (hp : l.phase = .applying) (hop : l.req.op = 1)
    (hl : l.lost = []) : exec .applyDone s = .next (s.endRun l LR.done 0) := by
  refine next_congr ?_
  rw [hr]
  dsimp only
  rw [if_neg, if_pos hop, hl]
  · rfl
  · rintro (h | ⟨h, -⟩)
    · exact h hp
    · exact absurd (hop.symm.trans h) (by decide)

theorem exec_applyDone_other {s : State} {l : LoadRun} (hr : s.cfg.run = some l) (hp : l.phase = .applying) (hop : l.req.op ≠ 1)
    (h2 : l.isLoad 2 = false) (hlate : l.late = false) (h3 : l.req.op = 3 → s.inInterval = true) : ∃ u : State, u.ht = s.ht ∧
      exec .applyDone s = .next (u.setPhase { l with applyEnd := some u.ht } .resuming) := by
  have hsettle : s.settleOrigin l = (s, l) := by
    unfold State.settleOrigin
    rw [hlate]
    rfl
  refine ⟨if l.isLoad 0 && l.result == LR.done then s.stepDone 6 else s, ?_, next_congr ?_⟩
  · split
    · exact congrArg TimeDom.ht (State.stepDone_time s 6)
    · rfl
  · rw [hr]
    dsimp only
    rw [if_neg, if_neg hop, h2, if_neg Bool.false_ne_true, hsettle]
    rintro (h | ⟨h, h'⟩)
    · exact h hp
    · exact Bool.false_ne_true (h'.symm.trans (h3 h))

/-- R408: the scope resumes at a boundary, and its circuits are checked. -/
def State.resumeAll (s : State) (l : LoadRun) (br : Nat) : State :=
  let t := (s.resuming l).foldl (fun s p => s.resumePart l (if s.time.st = .free then s.ht else br) p) s
  let t := (t.resuming l).foldl (fun s p => s.checkCircuits (some p)) t
  { t with regions := t.regions.map fun (r : Nat × Region) => (r.1, r.2.takeMap) }

theorem exec_scopeResume {s : State} {l : LoadRun} {e : Nat} (hr : s.cfg.run = some l) (hp : l.phase = .resuming)
    (he : l.applyEnd = some e) (hb : resumeBoundary e ≤ s.ht) (hop : l.req.op = 2) : exec .scopeResume s =
      .next ((s.resumeAll l (resumeBoundary e)).endRun l
        (if !l.lost.isEmpty then LR.safeState else l.result) l.section_) := by
  have hat : l.resumeAt e = resumeBoundary e := if_neg (by rw [hop]; decide)
  refine next_congr ?_
  rw [hr]
  dsimp only
  rw [hp, he]
  dsimp only
  rw [hat]
  refine (if_neg fun h => absurd hb (Nat.not_le_of_lt h.2)).trans ?_
  rw [hop, if_neg (by decide)]
  rfl

theorem State.resumeAll_part {s : State} {l : LoadRun} {p br : Nat} (hop : l.req.op = 2) (hl : l.lost = []) (hs : l.scope = [p])
    (hsafe : (s.part p).st ≠ .safeState) (hld : (s.part p).isLoaded = true) :
    (s.resumeAll l br).part p = (s.resumePart l (if s.time.st = .free then s.ht else br) p).part p := by
  have hres : s.resuming l = [p] := by
    unfold State.resuming
    rw [LoadRun.isLoad_other (by rw [hop]; decide), if_neg (fun h => Bool.false_ne_true h.1), hs, hl]
    exact List.filter_eq_self.mpr fun q hq => by
      rw [List.mem_singleton.mp hq, hld, bne_iff_ne.mpr hsafe]
      rfl
  unfold State.resumeAll
  rw [hres]
  refine (foldl_same (fun t : State => t.part p) (fun s p => s.checkCircuits (some p)) (fun t q => ?_) _ _).trans rfl
  exact State.checkCircuits_same (fun t : State => t.part p) (fun _ _ => rfl) t _

/-- R315, R408: a partition whose tiles all have a site and that was not held resumes as it stood. -/
theorem State.resumePart_part {s : State} {l : LoadRun} {p br : Nat} (hop : l.req.op ≠ 0) (hh : (s.part p).holdFrom = none)
    (ht : ∀ t ∈ (s.part p).tiles, (s.tile t).unplaced = false) : ((s.resumePart l br p).part p).st = .loaded ∧
      ((s.resumePart l br p).part p).noSample = false ∧ ((s.resumePart l br p).part p).joff = (s.part p).joff := by
  have hsite : (s.partTiles p).any (·.unplaced) = false := by
    unfold State.partTiles
    rw [List.any_map, List.any_eq_false]
    exact fun t h => ne_true_of_eq_false (ht t h)
  unfold State.resumePart
  rw [State.part_updPart_same, hsite]
  refine ⟨rfl, rfl, ?_⟩
  show l.joffAt br (s.part p) = _
  unfold LoadRun.joffAt
  rw [LoadRun.isLoad_other hop, hh]
  rfl

/-- Settles O54, a clause at a time: the queue, the first checks, quiesce, apply and resume. -/
theorem loaderRequests : Obligations.LoaderRequests := by
  intro s w v
  refine ⟨fun c op hc h31 hop => ⟨fun hh hb => ?_, fun hh => ?_⟩, fun c hc hb => ?_,
    fun img q hr hp hq hop => ⟨fun hl hm => ?_, fun hl => ?_, fun hl hm => ?_⟩, fun img q hr hp hq hop h => ?_,
    fun l p hr hp h2 h3 hck hps => ?_, fun l p at0 hr ha hp hs hl hh => ?_, fun l reread hr hp hd hop hl hi => ?_,
    fun l hr hp hop hl => ?_, fun l hr hp hop h2 hlate h3 => ?_, fun l e p hr hp he hb hop hl hs hsafe hld hh ht => ?_⟩
  · refine ⟨_, _, (exec_go hc).trans (next_congr ((State.reqGo_taken h31 hop).trans ((State.reqCtrl_now hh).trans
      (State.reqCtrlNow_queued h31 hb)))), rfl, hop, rfl, rfl, rfl, rfl, State.queueReq_reqr _ _ _⟩
  · exact (exec_go hc).trans (next_congr ((State.reqGo_taken h31 hop).trans (State.reqCtrl_held hh)))
  · obtain ⟨op, hc⟩ := mem_go hc
    exact ⟨_, exec_go hc, State.reqGo_busy op v hb⟩
  · have hres : s.checkReqOp q = LR.done := by
      rw [State.checkReqOp_unload hop, hl, hm]
      rfl
    refine ⟨_, (exec_loaderStart_other img hr hp hq (by rw [hop]; decide)).trans (next_congr (if_pos hres)), rfl, rfl, ?_⟩
    exact State.setPhase_reqr _ { req := q } .checking
  · have hres : s.checkReqOp q = LR.badRequest := by
      rw [State.checkReqOp_unload hop, hl]
      rfl
    refine ⟨_, (exec_loaderStart_other img hr hp hq (by rw [hop]; decide)).trans
      (next_congr (if_neg (by rw [hres]; decide))), hr, ?_, ?_⟩
    · rw [(State.endReq_reqr _ _ _ _).1, hres]
      rfl
    · rw [(State.endReq_reqr _ _ _ _).2, hres]
  · have hres : s.checkReqOp q = LR.notEntitled := by
      rw [State.checkReqOp_unload hop, hl, hm]
      rfl
    refine ⟨_, (exec_loaderStart_other img hr hp hq (by rw [hop]; decide)).trans
      (next_congr (if_neg (by rw [hres]; decide))), hr, ?_, ?_⟩
    · rw [(State.endReq_reqr _ _ _ _).1, hres]
      rfl
    · rw [(State.endReq_reqr _ _ _ _).2, hres]
  · exact ⟨_, exec_loaderStart_bad img hr hp hq hop h, hr, (State.endReq_reqr _ _ _ _).1, (State.endReq_reqr _ _ _ _).2⟩
  · have hpart : ((s.quiesceAll l).setPhase (s.quiesces l) .quiescing).part p = (s.part p).beginQuiesce :=
      State.quiesceAll_part hps
    refine ⟨_, _, exec_quiesceBegin hr hp h2 h3 hck, rfl, rfl, rfl, rfl, ?_⟩
    rw [hpart]
    exact ⟨rfl, rfl, rfl⟩
  · refine ⟨_, _, exec_quiesceStop hr ha hp hs hl hh rfl, rfl, rfl, ?_, fun t ht => (s.stopTiles_tiles p _ ht).1, fun hd => ?_⟩
    · exact (congrArg Partition.live (s.partStopped_part l p (s.unsentItems p))).trans (Partition.atStop_live _ _ _).1
    · have hht : (s.partStopped l p (s.unsentItems p)).ht = s.ht := s.stopTiles_ht p _
      show Nat.max l.deadline ((s.partStopped l p (s.unsentItems p)).ht +
        Nat.min (200000 + (s.partStopped l p (s.unsentItems p)).tOut p) 2200000) = _
      rw [hht, State.partStopped_tOut l _ hd]
      rfl
  · refine ⟨_, _, exec_applyStart_unload reread hr hp hd hop hl hi, rfl, rfl, ?_⟩
    have htarget : l.target = l.req.partition := if_pos hop
    obtain ⟨h1, h2, h3⟩ := (s.drainAll l).releasePart_part l.target
    rw [htarget] at h1 h2 h3
    rw [htarget, State.setPhase_part, State.measured_part]
    exact ⟨h1, h2, h3.trans (s.drainAll_owner l _)⟩
  · obtain ⟨hst, hres⟩ := s.endRun_reqr l LR.done 0
    exact ⟨_, exec_applyDone_unload hr hp hop hl, State.endRun_run s l LR.done 0, hst.trans (if_pos rfl), hres⟩
  · obtain ⟨u, hht, hrun⟩ := exec_applyDone_other hr hp hop h2 hlate h3
    exact ⟨_, _, hrun, rfl, rfl, congrArg some hht⟩
  · refine ⟨_, exec_scopeResume hr hp he hb hop, rfl, ?_⟩
    generalize (if !l.lost.isEmpty then LR.safeState else l.result) = r
    have hpart : ((s.resumeAll l (resumeBoundary e)).endRun l r l.section_).part p =
        (s.resumePart l (if s.time.st = .free then s.ht else resumeBoundary e) p).part p :=
      (State.endRun_part _ l r _ p).trans <| State.resumeAll_part hop hl hs hsafe hld
    rw [hpart]
    exact State.resumePart_part (by rw [hop]; decide) hh ht

end Sys2Proof.Machine
end

section
/-! SUPPORT. O55: the presence map, the firmware update and recovery (R415 to R420). -/

namespace Sys2Proof.Machine

/-! ## The presence map (R415, R416) -/

/-- R415: the map with the masks of modules from `base` on, the module's own entry as it was. -/
def presenceMap (own base : Nat) (masks : List (Nat × Nat)) (m : SMap Nat) : SMap Nat :=
  masks.foldl (fun (m : SMap Nat) (e : Nat × Nat) =>
    if base + e.2 = own ∨ 4096 ≤ base + e.2 then m else mset 0 m (base + e.2) (e.1 % 16)) m

theorem presenceMap_own (own base : Nat) (masks : List (Nat × Nat)) (m : SMap Nat) :
    mget 0 (presenceMap own base masks m) own = mget 0 m own := by
  refine foldl_same (mget 0 · own) _ (fun m e => ?_) masks m
  split
  · rfl
  · next h => exact mget_mset_ne _ _ _ fun he => h (.inl he.symm)

theorem presenceMap_later (own base k i : Nat) (hi : i < k) (masks : List Nat) (m : SMap Nat) :
    mget 0 (presenceMap own base (masks.zipIdx k) m) (base + i) = mget 0 m (base + i) := by
  induction masks generalizing k m with
  | nil => rfl
  | cons a masks ih =>
    rw [List.zipIdx_cons]
    refine (ih (k + 1) (by omega) _).trans ?_
    dsimp only
    split
    · rfl
    · exact mget_mset_ne _ _ _ (by omega)

/-- R415: the entry of another module is its mask. -/
theorem presenceMap_other {own base i : Nat} (masks : List Nat) (k : Nat) (m : SMap Nat) (hi : i < masks.length)
    (hown : base + (k + i) ≠ own) (hmax : base + (k + i) < 4096) :
    mget 0 (presenceMap own base (masks.zipIdx k) m) (base + (k + i)) = nth 0 masks i % 16 := by
  induction masks generalizing k i m with
  | nil => exact absurd hi (Nat.not_lt_zero i)
  | cons a masks ih =>
    rw [List.zipIdx_cons]
    cases i with
    | zero =>
      refine (presenceMap_later own base (k + 1) (k + 0) (by omega) masks _).trans ?_
      exact (congrArg (mget 0 · (base + k)) (if_neg (not_or.mpr ⟨hown, Nat.not_le_of_lt hmax⟩))).trans (mget_mset_same _ _ _ _)
    | succ i =>
      have h := ih (k + 1) (if base + k = own ∨ 4096 ≤ base + k then m else mset 0 m (base + k) (a % 16))
        (i := i) (Nat.lt_of_succ_lt_succ hi) (by omega) (by omega)
      rw [show k + 1 + i = k + (i + 1) from by omega] at h
      exact h

theorem State.setPresence_cfg (s : State) (base : Nat) (masks : List Nat) : (s.setPresence base masks).cfg =
    { s.cfg with presence := presenceMap s.cfg.module base masks.zipIdx s.cfg.presence } :=
  State.rehash_same State.cfg (fun _ _ _ => rfl) (fun _ _ _ => rfl) _

theorem exec_presence_held {s : State} (h : s.handOff = true) : exec .presence s = .next s := by
  refine next_congr ?_
  rw [h]
  rfl

theorem exec_presence {s : State} {f : Flight} (h : s.handOff = false)
    (hf : s.takeDest 26 (fun p => p.kind == kPRESENCE) = some f) : exec .presence s = .next (
      if s.presenceOk f.pkt then State.setPresence { s.dropPkt f.seq with
        cfg := { s.cfg with presSeq := BitVec.ofNat 64 (presenceFields f.pkt).1 } } (presenceFields f.pkt).2.1 (presenceFields f.pkt).2.2
      else (s.dropPkt f.seq).discardFmt 26 f.pkt) := by
  refine next_congr ?_
  rw [h, if_neg Bool.false_ne_true, hf]
  rfl

/-- R416: a packet that is applied names modules below 4,096. -/
theorem State.presenceOk_range {s : State} {p : Packet} (h : s.presenceOk p = true) :
    (presenceFields p).2.1 + (presenceFields p).2.2.length ≤ 4096 := by
  have hk : ∃ n, (presenceFields p).2.1 + n ≤ 4096 ∧ (presenceFields p).2.2.length = n := by
    unfold State.presenceOk at h
    simp only [Bool.and_eq_true, decide_eq_true_iff, beq_iff_eq] at h
    obtain ⟨⟨⟨⟨-, h1⟩, h2⟩, -⟩, -⟩ := h
    exact ⟨_, h1, h2⟩
  obtain ⟨n, h1, h2⟩ := hk
  exact h2 ▸ h1

theorem bits_four_lt (v i : Nat) : bits v (4 * i + 3) (4 * i) < 16 := by
  unfold bits
  rw [show 4 * i + 3 + 1 - 4 * i = 4 from by omega]
  exact Nat.mod_lt _ (by decide)

theorem exec_presenceWrite {s : State} {w : Who} (n : Nat) (v : W32) (hw : Who.isFw w = true) (h : s.handOff = false) :
    exec (.presenceWrite w n v) s = .next (s.presNow n v) :=
  next_congr ((if_neg (by rw [hw]; decide)).trans (if_neg (ne_true_of_eq_false h)))

/-! ## The firmware update (R417, R418) -/

/-- What of the configuration no management request changes. -/
def State.fwView (s : State) : FwSt × Bool × Nat × BitVec 256 × Bool × (Nat × BitVec 256) × Nat :=
  (s.cfg.fw, s.cfg.shadow, s.cfg.version, s.cfg.fwDigest, s.cfg.paused, s.cfg.oldFw, s.cfg.activeCore)

theorem State.fwView_of_cfg {s t : State} (h : t.cfg = s.cfg) : t.fwView = s.fwView :=
  congrArg (fun c : Config => (c.fw, c.shadow, c.version, c.fwDigest, c.paused, c.oldFw, c.activeCore)) h

theorem State.setOwner_cfg (s : State) (p n : Nat) : (s.setOwner p n).cfg = s.cfg := by
  unfold State.setOwner
  dsimp only
  split <;> rfl

theorem State.deny_cfg (s : State) (w : Who) : (s.deny w).cfg = s.cfg := by
  unfold State.deny
  cases w <;> rfl

theorem State.ownNow_cfg (s : State) (w : Who) (cmd p : Nat) : (s.ownNow w cmd p).cfg = s.cfg := by
  unfold State.ownNow
  split
  · unfold State.renewNow
    split
    · rfl
    · exact State.deny_cfg _ _
  · unfold State.claimNow
    dsimp only
    split
    · rfl
    · split
      · rfl
      · split
        · exact State.setOwner_cfg _ _ _
        · exact State.deny_cfg _ _
  · unfold State.releaseNow
    split
    · exact State.setOwner_cfg _ _ _
    · exact State.deny_cfg _ _

theorem State.fwView_serveReq (s : State) (q : MgmtReq) : (s.serveReq q).fwView = s.fwView := by
  unfold State.serveReq
  cases q with
  | ctrl r v =>
    show (s.reqCtrlNow r v).fwView = s.fwView
    unfold State.reqCtrlNow
    dsimp only
    split <;> rfl
  | own w cmd p => exact State.fwView_of_cfg (s.ownNow_cfg w cmd p)
  | owner p n => exact State.fwView_of_cfg (s.setOwner_cfg p n)
  | pres n v =>
    show (s.presNow n v).fwView = s.fwView
    unfold State.presNow State.fwView
    rw [State.setPresence_cfg]

/-- R417: serving what was held leaves the update alone. -/
theorem State.fwView_releaseMgmt (s : State) : s.releaseMgmt.fwView = s.fwView := by
  unfold State.releaseMgmt
  refine (foldl_same State.fwView State.serveReq State.fwView_serveReq _ _).trans
    ((foldl_same State.fwView _ (fun _ _ => ?_) _ _).trans ?_) <;> rfl

theorem State.endFw_view (s : State) (r : Nat) : (s.endFw r).fwView = s.fwView := by
  unfold State.endFw
  split <;> rfl

/-- R418: an update that ends ABANDONED. -/
theorem State.fwView_abandon (s : State) :
    s.abandon.fwView = (.abandoned, true, s.cfg.version, s.cfg.fwDigest, false, s.cfg.oldFw, s.cfg.activeCore) := by
  unfold State.abandon
  rw [State.fwView_releaseMgmt]
  exact congrArg (fun v : FwSt × Bool × Nat × BitVec 256 × Bool × (Nat × BitVec 256) × Nat =>
    (FwSt.abandoned, true, v.2.2.1, v.2.2.2.1, false, v.2.2.2.2.2.1, v.2.2.2.2.2.2)) (s.endFw_view LR.abandoned)

theorem State.takeoverTime_of {s : State} (h : s.time.st = .free ∨ (s.ht % 64000 = 0 ∧ resumeBoundary s.cfg.fwReadyHt ≤ s.ht)) :
    s.takeoverTime = true := by
  unfold State.takeoverTime
  rcases h with h | ⟨h1, h2⟩
  · rw [h]
    rfl
  · rw [h1, decide_eq_true h2]
    exact Bool.or_true _

/-- R417: the old firmware is noted and the queue served before the cores change. -/
def State.handingOver (s : State) : State := s.setFw fun c => { c with oldFw := (c.version, c.fwDigest), paused := false }

theorem exec_fwTakeover {s : State} {id : BitVec 64} {digest : BitVec 256} {who : Nat} (hf : s.cfg.fw = .takeover)
    (hs : s.cfg.staged = some (id, digest, who)) (hp : s.cfg.paused = true) (ht : s.takeoverTime = true) :
    exec .fwTakeover s = .next (if s.cfg.reverting then (s.takeOver s.cfg.oldFw.1 s.cfg.oldFw.2).abandon
      else (s.handingOver.takeOver (id.toNat % 65536) digest).releaseMgmt) := by
  refine next_congr ?_
  rw [hf, hs]
  refine if_neg ?_
  rintro (h | h)
  · exact absurd hp (ne_true_of_eq_false h)
  · exact absurd ht (ne_true_of_eq_false h)

theorem exec_fwFlashDone {s : State} (h : s.cfg.fw = .flashing) : exec .fwFlashDone s = .next ((s.endFw LR.done).setFw fun c =>
    { c with fw := .done, staged := none, flashFw := (c.version, c.fwDigest) }) := next_congr (if_pos h)

/-! ## Recovery (R419, R420) -/

/-- R420: LEN of a write of CFG_RECOVERY. -/
def State.recLenSet (s : State) (v : W32) : State :=
  { s with cfg := { s.cfg with recLen := Nat.min 16777216 (bits v.toNat 24 0) } }

theorem exec_recoveryGo_staged {s : State} (w : Who) {v : W32} (img : List Byte) (hr : s.cfg.recMode = true)
    (h : v.getLsbD 30 = false) : exec (.recoveryGo w v img) s = .next (s.stageBytes 0 img) := by
  refine next_congr ?_
  rw [hr]
  exact if_neg (ne_true_of_eq_false h)

theorem exec_recoveryGo {s : State} (w : Who) {v : W32} (img : List Byte) (hr : s.cfg.recMode = true) (h : v.getLsbD 30 = true)
    (hs : s.cfg.recState ≠ 2) : exec (.recoveryGo w v img) s = .next (
      if ((s.stageBytes 0 img).recLenSet v).recoveryImageOk (imageIn (s.stageBytes 0 img).cfg.bar4).image then
        ((s.stageBytes 0 img).recLenSet v).setFw fun c => { c with
          recState := 2
          staged := some ((imageIn (s.stageBytes 0 img).cfg.bar4).image.header.imageId,
            (imageIn (s.stageBytes 0 img).cfg.bar4).image.header.digest, 3) }
      else ((s.stageBytes 0 img).recLenSet v).setFw fun c => { c with recState := 4 }) := by
  refine next_congr ?_
  rw [hr]
  refine (if_pos h).trans (if_neg ?_)
  show ¬ (!bit v.toNat 30 || !s.cfg.recMode || s.cfg.recState == 2) = true
  rw [show bit v.toNat 30 = true from h, hr, beq_eq_false_iff_ne.mpr hs]
  decide

theorem exec_recoveryFlashDone {s : State} {id : BitVec 64} {digest : BitVec 256} {who : Nat} (hr : s.cfg.recMode = true)
    (hs : s.cfg.recState = 2) (hst : s.cfg.staged = some (id, digest, who)) : exec .recoveryFlashDone s =
      .next (State.moduleReset { s with cfg := { s.cfg with flashFw := (id.toNat % 65536, digest) } } .boot) := by
  refine next_congr ?_
  rw [hr, hs, hst]
  rfl

/-- Settles O55, a clause at a time: the presence map's fold, the update's steps and what the held requests leave of them. -/
theorem presenceFirmwareAndRecovery : Obligations.PresenceFirmwareAndRecovery := by
  intro s w v
  refine ⟨exec_presence_held, ?_, fun f hh hf hok => ?_, fun n i hn hi hown hw hh => ?_,
    fun n => ⟨fun hw => next_congr (if_pos (by rw [hw]; rfl)), fun hw hh => next_congr ((if_neg (by rw [hw]; decide)).trans (if_pos hh))⟩,
    fun h => next_congr (if_pos h), fun id digest who hf hs hp ht => ⟨fun hr => ?_, fun hr => ?_⟩,
    fun hf hp => next_congr (if_pos ⟨hf, hp⟩), fun hf => ?_, fun hf hp => ?_, fun h => ?_, fun img hr => ⟨fun h => ?_, fun h hs => ?_⟩,
    fun id digest who hr hs hst => ?_⟩
  · intro f i hh hf hok m hi
    refine ⟨_, (exec_presence hh hf).trans (next_congr (if_pos hok)), ?_⟩
    have hmax : m.2.1 + (0 + i) < 4096 := by
      have h : m.2.1 + m.2.2.length ≤ 4096 := State.presenceOk_range hok
      omega
    rw [State.setPresence_cfg]
    refine ⟨rfl, fun hne => ?_, presenceMap_own _ _ _ _⟩
    have h := presenceMap_other (own := s.cfg.module) m.2.2 0 s.cfg.presence hi (by rw [Nat.zero_add]; exact hne) hmax
    rw [Nat.zero_add] at h
    exact h
  · refine ⟨_, (exec_presence hh hf).trans (next_congr (if_neg (ne_true_of_eq_false hok))), rfl, ?_⟩
    exact congrArg Station.discFmt (State.stn_setStn_same (s.dropPkt f.seq) 26 _)
  · refine ⟨_, exec_presenceWrite n v hw hh, ?_⟩
    unfold State.presNow
    rw [State.setPresence_cfg]
    have h := presenceMap_other (own := s.cfg.module) (base := 8 * n) (i := i)
      ((List.range 8).map fun i => bits v.toNat (4 * i + 3) (4 * i)) 0 s.cfg.presence (by simpa using hi)
      (by rw [Nat.zero_add]; exact hown) (by omega)
    rw [Nat.zero_add] at h
    refine h.trans ?_
    have hnth : nth 0 ((List.range 8).map fun i => bits v.toNat (4 * i + 3) (4 * i)) i = bits v.toNat (4 * i + 3) (4 * i) := by
      rw [nth, List.getD_eq_getElem _ _ (by simpa using hi), List.getElem_map, List.getElem_range]
    rw [hnth, Nat.mod_eq_of_lt (bits_four_lt _ _)]
  · refine ⟨_, (exec_fwTakeover hf hs hp (State.takeoverTime_of ht)).trans (next_congr (if_neg (ne_true_of_eq_false hr))), ?_⟩
    have hview := (s.handingOver.takeOver (id.toNat % 65536) digest).fwView_releaseMgmt
    obtain ⟨-, hview⟩ := Prod.mk.inj hview
    obtain ⟨-, hview⟩ := Prod.mk.inj hview
    obtain ⟨hv, hview⟩ := Prod.mk.inj hview
    obtain ⟨hdig, hview⟩ := Prod.mk.inj hview
    obtain ⟨hpz, hview⟩ := Prod.mk.inj hview
    obtain ⟨hold, hcore⟩ := Prod.mk.inj hview
    exact ⟨hcore, hv, hdig, hpz, hold⟩
  · refine ⟨_, (exec_fwTakeover hf hs hp (State.takeoverTime_of ht)).trans (next_congr (if_pos hr)), ?_⟩
    have hview := (s.takeOver s.cfg.oldFw.1 s.cfg.oldFw.2).fwView_abandon
    obtain ⟨hfw, hview⟩ := Prod.mk.inj hview
    obtain ⟨-, hview⟩ := Prod.mk.inj hview
    obtain ⟨hv, hview⟩ := Prod.mk.inj hview
    obtain ⟨hdig, hview⟩ := Prod.mk.inj hview
    obtain ⟨hpz, hview⟩ := Prod.mk.inj hview
    obtain ⟨-, hcore⟩ := Prod.mk.inj hview
    exact ⟨hcore, hv, hdig, hfw, hpz⟩
  · refine ⟨_, exec_fwFlashDone hf, rfl, rfl, ?_⟩
    exact congrArg (fun x : FwSt × Bool × Nat × BitVec 256 × Bool × (Nat × BitVec 256) × Nat => (x.2.2.1, x.2.2.2.1))
      (s.endFw_view LR.done)
  · refine next_congr ((if_neg ?_).trans (if_pos hf))
    rintro (h | ⟨-, h⟩)
    · exact nomatch hf.symm.trans h
    · exact absurd h (ne_true_of_eq_false hp)
  · refine ⟨_, next_congr (if_pos h), ?_⟩
    obtain ⟨hfw, hview⟩ := Prod.mk.inj s.fwView_abandon
    obtain ⟨-, hview⟩ := Prod.mk.inj hview
    obtain ⟨hv, hview⟩ := Prod.mk.inj hview
    obtain ⟨hdig, hview⟩ := Prod.mk.inj hview
    obtain ⟨-, hview⟩ := Prod.mk.inj hview
    obtain ⟨-, hcore⟩ := Prod.mk.inj hview
    exact ⟨hfw, hv, hdig, hcore⟩
  · exact exec_recoveryGo_staged w img hr h
  · intro x y
    refine ⟨_, exec_recoveryGo w img hr h hs, ?_⟩
    split
    · next hok => exact ⟨rfl, (if_pos hok).symm⟩
    · next hok => exact ⟨rfl, (if_neg hok).symm⟩
  · exact ⟨_, exec_recoveryFlashDone hr hs hst, rfl, rfl, rfl⟩

end Sys2Proof.Machine
end

section
/-! SUPPORT. O56: the steps of start-up (R343, R381, R424, R426 to R428, R430, R432, R435). -/

namespace Sys2Proof.Machine

/-! ## A step is complete (R424, R434) -/

theorem Boot.fixE_keeps (b : Boot) (ht : Nat) : ∃ e, b.fixE ht = { b with e := e } := by
  unfold Boot.fixE
  split
  · exact ⟨_, rfl⟩
  · exact ⟨b.e, rfl⟩

/-- R424, R434: a completed step leaves of the start-up's state all but its bits, E and the entry into operation. -/
theorem State.stepDone_boot (s : State) (n : Nat) : ∃ st e rdy md rht, (s.stepDone n).boot = { s.boot with
    steps := st, e := e, ready := rdy, mode := md, readyHt := rht } ∧ (md = s.boot.mode ∨ md = .up) := by
  obtain ⟨e, he⟩ := Boot.fixE_keeps { s.boot with steps := s.boot.steps ||| BitVec.ofNat 9 (2 ^ n) } s.ht
  unfold State.stepDone
  dsimp only
  rw [he]
  split
  · exact ⟨_, _, _, _, _, rfl, .inr rfl⟩
  · exact ⟨_, _, _, _, _, rfl, .inl rfl⟩

/-- What a completed step is not seen in. -/
theorem State.stepDone_same {γ : Type} (g : State → γ) (hb : ∀ (s : State) b, g { s with boot := b } = g s)
    (he : ∀ (s : State) e, g { s with evt := e } = g s) (s : State) (n : Nat) : g (s.stepDone n) = g s := by
  unfold State.stepDone
  dsimp only
  split
  · exact (he _ _).trans (hb s _)
  · exact hb s _

/-! ## Power and firmware (R424, R496) -/

theorem State.booting_mode {s : State} (h : s.booting = true) : s.boot.mode = .boot := beq_iff_eq.mp h

theorem exec_firmwareCheckDone {s : State} (ok : Bool) (hb : s.booting = true) (hp : s.boot.p1 = none) :
    exec (.firmwareCheckDone ok) s = .next (
      if ok then State.stepDone { (if s.cfg.flashFw.2 = s.cfg.fwDigest then s else s.measured_ 2) with
        boot := { s.boot with p1 := some s.boot.osc }
        cfg := { s.cfg with shadow := true, version := s.cfg.flashFw.1, fwDigest := s.cfg.flashFw.2 }
        sec := { s.sec with identity := true } } 0
      else State.bootOutcome { s with
        boot := { s.boot with mode := .recovery }, cfg := { s.cfg with recMode := true } } 0 0 1) := by
  have hgo : ¬ (!s.booting || s.boot.p1.isSome) = true := by
    rw [hb, hp]
    decide
  refine next_congr ((if_neg hgo).trans ?_)
  cases ok with
  | false => rfl
  | true =>
    by_cases h : s.cfg.flashFw.2 = s.cfg.fwDigest
    · simp only [h, if_true]
    · simp only [h, if_true, if_false]
      rfl

/-- R424: the first step alone neither fixes E nor makes the module READY. -/
theorem State.stepDone_first {s : State} (h : s.boot.steps = 0) : s.stepDone 0 = { s with boot := { s.boot with steps := 1 } } := by
  have hst : s.boot.steps ||| BitVec.ofNat 9 (2 ^ 0) = 1 := by
    rw [h]
    rfl
  have hfix : Boot.fixE { s.boot with steps := 1 } s.ht = { s.boot with steps := 1 } := if_neg (by
    show ¬ (bit (1 : BitVec 9).toNat 4 && _ && _) = true
    rw [show bit (1 : BitVec 9).toNat 4 = false from rfl]
    exact Bool.false_ne_true)
  unfold State.stepDone
  dsimp only
  rw [hst, hfix]
  exact if_neg fun h => absurd (show (1 : BitVec 9) = 0x1FF from h.1) (by decide)

/-! ## Fields (R427) -/

theorem State.field_setField (s : State) (f : Nat) (x : FieldSt) : (s.setField f x).field f = x := mget_mset_same _ _ _ _

theorem State.field_of_boot {s t : State} {a : Boot} (h : t.boot = a) (hf : a.fields = s.boot.fields) (f : Nat) :
    t.field f = s.field f := congrArg (mget FieldSt.off · f) ((congrArg Boot.fields h).trans hf)

theorem exec_fieldPowerUp {s : State} {n p : Nat} (hp : s.boot.p1 = some p) (hb : s.booting = true) (hn : n ≤ 31)
    (hf : s.field n = .off) (ht : p + 2000000 * n ≤ s.boot.osc) (hall : ∀ f < n, s.field f ≠ .off) :
    exec (.fieldPowerUp n) s = .next ((s.setField n .testing).heatField n) := by
  have hany : (List.range n).any (fun f => s.field f == .off) = false :=
    List.any_eq_false.mpr fun f h => ne_true_of_eq_false (beq_eq_false_iff_ne.mpr (hall f (List.mem_range.mp h)))
  refine next_congr ?_
  rw [hp]
  refine if_neg ?_
  rw [hb, hf, hany, decide_eq_false (Nat.not_lt_of_le hn), decide_eq_false (Nat.not_lt_of_le ht)]
  decide

theorem exec_fieldBistDone {s : State} {n : Nat} (ok : Bool) (hb : s.booting = true) (hf : s.field n = .testing) :
    exec (.fieldBistDone n ok) s = .next (if ok then s.fieldPass n else s.fieldFail n) := by
  refine next_congr (if_neg ?_)
  rw [hb, hf]
  decide

/-- A retired channel changes module memory alone. -/
theorem State.retireEmpty_boot {s u : State} {c : Nat} (h : s.retireEmpty c = some u) : u.boot = s.boot := by
  unfold State.retireEmpty at h
  dsimp only at h
  split at h
  · exact nomatch h
  · rw [← Option.some.inj h]
    rfl

theorem State.hbmInit_boot (s : State) : s.hbmInit.boot = s.boot := by
  unfold State.hbmInit
  split
  · rfl
  · refine (foldl_same State.boot _ (fun t c => ?_) _ _).trans ?_
    · split
      · rfl
      · cases h : t.retireEmpty c with
        | none => rfl
        | some u => exact State.retireEmpty_boot h
    · rfl

theorem State.fieldsDone_field (s : State) (f : Nat) : s.fieldsDone.field f = s.field f := by
  unfold State.fieldsDone
  split
  · obtain ⟨_, _, _, _, _, h, -⟩ := s.stepDone_boot 2
    exact State.field_of_boot h rfl f
  · rfl

theorem State.fieldsDone_mode {s : State} (h : s.boot.mode ≠ .failed) : s.fieldsDone.boot.mode ≠ .failed := by
  unfold State.fieldsDone
  split
  · obtain ⟨_, _, _, md, _, hb, hmd⟩ := s.stepDone_boot 2
    rw [hb]
    rcases hmd with hmd | hmd
    · rw [hmd]
      exact h
    · rw [hmd]
      exact RunMode.noConfusion
  · exact h

theorem State.fieldsDone_same {γ : Type} (g : State → γ) (hb : ∀ (s : State) b, g { s with boot := b } = g s)
    (he : ∀ (s : State) e, g { s with evt := e } = g s) (s : State) : g s.fieldsDone = g s := by
  unfold State.fieldsDone
  split
  · exact State.stepDone_same g hb he s 2
  · rfl

/-- R427: a field that has passed, and its station, which is present. -/
theorem State.fieldPass_field (s : State) (n : Nat) : (s.fieldPass n).field n = .passed := by
  have h : State.field (if n < 27 ∧ (20 ≤ n ∨ n < s.dies) then
      (s.setField n .passed).updStn n fun x => { x with present := true } else s.setField n .passed) n = .passed := by
    split <;> exact s.field_setField n .passed
  unfold State.fieldPass
  dsimp only
  rw [State.fieldsDone_field]
  generalize hu : (if n < 27 ∧ (20 ≤ n ∨ n < s.dies) then
      (s.setField n .passed).updStn n fun x => { x with present := true } else s.setField n .passed) = u at h
  refine Eq.trans (b := State.field (if 20 ≤ n ∧ n ≤ 25 then u.hbmInit else u) n) (by rw [← hu]; rfl) ?_
  split
  · exact (State.field_of_boot u.hbmInit_boot rfl n).trans h
  · exact h

theorem State.dies_le (s : State) : s.dies ≤ 20 := by
  unfold State.dies
  split <;> decide

theorem State.fieldPass_stn {s : State} {n : Nat} (h : n < s.dies) : ((s.fieldPass n).stn n).present = true := by
  have hn : n < 20 := Nat.lt_of_lt_of_le h s.dies_le
  have he : s.fieldPass n = ((s.setField n .passed).updStn n fun x => { x with present := true }).fieldsDone := by
    unfold State.fieldPass
    dsimp only
    rw [if_pos (show n < 27 ∧ (20 ≤ n ∨ n < (s.setField n .passed).dies) from ⟨Nat.lt_trans hn (by decide), .inr h⟩),
      if_neg (show ¬ (20 ≤ n ∧ n ≤ 25) from fun k => absurd k.1 (Nat.not_le_of_lt hn))]
  rw [he, State.fieldsDone_same (fun s : State => (s.stn n).present) (fun _ _ => rfl) (fun _ _ => rfl)]
  exact congrArg Station.present (State.stn_setStn_same (s.setField n .passed) n _)

/-- R435: a compute die's field has failed. -/
theorem State.fieldFail_die {s : State} {n : Nat} (h : n < 20) : s.fieldFail n =
    (((s.setField n .failed).setDie n { (s.setField n .failed).die n with populated := false }).bootOutcome 2 n 5).fieldsDone :=
  if_pos h

theorem State.fieldFail_ends {s : State} {n : Nat} (h20 : 20 ≤ n) (h : n ≤ 26 ∨ n = 31) :
    s.fieldFail n = (s.setField n .failed).startupFail 2 n :=
  (if_neg (Nat.not_lt_of_le h20)).trans (if_neg fun k => by omega)

theorem State.startupFail_boot (s : State) (step detail : Nat) : (s.startupFail step detail).boot.mode = .failed ∧
    (s.startupFail step detail).boot.failStep = step ∧ (s.startupFail step detail).boot.failDetail = detail := ⟨rfl, rfl, rfl⟩

/-! ## HBM3E (R428) -/

theorem exec_hbmTrainDone {s : State} {n : Nat} (bad : List Nat) (f : Option Nat) (hb : s.booting = true) (h20 : 20 ≤ n)
    (h25 : n ≤ 25) (hf : s.field n = .passed) (hn : n ∉ s.boot.hbmTrained) : exec (.hbmTrainDone n bad f) s = .next (match f with
      | some k => s.startupFail 3 k
      | none =>
        let t := s.retireFailed (bad.filter fun c => decide (20 + c / 32 = n))
        { t with boot := { t.boot with hbmTrained := addSorted n t.boot.hbmTrained } }) := by
  refine next_congr ((if_neg ?_).trans ?_)
  · rw [hb, hf, decide_eq_false (Nat.not_lt_of_le h20), decide_eq_false (Nat.not_lt_of_le h25),
      show s.boot.hbmTrained.contains n = false from by simpa using hn]
    decide
  · cases f <;> rfl

/-- A table without the entries of a kind has none of that kind. -/
theorem mget_filter_out {α : Type} (d : α) (m : SMap α) {f : Nat → Bool} {k : Nat} (h : f k = true) :
    mget d (m.filter fun e => !f e.1) k = d := by
  refine mget_absent d _ k fun hk => ?_
  obtain ⟨e, he, rfl⟩ := List.mem_map.mp hk
  have := (List.mem_filter.mp he).2
  rw [h] at this
  exact Bool.false_ne_true this

/-- R428: a line of a station that is filled. -/
def State.fills (s : State) (n key : Nat) : Bool :=
  decide (20 + key / channelBytes / 32 = n) && (s.chan (key / channelBytes)).st != 2

/-- R428: the lines of a station read zero. -/
def State.zeroFilled (s : State) (n : Nat) : State :=
  { s with
    mem := { s.mem with
      hbm := s.mem.hbm.filter fun e => !s.fills n e.1
      hbmPoison := s.mem.hbmPoison.filter fun w => !s.fills n (w * 32)
      hbmSoft := s.mem.hbmSoft.filter fun w => !s.fills n (w * 32) }
    boot := { s.boot with hbmFilled := addSorted n s.boot.hbmFilled } }

theorem exec_hbmZeroFillDone {s : State} {n : Nat} (hb : s.booting = true) (ht : n ∈ s.boot.hbmTrained) (hf : n ∉ s.boot.hbmFilled) :
    exec (.hbmZeroFillDone n) s = .next (if (s.zeroFilled n).boot.hbmFilled.length = 6 then (s.zeroFilled n).stepDone 3
      else s.zeroFilled n) := by
  refine next_congr ((if_neg ?_).trans rfl)
  rw [hb, show s.boot.hbmTrained.contains n = true from by simpa using ht, show s.boot.hbmFilled.contains n = false from by simpa using hf]
  decide

/-! ## Lasers and boot windows (R426, R430) -/

theorem State.lasersDone_opt (s : State) : s.lasersDone.opt = s.opt := by
  unfold State.lasersDone
  split
  · exact State.stepDone_opt s 5
  · rfl

theorem exec_laserLock_lit {s : State} {n : Nat} (hst : (s.laser n).started = true) (hl : (s.laser n).lit = false)
    (ha : (s.laser n).st = .active) : exec (.laserLock n true) s =
      .next (s.setLaser n { s.laser n with st := .active, wasActive := false, lit := true }).lasersDone := by
  refine next_congr ((if_neg ?_).trans ((if_neg ?_).trans (if_pos rfl)))
  · rw [ha]
    exact LaserSt.noConfusion
  · rw [hst, hl, ha]
    decide

theorem exec_bootWinWrite_lo {s : State} (v : W32) (h : s.cfg.moduleLoaded = false) :
    exec (.bootWinWrite .port0 0 false v) s = .next (s.stageLo .port0 0x110 v) := by
  refine next_congr ((if_neg ?_).trans (if_pos rfl))
  rw [h]
  decide

theorem exec_bootWinWrite_hi {s : State} (v : W32) (h : s.cfg.moduleLoaded = false) (hs : s.stage = []) : ∃ u,
    exec (.bootWinWrite .port0 0 true v) s = .next u ∧
      u.boot.bootWin0 = BitVec.ofNat 64 (v.toNat * 2 ^ 32 + s.boot.bootWin0.toNat % 2 ^ 32) := by
  have hhi : s.hiWrite .port0 (bootWinAddr 0) s.boot.bootWin0 v =
      (s, BitVec.ofNat 64 (v.toNat * 2 ^ 32 + s.boot.bootWin0.toNat % 2 ^ 32)) := by
    unfold State.hiWrite
    rw [hs]
    rfl
  have hgo : ¬ (!((Who.port0 == .port0 && (0 : Nat) == 0) || (Who.port0 == .port1 && (0 : Nat) == 1)) || s.cfg.moduleLoaded) = true := by
    rw [h]
    decide
  refine ⟨_, next_congr ((if_neg hgo).trans (if_neg (by decide))), ?_⟩
  rw [if_pos rfl, hhi]
  rfl

/-! ## Regions (R432) -/

theorem Region.takeMap_bond (r : Region) : r.takeMap.bond = r.bond := by
  unfold Region.takeMap
  split <;> rfl

theorem exec_regionEnableStart {s : State} {n : Nat} (hb : s.booting = true) (hn : n ∈ s.bootRegions) (ho : (s.rgn n).boot = .off)
    (he : s.enableReached n 0 = true) (hall : ∀ k ∈ s.bootRegions, k < n → (s.rgn k).boot ≠ .off) :
    exec (.regionEnableStart n) s = .next (s.setRgn n { (s.rgn n).takeMap with
      boot := .enabling, ungated := [], op := 3, opNext := 3, locked := false, stopped := true
      bond := { (s.rgn n).bond with ends := { (s.rgn n).bond.ends with far := (s.rgn n).bond.ends.far + 1, farSaw := none } } }) := by
  have hany : (s.bootRegions.any fun k => decide (k < n) && (s.rgn k).boot == .off) = false :=
    List.any_eq_false.mpr fun k hk hx => by
      rw [Bool.and_eq_true, decide_eq_true_iff, beq_iff_eq] at hx
      exact hall k hk hx.1 hx.2
  refine next_congr ((if_neg ?_).trans ?_)
  · rw [hb, ho, he, hany, show s.bootRegions.contains n = true from by simpa using hn]
    decide
  · dsimp only
    rw [Region.takeMap_bond]

theorem exec_clusterUngate {s : State} {n : Nat} (hb : (s.rgn n).boot = .enabling) (hl : (s.rgn n).ungated.length < 16)
    (he : s.enableReached n (250 * (s.rgn n).ungated.length) = true) : exec (.clusterUngate n (s.rgn n).ungated.length) s =
      .next (s.setRgn n { s.rgn n with ungated := (s.rgn n).ungated ++ [(s.rgn n).ungated.length] }) := by
  refine next_congr (if_neg ?_)
  rw [hb, he, decide_eq_true hl]
  simp

/-- R33, R432: the SRAM of a region's tiles is cleared. -/
def clearedTile (n : Nat) (t : Nat × Tile) : Nat × Tile :=
  if tileRegion t.1 = n then (t.1, { t.2 with sram := [], poison := [], soft := [] }) else t

def State.clearTiles (s : State) (n : Nat) : State := { s with tiles := s.tiles.map (clearedTile n) }

theorem State.clearTiles_rgn (s : State) (n k : Nat) : (s.clearTiles n).rgn k = s.rgn k := rfl

theorem exec_regionClockStart {s : State} {n : Nat} (hb : (s.rgn n).boot = .enabling) (hl : (s.rgn n).ungated.length = 16)
    (he : s.enableReached n 4000 = true) : exec (.regionClockStart n) s =
      .next ((s.setRgn n { s.rgn n with boot := .clocked, stopped := false, locked := true }).clearTiles n) := by
  refine next_congr ((if_neg ?_).trans rfl)
  rw [hb, hl, he]
  decide

/-- R432: the last effects of a region's enable. -/
def State.regionUp (s : State) (n : Nat) : State :=
  let t := s.updRgn n fun x => { x with boot := .enabled }
  State.regionsDone { t with boot := { t.boot with regionsDone := addSorted n t.boot.regionsDone } }

theorem exec_regionEnableDone {s : State} {n : Nat} (sites routers : List Nat) (hb : s.booting = true)
    (hc : (s.rgn n).boot = .clocked) : ∃ t : State, exec (.regionEnableDone n sites routers) s = .next (t.regionUp n) := by
  refine ⟨_, next_congr ((if_neg ?_).trans rfl)⟩
  rw [hb, hc]
  decide

theorem State.regionUp_facts (s : State) (n : Nat) : ((s.regionUp n).rgn n).boot = .enabled ∧ n ∈ (s.regionUp n).boot.regionsDone := by
  have hrgn : (s.updRgn n fun x => { x with boot := .enabled }).rgn n = { s.rgn n with boot := .enabled } :=
    State.rgn_setRgn_same _ _ _
  unfold State.regionUp State.regionsDone
  dsimp only
  generalize (s.updRgn n fun x => { x with boot := .enabled }) = t at hrgn
  split
  · constructor
    · refine (State.stepDone_same (fun s : State => (s.rgn n).boot) (fun _ _ => rfl) (fun _ _ => rfl) _ 7).trans ?_
      exact congrArg Region.boot hrgn
    · obtain ⟨_, _, _, _, _, h, -⟩ := State.stepDone_boot { t with boot := { t.boot with regionsDone := addSorted n t.boot.regionsDone } } 7
      rw [h]
      exact mem_addSorted.mpr (.inl rfl)
  · exact ⟨congrArg Region.boot hrgn, mem_addSorted.mpr (.inl rfl)⟩

/-- Settles O56, a clause at a time: each step's guard, and what the completion of a step leaves alone. -/
theorem startUpSteps : Obligations.StartUpSteps := by
  intro s n r
  refine ⟨fun hm hf => ⟨_, next_congr (if_pos ⟨hm, hf⟩), rfl, rfl, rfl, rfl, rfl⟩,
    fun hb hp => ⟨_, exec_firmwareCheckDone false hb hp, rfl, rfl⟩, fun hb hp hne => ?_, fun hb hp hst heq => ?_,
    fun p hp hb hn hf ht hall => exec_fieldPowerUp hp hb hn hf ht hall, fun hb hn hf => ⟨?_, fun hlt => ?_, fun h20 h => ?_⟩,
    fun hb h20 h25 hf hn => ⟨fun bad => ?_, fun bad k => ?_⟩, fun key hb ht hf hk hch => ?_, fun hm => ?_, fun hst hl ha => ?_,
    fun hm v => ⟨exec_bootWinWrite_lo v hm, next_congr (if_pos rfl), exec_bootWinWrite_hi v hm⟩,
    fun hb hn ho he hall => exec_regionEnableStart hb hn ho he hall, fun hb hl he => exec_clusterUngate hb hl he,
    fun hb hl he => ?_, fun sites routers hb hc => ?_⟩
  · refine ⟨_, (exec_firmwareCheckDone true hb hp).trans (next_congr (if_pos rfl)), ?_⟩
    obtain ⟨_, _, _, _, _, h, -⟩ := State.stepDone_boot { (if s.cfg.flashFw.2 = s.cfg.fwDigest then s else s.measured_ 2) with
      boot := { s.boot with p1 := some s.boot.osc }
      cfg := { s.cfg with shadow := true, version := s.cfg.flashFw.1, fwDigest := s.cfg.flashFw.2 }
      sec := { s.sec with identity := true } } 0
    rw [h, State.stepDone_same State.cfg (fun _ _ => rfl) (fun _ _ => rfl)]
    exact ⟨rfl, rfl, rfl⟩
  · refine (exec_firmwareCheckDone true hb hp).trans (next_congr ((if_pos rfl).trans ?_))
    rw [if_pos heq]
    exact State.stepDone_first hst
  · exact ⟨_, (exec_fieldBistDone true hb hf).trans (next_congr (if_pos rfl)), s.fieldPass_field n, State.fieldPass_stn⟩
  · refine ⟨_, (exec_fieldBistDone false hb hf).trans (next_congr ((if_neg Bool.false_ne_true).trans (State.fieldFail_die hlt))), ?_, ?_, ?_⟩
    · rw [State.fieldsDone_field]
      exact s.field_setField n .failed
    · rw [State.fieldsDone_same (fun s : State => (s.die n).populated) (fun _ _ => rfl) (fun _ _ => rfl)]
      exact congrArg Die.populated (State.die_setDie_same (s.setField n .failed) n _)
    · refine State.fieldsDone_mode ?_
      show s.boot.mode ≠ .failed
      rw [State.booting_mode hb]
      exact RunMode.noConfusion
  · refine ⟨_, (exec_fieldBistDone false hb hf).trans (next_congr ((if_neg Bool.false_ne_true).trans (State.fieldFail_ends h20 h))), ?_⟩
    exact State.startupFail_boot _ 2 n
  · exact ⟨_, exec_hbmTrainDone bad none hb h20 h25 hf hn, mem_addSorted.mpr (.inl rfl)⟩
  · exact ⟨_, exec_hbmTrainDone bad (some k) hb h20 h25 hf hn, (State.startupFail_boot s 3 k).1, (State.startupFail_boot s 3 k).2.1⟩
  · have hfill : s.fills n key = true := by
      unfold State.fills
      rw [decide_eq_true hk, bne_iff_ne.mpr hch]
      rfl
    have hmem : n ∈ (s.zeroFilled n).boot.hbmFilled ∧ mget 0 (s.zeroFilled n).mem.hbm key = 0 ∧
        ∀ k ∈ (s.zeroFilled n).mem.hbmPoison, k * 32 ≠ key := by
      refine ⟨mem_addSorted.mpr (.inl rfl), mget_filter_out 0 s.mem.hbm hfill, fun k hk' he => ?_⟩
      have h := (List.mem_filter.mp hk').2
      rw [he, hfill] at h
      exact Bool.false_ne_true h
    refine ⟨_, exec_hbmZeroFillDone hb ht hf, ?_⟩
    split
    · obtain ⟨_, _, _, _, _, h, -⟩ := (s.zeroFilled n).stepDone_boot 3
      rw [h, State.stepDone_same State.mem (fun _ _ => rfl) (fun _ _ => rfl)]
      exact hmem
    · exact hmem
  · exact ⟨_, next_congr (if_pos hm), rfl, State.laser_setLaser_same _ _ _⟩
  · refine ⟨_, exec_laserLock_lit hst hl ha, ?_⟩
    exact (State.laser_congr (congrArg Optics.lasers (State.lasersDone_opt _)) n).trans (State.laser_setLaser_same _ _ _)
  · refine ⟨_, exec_regionClockStart hb hl he, (State.clearTiles_rgn _ n n).trans (State.rgn_setRgn_same _ _ _), fun t ht hr => ?_⟩
    obtain ⟨t', -, rfl⟩ := List.mem_map.mp ht
    unfold clearedTile at hr ⊢
    split
    · exact ⟨rfl, rfl⟩
    · next h =>
      rw [if_neg h] at hr
      exact absurd hr h
  · obtain ⟨t, hrun⟩ := exec_regionEnableDone sites routers hb hc
    exact ⟨_, hrun, (t.regionUp_facts n).1, (t.regionUp_facts n).2⟩

end Sys2Proof.Machine
end

section
/-! SUPPORT. The shared safe state, its exit, power failure and the board (R469 to R473, R482, R496, R497, R502, R503). -/

namespace Sys2Proof.Machine

/-! ## Lasers dark, clocks stopped, memory in self-refresh (R472) -/

/-- R472: what an entry into the shared safe state brings about. -/
def State.Shut (s : State) : Prop :=
  s.mem.selfRefresh = true ∧ (∀ l, l < 40 → (s.laser l).lit = false) ∧ ∀ k ∈ s.regions, k.2.stopped = true

theorem Laser.darken_lit (x : Laser) : x.darken.lit = false := by
  unfold Laser.darken
  dsimp only
  cases x.st <;> rfl

theorem State.lasersOff_laser (s : State) {l : Nat} (hl : l < 40) : (s.lasersOff.laser l).lit = false := by
  have h : s.lasersOff.laser l = (s.laser l).darken :=
    foldl_once (v := fun t : State => t.laser l) (f := Laser.darken) (fun t => State.laser_setLaser_same t l _)
      (fun t b hb => State.laser_setLaser_ne t _ (Ne.symm hb)) allLasers List.nodup_range (List.mem_range.mpr hl) _
  rw [h, Laser.darken_lit]

theorem State.lasersOff_same {α : Type} (g : State → α) (hg : ∀ (s : State) o, g { s with opt := o } = g s) (s : State) :
    g s.lasersOff = g s := by
  unfold State.lasersOff
  generalize allLasers = ls
  exact (foldl_same g _ (fun t l => hg t _) _ _).trans (hg s _)

theorem State.darken_opt (s : State) : s.darken.opt = s.lasersOff.opt := by
  unfold State.darken
  generalize hallPorts = ps
  refine foldl_same State.opt _ (fun _ _ => ?_) _ _
  rfl

theorem State.stopClocks_stopped (s : State) : ∀ k ∈ s.stopClocks.regions, k.2.stopped = true := fun k hk => by
  obtain ⟨r, _, rfl⟩ := List.mem_map.mp hk
  rfl

theorem State.shutDown_shut (s : State) : s.shutDown.Shut := by
  refine ⟨rfl, fun l hl => ?_, State.stopClocks_stopped _⟩
  have hopt : s.shutDown.opt = s.lasersOff.opt :=
    (State.emptyHall_same State.opt (fun _ _ _ => rfl) _).trans s.darken_opt
  rw [State.laser_congr (congrArg Optics.lasers hopt), State.lasersOff_laser s hl]

/-- What `Shut` speaks of. -/
def State.shutView (s : State) : Bool × SMap Laser × SMap Region := (s.mem.selfRefresh, s.opt.lasers, s.regions)

theorem State.Shut.congr {s t : State} (h : s.Shut) (e : t.shutView = s.shutView) : t.Shut := by
  obtain ⟨hmem, e⟩ := Prod.mk.inj e
  obtain ⟨hlaser, hrgn⟩ := Prod.mk.inj e
  obtain ⟨h1, h2, h3⟩ := h
  refine ⟨hmem.trans h1, fun l hl => ?_, hrgn ▸ h3⟩
  rw [State.laser_congr hlaser, h2 l hl]

theorem State.enterShared_shut {s : State} (h : ¬ (s.safe.shared && !s.safe.exiting) = true) (n : Nat) :
    (s.enterShared n).Shut := by
  rw [State.enterShared_eq h]
  exact (State.shutDown_shut _).congr (State.safeFlush_same State.shutView (fun _ _ => rfl) (fun _ _ => rfl) _)

theorem State.enterShared_idle {s : State} {n : Nat} (h1 : s.safe.shared = true) (h2 : s.safe.exiting = false) :
    s.enterShared n = s := if_pos (by rw [h1, h2]; rfl)

/-! ## Triggers of every partition (R469) -/

theorem State.part_st_of_held {s t : State} (h : t.heldView = s.heldView) (p : Nat) : (t.part p).st = (s.part p).st := by
  obtain ⟨_, h⟩ := Prod.mk.inj h
  obtain ⟨_, h⟩ := Prod.mk.inj h
  rw [State.part_of_parts h]

/-- R469, R471, R472: after a trigger of all, the module and every loaded partition are in the safe state. -/
theorem State.triggerAll_in (s : State) {n : Nat} (hn : n < 10) : (s.triggerAll n).safe.shared = true ∧
    (s.triggerAll n).safe.exiting = false ∧ (s.triggerAll n).safe.trig.getLsbD n = true ∧
    (s.safe.shared = false ∨ s.safe.exiting = true → (s.triggerAll n).Shut) ∧
    ∀ p, p < 64 → (s.part p).isLoaded = true → ((s.triggerAll n).part p).st = .safeState := by
  obtain ⟨t, ⟨hsafe, _, _, hst⟩, h⟩ := s.trigger_entered allParts n
  have htrig : t.safe.trig.getLsbD n = true := by
    rw [hsafe]
    exact getLsbD_or_one _ hn
  have hpart {p : Nat} (hp : p < 64) (hl : (s.part p).isLoaded = true) : (t.part p).st = .safeState :=
    (hst p).trans (if_pos (List.mem_filter.mpr ⟨mem_allParts hp, hl⟩))
  have hout (hs : s.safe.shared = false ∨ s.safe.exiting = true) : ¬ (t.safe.shared && !t.safe.exiting) = true := by
    rw [hsafe]
    show ¬ (s.safe.shared && !s.safe.exiting) = true
    rcases hs with hs | hs <;> rw [hs] <;> simp
  obtain ⟨k1, k2, k3⟩ := t.enterShared_in n
  have hall : s.triggerAll n = t.enterShared n := by
    unfold State.triggerAll
    rcases h with h | h <;> rw [h]
    exact State.enterShared_idle k1 k2
  rw [hall]
  refine ⟨k1, k2, k3 ▸ htrig, fun hs => State.enterShared_shut (hout hs) n, fun p hp hl => ?_⟩
  rw [State.part_st_of_held (t.heldView_enterShared n), hpart hp hl]

theorem State.outcomeNow_same {α : Type} (g : State → α) (hg : ∀ (s : State) e, g { s with evt := e } = g s) (s : State)
    (detail row : Nat) : g (s.outcomeNow detail row) = g s := by
  unfold State.outcomeNow State.bootOutcome
  split
  · exact hg s _
  · rfl

/-- What the input of a trigger leaves: the trigger of all, and an outcome of start-up. -/
theorem State.triggerNow_in (s : State) {n : Nat} (hn : n < 10) (detail row : Nat) :
    ((s.triggerAll n).outcomeNow detail row).safe.shared = true ∧
    ((s.triggerAll n).outcomeNow detail row).safe.exiting = false ∧
    ((s.triggerAll n).outcomeNow detail row).safe.trig.getLsbD n = true ∧
    (s.safe.shared = false ∨ s.safe.exiting = true → ((s.triggerAll n).outcomeNow detail row).Shut) ∧
    ∀ p, p < 64 → (s.part p).isLoaded = true → (((s.triggerAll n).outcomeNow detail row).part p).st = .safeState := by
  obtain ⟨h1, h2, h3, h4, h5⟩ := s.triggerAll_in hn
  have hsafe := State.outcomeNow_same State.safe (fun _ _ => rfl) (s.triggerAll n) detail row
  have hparts := State.outcomeNow_same State.parts (fun _ _ => rfl) (s.triggerAll n) detail row
  have hview := State.outcomeNow_same State.shutView (fun _ _ => rfl) (s.triggerAll n) detail row
  generalize (s.triggerAll n).outcomeNow detail row = u at hsafe hparts hview
  rw [hsafe]
  refine ⟨h1, h2, h3, fun hs => (h4 hs).congr hview, fun p hp hl => ?_⟩
  rw [State.part_of_parts hparts, h5 p hp hl]

/-! ## The exit (R473) -/

theorem exec_safeExit {s : State} {w : Who} {v : W32} {ok : Bool} (hv : v.getLsbD 0 = true) (hw : Who.isFw w = true)
    (h1 : s.safe.shared = true) (h2 : s.safe.exiting = false) : exec (.safeExit w v ok) s =
    .next (if !s.loadedParts.isEmpty || !ok || s.anyLatch then s.recStn 0xE004 none 26 [] else s.beginExit) := by
  refine next_congr (if_neg ?_)
  rw [bit_eq_getLsbD, hv, hw, h1, h2]
  decide

theorem exec_safeExit_refused {s : State} {w : Who} {v : W32} {ok : Bool} (hv : v.getLsbD 0 = true) (hw : Who.isFw w = true)
    (h1 : s.safe.shared = true) (h2 : s.safe.exiting = false) (h : s.loadedParts ≠ [] ∨ ok = false ∨ s.anyLatch = true) :
    exec (.safeExit w v ok) s = .next (s.recStn 0xE004 none 26 []) := by
  refine (exec_safeExit hv hw h1 h2).trans (next_congr (if_pos ?_))
  rcases h with h | h | h
  · rw [List.isEmpty_eq_false_iff.mpr h]
    rfl
  · rw [h, Bool.not_false, Bool.or_true, Bool.true_or]
  · rw [h, Bool.or_true]

/-! ## Power failure (R482, R497) -/

theorem Peat.startFlush_none {e : Peat} (cause : Nat) (hf : e.flush = none) (he : e.erasing = false) (hs : e.sets.length < 16)
    (hu : e.unwritten e.next ≠ []) : e.startFlush cause = { e with flush := some { cause := cause, upTo := e.next } } := by
  unfold Peat.startFlush
  rw [hf]
  dsimp only
  rw [he, List.isEmpty_eq_false_iff.mpr hu, if_neg (by simp), if_neg Bool.false_ne_true, if_neg Bool.false_ne_true,
    if_neg (Nat.not_le_of_lt hs)]

/-- R481: with nothing left to write, no flush begins, but one that an erase holds back. -/
theorem Peat.startFlush_empty {e : Peat} (cause : Nat) (hf : e.flush = none) (he : e.erasing = false ∨ cause = 2)
    (hu : e.unwritten e.next = []) : e.startFlush cause = e := by
  unfold Peat.startFlush
  rw [hf]
  dsimp only
  rw [hu, if_neg ?_, if_pos List.isEmpty_nil]
  rcases he with he | rfl
  · rw [he, Bool.false_and]
    exact Bool.false_ne_true
  · simp

/-- R482: lasers and clocks stopped, where trigger 4 has not acted. -/
def State.failStop (s : State) : State := if bit s.safe.trig.toNat 4 then s else s.lasersOff.stopClocks

theorem State.powerFail_eq (s : State) : s.powerFail = (s.startFlush 2).failStop.thenOff := rfl

theorem State.failStop_same {α : Type} (g : State → α) (hopt : ∀ (s : State) o, g { s with opt := o } = g s)
    (hrgn : ∀ (s : State) r, g { s with regions := r } = g s) (s : State) : g s.failStop = g s := by
  unfold State.failStop
  split
  · rfl
  · exact (hrgn _ _).trans (State.lasersOff_same g hopt s)

theorem State.failStop_evt (s : State) : s.failStop.evt = s.evt :=
  State.failStop_same State.evt (fun _ _ => rfl) (fun _ _ => rfl) s

theorem State.thenOff_off {s : State} (h : s.evt.flush = none) : s.thenOff = s.powerOff :=
  if_neg (by rw [h]; exact Bool.false_ne_true)

theorem State.thenOff_flush {s : State} {f : FlushRun} (h : s.evt.flush = some f) :
    s.thenOff = { s with evt := { s.evt with after := 2 } } := if_pos (by rw [h]; rfl)

theorem State.powerFail_board (s : State) : s.powerFail.board = s.board := by
  have h (t : State) : t.thenOff.board = t.board := by
    unfold State.thenOff
    split <;> rfl
  exact (h _).trans (State.failStop_same State.board (fun _ _ => rfl) (fun _ _ => rfl) _)

/-- R482, R497: with nothing left to write, power-off reset comes at once. -/
theorem State.powerFail_off {s : State} (hf : s.evt.flush = none) (hu : s.evt.unwritten s.evt.next = []) :
    s.powerFail.boot.mode = .powerOff ∧ s.powerFail.boot.failOff = true := by
  have he : s.startFlush 2 = s := by
    unfold State.startFlush
    rw [Peat.startFlush_empty 2 hf (.inr rfl) hu]
  have hevt : s.failStop.evt.flush = none := (congrArg Peat.flush s.failStop_evt).trans hf
  rw [State.powerFail_eq, he, State.thenOff_off hevt]
  exact ⟨rfl, rfl⟩

/-- R482: the flush of a power failure begins, power-off reset follows it. -/
theorem State.powerFail_flush {s : State} (hf : s.evt.flush = none) (he : s.evt.erasing = false) (hs : s.evt.sets.length < 16)
    (hu : s.evt.unwritten s.evt.next ≠ []) : (∃ f, s.powerFail.evt.flush = some f ∧ f.cause = 2) ∧ s.powerFail.evt.after = 2 ∧
    s.powerFail.boot.mode = s.boot.mode ∧
    (s.safe.trig.getLsbD 4 = false → ∀ k ∈ s.powerFail.regions, k.2.stopped = true) := by
  have hflush : (s.startFlush 2).failStop.evt.flush = some { cause := 2, upTo := s.evt.next } :=
    (congrArg Peat.flush (State.failStop_evt _)).trans (congrArg Peat.flush (Peat.startFlush_none 2 hf he hs hu))
  rw [State.powerFail_eq, State.thenOff_flush hflush]
  refine ⟨⟨_, hflush, rfl⟩, rfl, ?_, fun h4 => ?_⟩
  · exact congrArg Boot.mode (State.failStop_same State.boot (fun _ _ => rfl) (fun _ _ => rfl) _)
  · have hstop : (s.startFlush 2).failStop = (s.startFlush 2).lasersOff.stopClocks := if_neg (ne_true_of_eq_false h4)
    rw [hstop]
    exact State.stopClocks_stopped _

/-! ## MOD_RESET_N (R502) -/

/-- R502: what the reset of the pin leaves before its flush. -/
theorem State.pinReset_unflushed {s : State} (hf : s.evt.flush = none) (he : s.evt.erasing = false) (hb : s.evt.buf = []) :
    s.pinReset.boot.mode = .held ∧ s.pinReset.board.resetLow = true := by
  have hu : s.evt.unwritten s.evt.next = [] := by
    unfold Peat.unwritten
    rw [hb]
    rfl
  have hflush : (s.evt.startFlush 0).flush = none := by
    rw [Peat.startFlush_empty 0 hf (.inl he) hu, hf]
  unfold State.pinReset
  dsimp only
  rw [if_neg (ne_true_of_eq_false (show (State.startFlush { s.moduleReset .held with
    board := { (s.moduleReset .held).board with resetLow := true }, evt := s.evt } 0).evt.flush.isSome = false from
      congrArg Option.isSome hflush))]
  exact ⟨rfl, rfl⟩

/-- Settles O57, each input, exit, flush and pin by a lemma of what it leaves. -/
theorem safeStateAndBoardEvents : Obligations.SafeStateAndBoardEvents := by
  intro s w v p
  refine ⟨?_, ?_, ?_, ?_, ?_, ?_, ?_, ?_, ?_, ?_, ?_, ?_, ?_⟩
  · intro c n hc
    have hin (u : State) {n : Nat} (hn : n < 10) (hsafe : u.safe = s.safe) (hparts : u.parts = s.parts) :
        ((u.triggerAll n).outcomeNow n 12).safe.shared = true ∧ ((u.triggerAll n).outcomeNow n 12).safe.exiting = false ∧
        ((u.triggerAll n).outcomeNow n 12).safe.trig.getLsbD n = true ∧
        (s.safe.shared = false ∨ s.safe.exiting = true → ((u.triggerAll n).outcomeNow n 12).Shut) ∧
        (p < 64 → (s.part p).isLoaded = true → (((u.triggerAll n).outcomeNow n 12).part p).st = .safeState) := by
      obtain ⟨h1, h2, h3, h4, h5⟩ := u.triggerNow_in hn n 12
      rw [hsafe] at h4
      exact ⟨h1, h2, h3, h4, fun hp hl => h5 p hp (by rw [State.part_of_parts hparts]; exact hl)⟩
    rcases List.mem_cons.mp hc with h | hc
    · obtain ⟨rfl, rfl⟩ := Prod.mk.inj h
      exact ⟨_, rfl, hin s (by decide) rfl rfl⟩
    rcases List.mem_cons.mp hc with h | hc
    · obtain ⟨rfl, rfl⟩ := Prod.mk.inj h
      exact ⟨_, rfl, hin _ (by decide) rfl rfl⟩
    · obtain ⟨rfl, rfl⟩ := Prod.mk.inj (List.mem_singleton.mp hc)
      exact ⟨_, rfl, hin _ (by decide) rfl rfl⟩
  · intro hsh
    obtain ⟨h1, _, h3, _, _⟩ := s.triggerAll_in (show 8 < 10 by decide)
    exact ⟨_, next_congr (if_neg (by rw [hsh]; decide)), h1, h3⟩
  · exact fun hsh o => next_congr (if_pos (by rw [hsh]; rfl))
  · intro hv hw h1 h2
    refine ⟨fun hl ha => ⟨s.beginExit, (exec_safeExit hv hw h1 h2).trans (next_congr (if_neg ?_)), rfl, rfl⟩,
      fun h => ⟨_, exec_safeExit_refused hv hw h1 h2 (h.elim .inl fun h => .inr (.inr h)), rfl⟩,
      ⟨_, exec_safeExit_refused hv hw h1 h2 (.inr (.inl rfl)), rfl⟩⟩
    rw [hl, ha]
    decide
  · intro hw
    refine next_congr (if_pos ?_)
    rw [hw, Bool.not_false, Bool.or_true, Bool.true_or, Bool.true_or]
  · exact fun h1 h2 h3 => ⟨_, next_congr (if_pos (by rw [h1, h2, h3]; rfl)), rfl, rfl, rfl⟩
  · intro hm hf he hs
    refine ⟨fun hu => ⟨_, next_congr (if_neg hm), State.powerFail_flush hf he hs hu⟩, fun hu => ⟨_, next_congr (if_neg hm),
      State.powerFail_off hf hu⟩⟩
  · exact fun hm hf => ⟨s.powerOff, next_congr ((if_neg hm).trans (State.thenOff_off hf)), rfl, rfl, rfl⟩
  · exact fun hm => ⟨s.start, next_congr (if_pos hm), rfl, rfl⟩
  · intro hm hh hf he hb
    exact ⟨_, next_congr (if_neg fun h => h.elim hm hh), State.pinReset_unflushed hf he hb⟩
  · by_cases hm : s.boot.mode = .powerOff
    · exact ⟨_, next_congr (if_pos hm), rfl, fun _ => rfl, fun h => absurd hm h, fun h => absurd hm h⟩
    · refine ⟨_, next_congr (if_neg hm), State.powerFail_board _, fun h => absurd h hm, fun _ hf hu => ?_, fun _ hf he hs hu => ?_⟩
      · exact State.powerFail_off (s := { s with board := { s.board with mate := false } }) hf hu
      · obtain ⟨h1, h2, h3, _⟩ := State.powerFail_flush (s := { s with board := { s.board with mate := false } }) hf he hs hu
        exact ⟨h1, h2, h3⟩
  · exact fun hm hf => ⟨_, next_congr (if_pos ⟨hm, hf⟩), rfl, rfl⟩
  · exact fun hm => next_congr (if_neg fun h => hm h.1)

end Sys2Proof.Machine
end

section
/-! SUPPORT. A PCIe port at start-up (R424, R440). -/

namespace Sys2Proof.Machine

/-- R424: while start-up runs no link comes up before P0 + 20 ms. -/
theorem exec_pcieLinkUp_early {s : State} {port : Nat} (hm : s.boot.mode = .boot) (ht : s.boot.osc < s.boot.p0 + 20000000) :
    exec (.pcieLinkUp port) s = .next s :=
  next_congr (if_pos (.inr (.inr ⟨beq_iff_eq.mpr hm, ht⟩)))

theorem State.reset_port (n : Nat) : (State.reset.port n).up = false := rfl

/-- Refutes O58: the clause of the link up has no premise on the instant, and in the state after reset, at P0, start-up runs
and P0 + 20 ms (R424) is still to come, so that the port stays down. -/
theorem not_pciePortsAndHostMemory : ¬ Obligations.PciePortsAndHostMemory := by
  intro h
  obtain ⟨_, hup, _⟩ := h State.reset 0
  obtain ⟨u, hu, hport, _⟩ := hup (by decide) (by decide)
  have hstays : exec (.pcieLinkUp 0) State.reset = .next State.reset := exec_pcieLinkUp_early rfl (by decide)
  obtain rfl : State.reset = u := Host.Outcome.next.inj (hstays.symm.trans hu)
  exact Bool.false_ne_true ((State.reset_port 0).symm.trans hport)

end Sys2Proof.Machine
end

section
/-! SUPPORT. The side-band (R458, R459), the SPDM responder (R462) and the JTAG port (R460). -/

namespace Sys2Proof.Machine

/-! ## The side-band -/

theorem State.mctp_runs {s : State} (h : s.mctpRuns = true) (body : List Byte) :
    s.mctp body = s.emit (.mctp s.mctpAddr (mctpPackets body)) := if_pos h

theorem State.mctp_silent {s : State} (h : s.mctpRuns = false) (body : List Byte) : s.mctp body = s :=
  if_neg (ne_true_of_eq_false h)

theorem exec_mctpControl_assign {s : State} {m : MctpMsg} (h : s.mctpRuns = true) (hv : m.vendor = false) (hc : m.command = 1)
    (h0 : m.eid ≠ 0) (hff : m.eid ≠ 0xFF) : exec (.mctpControl m) s =
    .next (State.mctp { s with sec := { s.sec with eid := m.eid } } [1, 0, 0, m.eid, 0]) := by
  obtain ⟨vendor, command, eid⟩ := m
  subst hv hc
  exact next_congr ((if_neg (by rw [h]; decide)).trans ((if_neg Bool.false_ne_true).trans (if_neg (not_or_intro h0 hff))))

theorem exec_mctpControl_vendor {s : State} {m : MctpMsg} (h : s.mctpRuns = true) (hv : m.vendor = true) :
    exec (.mctpControl m) s = .next (s.mctp [1]) :=
  next_congr ((if_neg (by rw [h]; decide)).trans (if_pos hv))

theorem exec_mctp_silent {s : State} (h : s.mctpRuns = false) : exec .getState s = .next s ∧
    (∀ die, exec (.getTemps die) s = .next s) ∧ (∀ seq, exec (.readPeat seq) s = .next s) ∧
    ∀ m, exec (.mctpControl m) s = .next s := by
  have hn : (!s.mctpRuns) = true := by rw [h]; rfl
  refine ⟨next_congr (State.mctp_silent h _), fun die => next_congr ?_, fun _ => next_congr (if_pos hn), fun _ => next_congr (if_pos hn)⟩
  split <;> exact State.mctp_silent h _

/-- R459: no region of the die is warmer than the temperature answered. -/
theorem exec_getTemps {s : State} (h : s.mctpRuns = true) {die : Nat} (hd : die ≤ 19) :
    ∃ a, exec (.getTemps die) s = .next (s.emit (.mctp s.mctpAddr (mctpPackets ([0] ++ leBytes 2 a ++
      leBytes 2 (quarter (s.stn die).baseTemp))))) ∧ ∀ r ∈ dieRegions die, quarter (s.rgn r).tEff ≤ a :=
  ⟨_, next_congr ((if_neg (Nat.not_lt_of_le hd)).trans (State.mctp_runs h _)),
    (foldl_max_le (fun r => quarter (s.rgn r).tEff) (dieRegions die) 0).2.1⟩

/-- A read of a register leaves as it was what holds none of the latches, the SRAM, the records and the free values. -/
theorem State.readLatch_same {α : Type} (g : State → α) (hlatch : ∀ (s : State) m, g { s with latch := m } = g s)
    (hfree : ∀ (s : State) n, g { s with free := n } = g s) (htiles : ∀ (s : State) t f, g (s.updTile t f) = g s)
    (hevt : ∀ (s : State) e, g { s with evt := e } = g s) (s : State) (w : Who) (a : Nat) : g (s.readLatch w a) = g s := by
  have hsram : g (s.sramRead w a) = g s := by
    unfold State.sramRead
    split
    · rfl
    · next t b _ =>
      dsimp only
      split
      · exact (hevt _ _).trans ((htiles _ _ _).trans (hfree s _))
      · exact (htiles _ _ _).trans (hfree s _)
  unfold State.readLatch
  split
  · split
    · exact hsram
    · rfl
  · exact hlatch s _

theorem exec_readReg_out {s : State} (h : s.mctpRuns = true) {o : Nat} (ho : o % 4 = 0) (hr : o < 0x4000000) :
    ∃ u, exec (.readReg o) s = .next u ∧
      u.out = s.out ++ [.mctp s.mctpAddr (mctpPackets ([0] ++ leBytes 4 (s.regValue .sideband o).toNat))] := by
  have hsame {α : Type} (g : State → α) := State.readLatch_same g (s := s) (w := .sideband) (a := o)
  have hruns : (s.readLatch .sideband o).mctpRuns = true :=
    (hsame State.mctpRuns (fun _ _ => rfl) (fun _ _ => rfl) (fun _ _ _ => rfl) (fun _ _ => rfl)).trans h
  have haddr := hsame State.mctpAddr (fun _ _ => rfl) (fun _ _ => rfl) (fun _ _ _ => rfl) (fun _ _ => rfl)
  have hout := hsame State.out (fun _ _ => rfl) (fun _ _ => rfl) (fun _ _ _ => rfl) (fun _ _ => rfl)
  refine ⟨_, next_congr ((if_neg ?_).trans ((if_pos h).trans (State.mctp_runs hruns _))), ?_⟩
  · rintro (hc | hc)
    · exact hc ho
    · exact Nat.not_le_of_lt hr hc
  · show (s.readLatch .sideband o).out ++ _ = _
    rw [haddr, hout]

theorem exec_readPeat_held {s : State} (h : s.mctpRuns = true) {seq : Nat} {r : PeatRec}
    (hf : s.evt.buf.find? (fun e => e.seq == seq) = some r) : exec (.readPeat seq) s =
    .next (State.emit { s with evt := { s.evt with unread := s.evt.unread.filter (· != seq) } }
      (.mctp s.mctpAddr (mctpPackets ([0] ++ r.bytes)))) := by
  refine next_congr ((if_neg (by rw [h]; decide)).trans ?_)
  rw [hf]
  exact State.mctp_runs (s := { s with evt := { s.evt with unread := s.evt.unread.filter (· != seq) } }) h _

/-! ## SPDM -/

theorem State.spdmServe_ready {s : State} {via : SpdmVia} {ready : Spdm → Bool} (hup : s.spdmUp via = true)
    (hr : ready (s.conn via) = true) (put : Spdm → List Byte → Spdm) (req rsp : List Byte) :
    s.spdmServe via ready put req rsp = (s.setConn via (put (s.conn via) (req ++ rsp))).spdmSend via rsp :=
  (if_neg (by rw [hup]; decide)).trans (if_pos hr)

theorem State.spdmServe_refused {s : State} {via : SpdmVia} {ready : Spdm → Bool} (hup : s.spdmUp via = true)
    (hr : ready (s.conn via) = false) (put : Spdm → List Byte → Spdm) (req rsp : List Byte) :
    s.spdmServe via ready put req rsp = s.spdmError via 4 0 :=
  (if_neg (by rw [hup]; decide)).trans (if_neg (ne_true_of_eq_false hr))

theorem State.conn_served (s : State) (via : SpdmVia) (c : Spdm) (msg : List Byte) :
    ((s.setConn via c).spdmSend via msg).conn via = c := mget_mset_same _ _ _ _

/-- R462, R466: a signed answer is counted and leaves with its signature. -/
theorem State.serveSigned_ready {s : State} {via : SpdmVia} (hup : s.spdmUp via = true) (ha : (s.conn via).algs = true)
    (put : Spdm → Spdm) (req rsp before : List Byte) :
    (s.serveSigned via put req rsp before).sec.signs = satInc 65535 s.sec.signs ∧
    (s.serveSigned via put req rsp before).conn via = put (s.conn via) ∧
    (s.serveSigned via put req rsp before).out = (s.spdmSend via (rsp ++ Config.sign (before ++ req ++ rsp))).out := by
  have he : s.serveSigned via put req rsp before =
      State.spdmServe { s with sec := { s.sec with signs := satInc 65535 s.sec.signs } } via (·.algs) (fun c _ => put c)
        req (rsp ++ Config.sign (before ++ req ++ rsp)) := if_pos (by rw [hup, ha]; rfl)
  have hup' : State.spdmUp { s with sec := { s.sec with signs := satInc 65535 s.sec.signs } } via = true := by
    cases via <;> exact hup
  rw [he, State.spdmServe_ready hup' ha, State.conn_served]
  exact ⟨rfl, rfl, rfl⟩

theorem State.serveSigned_refused {s : State} {via : SpdmVia} (hup : s.spdmUp via = true) (ha : (s.conn via).algs = false)
    (put : Spdm → Spdm) (req rsp before : List Byte) : s.serveSigned via put req rsp before = s.spdmError via 4 0 :=
  (if_neg (by rw [ha, Bool.and_false]; exact Bool.false_ne_true)).trans (State.spdmServe_refused hup ha _ _ _)

theorem exec_negotiateAlgorithms_lacking {s : State} {via : SpdmVia} (hup : s.spdmUp via = true) {o : AlgOffer}
    (h : o.dmtf = false ∨ o.sha3 = false ∨ o.mldsa = false) : exec (.negotiateAlgorithms via o) s = .next (s.spdmError via 1 0) := by
  refine next_congr ((if_neg ?_).trans (if_pos hup))
  rcases h with h | h | h <;> rw [h] <;> simp

/-! ## JTAG -/

theorem State.extestIr_held {s : State} (h : s.board.resetLow = true) (i : JtagIr) : s.extestIr i = (s.setIr i).capture := if_pos h

theorem State.extestIr_free {s : State} (h : s.board.resetLow = false) (i : JtagIr) : s.extestIr i = s.setIr .bypass :=
  if_neg (ne_true_of_eq_false h)

/-- R460: an instruction of the EXTEST family captures the cells where it acts, and is BYPASS elsewhere. -/
theorem State.extestIr_spec (s : State) (i : JtagIr) :
    (s.board.resetLow = true → ∃ u, (.next (s.extestIr i) : Res) = .next u ∧ u.jtag = i ∧ u.board = { s.board with scan := s.cells }) ∧
    (s.board.resetLow = false → (.next (s.extestIr i) : Res) = .next { s with jtag := .bypass }) :=
  ⟨fun h => ⟨_, next_congr (State.extestIr_held h i), rfl, rfl⟩, fun h => next_congr (State.extestIr_free h i)⟩

/-- Settles O59, an answer, a transcript or a captured chain for each clause. -/
theorem sidebandSpdmAndJtag : Obligations.SidebandSpdmAndJtag := by
  intro s via
  refine ⟨fun h => ?_, exec_mctp_silent, fun hup => ?_, rfl, ⟨_, rfl, rfl, rfl⟩, ⟨_, rfl, rfl, rfl⟩, ?_, ?_⟩
  · refine ⟨fun m hv hc h0 hff => ⟨_, exec_mctpControl_assign h hv hc h0 hff, ?_⟩, fun m hv => ?_, ?_, fun die hd => exec_getTemps h hd,
      fun o ho hr => exec_readReg_out h ho hr, fun r hf => ⟨_, exec_readPeat_held h hf, rfl, ?_, rfl⟩⟩
    · unfold State.mctp
      split <;> rfl
    · exact (exec_mctpControl_vendor h hv).trans (next_congr (State.mctp_runs h _))
    · exact next_congr (State.mctp_runs h _)
    · intro hm
      have hne := (List.mem_filter.mp hm).2
      rw [bne_self_eq_false] at hne
      exact Bool.false_ne_true hne
  · refine ⟨⟨_, next_congr (State.spdmServe_ready hup rfl _ _ _), ?_⟩, fun hv => ⟨_, next_congr (State.spdmServe_ready hup hv _ _ _), ?_⟩,
      fun hv => next_congr (State.spdmServe_refused hup hv _ _ _), fun hc => ⟨_, next_congr ((if_pos rfl).trans (State.spdmServe_ready hup hc _ _ _)), ?_⟩,
      fun o ho => exec_negotiateAlgorithms_lacking hup ho, fun ha => ⟨⟨_, next_congr (State.spdmServe_ready hup ha _ _ _), ?_⟩,
        fun o l => ⟨_, next_congr (State.spdmServe_ready hup ha _ _ _), rfl⟩, ?_, ?_⟩,
      fun ha nonce => ⟨next_congr (State.serveSigned_refused hup ha _ _ _ _), next_congr (State.serveSigned_refused hup ha _ _ _ _)⟩,
      fun code => next_congr (if_pos hup)⟩
    · rw [State.conn_served]
      exact ⟨rfl, rfl, rfl⟩
    · rw [State.conn_served]
      exact ⟨rfl, List.prefix_append _ _, rfl⟩
    · rw [State.conn_served]
      exact ⟨rfl, rfl⟩
    · rw [State.conn_served]
      exact ⟨rfl, rfl⟩
    · intro nonce req rsp
      obtain ⟨h1, h2, h3⟩ := State.serveSigned_ready hup ha (fun c => { c with m1 := [], l1 := [] }) req rsp
        ((s.conn via).vca ++ (s.conn via).m1)
      refine ⟨_, rfl, h1, ?_, ?_⟩
      · exact congrArg Spdm.m1 h2
      · exact h3.trans (by rw [List.append_assoc])
    · intro nonce req rsp
      obtain ⟨h1, _, h3⟩ := State.serveSigned_ready hup ha (fun c => { c with m1 := [], l1 := [] }) req rsp
        ((s.conn via).vca ++ (s.conn via).l1)
      exact ⟨_, rfl, h1, h3⟩
  · intro i ir hi
    rcases List.mem_cons.mp hi with h | hi
    · obtain ⟨rfl, rfl⟩ := Prod.mk.inj h
      exact s.extestIr_spec .extest
    rcases List.mem_cons.mp hi with h | hi
    · obtain ⟨rfl, rfl⟩ := Prod.mk.inj h
      exact s.extestIr_spec .extestPulse
    · obtain ⟨rfl, rfl⟩ := Prod.mk.inj (List.mem_singleton.mp hi)
      exact s.extestIr_spec .extestTrain
  · intro i ir hi
    rcases List.mem_cons.mp hi with h | hi
    · obtain ⟨rfl, rfl⟩ := Prod.mk.inj h
      rfl
    · obtain ⟨rfl, rfl⟩ := Prod.mk.inj (List.mem_singleton.mp hi)
      rfl

end Sys2Proof.Machine
end

section
/-! SUPPORT. The Peat recorder (R476 to R483, R492) and the test block (R487 to R490). -/

namespace Sys2Proof.Machine

/-! ## Records reach the buffer -/

theorem State.enterRec_evt (s : State) (r : PeatRec) : (s.enterRec r).evt = s.evt.enter r := by
  have h (s : State) (code n : Nat) : (s.evtMsix code n).evt = s.evt := by
    unfold State.evtMsix State.sendMsix
    dsimp only
    split
    · split <;> rfl
    · rfl
  exact (h _ _ _).trans (h _ _ _)

/-- R479: the buffer has no place for a record. -/
theorem Peat.enter_full {e : Peat} {r : PeatRec} (h : 32768 ≤ e.buf.length ∨ (32512 ≤ e.buf.length ∧ r.code / 4096 ≠ 14)) :
    e.enter r = { e with lostFull := satInc 65535 e.lostFull } := if_pos h

theorem Peat.enter_room {e : Peat} {r : PeatRec} (h : e.buf.length < 32512 ∨ (e.buf.length < 32768 ∧ r.code / 4096 = 14)) :
    (e.enter r).buf = e.buf ++ [{ r with seq := e.next }] ∧ (e.enter r).next = e.next + 1 := by
  have hn : ¬ (32768 ≤ e.buf.length ∨ (32512 ≤ e.buf.length ∧ r.code / 4096 ≠ 14)) := by omega
  unfold Peat.enter
  rw [if_neg hn]
  exact ⟨rfl, rfl⟩

theorem exec_peatRecord {s : State} {r : PeatRec} {rs : List PeatRec} (h : s.evt.offered = r :: rs) :
    exec .peatRecord s = .next (State.enterRec { s with evt := { s.evt with offered := rs } } r) := by
  refine next_congr ?_
  rw [h]

theorem Peat.enter_offered (e : Peat) (r : PeatRec) : (e.enter r).offered = e.offered := by
  unfold Peat.enter
  split <;> rfl

/-- R476: a die's oldest staged record is at the I/O die, and no loss is to be told. -/
def State.staged1 (s : State) (die : Nat) (r : PeatRec) (rs : List PeatRec) : State :=
  { s with evt := { s.evt with stages := mset [] s.evt.stages die rs, offered := s.evt.offered ++ [r] } }

theorem exec_peatStageSend {s : State} {die : Nat} {r : PeatRec} {rs : List PeatRec} (h : mget [] s.evt.stages die = r :: rs)
    (hl : mget 0 s.evt.stageLost die = 0) : exec (.peatStageSend die) s = .next (s.staged1 die r rs) := by
  have hlost : (s.staged1 die r rs).reportLost die = s.staged1 die r rs := if_pos hl
  refine next_congr (Eq.trans ?_ hlost)
  rw [h]
  rfl

/-! ## Writes of EVT_CMD (R480, R481) -/

/-- A write of EVT_CMD reduced to one of its bits. -/
theorem bit_and_one_bit (v : W32) (k i : Nat) : bit (v &&& BitVec.ofNat 32 (2 ^ k)).toNat i = (v.getLsbD i && (BitVec.ofNat 32 (2 ^ k)).getLsbD i) :=
  (bit_eq_getLsbD _ _).trans (BitVec.getLsbD_and)

theorem exec_clear {s : State} {w : Who} {v : W32} (h : v.getLsbD 0 = true) : exec (.clear w v) s = .next s.clearCmd := by
  have h0 : bit (v &&& 1).toNat 0 = true := (bit_and_one_bit v 0 0).trans (by rw [h]; decide)
  have h1 : bit (v &&& 1).toNat 1 = false := (bit_and_one_bit v 0 1).trans (Bool.and_false _)
  have h2 : bit (v &&& 1).toNat 2 = false := (bit_and_one_bit v 0 2).trans (Bool.and_false _)
  refine next_congr ?_
  unfold State.evtCmd
  dsimp only
  rw [h0, h1, h2]
  rfl

theorem exec_flush {s : State} {w : Who} {v : W32} (h : v.getLsbD 1 = true) : exec (.flush w v) s = .next (s.startFlush 0) := by
  have h0 : bit (v &&& 2).toNat 0 = false := (bit_and_one_bit v 1 0).trans (Bool.and_false _)
  have h1 : bit (v &&& 2).toNat 1 = true := (bit_and_one_bit v 1 1).trans (by rw [h]; decide)
  have h2 : bit (v &&& 2).toNat 2 = false := (bit_and_one_bit v 1 2).trans (Bool.and_false _)
  refine next_congr ?_
  unfold State.evtCmd
  dsimp only
  rw [h0, h1, h2]
  rfl

theorem exec_flashClear (s : State) (w : Who) (v : W32) : exec (.flashClear w v) s =
    .next (if (v.getLsbD 2 && w.isFw) = true then s.flashClearCmd else s) := by
  have h0 : bit (v &&& 4).toNat 0 = false := (bit_and_one_bit v 2 0).trans (Bool.and_false _)
  have h1 : bit (v &&& 4).toNat 1 = false := (bit_and_one_bit v 2 1).trans (Bool.and_false _)
  have h2 : bit (v &&& 4).toNat 2 = v.getLsbD 2 := (bit_and_one_bit v 2 2).trans (Bool.and_true _)
  refine next_congr ?_
  unfold State.evtCmd
  dsimp only
  rw [h0, h1, h2]
  rfl

theorem State.clearCmd_idle {s : State} (h : s.evt.flush = none) : s.clearCmd = s.clearNow := by
  unfold State.clearCmd
  rw [h]

/-- R480: the record of a clear is the first of the new contents. -/
theorem State.clearNow_evt (s : State) : ∃ r : PeatRec, s.clearNow.evt.buf = [r] ∧ r.code = 0xEF02 ∧ r.seq = s.evt.next ∧
    s.clearNow.evt.lostDie = 0 ∧ s.clearNow.evt.lostFull = 0 := by
  unfold State.clearNow
  dsimp only
  rw [State.enterRec_evt]
  exact ⟨_, rfl, rfl, rfl, rfl, rfl⟩

theorem State.clearNow_erasing (s : State) : s.clearNow.evt.erasing = s.evt.erasing := by
  unfold State.clearNow
  dsimp only
  rw [State.enterRec_evt]
  rfl

theorem State.clearCmd_erasing (s : State) : s.clearCmd.evt.erasing = s.evt.erasing := by
  unfold State.clearCmd
  split
  · rfl
  · exact s.clearNow_erasing

theorem State.flashClearCmd_idle {s : State} (hf : s.evt.flush = none) (he : s.evt.erasing = false) :
    s.flashClearCmd = { s with evt := s.evt.startErase } := by
  unfold State.flashClearCmd
  rw [hf]
  exact if_neg (ne_true_of_eq_false he)

/-- R481: a flush that software asked for has written its set, and nothing waited for it. -/
theorem exec_flushDone_whole {s : State} {f : FlushRun} (hf : s.evt.flush = some f) (hc : f.cause = 0) (hclear : f.clearAfter = false)
    (herase : f.eraseAfter = false) (ha : s.evt.after = 0) (n : Nat) : ∃ u, exec (.flushDone n) s = .next u ∧ u.evt.flush = none ∧
      u.evt.sets = s.evt.sets ++ [{ cause := 0, isPartial := false, recs := s.evt.unwritten f.upTo }] ∧ u.evt.buf = s.evt.buf := by
  have hstays {u : State} (h : u.evt.after = 0) : u.afterFlush = u := by
    unfold State.afterFlush
    split
    · rfl
    · next k => exact absurd (h.symm.trans k) (by decide)
    · next k _ => exact absurd h k
  refine ⟨{ s with evt := { s.evt with
      flush := none
      sets := s.evt.sets ++ [{ cause := 0, isPartial := false, recs := s.evt.unwritten f.upTo }]
      flushed := (s.evt.unwritten f.upTo).foldl (fun m r => Nat.max m (r.seq + 1)) s.evt.flushed } }, next_congr ?_, rfl, rfl, rfl⟩
  rw [hf]
  dsimp only
  rw [hclear, herase, hc, if_neg Bool.false_ne_true, if_neg Bool.false_ne_true, if_neg (show ¬ (0 = 2) by decide),
    if_neg (show ¬ (0 = 2) by decide), List.take_length, List.append_nil, decide_eq_false (Nat.lt_irrefl _)]
  exact hstays ha

theorem exec_flashEraseDone {s : State} (h : s.evt.erasing = true) (hw : s.evt.flushWait = none) :
    ∃ u, exec .flashEraseDone s = .next u ∧ u.evt.erasing = false := by
  refine ⟨_, next_congr (if_pos h), ?_⟩
  rw [hw]
  dsimp only
  split
  · exact State.clearCmd_erasing _
  · rfl

theorem State.hiWrite_unstaged {s : State} (h : s.stage = []) (w : Who) (lo : Nat) (old : W64) (v : W32) :
    s.hiWrite w lo old v = (s, BitVec.ofNat 64 (v.toNat * 2 ^ 32 + old.toNat % 2 ^ 32)) := by
  unfold State.hiWrite
  dsimp only
  split
  · next p hp =>
    rw [h] at hp
    exact nomatch hp
  · rfl

/-- R483: the record latched, where the write of HI takes no staged half. -/
theorem State.peatLatch_of_hiWrite {s : State} {w : Who} {v : W32} {q : W64}
    (h : s.hiWrite w 0xB00030 s.evt.rdSeq v = (s, q)) : (s.peatLatch w v).evt.rdSeq = q ∧
    mget {} (s.peatLatch w v).evt.latched w.slot = s.evt.find s.evt.rdSrc q.toNat := by
  unfold State.peatLatch
  rw [h]
  exact ⟨rfl, mget_mset_same _ _ _ _⟩

theorem exec_peatReadLatch_unstaged {s : State} (h : s.stage = []) (w : Who) (v : W32) : ∃ u, exec (.peatReadLatch w v) s = .next u ∧
    u.evt.rdSeq = BitVec.ofNat 64 (v.toNat * 2 ^ 32 + s.evt.rdSeq.toNat % 2 ^ 32) ∧
    mget {} u.evt.latched w.slot = s.evt.find s.evt.rdSrc u.evt.rdSeq.toNat := by
  obtain ⟨h1, h2⟩ := State.peatLatch_of_hiWrite (State.hiWrite_unstaged h w 0xB00030 s.evt.rdSeq v)
  rw [← h1] at h2
  exact ⟨_, rfl, h1, h2⟩

/-! ## The test block -/

theorem exec_tstKey2 {s : State} {w : Who} {v : W32} {at0 : Nat} (hv : v.toNat % 65536 = 0xC3E0)
    (hk : s.tst.key1 = some (w, at0)) : exec (.tstKeyWrite w v) s =
      .next (if s.boot.osc ≤ at0 + 1000000 then s.dropKey.unlockTst w else s.dropKey) := by
  refine next_congr ?_
  unfold State.tstKey
  dsimp only
  rw [hv, hk, if_neg (by decide)]
  by_cases ht : s.boot.osc ≤ at0 + 1000000
  · rw [if_pos ht]
    exact if_pos (by simp [ht])
  · rw [if_neg ht]
    exact if_neg (by simp [ht])

theorem exec_tstLock {s : State} {w : Who} {v : W32} (hv : v.getLsbD 0 = true) :
    exec (.tstLock w v) s = .next (s.dropKey.lockTst 1) := next_congr (if_pos hv)

/-- R489, R493: a lock clears every setting. -/
theorem State.lockTst_cleared {s : State} (h : s.tst.unlocked = true) (cause n : Nat) :
    (s.lockTst cause).tst.unlocked = false ∧ (s.lockTst cause).tst.seed = 0 ∧ (s.lockTst cause).tst.fades = [] ∧
    ((s.lockTst cause).stn n).tstVc = [] ∧ ((s.lockTst cause).stn n).tstHt = 0 ∧ ((s.lockTst cause).rgn n).tstT = 0 := by
  have hn : ¬ (!s.tst.unlocked) = true := by rw [h]; decide
  have hstn : (s.lockTst cause).stn n = { s.stn n with tstVc := [], tstHt := 0, tstBaseT := 0 } := by
    unfold State.lockTst
    rw [if_neg hn]
    exact mget_map_of_fix (d := ({} : Station)) (g := fun _ x => { x with tstVc := [], tstHt := 0, tstBaseT := 0 }) s.stations rfl
  have hrgn : (s.lockTst cause).rgn n = { s.rgn n with tstT := 0 } := by
    unfold State.lockTst
    rw [if_neg hn]
    exact mget_map_of_fix (d := ({} : Region)) (g := fun _ r => { r with tstT := 0 }) s.regions rfl
  rw [hstn, hrgn]
  unfold State.lockTst
  rw [if_neg hn]
  exact ⟨rfl, rfl, rfl, rfl, rfl, rfl⟩

theorem slotIn_below {o base step n : Nat} (h : base + step * n ≤ o) : slotIn o base step n = none :=
  if_neg fun k => Nat.not_lt_of_le h k.2

theorem slotIn_at {base step n k r : Nat} (hk : k < n) (hr : r < step) : slotIn (base + step * k + r) base step n = some (k, r) := by
  have hlt : step * k + step ≤ step * n := by
    rw [← Nat.mul_succ]
    exact Nat.mul_le_mul_left _ hk
  have hsub : base + step * k + r - base = step * k + r := by omega
  refine (if_pos ⟨by omega, by omega⟩).trans ?_
  rw [hsub, Nat.mul_add_div (by omega), Nat.div_eq_of_lt hr, Nat.mul_add_mod, Nat.mod_eq_of_lt hr]
  rfl

/-- R490: the hall-time offset of a station. -/
theorem State.setTstAt_ht (s : State) {n : Nat} (h : n < 31) (v : W32) : s.setTstAt (0xC01000 + 0x40 * n + 0x10) v =
    some (s.setStn n { s.stn n with tstHt := BitVec.ofNat 16 v.toNat }) := by
  unfold State.setTstAt
  rw [slotIn_below (by omega), slotIn_at h (by decide)]
  rfl

theorem exec_tstSetting_ht {s : State} (h : s.tst.unlocked = true) (w : Who) {n : Nat} (hn : n < 31) (v : W32) :
    ∃ u, exec (.tstSettingWrite w (0xC01000 + 0x40 * n + 0x10) v) s = .next u ∧ (u.stn n).tstHt = BitVec.ofNat 16 v.toNat := by
  have hu : (!s.dropKey.tst.unlocked) = false := by
    rw [show s.dropKey.tst.unlocked = true from h]
    rfl
  refine ⟨(s.dropKey.setStn n { s.dropKey.stn n with tstHt := BitVec.ofNat 16 v.toNat }).recStn 0xC003 none 26
    (leBytes 4 (0xC01000 + 0x40 * n + 0x10) ++ leBytes 4 v.toNat), next_congr ((if_neg (ne_true_of_eq_false hu)).trans ?_), ?_⟩
  · rw [s.dropKey.setTstAt_ht hn]
  · exact congrArg Station.tstHt (s.dropKey.stn_setStn_same n _)

/-- Settles O60, from the equation of each command of the recorder and of the test block. -/
theorem peatAndTheTestBlock : Obligations.PeatAndTheTestBlock := by
  intro s w v
  refine ⟨fun r rs h => ?_, fun die r rs h hl => ⟨_, exec_peatStageSend h hl, mget_mset_same _ _ _ _, rfl⟩, fun h hs => ?_,
    fun hv hf => ?_, fun hv hf he hs hu => ?_, fun f n hf hc h1 h2 ha => exec_flushDone_whole hf hc h1 h2 ha n, fun hv hw hf he => ?_,
    fun hw => ?_, fun h hw => exec_flashEraseDone h hw, fun h => exec_peatReadLatch_unstaged h w v,
    fun h => next_congr (if_pos h), fun at0 hv hk hu => ?_, fun n hv hu => ⟨_, exec_tstLock hv, State.lockTst_cleared (s := s.dropKey) hu 1 n⟩,
    fun hu => ⟨_, next_congr (if_pos hu), rfl, rfl⟩, fun n hn hu => exec_tstSetting_ht hu w hn v, fun hu a => ?_⟩
  · refine ⟨_, exec_peatRecord h, ?_, fun hroom => ?_, fun hfull => ?_⟩
    · rw [State.enterRec_evt, Peat.enter_offered]
    · rw [State.enterRec_evt]
      exact Peat.enter_room (e := { s.evt with offered := rs }) hroom
    · rw [State.enterRec_evt, Peat.enter_full (e := { s.evt with offered := rs }) hfull]
      exact ⟨rfl, rfl⟩
  · refine next_congr ((if_neg (not_not_intro h)).trans ?_)
    rw [hs]
    rfl
  · obtain ⟨r, hr⟩ := s.clearNow_evt
    exact ⟨_, r, (exec_clear hv).trans (next_congr (State.clearCmd_idle hf)), hr⟩
  · refine ⟨_, exec_flush hv, ?_⟩
    unfold State.startFlush
    rw [Peat.startFlush_none 0 hf he hs hu]
    exact ⟨rfl, rfl⟩
  · refine ⟨_, (exec_flashClear s w v).trans (next_congr ((if_pos ?_).trans (State.flashClearCmd_idle hf he))), rfl, rfl, rfl⟩
    rw [hv, hw]
    rfl
  · refine (exec_flashClear s w v).trans (next_congr (if_neg ?_))
    rw [hw, Bool.and_false]
    exact Bool.false_ne_true
  · have hu' : s.dropKey.tst.unlocked ≠ true := ne_true_of_eq_false hu
    refine ⟨fun ht hp => ⟨_, (exec_tstKey2 hv hk).trans (next_congr ((if_pos ht).trans ((if_neg hu').trans (if_neg ?_)))), rfl⟩,
      fun ht hp => ⟨_, (exec_tstKey2 hv hk).trans (next_congr ((if_pos ht).trans ((if_neg hu').trans (if_pos hp)))), hu⟩,
      fun ht => ⟨_, (exec_tstKey2 hv hk).trans (next_congr (if_neg (Nat.not_le_of_lt ht))), hu⟩⟩
    exact ne_true_of_eq_false hp
  · refine ⟨s.dropKey, next_congr (if_pos ?_), rfl, rfl, rfl⟩
    rw [show s.dropKey.tst.unlocked = false from hu]
    rfl

end Sys2Proof.Machine
end

section
/-! SUPPORT. The code of a burst's blocks (R134): remainder and parity of a codeword, and the place of a single error. -/

namespace Sys2Proof.Machine

/-! ## Remainder and parity, bit by bit -/

theorem bchRem_succ (n : Nat) (w : BitVec 266) :
    bchRem (n + 1) w = bchTimesX (bchRem n w) ^^^ (if w.getLsbD n then 1 else 0) := by
  unfold bchRem
  rw [List.range_succ, List.foldl_append]
  rfl

theorem bitParity_succ (n : Nat) (w : BitVec 266) : bitParity (n + 1) w = xor (bitParity n w) (w.getLsbD n) := by
  unfold bitParity
  rw [List.range_succ, List.foldl_append]
  rfl

/-- Only the first n bits count. -/
theorem bitParity_congr {n : Nat} {v w : BitVec 266} (h : ∀ i < n, v.getLsbD i = w.getLsbD i) : bitParity n v = bitParity n w := by
  induction n with
  | zero => rfl
  | succ n ih => rw [bitParity_succ, bitParity_succ, ih fun i hi => h i (Nat.lt_succ_of_lt hi), h n (Nat.lt_succ_self n)]

theorem bchRem_zero (n : Nat) : bchRem n 0 = 0 := by
  have h := bchRem_xor n 0 0
  rwa [BitVec.xor_self, BitVec.xor_self] at h

theorem bchRem_of_clear {n : Nat} {w : BitVec 266} (h : ∀ i < n, w.getLsbD i = false) : bchRem n w = 0 :=
  (bchRem_congr (w := 0) fun i hi => (h i hi).trans (BitVec.getLsbD_zero).symm).trans (bchRem_zero n)

theorem bchRem_oneBit {n : Nat} (hn : n ≤ 266) (i : Nat) :
    bchRem n (oneBit i) = if i < n then bchTimesX^[n - 1 - i] 1 else 0 := by
  induction n with
  | zero => rfl
  | succ n ih =>
    rw [bchRem_succ, ih (Nat.le_of_succ_le hn), oneBit_getLsbD i n hn]
    rcases Nat.lt_trichotomy i n with h | rfl | h
    · rw [if_pos h, if_pos (Nat.lt_succ_of_lt h), decide_eq_false (Nat.ne_of_lt h), if_neg Bool.false_ne_true,
        ← Function.iterate_succ_apply' bchTimesX, show n + 1 - 1 - i = (n - 1 - i).succ by omega]
      exact BitVec.xor_zero
    · rw [if_neg (Nat.lt_irrefl i), if_pos (Nat.lt_succ_self i), decide_eq_true rfl, if_pos rfl, show i + 1 - 1 - i = 0 by omega]
      rfl
    · rw [if_neg (Nat.not_lt_of_gt h), if_neg (Nat.not_lt_of_ge h), decide_eq_false (Nat.ne_of_gt h), if_neg Bool.false_ne_true]
      rfl

theorem bitParity_oneBit {n : Nat} (hn : n ≤ 266) (i : Nat) : bitParity n (oneBit i) = decide (i < n) := by
  induction n with
  | zero => rfl
  | succ n ih =>
    rw [bitParity_succ, ih (Nat.le_of_succ_le hn), oneBit_getLsbD i n hn]
    rcases Nat.lt_trichotomy i n with h | rfl | h
    · simp [h, Nat.lt_succ_of_lt h, Nat.ne_of_lt h]
    · simp
    · simp [Nat.not_lt_of_gt h, Nat.ne_of_gt h, Nat.not_lt_of_ge h]

/-! ## The powers of x -/

theorem bchTimesX_eq_zero : ∀ r : BitVec 9, bchTimesX r = 0 → r = 0 := by decide

theorem bchTimesX_injective : Function.Injective bchTimesX := fun a b h => by
  have hz : bchTimesX (a ^^^ b) = 0 := (bchTimesX_xor a b).trans (by rw [h]; exact BitVec.xor_self)
  exact BitVec.xor_eq_zero_iff.mp (bchTimesX_eq_zero _ hz)

/-- The generator is primitive: x has the order 511. -/
theorem bchTimesX_period : Function.minimalPeriod bchTimesX 1 = 511 := by
  have h511 : Function.IsPeriodicPt bchTimesX 511 1 := show bchTimesX^[511] 1 = 1 by decide +kernel
  have hdvd : Function.minimalPeriod bchTimesX 1 ∈ Nat.divisors 511 := Nat.mem_divisors.mpr ⟨h511.minimalPeriod_dvd, by decide⟩
  have hper := Function.isPeriodicPt_minimalPeriod bchTimesX 1
  have hdiv : Nat.divisors 511 = {1, 7, 73, 511} := by decide
  rw [hdiv] at hdvd
  generalize Function.minimalPeriod bchTimesX 1 = m at hdvd hper
  unfold Function.IsPeriodicPt Function.IsFixedPt at hper
  simp only [Finset.mem_insert, Finset.mem_singleton] at hdvd
  rcases hdvd with rfl | rfl | rfl | rfl
  · exact absurd hper (by decide)
  · exact absurd hper (by decide)
  · exact absurd hper (by decide +kernel)
  · rfl

/-- Two bit errors at different places of the first 265 have different remainders. -/
theorem bchRem_oneBit_injective {i j : Nat} (hi : i < 265) (hj : j < 265) (h : bchRem 265 (oneBit i) = bchRem 265 (oneBit j)) :
    i = j := by
  rw [bchRem_oneBit (by decide), bchRem_oneBit (by decide), if_pos hi, if_pos hj] at h
  have hlt (k : Nat) : 265 - 1 - k ∈ Set.Iio (Function.minimalPeriod bchTimesX 1) := by
    rw [bchTimesX_period, Set.mem_Iio]
    omega
  have := Function.iterate_injOn_Iio_minimalPeriod (hlt i) (hlt j) h
  omega

theorem bchRem_oneBit_ne_zero {i : Nat} (hi : i < 265) : bchRem 265 (oneBit i) ≠ 0 := fun h => by
  rw [bchRem_oneBit (by decide), if_pos hi] at h
  have hz : bchTimesX^[265 - 1 - i] 0 = 0 := Function.iterate_fixed rfl _
  exact absurd (bchTimesX_injective.iterate _ (h.trans hz.symm)) (by decide)

theorem find?_range_of_unique {p : Nat → Bool} {n i : Nat} (hi : i < n) (hp : p i = true) (hu : ∀ j < n, p j = true → j = i) :
    (List.range n).find? p = some i := by
  cases h : (List.range n).find? p with
  | none => exact absurd hp (List.find?_eq_none.mp h i (List.mem_range.mpr hi))
  | some j => rw [hu j (List.mem_range.mp (List.mem_of_find?_eq_some h)) (List.find?_some h)]

theorem bchPosition_oneBit {i : Nat} (hi : i < 265) : bchPosition (bchRem 265 (oneBit i)) = some i :=
  find?_range_of_unique (p := fun j => bchRem 265 (oneBit j) == bchRem 265 (oneBit i)) hi BEq.rfl
    fun _ hj h => bchRem_oneBit_injective hj hi (beq_iff_eq.mp h)

/-! ## The check bits -/

theorem foldl_oneBit_getLsbD (p : Nat → Bool) {n i : Nat} (hi : i < 266) :
    ((List.range n).foldl (fun w j => if p j then w ||| oneBit j else w) 0).getLsbD i = (decide (i < n) && p i) := by
  induction n with
  | zero => exact BitVec.getLsbD_zero
  | succ n ih =>
    rw [List.range_succ, List.foldl_append, List.foldl_cons, List.foldl_nil]
    by_cases hn : i = n
    · subst hn
      cases hp : p i
      · rw [if_neg Bool.false_ne_true, ih, hp, Bool.and_false, Bool.and_false]
      · rw [if_pos rfl, BitVec.getLsbD_or, oneBit_getLsbD i i hi]
        simp
    · have hlt : decide (i < n + 1) = decide (i < n) := decide_eq_decide.mpr (by omega)
      rw [hlt, ← ih]
      split
      · rw [BitVec.getLsbD_or, oneBit_getLsbD n i hi, decide_eq_false (Ne.symm hn), Bool.or_false]
      · rfl

theorem bchBits_getLsbD (r : BitVec 9) {i : Nat} (hi : i < 266) : (bchBits r).getLsbD i = (decide (i < 9) && r.getLsbD (8 - i)) :=
  foldl_oneBit_getLsbD (fun j => r.getLsbD (8 - j)) hi

theorem shiftedBits_getLsbD (r : BitVec 9) {i : Nat} (hi : i < 266) :
    (bchBits r <<< 256).getLsbD i = (decide (256 ≤ i) && (decide (i - 256 < 9) && r.getLsbD (8 - (i - 256)))) := by
  rw [BitVec.getLsbD_shiftLeft, bchBits_getLsbD r (Nat.lt_of_le_of_lt (Nat.sub_le _ _) hi), decide_eq_true hi, Bool.true_and]
  by_cases h : 256 ≤ i
  · rw [decide_eq_false (Nat.not_lt_of_le h), decide_eq_true h, Bool.not_false]
  · rw [decide_eq_true (Nat.lt_of_not_le h), decide_eq_false h, Bool.not_true, Bool.false_and]

/-- A remainder is shifted in from its highest bit down. -/
theorem bchTimesX_shift (r : BitVec 9) {k : Nat} (hk : k < 9) :
    bchTimesX (r >>> (k + 1)) ^^^ (if r.getLsbD k then 1 else 0) = r >>> k := by
  have htop : (r >>> (k + 1)).getLsbD 8 = false := by
    rw [BitVec.getLsbD_ushiftRight]
    exact BitVec.getLsbD_of_ge _ _ (by omega)
  unfold bchTimesX
  rw [htop, if_neg Bool.false_ne_true, show (r >>> (k + 1)) <<< 1 ^^^ (0 : BitVec 9) = (r >>> (k + 1)) <<< 1 from BitVec.xor_zero]
  refine BitVec.eq_of_getLsbD_eq fun i hi => ?_
  rw [BitVec.getLsbD_xor, BitVec.getLsbD_shiftLeft, BitVec.getLsbD_ushiftRight, BitVec.getLsbD_ushiftRight]
  cases i with
  | zero => cases r.getLsbD k <;> simp
  | succ i =>
    have hone : (if r.getLsbD k = true then (1 : BitVec 9) else 0).getLsbD (i + 1) = false := by
      split
      · exact BitVec.getLsbD_one.trans (by simp)
      · exact BitVec.getLsbD_zero
    rw [hone, Bool.xor_false, decide_eq_true hi, decide_eq_false (by omega), show k + 1 + (i + 1 - 1) = k + (i + 1) by omega]
    rfl

theorem bchRem_shiftedBits (r : BitVec 9) : bchRem 265 (bchBits r <<< 256) = r := by
  have h (j : Nat) (hj : j ≤ 9) : bchRem (256 + j) (bchBits r <<< 256) = r >>> (9 - j) := by
    induction j with
    | zero =>
      refine (bchRem_of_clear fun i hi => ?_).trans (BitVec.ushiftRight_eq_zero (Nat.le_refl 9)).symm
      rw [shiftedBits_getLsbD r (Nat.lt_trans hi (by decide)), decide_eq_false (Nat.not_le_of_lt hi), Bool.false_and]
    | succ j ih =>
      have hbit : (bchBits r <<< 256).getLsbD (256 + j) = r.getLsbD (8 - j) := by
        rw [shiftedBits_getLsbD r (by omega), decide_eq_true (by omega), decide_eq_true (by omega), Bool.true_and, Bool.true_and,
          Nat.add_sub_cancel_left]
      rw [← Nat.add_assoc, bchRem_succ, ih (Nat.le_of_succ_le hj), hbit, show 9 - j = 8 - j + 1 by omega,
        bchTimesX_shift r (by omega), show 9 - (j + 1) = 8 - j by omega]
  exact h 9 (Nat.le_refl 9)

/-! ## Codewords -/

/-- R134: a block with its nine check bits. -/
def checkedOf (v : BitVec 256) : BitVec 266 := v.setWidth 266 ||| (bchBits (bchRem 265 (v.setWidth 266)) <<< 256)

theorem codewordOf_eq (v : BitVec 256) :
    codewordOf v = if bitParity 265 (checkedOf v) then checkedOf v ||| oneBit 265 else checkedOf v := rfl

theorem checkedOf_getLsbD (v : BitVec 256) {i : Nat} (hi : i < 266) : (checkedOf v).getLsbD i =
    xor (v.getLsbD i) ((bchBits (bchRem 265 (v.setWidth 266)) <<< 256).getLsbD i) := by
  unfold checkedOf
  rw [BitVec.getLsbD_or, BitVec.getLsbD_setWidth, decide_eq_true hi, Bool.true_and, shiftedBits_getLsbD _ hi]
  by_cases h : 256 ≤ i
  · rw [BitVec.getLsbD_of_ge v i h, Bool.false_or, Bool.false_xor]
  · rw [decide_eq_false h, Bool.false_and, Bool.or_false, Bool.xor_false]

theorem codewordOf_getLsbD (v : BitVec 256) {i : Nat} (hi : i < 265) : (codewordOf v).getLsbD i = (checkedOf v).getLsbD i := by
  rw [codewordOf_eq]
  split
  · rw [BitVec.getLsbD_or, oneBit_getLsbD 265 i (Nat.lt_succ_of_lt hi), decide_eq_false (Nat.ne_of_gt hi), Bool.or_false]
  · rfl

theorem bchRem_codewordOf (v : BitVec 256) : bchRem 265 (codewordOf v) = 0 := by
  have h : bchRem 265 (codewordOf v) =
      bchRem 265 (v.setWidth 266 ^^^ (bchBits (bchRem 265 (v.setWidth 266)) <<< 256)) := bchRem_congr fun i hi => by
    rw [codewordOf_getLsbD v hi, checkedOf_getLsbD v (Nat.lt_succ_of_lt hi), BitVec.getLsbD_xor, BitVec.getLsbD_setWidth,
      decide_eq_true (Nat.lt_succ_of_lt hi), Bool.true_and]
  rw [h, bchRem_xor, bchRem_shiftedBits]
  exact BitVec.xor_self

theorem checkedOf_parityBit (v : BitVec 256) : (checkedOf v).getLsbD 265 = false := by
  rw [checkedOf_getLsbD v (by decide), shiftedBits_getLsbD _ (by decide), BitVec.getLsbD_of_ge v 265 (by decide)]
  rfl

theorem bitParity_codewordOf (v : BitVec 256) : bitParity 266 (codewordOf v) = false := by
  have hbit : (codewordOf v).getLsbD 265 = bitParity 265 (checkedOf v) := by
    rw [codewordOf_eq]
    cases bitParity 265 (checkedOf v)
    · exact checkedOf_parityBit v
    · rw [if_pos rfl, BitVec.getLsbD_or, oneBit_getLsbD 265 265 (by decide), decide_eq_true rfl, Bool.or_true]
  rw [bitParity_succ, hbit, bitParity_congr fun i hi => codewordOf_getLsbD v hi, Bool.xor_self]

/-- The data bits of a codeword. -/
theorem codewordOf_data (v : BitVec 256) : (codewordOf v).setWidth 256 = v := BitVec.eq_of_getLsbD_eq fun i hi => by
  rw [BitVec.getLsbD_setWidth, decide_eq_true hi, Bool.true_and, codewordOf_getLsbD v (Nat.lt_trans hi (by decide)),
    checkedOf_getLsbD v (Nat.lt_trans hi (by decide)), shiftedBits_getLsbD _ (Nat.lt_trans hi (by decide)),
    decide_eq_false (Nat.not_le_of_lt hi), Bool.false_and, Bool.xor_false]

/-! ## Decoding -/

/-- R134: a codeword comes back as its block. -/
theorem decodeWord_codewordOf (v : BitVec 256) : decodeWord (codewordOf v) = .block v false := by
  unfold decodeWord
  dsimp only
  rw [bitParity_codewordOf, bchRem_codewordOf, codewordOf_data]
  rfl

/-- R134, R135: a single error is corrected, whichever bit it hits. -/
theorem decodeWord_oneBit (v : BitVec 256) {i : Nat} (hi : i < 266) : decodeWord (codewordOf v ^^^ oneBit i) = .block v true := by
  have hpar : bitParity 266 (codewordOf v ^^^ oneBit i) = true := by
    rw [bitParity_xor, bitParity_codewordOf, bitParity_oneBit (by decide), decide_eq_true hi]
    rfl
  have hsyn : bchRem 265 (codewordOf v ^^^ oneBit i) = bchRem 265 (oneBit i) := by
    rw [bchRem_xor, bchRem_codewordOf]
    exact BitVec.zero_xor
  unfold decodeWord
  dsimp only
  rw [hpar, hsyn, if_neg (by decide)]
  by_cases h : i < 265
  · rw [if_neg (bchRem_oneBit_ne_zero h), bchPosition_oneBit h]
    dsimp only
    rw [BitVec.xor_assoc, BitVec.xor_self, BitVec.xor_zero, codewordOf_data]
  · obtain rfl : i = 265 := by omega
    rw [if_pos (by rw [bchRem_oneBit (by decide), if_neg (Nat.lt_irrefl _)])]
    refine congrArg (fun x => Decoded.block x true) (BitVec.eq_of_getLsbD_eq fun j hj => ?_)
    rw [← congrArg (·.getLsbD j) (codewordOf_data v), BitVec.getLsbD_setWidth, BitVec.getLsbD_setWidth, BitVec.getLsbD_xor,
      oneBit_getLsbD 265 j (by omega), decide_eq_false (show ¬ 265 = j by omega), Bool.xor_false]

end Sys2Proof.Machine
end

section
/-! SUPPORT. What the items of a burst that end, or are voided, leave of the receivers (R135, R163 to R166, R266). -/

namespace Sys2Proof.Machine

/-- The receivers' parts of bursts, and the windows without light counted at each station. -/
def State.rxView (s : State) : List RxBurst × (Nat → Nat) := (s.rxs, fun m => (s.stn m).losCkt)

theorem State.rxView_updStn (s : State) (n : Nat) {f : Station → Station} (hf : ∀ x, (f x).losCkt = x.losCkt) :
    (s.updStn n f).rxView = s.rxView := by
  have h : (fun m => ((s.updStn n f).stn m).losCkt) = fun m => (s.stn m).losCkt := funext fun m => by
    by_cases hm : m = n
    · rw [hm, State.updStn, State.stn_setStn_same, hf]
    · rw [State.updStn, State.stn_setStn_ne _ _ hm]
  exact congrArg (fun g => (s.rxs, g)) h

/-! ## Module memory -/

theorem State.rxView_storeAt (s : State) (w : BitVec 256) (va : Nat) (bs : List Byte) : (s.storeAt w va bs).1.rxView = s.rxView := by
  unfold State.storeAt
  dsimp only
  repeat' split
  all_goals rfl

theorem State.rxView_storeVa (s : State) (station job va : Nat) (bs : List Byte) :
    (s.storeVa station job va bs).1.rxView = s.rxView := by
  unfold State.storeVa
  split
  · rfl
  · exact State.rxView_storeAt _ _ _ _

theorem State.rxView_storeBlocks (s : State) (station job va : Nat) (bs : List Byte) :
    (s.storeBlocks station job va bs).1.rxView = s.rxView := by
  unfold State.storeBlocks
  refine foldl_same (fun a : State × Byte => a.1.rxView) _ (fun _ _ => ?_) _ _
  exact State.rxView_storeVa _ _ _ _ _

/-! ## A root that takes the chunks of an item (R266, R268, R269) -/

theorem State.rxView_setColl (s : State) (station n : Nat) (e : CollEntry) : (s.setColl station n e).rxView = s.rxView := by
  unfold State.setColl
  refine State.rxView_updStn _ _ fun _ => ?_
  rfl

theorem State.rxView_engineSend (s : State) (station n : Nat) (f : PktFields) :
    (s.engineSend station n f none none).rxView = s.rxView := rfl

theorem State.rxView_endRound (s : State) (station n : Nat) (status : Byte) (k : Nat) :
    (s.endRound station n status k).rxView = s.rxView := by
  unfold State.endRound
  dsimp only
  rw [State.rxView_setColl, State.rxView_updStn]
  rotate_left
  · exact fun _ => rfl
  split
  · rfl
  · exact State.rxView_storeVa _ _ _ _ _

theorem State.rxView_finishDone (s : State) (station n : Nat) : (s.finishDone station n).rxView = s.rxView := by
  unfold State.finishDone
  dsimp only
  split
  · rw [State.rxView_endRound, State.rxView_storeBlocks, State.rxView_setColl]
  · rw [State.rxView_endRound]
    unfold State.sendResult
    refine (foldl_same State.rxView _ (fun _ _ => ?_) _ _).trans (State.rxView_setColl _ _ _ _)
    rfl
  · rw [State.rxView_endRound, State.rxView_setColl]

theorem State.rxView_rootTake (s : State) (station n : Nat) (e : CollEntry) (q : Chunk) :
    (s.rootTake station n e q).rxView = s.rxView := by
  have hend (e0 e' : CollEntry) : State.rxView (
      if (List.range (ccChunks e.cfg)).all fun k => e'.seen.contains (q.group * 4096 + k) then
        let s := s.setColl station n { e' with groupsIn := addSorted q.group e'.groupsIn }
        let s := if cKind q.src = 2 then
            s.engineSend station n
              { kind := kCOLL_CTRL, vc := 2, job := ccJob e.cfg, dst := q.src, op := 2
                payload := [0, BitVec.ofNat 8 e0.round] ++ leBytes 2 q.group ++ leBytes 4 0 } none none
          else s
        if (s.coll station n).groupsIn.length = ccGroup e.cfg then s.finishDone station n else s
      else s.setColl station n e') = s.rxView := by
    dsimp only
    generalize { e' with groupsIn := addSorted q.group e'.groupsIn } = e2
    have hsend (f : PktFields) : State.rxView (if cKind q.src = 2 then (s.setColl station n e2).engineSend station n f none none
        else s.setColl station n e2) = s.rxView := by
      split
      · exact (State.rxView_engineSend _ _ _ _).trans (State.rxView_setColl _ _ _ _)
      · exact State.rxView_setColl _ _ _ _
    have hlast (t : State) (h : t.rxView = s.rxView) :
        (if (t.coll station n).groupsIn.length = ccGroup e.cfg then t.finishDone station n else t).rxView = s.rxView := by
      split
      · exact (State.rxView_finishDone _ _ _).trans h
      · exact h
    split
    · exact hlast _ (hsend _)
    · exact State.rxView_setColl _ _ _ _
  exact hend _ _

theorem State.rxView_rootChunk (s : State) (station n : Nat) (q : Chunk) : (s.rootChunk station n q).rxView = s.rxView := by
  have hdup : (s.collDup station).rxView = s.rxView := by
    unfold State.collDup
    refine State.rxView_updStn _ _ fun _ => ?_
    rfl
  unfold State.rootChunk
  dsimp only
  split
  · unfold State.collStale
    refine State.rxView_updStn _ _ fun _ => ?_
    rfl
  · split
    · exact hdup
    · split
      · exact hdup
      · exact State.rxView_rootTake _ _ _ _ _

/-! ## Items -/

theorem State.rxView_commitItem (s : State) (station : Nat) (b : Burst) (x : CItem) (bs : List Byte) :
    (s.commitItem station b x bs).rxView = s.rxView := by
  unfold State.commitItem
  split
  · exact foldl_same State.rxView _ (fun _ _ => State.rxView_storeVa _ _ _ _ _) _ _
  · exact foldl_same State.rxView _ (fun _ _ => State.rxView_rootChunk _ _ _ _) _ _
  · rfl

theorem State.rxView_failItem (s : State) (b : Burst) (st : Byte) (station : Nat) (side : Bool) (item : Nat) :
    (s.failItem b st station side item).rxView = s.rxView := by
  unfold State.failItem State.failRecord
  dsimp only
  split
  · rfl
  · exact State.rxView_storeVa _ _ _ _ _

theorem State.rxView_endAtTile (s : State) (x : CItem) (st : Byte) (undef : List Nat) (t : Nat) :
    (s.endAtTile x st undef t).rxView = s.rxView := by
  have hfree : (s.freeBlocks t x.addr undef).rxView = s.rxView := by
    unfold State.freeBlocks
    refine foldl_same State.rxView _ (fun _ _ => ?_) _ _
    rfl
  unfold State.endAtTile
  dsimp only
  split
  · rfl
  · split <;> split
    · rfl
    · exact hfree
    · rfl
    · exact hfree

theorem State.rxView_endItem (s : State) (station : Nat) (b : Burst) (x : CItem) (st : Byte) (bad : List Nat) (bs : List Byte) :
    (s.endItem station b x st bad bs).rxView = s.rxView := by
  have htiles (ts : List Nat) (undef : List Nat) :
      (ts.foldl (fun s t => s.endAtTile x (targetStatus st bad t) undef t) s).rxView = s.rxView :=
    foldl_same State.rxView _ (fun _ _ => State.rxView_endAtTile _ _ _ _ _) _ _
  have hcommit (t : State) (c : Bool) : (if c then t.commitItem station b x bs else t).rxView = t.rxView := by
    split
    · exact State.rxView_commitItem _ _ _ _ _
    · rfl
  unfold State.endItem
  dsimp only
  refine (foldl_same State.rxView _ (fun _ _ => State.rxView_failItem _ _ _ _ _ _) _ _).trans ?_
  exact (hcommit _ _).trans (htiles _ _)

/-! ## Items voided at their source (R163) -/

theorem State.rxView_voidOne (s : State) (b : Burst) (st : Byte) (x : CItem) : (s.voidOne b st x).rxView = s.rxView := by
  have hvoided : (s.updStn b.src fun y => { y with voided := satInc 65535 y.voided }).rxView = s.rxView := by
    refine State.rxView_updStn _ _ fun _ => ?_
    rfl
  unfold State.voidOne
  dsimp only
  rw [State.rxView_failItem]
  split <;> split <;> exact hvoided

/-- What the voiding of an item keeps of a burst: its place and its rows. -/
def Burst.rowView (b : Burst) : Nat × Nat × Nat × List Nat := (b.src, b.k, b.slotHt, b.rows)

/-- The receivers, with the place and rows of a burst. -/
def feedView (a : State × Burst) : (List RxBurst × (Nat → Nat)) × (Nat × Nat × Nat × List Nat) := (a.1.rxView, a.2.rowView)

theorem feedView_voidItem (s : State) (b : Burst) (items : List CItem) (x : CItem) (row : Nat) (st : Byte) :
    feedView (s.voidItem b items x row st) = feedView (s, b) := by
  unfold State.voidItem
  refine foldl_same feedView _ (fun acc y => ?_) _ _
  exact congrArg (·, acc.2.rowView) (State.rxView_voidOne _ _ _ _)

theorem feedView_settle (s : State) (b : Burst) : feedView (s.settle b) = feedView (s, b) := by
  unfold State.settle
  refine foldl_same feedView _ (fun acc x => ?_) _ _
  split
  · split
    · exact feedView_voidItem _ _ _ _ _ _
    · rfl
  · rfl

end Sys2Proof.Machine
end

section
/-! SUPPORT. Circuits: feeds (R162), bursts (R132), receivers (R135, R160, R164 to R166, R380). -/

namespace Sys2Proof.Machine

/-! ## Tables of blocks and bursts -/

theorem blockAt_minsert (m : SMap (BitVec 256)) (n i : Nat) (v : BitVec 256) :
    blockAt (minsert m n v) i = if i = n then some v else blockAt m i := by
  unfold blockAt
  rw [find?_minsert]
  split <;> rfl

/-- The first place that satisfies a test is the one whose value is found. -/
theorem findSome?_of_find? {α β : Type} {f : α → Option β} {l : List α} {a : α}
    (h : l.find? (fun a => (f a).isSome) = some a) :
    ∃ e, f a = some e ∧ l.findSome? (fun a => (f a).map fun e => (a, e)) = some (a, e) := by
  induction l with
  | nil => exact nomatch h
  | cons b l ih =>
    rw [List.find?_cons] at h
    rw [List.findSome?_cons]
    cases hb : f b with
    | some e =>
      rw [hb] at h
      obtain rfl : b = a := Option.some.inj h
      exact ⟨e, hb, rfl⟩
    | none =>
      rw [hb] at h
      exact ih h

/-- What one element of a list brings about, and every element keeps, holds after the list. -/
theorem foldl_reach {σ α : Type} {P Q : σ → Prop} {step : σ → α → σ} {a : α} (hP : ∀ s b, P s → P (step s b))
    (ha : ∀ s, P s → Q (step s a)) (hQ : ∀ s b, P s → Q s → Q (step s b)) (l : List α) (hl : a ∈ l) (s : σ) (hs : P s) :
    Q (l.foldl step s) := by
  induction l generalizing s with
  | nil => exact absurd hl List.not_mem_nil
  | cons b l ih =>
    rw [List.foldl_cons]
    rcases List.mem_cons.mp hl with rfl | hl
    · refine (List.foldlRecOn (motive := fun t => P t ∧ Q t) l step ⟨hP s a hs, ha s hs⟩ fun t ht c _ => ?_).2
      exact ⟨hP t c ht.1, hQ t c ht.1 ht.2⟩
    · exact ih hl _ (hP s b hs)

theorem Burst.sameBurst_iff {b : Burst} {m j h : Nat} : b.sameBurst m j h = true ↔ b.src = m ∧ b.k = j ∧ b.slotHt = h := by
  unfold Burst.sameBurst
  rw [Bool.and_eq_true, Bool.and_eq_true, beq_iff_eq, beq_iff_eq, beq_iff_eq, and_assoc]

theorem State.mem_of_findBurst {s : State} {m j h : Nat} {b : Burst} (hb : s.findBurst m j h = some b) :
    b ∈ s.bursts ∧ b.sameBurst m j h = true := 
  ⟨List.mem_of_find?_eq_some hb, List.find?_some (p := fun c : Burst => c.sameBurst m j h) hb⟩

theorem State.findBurst_putBurst_same {s : State} {m j h : Nat} {b : Burst} (hb : b.sameBurst m j h = true) :
    (s.putBurst b).findBurst m j h = some b := by
  obtain ⟨rfl, rfl, rfl⟩ := Burst.sameBurst_iff.mp hb
  have hnone : (s.bursts.filter fun c => !c.sameBurst b.src b.k b.slotHt).find? (·.sameBurst b.src b.k b.slotHt) = none := by
    refine List.find?_eq_none.mpr fun c hc h => ?_
    have := (List.mem_filter.mp hc).2
    rw [h] at this
    exact Bool.false_ne_true this
  show List.find? _ (_ ++ [b]) = _
  rw [List.find?_append, hnone, List.find?_cons, hb]
  rfl

theorem State.findBurst_putBurst_ne {s : State} {m j h : Nat} {b : Burst} (hb : b.sameBurst m j h = false) :
    (s.putBurst b).findBurst m j h = s.findBurst m j h := by
  have hp (c : Burst) : decide ((!c.sameBurst b.src b.k b.slotHt) = true ∧ c.sameBurst m j h = true) = c.sameBurst m j h := by
    rw [Bool.decide_and, Bool.decide_eq_true, Bool.decide_eq_true]
    cases hc : c.sameBurst m j h
    · exact Bool.and_false _
    · rw [Bool.and_true, Bool.not_eq_true', ← Bool.not_eq_true]
      intro h2
      obtain ⟨h1, h2, h3⟩ := Burst.sameBurst_iff.mp h2
      obtain ⟨rfl, rfl, rfl⟩ := Burst.sameBurst_iff.mp hc
      exact ne_true_of_eq_false hb (Burst.sameBurst_iff.mpr ⟨h1.symm, h2.symm, h3.symm⟩)
  show List.find? _ (_ ++ [b]) = List.find? _ s.bursts
  rw [List.find?_append, List.find?_filter, List.find?_cons, hb, funext hp]
  exact Option.or_none

/-! ## Feeds (R162) -/

theorem rowView_feedBlock (s : State) (b : Burst) (items : List CItem) (stream damage : List (Nat × BitVec 256)) (n : Nat) :
    (s.feedBlock b items stream damage n).2.rowView = b.rowView := by
  unfold State.feedBlock
  split
  · rfl
  · split
    · rfl
    · split
      · rfl
      · exact congrArg (·.2) (feedView_voidItem _ _ _ _ _ _)

theorem rowView_feedDone (s : State) (b : Burst) (items : List CItem) : (s.feedDone b items).2.rowView = b.rowView := by
  unfold State.feedDone
  refine foldl_same (fun a : State × Burst => a.2.rowView) _ (fun acc x => ?_) _ _
  dsimp only
  split <;> rfl

/-- R162: a row enters the burst of a slot. -/
def State.fedRow (s : State) (station k h g : Nat) (e : W64) (row : FeedRow) : State × Burst :=
  let b := (s.findBurst station k h).getD (s.newBurst station k h g e)
  let items := s.txItems station b.entry
  let r := ((List.range 16).map (16 * row.row + ·)).foldl
    (fun acc n => acc.1.feedBlock acc.2 items row.stream row.damage n) (s.settle b)
  r.1.feedDone { r.2 with rows := addSorted row.row r.2.rows } items

theorem exec_circuitFeed {s : State} (ht : s.time.st ≠ .free) {n k h g : Nat} {e : W64} {row : FeedRow} (hr : row.row ≤ 44)
    (hh : [s.ht / 250 * 250, s.ht / 250 * 250 + 250, s.ht / 250 * 250 + 500].findSome?
      (fun h => (s.feedable n k row.row h).map fun e => (h, e)) = some (h, g, e)) :
    exec (.circuitFeed n k row) s =
      .next ((s.fedRow n k h g e row).1.putBurst (s.fedRow n k h g e row).2) := by
  refine next_congr ((if_neg ?_).trans ?_)
  · rintro (h | h)
    · exact ht h
    · exact Nat.not_lt_of_le hr h
  · rw [hh]
    rfl

theorem State.getD_findBurst_same (s : State) (m j h g : Nat) (e : W64) :
    ((s.findBurst m j h).getD (s.newBurst m j h g e)).sameBurst m j h = true := by
  cases hb : s.findBurst m j h with
  | none => exact Burst.sameBurst_iff.mpr ⟨rfl, rfl, rfl⟩
  | some b => exact (State.mem_of_findBurst hb).2

theorem State.fedRow_row (s : State) (m j h g : Nat) (e : W64) (row : FeedRow) :
    (s.fedRow m j h g e row).2.sameBurst m j h = true ∧ row.row ∈ (s.fedRow m j h g e row).2.rows := by
  have hb := Burst.sameBurst_iff.mp (s.getD_findBurst_same m j h g e)
  unfold State.fedRow
  dsimp only
  generalize (s.findBurst m j h).getD (s.newBurst m j h g e) = b at hb
  have hfold : (((List.range 16).map (16 * row.row + ·)).foldl
      (fun acc n => acc.1.feedBlock acc.2 (s.txItems m b.entry) row.stream row.damage n) (s.settle b)).2.rowView = b.rowView :=
    (foldl_same (fun a : State × Burst => a.2.rowView) _ (fun _ _ => rowView_feedBlock _ _ _ _ _ _) _ _).trans
      (congrArg (·.2) (feedView_settle s b))
  generalize ((List.range 16).map (16 * row.row + ·)).foldl _ (s.settle b) = r at hfold
  obtain ⟨h1, hfold⟩ := Prod.mk.inj hfold
  obtain ⟨h2, hfold⟩ := Prod.mk.inj hfold
  obtain ⟨h3, -⟩ := Prod.mk.inj hfold
  have hdone := rowView_feedDone r.1 { r.2 with rows := addSorted row.row r.2.rows } (s.txItems m b.entry)
  obtain ⟨k1, hdone⟩ := Prod.mk.inj hdone
  obtain ⟨k2, hdone⟩ := Prod.mk.inj hdone
  obtain ⟨k3, k4⟩ := Prod.mk.inj hdone
  refine ⟨Burst.sameBurst_iff.mpr ⟨(k1.trans h1).trans hb.1, (k2.trans h2).trans hb.2.1, (k3.trans h3).trans hb.2.2⟩, ?_⟩
  rw [k4]
  exact mem_addSorted.mpr (.inl rfl)

/-! ## Bursts at a slot's start (R132) -/

/-- R132: one live circuit at a slot's start. -/
def State.sendOne (s : State) (h st k : Nat) : State :=
  match s.liveTx st h k with
  | none => s
  | some (g, e) =>
    let b := (s.findBurst st k h).getD (s.newBurst st k h g e)
    if b.launched || s.opt.crossbarFor != some h then s.putBurst b
    else (s.putBurst { b with launched := true }).updStn st fun x => { x with twlTx := (x.twlTx + 1) % 2 ^ 32 }

/-- What the start of a burst leaves: the crossbar, the tiles and the live circuits. -/
def State.slotView (s : State) : Optics × SMap Tile × (Nat → Nat → Nat → Option (Nat × W64)) := (s.opt, s.tiles, s.liveTx)

theorem State.slotView_sendOne (s : State) (h st k : Nat) : (s.sendOne h st k).slotView = s.slotView := by
  have hlive (t : State) : (t.updStn st fun x => { x with twlTx := (x.twlTx + 1) % 2 ^ 32 }).liveTx = t.liveTx := by
    funext m slot j
    have htab : ((t.updStn st fun x => { x with twlTx := (x.twlTx + 1) % 2 ^ 32 }).stn m).txTab = (t.stn m).txTab := by
      by_cases hm : m = st
      · rw [hm, State.updStn, State.stn_setStn_same]
      · rw [State.updStn, State.stn_setStn_ne _ _ hm]
    exact congrArg (fun tab => t.liveEntry tab slot j) htab
  unfold State.sendOne
  split
  · rfl
  · dsimp only
    split
    · rfl
    · exact congrArg (fun l => (s.opt, s.tiles, l)) (hlive _)

/-- R132: what holds of the burst of circuit `j` of a station before the slot's start: it is live, and one launched is where
the crossbar is set. -/
def State.Ready (s : State) (m j h : Nat) : Prop :=
  (s.liveTx m h j).isSome = true ∧ ∀ b, s.findBurst m j h = some b → b.launched = true → s.opt.crossbarFor = some h

/-- R132: the burst of the circuit is there, launched where the crossbar is set for the slot. -/
def State.Sent (s : State) (m j h : Nat) : Prop :=
  ∃ b, s.findBurst m j h = some b ∧ b.launched = (s.opt.crossbarFor == some h)

theorem State.sendOne_sent {s : State} {m j h : Nat} (hr : s.Ready m j h) : (s.sendOne h m j).Sent m j h := by
  obtain ⟨hlive, hfound⟩ := hr
  have hopt : (s.sendOne h m j).opt = s.opt := congrArg (·.1) (s.slotView_sendOne h m j)
  unfold State.Sent
  rw [hopt]
  obtain ⟨ge, hge⟩ := Option.isSome_iff_exists.mp hlive
  have hsame := s.getD_findBurst_same m j h ge.1 ge.2
  have hl : ((s.findBurst m j h).getD (s.newBurst m j h ge.1 ge.2)).launched = true → s.opt.crossbarFor = some h := by
    cases hb : s.findBurst m j h with
    | none => exact fun h => nomatch h
    | some b => exact hfound b hb
  unfold State.sendOne
  rw [hge]
  dsimp only
  generalize (s.findBurst m j h).getD (s.newBurst m j h ge.1 ge.2) = b at hsame hl
  by_cases hc : s.opt.crossbarFor = some h
  · cases hb : b.launched
    · rw [if_neg (by rw [hc]; simp)]
      refine ⟨{ b with launched := true }, State.findBurst_putBurst_same (s := s) (b := { b with launched := true }) hsame, ?_⟩
      rw [hc]
      exact (beq_self_eq_true _).symm
    · rw [if_pos (Bool.true_or _)]
      refine ⟨b, State.findBurst_putBurst_same hsame, ?_⟩
      rw [hb, hc]
      exact (beq_self_eq_true _).symm
  · rw [if_pos (by rw [bne_iff_ne.mpr hc, Bool.or_true])]
    refine ⟨b, State.findBurst_putBurst_same hsame, ?_⟩
    rw [beq_eq_false_iff_ne.mpr hc, ← Bool.not_eq_true]
    exact fun h => hc (hl h)

theorem State.sendOne_other {s : State} {m j h st k : Nat} (hne : ¬ (st = m ∧ k = j)) :
    (s.sendOne h st k).findBurst m j h = s.findBurst m j h := by
  have hput {b : Burst} (hb : b.sameBurst st k h = true) : (s.putBurst b).findBurst m j h = s.findBurst m j h := by
    refine State.findBurst_putBurst_ne ?_
    obtain ⟨rfl, rfl, -⟩ := Burst.sameBurst_iff.mp hb
    rw [← Bool.not_eq_true]
    exact fun h => hne ⟨(Burst.sameBurst_iff.mp h).1, (Burst.sameBurst_iff.mp h).2.1⟩
  unfold State.sendOne
  split
  · rfl
  · next g e _ =>
    have hsame := s.getD_findBurst_same st k h g e
    dsimp only
    split
    · exact hput hsame
    · exact hput (b := { (s.findBurst st k h).getD (s.newBurst st k h g e) with launched := true }) hsame

theorem State.Sent.ready {s : State} {m j h : Nat} (hs : s.Sent m j h) (hl : (s.liveTx m h j).isSome = true) : s.Ready m j h := by
  obtain ⟨b, hb, hlaunched⟩ := hs
  refine ⟨hl, fun c hc h => ?_⟩
  obtain rfl : b = c := Option.some.inj (hb.symm.trans hc)
  exact beq_iff_eq.mp (hlaunched.symm.trans h)

theorem State.Ready.sendOne {s : State} {m j h : Nat} (hr : s.Ready m j h) (st k : Nat) : (s.sendOne h st k).Ready m j h := by
  have hview := s.slotView_sendOne h st k
  obtain ⟨hopt, hview⟩ := Prod.mk.inj hview
  obtain ⟨-, hlive⟩ := Prod.mk.inj hview
  have hl : ((s.sendOne h st k).liveTx m h j).isSome = true := by
    rw [hlive]
    exact hr.1
  by_cases hk : st = m ∧ k = j
  · obtain ⟨rfl, rfl⟩ := hk
    exact (State.sendOne_sent hr).ready hl
  · refine ⟨hl, ?_⟩
    rw [State.sendOne_other hk, hopt]
    exact hr.2

theorem State.Sent.sendOne {s : State} {m j h : Nat} (hr : s.Ready m j h) (hs : s.Sent m j h) (st k : Nat) :
    (s.sendOne h st k).Sent m j h := by
  by_cases hk : st = m ∧ k = j
  · obtain ⟨rfl, rfl⟩ := hk
    exact State.sendOne_sent hr
  · have hopt : (s.sendOne h st k).opt = s.opt := congrArg (·.1) (s.slotView_sendOne h st k)
    unfold State.Sent
    rw [State.sendOne_other hk, hopt]
    exact hs

/-- R132: every circuit of every station at a slot's start. -/
def State.sendAll (s : State) (h : Nat) : State :=
  dataStations.foldl (fun s st => circuitIndices.foldl (fun s k => s.sendOne h st k) s) s

theorem exec_circuitBurstSend {s : State} (ht : s.time.st ≠ .free) (h0 : s.ht % 250 = 0) (hf : framePos s.ht < 63000) :
    exec .circuitBurstSend s = .next (s.retireBursts.sendAll s.ht) := by
  refine next_congr (if_neg ?_)
  rintro (h | h | h)
  · exact ht h
  · exact h h0
  · exact Nat.not_lt_of_le h hf

theorem State.slotView_sendAll (s : State) (h : Nat) : (s.sendAll h).slotView = s.slotView := by
  unfold State.sendAll
  generalize dataStations = ms
  generalize circuitIndices = js
  refine foldl_same State.slotView _ (fun t m => ?_) _ _
  exact foldl_same State.slotView _ (fun _ _ => State.slotView_sendOne _ _ _ _) _ _

theorem State.sendAll_sent {s : State} {m j h : Nat} (hm : m < 31) (hj : j ∈ circuitIndices) (hr : s.Ready m j h) :
    (s.sendAll h).Sent m j h := by
  have hms := mem_dataStations hm
  unfold State.sendAll
  generalize dataStations = ms at hms
  generalize circuitIndices = js at hj
  have hready (t : State) (st : Nat) (ht : t.Ready m j h) : (js.foldl (fun s k => s.sendOne h st k) t).Ready m j h :=
    List.foldlRecOn js _ (motive := fun t : State => t.Ready m j h) ht fun _ ht k _ => ht.sendOne st k
  refine foldl_reach (P := fun t : State => t.Ready m j h) (Q := fun t : State => t.Sent m j h) hready (fun t ht => ?_) (fun t st ht hs => ?_) ms hms s hr
  · exact foldl_reach (P := fun t : State => t.Ready m j h) (Q := fun t : State => t.Sent m j h) (fun _ k ht => ht.sendOne m k)
      (fun _ ht => State.sendOne_sent ht) (fun _ k ht hs => State.Sent.sendOne ht hs m k) js hj t ht
  · refine (List.foldlRecOn js _ (motive := fun t : State => t.Ready m j h ∧ t.Sent m j h) ⟨ht, hs⟩ fun u hu k _ => ?_).2
    exact ⟨hu.1.sendOne st k, State.Sent.sendOne hu.1 hu.2 st k⟩

/-- No burst has drained. -/
theorem State.retireBursts_young {s : State} (h : ∀ b ∈ s.bursts, s.ht < b.slotHt + 500) :
    s.retireBursts = { s with rxs := s.rxs.filter fun b => !decide (b.slotHt + 500 ≤ s.ht) } := by
  have hold : (s.bursts.filter fun b => decide (b.slotHt + 500 ≤ s.ht)) = [] :=
    List.filter_eq_nil_iff.mpr fun b hb => by
      rw [decide_eq_true_iff]
      exact Nat.not_le_of_lt (h b hb)
  have hnew : (s.bursts.filter fun b => !decide (b.slotHt + 500 ≤ s.ht)) = s.bursts :=
    List.filter_eq_self.mpr fun b hb => by
      rw [decide_eq_false (Nat.not_le_of_lt (h b hb))]
      rfl
  unfold State.retireBursts
  dsimp only
  rw [hold, List.foldl_nil, hnew]

/-! ## A row at a receiver (R135, R160) -/

theorem State.findRx_same (s : State) (station k h : Nat) :
    (s.findRx station k h).station = station ∧ (s.findRx station k h).k = k ∧ (s.findRx station k h).slotHt = h := by
  unfold State.findRx
  cases hr : s.rxs.find? (·.sameRx station k h) with
  | none => exact ⟨rfl, rfl, rfl⟩
  | some r =>
    have := List.find?_some hr
    unfold RxBurst.sameRx at this
    rw [Bool.and_eq_true, Bool.and_eq_true, beq_iff_eq, beq_iff_eq, beq_iff_eq, and_assoc] at this
    exact this

/-- A receiver's part that is put down is found again. -/
theorem State.findRx_putRx (s : State) (r : RxBurst) : (s.putRx r).findRx r.station r.k r.slotHt = r := by
  have hnone : (s.rxs.filter fun q => !q.sameRx r.station r.k r.slotHt).find? (·.sameRx r.station r.k r.slotHt) = none := by
    refine List.find?_eq_none.mpr fun c hc h => ?_
    have := (List.mem_filter.mp hc).2
    rw [h] at this
    exact Bool.false_ne_true this
  have hself : r.sameRx r.station r.k r.slotHt = true := by
    unfold RxBurst.sameRx
    rw [beq_self_eq_true, beq_self_eq_true, beq_self_eq_true]
    rfl
  show (List.find? _ (_ ++ [r])).getD _ = r
  rw [List.find?_append, hnone, List.find?_cons, hself]
  rfl

theorem State.findRx_congr {s t : State} (h : t.rxView = s.rxView) (station k slot : Nat) :
    t.findRx station k slot = s.findRx station k slot := by
  obtain ⟨hrxs, -⟩ := Prod.mk.inj h
  unfold State.findRx
  rw [show t.rxs = s.rxs from hrxs]

theorem State.losCkt_congr {s t : State} (h : t.rxView = s.rxView) (n : Nat) : (t.stn n).losCkt = (s.stn n).losCkt :=
  congrFun (congrArg (·.2) h) n

/-- R135: the burst of a row at a receiver, settled, or none. -/
def State.rowBurst (s : State) (station k h gear : Nat) (e : W64) : State × Burst :=
  match s.burstAt station k h with
  | none => (s, ({ src := seSrc e, k := k, slotHt := h, gear := gear, entry := e } : Burst))
  | some b => let r := s.settle b; (r.1.putBurst r.2, r.2)

/-- R135: the counts of a row's light. -/
def State.sighted (s : State) (station k h : Nat) (light : Bool) : State :=
  let r := s.findRx station k h
  let s := if r.rows.isEmpty && light then s.updStn station fun x => { x with twlRx := (x.twlRx + 1) % 2 ^ 32 } else s
  if !light && !r.dark then s.noLight station k h else s

/-- A receiver's part with a row more. -/
def RxBurst.sighted (r : RxBurst) (row : Nat) (light : Bool) (damage : List (Nat × Nat × BitVec 256)) : RxBurst :=
  { r with
    rows := r.rows ++ [row], dark := r.dark || !light
    damage := damage.foldl (fun m d => minsert m (d.1 * 720 + d.2.1) d.2.2) r.damage }

/-- R135: the codewords of a row. -/
def State.readRow (s : State) (station k row : Nat) (b : Burst) (items : List CItem) (errs : List (Nat × Nat)) (r : RxBurst) :
    State × RxBurst :=
  let sent := s.txItems b.src b.entry
  ((List.range 16).map (16 * row + ·)).foldl (fun acc n =>
    acc.1.codeword station k items acc.2 n (b.codeword sent n ^^^ errorMask errs n)) (s, r)

/-- R135: the blocks of a row land. -/
def State.landRow (s : State) (station row : Nat) (r : RxBurst) (items : List CItem) : State :=
  ((List.range 16).map (16 * row + ·)).foldl (fun s n => s.landBlock station r items n) s

/-- R135, R164 to R166: a row, once the light of its burst is known. -/
def State.decodeSeen (s : State) (b : Burst) (station k row h gear : Nat) (e : W64) (light : Bool) (errs : List (Nat × Nat))
    (damage : List (Nat × Nat × BitVec 256)) : State :=
  let r := (s.findRx station k h).sighted row light damage
  let s := s.sighted station k h light
  let lost := s.isUnlit k || s.cannotCarry b.src station k || s.portLost b station e
  let items := s.rxItems station e
  let x := if r.dark then (s, r) else s.readRow station k row b items errs r
  let s := x.1.putRx x.2
  let s := if x.2.dark || lost then s else s.landRow station row x.2 items
  s.endRow station k row h gear e b lost

theorem State.decodeRow_eq (s : State) (station k row h gear : Nat) (e : W64) (light : Bool) (errs : List (Nat × Nat))
    (damage : List (Nat × Nat × BitVec 256)) : s.decodeRow station k row h gear e light errs damage =
      (s.rowBurst station k h gear e).1.decodeSeen (s.rowBurst station k h gear e).2 station k row h gear e
        (light && (s.burstAt station k h).isSome) errs damage := by
  unfold State.decodeRow State.rowBurst
  cases s.burstAt station k h <;> rfl

end Sys2Proof.Machine
end

section
/-! SUPPORT. A decoded row, the status of an item and a block that lands (R135, R160, R164 to R166, R380). -/

namespace Sys2Proof.Machine

/-! ## What a row keeps -/

theorem State.rxView_rowBurst (s : State) (station k h gear : Nat) (e : W64) :
    (s.rowBurst station k h gear e).1.rxView = s.rxView := by
  unfold State.rowBurst
  split
  · rfl
  · exact congrArg (·.1) (feedView_settle s _)

theorem State.rxView_landBlock (s : State) (station : Nat) (r : RxBurst) (items : List CItem) (n : Nat) :
    (s.landBlock station r items n).rxView = s.rxView := by
  unfold State.landBlock
  split
  · rfl
  · split
    · rfl
    · split
      · refine foldl_same State.rxView _ (fun t _ => ?_) _ _
        split <;> rfl
      · rfl

theorem State.rxView_landRow (s : State) (station row : Nat) (r : RxBurst) (items : List CItem) :
    (s.landRow station row r items).rxView = s.rxView :=
  foldl_same State.rxView _ (fun _ _ => State.rxView_landBlock _ _ _ _ _) _ _

/-- What the end of a row's items keeps of a receiver: the rows and the light, the blocks, and the losses at a station. -/
def State.rowEnd (s : State) (station k h : Nat) : List Nat × Bool × SMap (BitVec 256) × Nat :=
  ((s.findRx station k h).rows, (s.findRx station k h).dark, (s.findRx station k h).got, (s.stn station).losCkt)

theorem State.rowEnd_congr {s t : State} (h : t.rxView = s.rxView) (station k slot : Nat) :
    t.rowEnd station k slot = s.rowEnd station k slot := by
  unfold State.rowEnd
  rw [State.findRx_congr h, State.losCkt_congr h]

/-- What an item's end marks at its receiver is the item's number alone. -/
theorem State.rowEnd_decided (s : State) (station k h : Nat) (t : State) (ht : t.rxView = s.rxView) (l : List Nat) :
    (t.putRx { s.findRx station k h with decided := l }).rowEnd station k h = s.rowEnd station k h := by
  obtain ⟨h1, h2, h3⟩ := s.findRx_same station k h
  have hfind := t.findRx_putRx { s.findRx station k h with decided := l }
  rw [show ({ s.findRx station k h with decided := l } : RxBurst).station = station from h1,
    show ({ s.findRx station k h with decided := l } : RxBurst).k = k from h2,
    show ({ s.findRx station k h with decided := l } : RxBurst).slotHt = h from h3] at hfind
  unfold State.rowEnd
  rw [hfind]
  exact congrArg (fun n => (_, _, _, n)) (State.losCkt_congr ht station)

theorem State.rowEnd_endRow (s : State) (station k row h gear : Nat) (e : W64) (b : Burst) (lost : Bool) :
    (s.endRow station k row h gear e b lost).rowEnd station k h = s.rowEnd station k h := by
  unfold State.endRow
  refine foldl_same (fun t : State => t.rowEnd station k h) _ (fun t x => ?_) _ _
  have hfail (c : Bool) : State.rxView (if c then t.updStn station fun y => { y with sealFail := satInc 65535 y.sealFail } else t) =
      t.rxView := by
    split
    · refine State.rxView_updStn _ _ fun _ => ?_
      rfl
    · rfl
  exact (State.rowEnd_congr (State.rxView_endItem _ _ _ _ _ _ _) station k h).trans
    (State.rowEnd_decided t station k h _ (hfail _) _)

/-! ## The codewords of a row -/

/-- What a codeword leaves of its receiver's part. -/
def RxBurst.seenView (r : RxBurst) : Nat × Nat × Nat × List Nat × Bool := (r.station, r.k, r.slotHt, r.rows, r.dark)

theorem seenView_codeword (s : State) (station k : Nat) (items : List CItem) (r : RxBurst) (n : Nat) (w : BitVec 266) :
    (s.codeword station k items r n w).2.seenView = r.seenView := by
  unfold State.codeword
  dsimp only
  split
  · rfl
  · split <;> rfl

theorem codeword_other (s : State) (station k : Nat) (items : List CItem) (r : RxBurst) {n i : Nat} (h : i ≠ n) (w : BitVec 266) :
    blockAt (s.codeword station k items r n w).2.got i = blockAt r.got i := by
  unfold State.codeword
  dsimp only
  split
  · rfl
  · split
    · rfl
    · exact (blockAt_minsert _ _ _ _).trans (if_neg h)

/-- R135, R160: a block that its codeword gives. -/
theorem codeword_block {s : State} {station k : Nat} {items : List CItem} {r : RxBurst} {n : Nat} {w : BitVec 266}
    {v : BitVec 256} {c : Bool} (hm : (items.any fun x => x.seal == n) = true ∨ isMarked w = false)
    (hd : decodeWord (if (items.any fun x => x.seal == n) = true then w ^^^ emptyMark else w) = .block v c) :
    blockAt (s.codeword station k items r n w).2.got n = some v := by
  unfold State.codeword
  dsimp only
  rw [if_neg ?_, hd]
  · exact (blockAt_minsert _ _ _ _).trans (if_pos rfl)
  · rcases hm with h | h <;> rw [h] <;> simp

theorem readRow_seenView (s : State) (station k row : Nat) (b : Burst) (items : List CItem) (errs : List (Nat × Nat)) (r : RxBurst) :
    (s.readRow station k row b items errs r).2.seenView = r.seenView :=
  foldl_same (fun a : State × RxBurst => a.2.seenView) _ (fun _ _ => seenView_codeword _ _ _ _ _ _ _) _ _

theorem readRow_block {s : State} {station k row : Nat} {b : Burst} {items : List CItem} {errs : List (Nat × Nat)} {r : RxBurst}
    {i : Nat} {v : BitVec 256} {c : Bool} (hi : i / 16 = row)
    (hm : (items.any fun x => x.seal == i) = true ∨ isMarked (b.codeword (s.txItems b.src b.entry) i ^^^ errorMask errs i) = false)
    (hd : decodeWord (if (items.any fun x => x.seal == i) = true then
      b.codeword (s.txItems b.src b.entry) i ^^^ errorMask errs i ^^^ emptyMark
      else b.codeword (s.txItems b.src b.entry) i ^^^ errorMask errs i) = .block v c) :
    blockAt (s.readRow station k row b items errs r).2.got i = some v := by
  have hmem : i ∈ (List.range 16).map (16 * row + ·) := by
    refine List.mem_map.mpr ⟨i % 16, List.mem_range.mpr (Nat.mod_lt _ (by decide)), ?_⟩
    rw [← hi]
    exact Nat.div_add_mod i 16
  unfold State.readRow
  dsimp only
  generalize (List.range 16).map (16 * row + ·) = l at hmem
  refine foldl_reach (a := i) (P := fun _ => True) (Q := fun a : State × RxBurst => blockAt a.2.got i = some v) (fun _ _ _ => trivial)
    (fun a _ => ?_) (fun a n _ ha => ?_) l hmem _ trivial
  · exact codeword_block hm hd
  · by_cases h : i = n
    · subst h
      exact codeword_block hm hd
    · exact (codeword_other _ _ _ _ _ h _).trans ha

/-! ## A row with and without light -/

theorem exec_circuitRowDecode {s : State} (ht : s.time.st ≠ .free) {n k row h : Nat} {ge : Nat × W64} (hr : row ≤ 44)
    (hs : s.rxSlot n k row = some (h, ge)) (light : Bool) (errs : RowErrors) : exec (.circuitRowDecode n k row light errs) s =
      .next ((s.rowBurst n k h ge.1 ge.2).1.decodeSeen (s.rowBurst n k h ge.1 ge.2).2 n k row h ge.1 ge.2
        (light && (s.burstAt n k h).isSome) errs.errs errs.damage) := by
  refine next_congr ((if_neg ?_).trans ?_)
  · rintro (h | h)
    · exact ht h
    · exact Nat.not_lt_of_le hr h
  · rw [hs]
    exact State.decodeRow_eq _ _ _ _ _ _ _ _ _ _

theorem State.rowEnd_putRx (s : State) (r : RxBurst) :
    (s.putRx r).rowEnd r.station r.k r.slotHt = (r.rows, r.dark, r.got, (s.stn r.station).losCkt) := by
  unfold State.rowEnd
  rw [State.findRx_putRx]
  rfl

/-- R135: a row without light counts a loss, once for its window. -/
theorem State.decodeSeen_dark {s : State} {station k h : Nat} (hd : (s.findRx station k h).dark = false) (b : Burst)
    (row gear : Nat) (e : W64) (errs : List (Nat × Nat)) (damage : List (Nat × Nat × BitVec 256)) :
    (s.decodeSeen b station k row h gear e false errs damage).rowEnd station k h =
      ((s.findRx station k h).rows ++ [row], true, (s.findRx station k h).got, satInc 65535 (s.stn station).losCkt) := by
  obtain ⟨h1, h2, h3⟩ := s.findRx_same station k h
  have hsighted : s.sighted station k h false = s.noLight station k h := by
    unfold State.sighted
    dsimp only
    rw [Bool.and_false, if_neg Bool.false_ne_true, hd]
    rfl
  have hcount : ((s.noLight station k h).stn station).losCkt = satInc 65535 (s.stn station).losCkt :=
    congrArg Station.losCkt (s.stn_setStn_same station _)
  have hdark : ((s.findRx station k h).sighted row false damage).dark = true := Bool.or_true _
  unfold State.decodeSeen
  dsimp only
  rw [hsighted, if_pos hdark, State.rowEnd_endRow, if_pos (by rw [hdark]; rfl)]
  have hput := State.rowEnd_putRx (s.noLight station k h) ((s.findRx station k h).sighted row false damage)
  rw [show ((s.findRx station k h).sighted row false damage).station = station from h1,
    show ((s.findRx station k h).sighted row false damage).k = k from h2,
    show ((s.findRx station k h).sighted row false damage).slotHt = h from h3, hcount, hdark] at hput
  exact hput

/-- The items of a station do not depend on the count of its rows. -/
theorem State.sighted_items (s : State) (station k h : Nat) :
    (s.sighted station k h true).txItems = s.txItems ∧ (s.sighted station k h true).rxItems = s.rxItems := by
  have hstn (m : Nat) : ((s.sighted station k h true).stn m).srcItems = (s.stn m).srcItems ∧
      ((s.sighted station k h true).stn m).tgtItems = (s.stn m).tgtItems := by
    unfold State.sighted
    dsimp only
    rw [if_neg (show ¬ (!true && !(s.findRx station k h).dark) = true from Bool.false_ne_true)]
    split
    · by_cases hm : m = station
      · rw [hm, State.updStn, State.stn_setStn_same]
        exact ⟨rfl, rfl⟩
      · rw [State.updStn, State.stn_setStn_ne _ _ hm]
        exact ⟨rfl, rfl⟩
    · exact ⟨rfl, rfl⟩
  exact ⟨funext fun m => funext fun e => congrArg (fun t => burstItems t (seFirst e) (seRuns e)) (hstn m).1,
    funext fun m => funext fun e => congrArg (fun t => burstItems t (seFirst e) (seRuns e)) (hstn m).2⟩

/-- R135: a receiver's part of a burst after a row with light. -/
def State.rowSeen (s : State) (b : Burst) (station k row h : Nat) (e : W64) (errs : List (Nat × Nat))
    (damage : List (Nat × Nat × BitVec 256)) : RxBurst :=
  ((s.sighted station k h true).readRow station k row b (s.rxItems station e) errs
    ((s.findRx station k h).sighted row true damage)).2

/-- R135, R160: a row with light gives its receiver what its codewords decode to. -/
theorem State.decodeSeen_lit {s : State} {station k h : Nat} (hd : (s.findRx station k h).dark = false) (b : Burst)
    (row gear : Nat) (e : W64) (errs : List (Nat × Nat)) (damage : List (Nat × Nat × BitVec 256)) :
    ∃ m, (s.decodeSeen b station k row h gear e true errs damage).rowEnd station k h =
      ((s.findRx station k h).rows ++ [row], false, (s.rowSeen b station k row h e errs damage).got, m) := by
  obtain ⟨h1, h2, h3⟩ := s.findRx_same station k h
  have hdark : ((s.findRx station k h).sighted row true damage).dark = false := (Bool.or_false _).trans hd
  have hland (t : State) (c : Bool) (r : RxBurst) (items : List CItem) :
      (if c then t else t.landRow station row r items).rowEnd station k h = t.rowEnd station k h := by
    split
    · rfl
    · exact State.rowEnd_congr (State.rxView_landRow _ _ _ _ _) _ _ _
  have hview : (s.rowSeen b station k row h e errs damage).seenView = ((s.findRx station k h).sighted row true damage).seenView :=
    readRow_seenView _ _ _ _ _ _ _ _
  obtain ⟨k1, hview⟩ := Prod.mk.inj hview
  obtain ⟨k2, hview⟩ := Prod.mk.inj hview
  obtain ⟨k3, hview⟩ := Prod.mk.inj hview
  obtain ⟨k4, k5⟩ := Prod.mk.inj hview
  unfold State.decodeSeen
  dsimp only
  rw [State.rowEnd_endRow, hland, if_neg (ne_true_of_eq_false hdark), (s.sighted_items station k h).2]
  have hput (t : State) := State.rowEnd_putRx t (s.rowSeen b station k row h e errs damage)
  rw [k1, k2, k3, k4, k5, hdark, show ((s.findRx station k h).sighted row true damage).station = station from h1,
    show ((s.findRx station k h).sighted row true damage).k = k from h2,
    show ((s.findRx station k h).sighted row true damage).slotHt = h from h3] at hput
  exact ⟨_, hput _⟩

/-! ## Items and blocks -/

theorem poisonIn_eq_none {r : RxBurst} {x : CItem} : r.poisonIn x = none ↔ ∀ i ∈ r.poisoned, ¬ (x.first ≤ i ∧ i < x.seal) := by
  unfold RxBurst.poisonIn
  rw [List.find?_eq_none]
  refine forall₂_congr fun i _ => ?_
  rw [Bool.and_eq_true, decide_eq_true_iff, decide_eq_true_iff]

theorem poisonIn_isSome {r : RxBurst} {x : CItem} : (r.poisonIn x).isSome = true ↔ ∃ i ∈ r.poisoned, x.first ≤ i ∧ i < x.seal := by
  rw [Option.isSome_iff_ne_none, ne_eq, poisonIn_eq_none]
  push Not
  rfl

/-- R164 rows 1 and 2. -/
theorem itemStatus_lost {b : Burst} {r : RxBurst} {lost : Bool} (h : lost = true ∨ r.dark = true) (body : Nat) (x : CItem) :
    itemStatus b r lost body x = (St.linkLost, false) :=
  if_pos ((Bool.or_eq_true _ _).mpr h)

/-- R164 rows 3, 4 and 6: the status of an item without a poisoned block, by its seal. -/
theorem itemStatus_sealed {b : Burst} {r : RxBurst} {lost : Bool} (hl : lost = false) (hd : r.dark = false) {x : CItem}
    (hp : r.poisonIn x = none) (body : Nat) : itemStatus b r lost body x = match blockAt r.got x.seal with
    | none => (St.poisoned, true)
    | some w =>
      if sealFields w != body then (St.poisoned, true)
      else if sealVoid w then
        (((b.voids.find? (·.1 == x.num)).map fun v => BitVec.ofNat 8 v.2).getD St.internal, false)
      else (St.done, false) := by
  unfold itemStatus
  rw [hl, hd, hp]
  rfl

theorem itemStatus_poisoned {b : Burst} {r : RxBurst} {lost : Bool} (hl : lost = false) (hd : r.dark = false) {x : CItem}
    (hp : (r.poisonIn x).isSome = true) (body : Nat) : itemStatus b r lost body x = (St.poisoned, false) := by
  unfold itemStatus
  rw [hl, hd]
  exact (if_neg Bool.false_ne_true).trans (if_pos hp)

/-- R158, R165: a block of an item with one target tile. -/
theorem State.landBlock_tile {s : State} {station : Nat} {r : RxBurst} {x : CItem} {i : Nat} {v : BitVec 256} (h1 : x.first ≤ i)
    (h2 : i < x.seal) (hg : r.got = [(i, v)]) (hk : ieKind x.entry = 0) : s.landBlock station r [x] i =
      if (r.poisonIn x).isNone then
        if (s.tile (x.tile station)).st == .fenced then s
        else s.updTile (x.tile station) fun y => y.wmem (x.addr + 32 * (i - x.first))
          (leBytes 32 (r.atRegion (tileRegion (x.tile station) % 16) (i, v)).toNat)
      else s := by
  have hfind : [x].find? (fun x => decide (x.first ≤ i) && decide (i < x.seal)) = some x := by
    rw [List.find?_cons, decide_eq_true h1, decide_eq_true h2]
    rfl
  have hblock : blockAt r.got i = some v := by
    rw [hg]
    unfold blockAt
    rw [List.find?_cons, beq_self_eq_true]
    rfl
  have htiles : x.targetTiles station = [x.tile station] := if_pos hk
  unfold State.landBlock
  rw [hfind]
  dsimp only
  rw [hblock]
  dsimp only
  rw [htiles, hk, decide_eq_true (by decide), Bool.true_and]
  rfl

/-- Settles O39: feeds and bursts by the rows and the place they keep, a row by what its codewords give its receiver, the code
by the order of x modulo its generator. -/
theorem circuitsAreFedSentAndReceived : Obligations.CircuitsAreFedSentAndReceived := by
  intro s n k row ht
  refine ⟨?_, ?_, ?_, ?_, ?_, fun v => ⟨decodeWord_codewordOf v, fun i hi => decodeWord_oneBit v hi⟩, ?_, ?_, ?_⟩
  · intro h stream damage hr hh
    obtain ⟨ge, _, hsome⟩ := findSome?_of_find? hh
    obtain ⟨hsame, hrow⟩ := s.fedRow_row n k h ge.1 ge.2 ⟨row, stream, damage⟩
    refine ⟨_, exec_circuitFeed (row := ⟨row, stream, damage⟩) ht hr hsome, _, List.mem_append_right _ (List.mem_singleton.mpr rfl), hsame, hrow⟩
  · exact fun h1 h2 h3 => next_congr (if_pos ⟨ht, h1, h2, h3⟩)
  · intro h0 hf hb
    have hretired := State.retireBursts_young fun b h => (hb b h).1
    have hview := s.retireBursts.slotView_sendAll s.ht
    obtain ⟨hopt, hview⟩ := Prod.mk.inj hview
    obtain ⟨htiles, -⟩ := Prod.mk.inj hview
    refine ⟨_, exec_circuitBurstSend ht h0 hf, htiles.trans (by rw [hretired]), fun m j ge hm hj hlive => ?_⟩
    have hready : s.retireBursts.Ready m j s.ht := by
      rw [hretired]
      refine ⟨congrArg Option.isSome hlive, fun b hfound hl => ?_⟩
      obtain ⟨hmem, hsame⟩ := State.mem_of_findBurst hfound
      exact absurd (Burst.sameBurst_iff.mp hsame).2.2 ((hb b hmem).2 hl)
    obtain ⟨b, hfound, hl⟩ := State.sendAll_sent hm hj hready
    obtain ⟨hmem, hsame⟩ := State.mem_of_findBurst hfound
    refine ⟨b, hmem, hsame, hl.trans ?_⟩
    rw [hopt, hretired]
  · intro h ge errs damage hr hs hd
    have hkeep := s.rxView_rowBurst n k h ge.1 ge.2
    have hend := State.decodeSeen_dark ((congrArg RxBurst.dark (State.findRx_congr hkeep n k h)).trans hd)
      (s.rowBurst n k h ge.1 ge.2).2 row ge.1 ge.2 errs damage
    obtain ⟨h1, hend⟩ := Prod.mk.inj hend
    obtain ⟨h2, hend⟩ := Prod.mk.inj hend
    obtain ⟨-, h4⟩ := Prod.mk.inj hend
    refine ⟨_, exec_circuitRowDecode ht hr hs false ⟨errs, damage⟩, ?_, ?_, h2⟩
    · exact h4.trans (congrArg (satInc 65535) (State.losCkt_congr hkeep n))
    · exact h1 ▸ List.mem_append_right _ (List.mem_singleton.mpr rfl)
  · intro h ge b errs damage hr hs hb hd r0 seals w
    have hpair : s.rowBurst n k h ge.1 ge.2 = (r0.1.putBurst r0.2, r0.2) := by
      unfold State.rowBurst
      rw [hb]
    have hkeep : (r0.1.putBurst r0.2).rxView = s.rxView := congrArg (·.1) (feedView_settle s b)
    obtain ⟨m, hend⟩ := State.decodeSeen_lit ((congrArg RxBurst.dark (State.findRx_congr hkeep n k h)).trans hd) r0.2 row ge.1 ge.2
      errs damage
    obtain ⟨h1, hend⟩ := Prod.mk.inj hend
    obtain ⟨h2, hend⟩ := Prod.mk.inj hend
    obtain ⟨h3, -⟩ := Prod.mk.inj hend
    refine ⟨(r0.1.putBurst r0.2).decodeSeen r0.2 n k row h ge.1 ge.2 true errs damage, ?_, ?_, h2, fun i v c hi hm hdec => ?_⟩
    · refine (exec_circuitRowDecode ht hr hs true ⟨errs, damage⟩).trans (next_congr ?_)
      rw [hpair, hb]
      rfl
    · exact h1 ▸ List.mem_append_right _ (List.mem_singleton.mpr rfl)
    · rw [h3]
      refine readRow_block (c := c) hi ?_ ?_
      · rw [((r0.1.putBurst r0.2).sighted_items n k h).1]
        exact hm
      · rw [((r0.1.putBurst r0.2).sighted_items n k h).1]
        exact hdec
  · intro b r lost body x st poisoned
    refine ⟨fun h => itemStatus_lost h body x, fun hl hd => ⟨fun hp => itemStatus_poisoned hl hd (poisonIn_isSome.mpr hp) body, fun hp => ?_⟩⟩
    have hnone : r.poisonIn x = none := by
      rw [← Option.not_isSome_iff_eq_none, poisonIn_isSome]
      exact hp
    have hst := itemStatus_sealed (b := b) hl hd hnone body
    refine ⟨fun hg => hst.trans (by rw [hg]), fun w hg => ?_⟩
    rw [hg] at hst
    refine ⟨fun hf => hst.trans (if_pos (bne_iff_ne.mpr hf)), fun hf hv v hvoid => hst.trans ?_, fun hf hv => hst.trans ?_⟩
    · refine (if_neg (by rw [hf, bne_self_eq_false]; exact Bool.false_ne_true)).trans ((if_pos hv).trans ?_)
      rw [hvoid]
      rfl
    · exact (if_neg (by rw [hf, bne_self_eq_false]; exact Bool.false_ne_true)).trans (if_neg (ne_true_of_eq_false hv))
  · intro bad t
    exact if_congr (by rw [List.contains_iff_mem]; exact and_iff_right rfl) rfl rfl
  · intro r x i v h1 h2 hg hk t u
    have hu : u = _ := State.landBlock_tile h1 h2 hg hk
    refine ⟨fun h => hu.trans ?_, fun hf hp => ?_⟩
    · rcases h with h | h
      · split
        · exact if_pos (beq_iff_eq.mpr h)
        · rfl
      · refine if_neg ?_
        rw [Option.isNone_iff_eq_none, poisonIn_eq_none]
        exact fun hp => absurd h (by push Not; exact fun j hj hle => Nat.le_of_not_lt fun hlt => hp j hj ⟨hle, hlt⟩)
    · have hnone : (r.poisonIn x).isNone = true := Option.isNone_iff_eq_none.mpr (poisonIn_eq_none.mpr hp)
      rw [if_pos hnone, if_neg (by rw [beq_iff_eq]; exact hf)] at hu
      rw [hu]
      refine ⟨?_, fun t' ht' => State.tile_setTile_ne _ _ ht'⟩
      rw [State.updTile, State.tile_setTile_same]
      exact Tile.rmem_wmem _ _ _

end Sys2Proof.Machine
end
